-- ==== Sys2Proof/Word.lean ====
section
/-! DEFINITION. Word types of the TG9 model. Fields that the manual treats as bits are bit vectors; counts,
token numbers and step numbers, which never wrap (00 R14, 01 R17), are natural numbers. -/
namespace Sys2Proof

/-- One byte (00 R12: every multi-byte field is little-endian). -/
abbrev Byte := BitVec 8
abbrev U16 := BitVec 16
abbrev U32 := BitVec 32
abbrev U64 := BitVec 64

/-- A SHA-384 digest, read as a big-endian number of its 48 bytes, so that the order of the numbers is the
order of the digests. Zero stands for an absent image (12 R271). -/
abbrev Digest := BitVec 384

/-- The two halves of the engine (00 R1). -/
inductive Half where
  | west
  | east
  deriving DecidableEq, Repr, Inhabited

def Half.other : Half → Half
  | .west => .east
  | .east => .west

/-- The code of a half in payloads: 0 West, 1 East (12 R286). -/
def Half.code : Half → Nat
  | .west => 0
  | .east => 1

def Half.ofCode (n : Nat) : Half := if n = 0 then .west else .east

@[simp] theorem Half.other_other (h : Half) : h.other.other = h := by cases h <;> rfl

/-- One value for each half. -/
structure Halves (α : Type) where
  w : α
  e : α
  deriving DecidableEq, Repr, Inhabited

def Halves.get {α : Type} (x : Halves α) : Half → α
  | .west => x.w
  | .east => x.e

def Halves.set {α : Type} (x : Halves α) (h : Half) (v : α) : Halves α :=
  match h with
  | .west => { x with w := v }
  | .east => { x with e := v }

def Halves.map {α β : Type} (x : Halves α) (f : α → β) : Halves β := ⟨f x.w, f x.e⟩

def Halves.modify {α : Type} (x : Halves α) (h : Half) (f : α → α) : Halves α := x.set h (f (x.get h))

@[simp] theorem Halves.get_set_same {α : Type} (x : Halves α) (h : Half) (v : α) : (x.set h v).get h = v := by
  cases h <;> rfl

@[simp] theorem Halves.get_set_other {α : Type} (x : Halves α) (h : Half) (v : α) :
    (x.set h v).get h.other = x.get h.other := by
  cases h <;> rfl

end Sys2Proof
end

