-- ==== Sys2Proof/Syntax.lean ====
section
/-! DEFINITION. The commands of the block: one constructor for each row of the table of operations and events, in
the table's order, with the operands that the outside world gives it. -/
namespace Sys2Proof

/-- The way by which a register access comes: a half's control port, or a half's sideband target (19 R445). -/
inductive Path where
  | control (h : Half)
  | sideband (h : Half)
  deriving DecidableEq, Repr, Inhabited

/-- A stadia frame as it arrives, but for its TYPE, which the row gives (16 R389). `crc` is the trailer's CRC-32C. -/
structure Frame where
  fflags : Byte
  flits : U16
  seq : U32
  harg : U64
  payload : List Byte
  crc : U32
  deriving DecidableEq, Repr, Inhabited

/-- An inbound stream record, but for its KIND, which the row gives (07 R162). -/
structure InRec where
  handle : U32
  flags : Byte
  status : U16
  len : U32
  seq : U32
  payload : List Byte
  deriving DecidableEq, Repr, Inhabited

/-- The pair a level message arrives on (15 R362). -/
inductive Pair where
  | up
  | dn (i : BitVec 2)
  deriving DecidableEq, Repr, Inhabited

/-- A level message but for its CODE, which the row gives (15 R363). -/
structure LmMsg where
  position : Byte
  iflevel : Byte
  alevel : Byte
  serial : U64
  arg : U16
  crc : U16
  deriving DecidableEq, Repr, Inhabited

/-- Who owns the word at which a parity error is found: a head's rows, a row of the vocabulary cache, an entry of the mask
cache, a route record, or what a step formed (09 R203; 13 R303, R304). -/
inductive WordOwner where
  | head (d : Digest)
  | row (d : Digest) (token : U32)
  | mask (d : Digest) (state : U32)
  | record (handle : U32)
  | formed
  deriving DecidableEq, Repr, Inhabited

/-- A parity error at one column of a bank, found by a refresh, a read or a bank test (09 R202-R204): whether it persists,
the redundant columns that production left free in the column's group, and the owner of the word. -/
structure ColErr where
  tray : Bool
  bank : Byte
  column : BitVec 24
  persists : Bool
  free : BitVec 3
  owner : WordOwner
  deriving DecidableEq, Repr, Inhabited

/-- Which check of 13 R294 failed: the parity of a bank word, the parity of an internal path, a residue, a proof print, with
the plate that made it, the agreement of two sequence units, the second read of a mask-cache entry, or the record of a
finder match. -/
inductive CheckKind where
  | parity (e : ColErr)
  | path
  | residue
  | proofPrint (second : BitVec 7)
  | unitPair (second : BitVec 7)
  | maskRead (state : U32)
  | finderRecord (d : Digest) (second : Bool)
  deriving DecidableEq, Repr, Inhabited

/-- The outcome of checks: passed, or failed on a plate of a half, with the check that failed. -/
inductive CheckResult where
  | pass
  | fail (h : Half) (pos : BitVec 7) (kind : CheckKind)
  deriving DecidableEq, Repr, Inhabited

/-- A route's release and the outcome of its checks. -/
structure Checked where
  handle : U32
  result : CheckResult
  deriving DecidableEq, Repr, Inhabited

/-- A region of the finder that a scrub finds bad: its image, and for a sequence list which of its two regions (06 R134,
R147). -/
structure BadRegion where
  digest : Digest
  second : Bool
  deriving DecidableEq, Repr, Inhabited

/-- What the census and bank test find on one half (15 R356, 09 R190): positions without a plate, counts of plates,
the tray banks retired, columns that failed and are soft-repaired, and whether a burn that was cut short reads correctly (17 R430). -/
structure Census where
  empty : List (BitVec 7)
  spare : Byte
  retired : Byte
  trayRetired : List (BitVec 6)
  failed : List ColErr
  cutReadsOk : Bool
  deriving DecidableEq, Repr, Inhabited

/-- A periodic measurement of one half by its safelight controller (19 R455). -/
structure Reading where
  tj : Byte
  stackHot : U16
  railOk : BitVec 9
  vcore : U16
  vmem : U16
  pwr : U16
  deriving DecidableEq, Repr, Inhabited

/-- The commands. -/
inductive Instr where
  -- mailbox commands: the request lies in the slot
  | engineQuery (slot : Byte)
  | engineConfigure (slot : Byte)
  | engineDrain (slot : Byte)
  | engineServe (slot : Byte)
  | engineHalt (slot : Byte)
  | engineRestart (slot : Byte)
  | imageLoad (slot : Byte)
  | imageRelease (slot : Byte)
  | imageQuery (slot : Byte)
  | imageList (slot : Byte)
  | bindingCreate (slot : Byte)
  | bindingStart (slot : Byte)
  | bindingStop (slot : Byte)
  | bindingSwap (slot : Byte)
  | bindingRetire (slot : Byte)
  | bindingQuery (slot : Byte)
  | routeOpen (slot : Byte)
  | routePause (slot : Byte)
  | routeSave (slot : Byte)
  | routeResume (slot : Byte)
  | routeEnd (slot : Byte)
  | routeQuery (slot : Byte)
  | routeDiscard (slot : Byte)
  | routeExport (slot : Byte)
  | diagCounters (slot : Byte)
  | diagCensus (slot : Byte)
  | diagResidency (slot : Byte)
  | diagBankRead (slot : Byte)
  | diagBankWrite (slot : Byte)
  | diagContactRead (slot : Byte)
  | diagJournalExport (slot : Byte)
  | diagSelftest (slot : Byte)
  | diagSnapshot (slot : Byte)
  | serviceRescueStatus (slot : Byte)
  | serviceLogRead (slot : Byte)
  | serviceJournalFlushStart (slot : Byte)
  | serviceJournalFlushPoll (slot : Byte)
  | serviceQuiesceLanes (slot : Byte)
  | serviceLevelWithdraw (slot : Byte)
  | serviceHalfReset (slot : Byte)
  | serviceFuseStatus (slot : Byte)
  | serviceHalfDrain (slot : Byte)
  | serviceHalfServe (slot : Byte)
  | serviceRetireSuspects (slot : Byte)
  | serviceFuseBurn (slot : Byte)
  | serviceStackRetire (slot : Byte)
  | serviceStackRestore (slot : Byte)
  | serviceChainRetrain (slot : Byte)
  | serviceKeyslotProgram (slot : Byte)
  | serviceKeyslotRevoke (slot : Byte)
  | serviceFwStage (slot : Byte)
  | serviceFwActivate (slot : Byte)
  | serviceLevelRejoin (slot : Byte)
  | serviceFlushTarget (slot : Byte)
  | afterDependencyMet (slot : Byte)
  | afterWaitExpired (slot : Byte)
  -- registers
  | registerWrite (path : Path) (off : BitVec 24) (be : Byte) (data : U64) (parityOk : Bool)
  | mbxDoneClear (h : Half) (k : BitVec 2) (be : Byte) (data : U64) (setting : U64)
  | safeTakeoverConfirm (path : Path) (be : Byte) (data : U64)
  | safeLogLatch (path : Path)
  | peakClr (path : Path) (h : Half) (be : Byte) (data : U64) (arriving : Option Byte)
  | sidebandSetOffset (h : Half) (off : U16)
  -- stadia frames
  | hid (h : Half) (chain : BitVec 4) (f : Frame)
  | lgt (h : Half) (chain : BitVec 4) (f : Frame)
  | drf (h : Half) (chain : BitVec 4) (f : Frame)
  | pkSummary (h : Half) (chain : BitVec 4) (f : Frame)
  | pkZmax (h : Half) (chain : BitVec 4) (f : Frame)
  | pkZret (h : Half) (chain : BitVec 4) (f : Frame)
  | pkCands (h : Half) (chain : BitVec 4) (f : Frame)
  | pkRelease (h : Half) (chain : BitVec 4) (f : Frame)
  | halfSummary (handle : U32)
  | ack (h : Half) (chain : BitVec 4) (f : Frame)
  | nak (h : Half) (chain : BitVec 4) (f : Frame)
  | crd (h : Half) (chain : BitVec 4) (f : Frame)
  | hello (h : Half) (lane : BitVec 4) (f : Frame)
  | replayTimeout (h : Half) (chain : BitVec 4)
  | chainReplayTimeout (h : Half) (chain : BitVec 4)
  | laneDropOut (h : Half) (lane : BitVec 4)
  | peerUnreachable (position : Byte)
  -- step events
  | maskReady (handle : U32)
  | stepChecked (handle : U32) (r : CheckResult)
  | mirrorRecord (handle : U32)
  | releaseCommit (handle : U32)
  | forcedOnlyRelease (c : Checked)
  | latentSlotTimeout (handle : U32)
  | latentSlotFreed (h : Half)
  | admissionRoomFreed (h : Half)
  | maskFetchDone (h : Half) (digest : Digest) (state : U32)
  | clearDone (h : Half)
  | headFillDone (h : Half) (digest : Digest)
  -- stream records
  | inText (h : Half) (r : InRec)
  | inTokens (h : Half) (r : InRec)
  | inEnd (h : Half) (r : InRec)
  | pretokenTokenised (handle : U32) (r : CheckResult)
  | inBeatParityError (h : Half) (depth : BitVec 4)
  | strOutNak (h : Half) (depth : BitVec 4)
  -- halves, links and firmware
  | halfDownReport (h : Half)
  | mainbandLost
  | meridianLaneDrop (toEast : Bool) (lane : BitVec 4)
  | linkSilent (westAlive : Bool)
  | partnerSilent
  | heartbeatResumed
  | safelightHeartbeatMissed
  | slotTakeover (h : Half)
  | slotTakeback (h : Half)
  | firmwareFault (h : Half)
  | fwBootTimeout (h : Half)
  -- start-up and supply
  | safeRstNRelease (datum : Bool) (addrW addrE : BitVec 2)
  | coreRstNAssert
  | coreRstNRelease
  | firmwareBooted (h : Half)
  | censusDone (w e : Option Census)
  | meridianTrained (toEast toWest : U16)
  | stacksTrained (w e : U16)
  | chainsTrained
  | bootSetVerified
  | warmRestart
  | routeStatesRecovered (bad : List U32)
  | commonCauseFault
  | railOutOfRange (h : Half) (rail : BitVec 4)
  | coreRailsRemoved
  | vddFuseRemoved
  | supplyWarnN
  | journalFlushDone
  | supplyWarnNRelease (railsOk : Bool)
  -- level lines
  | lmAnnounce (p : Pair) (m : LmMsg)
  | lmAdmit (p : Pair) (m : LmMsg)
  | lmRefuse (p : Pair) (m : LmMsg)
  | lmBase (p : Pair) (m : LmMsg)
  | lmEcho (p : Pair) (m : LmMsg)
  | lmWithdraw (p : Pair) (m : LmMsg)
  | announceTimer
  | datumCheckDone
  | formation
  | barrierReleaseTimer
  | levelRelease
  | memberSilent (position : Byte)
  | datumAbsent
  | calibrationDone (position : Byte) (pathNs : U16) (ok : Bool)
  -- time and temperature
  | timeFrame (h : Half) (time : U64) (crc : Byte)
  | timeInputTimeout (h : Half)
  | thermalReading (h : Half) (r : Reading)
  | finderStopTimeout (h : Half)
  -- upkeep
  | refresh (h : Half) (errs : List ColErr)
  | finderScrub (h : Half) (bad : List BadRegion)
  | suspectExpiry (h : Half) (pos : BitVec 7)
  | stackFault (h : Half) (stack : BitVec 4)
  | stackRebuilt (h : Half) (stack : BitVec 4)
  -- images and bindings
  | imageFetchDone (digest : Digest)
  | imageVerifyDone (digest : Digest)
  | fenceAck (binding : U32)
  | benchmarkWritten (handle : U32)
  -- host memory
  | miResponse (h : Half) (tag : Byte) (data : List Byte) (parityOk err : Bool)
  | miTimeout (h : Half) (tag : Byte)
  -- remaining events
  | frameDiscarded (h : Half) (chain : BitVec 4) (ftype : Byte) (f : Frame)
  | unlistedCommandCode (slot : Byte)
  | reservedKindRecord (h : Half) (kind : Byte) (r : InRec)
  | stackClearDone (h : Half)
  | fuseBurnDone (ok : Bool)
  | selftestDone (h : Half) (failed : U16)
  | safelightIslandPowerUp (h : Half)
  deriving DecidableEq, Repr

end Sys2Proof
end

