-- ==== Sys2Proof/Decode.lean ====
section
/-! DEFINITION. The command that a word spells. The table of operations and events gives no row any bits (its rows
are mailbox commands, frames, records, register accesses and events, not encoded words), so no word spells a
command (log 8). -/
namespace Sys2Proof

def decodeTableWord (_nbits _w : Nat) : Option Instr := none

end Sys2Proof
end

