-- ==== Sys2Proof/Machine/Bytes.lean ====
section
/-! DEFINITION. Byte lists, little-endian fields (00 R12) and sparse tables in canonical form. -/
namespace Sys2Proof.Machine

/-- `f n`, with n computed first. -/
def now {α : Type} (f : Nat → α) : Nat → α
  | 0 => f 0
  | n + 1 => f (n + 1)

/-- The number that a little-endian byte list spells. -/
def leNat : List Byte → Nat
  | [] => 0
  | b :: bs => b.toNat + 256 * leNat bs

/-- `n` little-endian bytes of `v`. -/
def toLe : Nat → Nat → List Byte
  | 0, _ => []
  | n + 1, v => BitVec.ofNat 8 v :: toLe n (v / 256)

/-- The number that a big-endian byte list spells. -/
def beNat (bs : List Byte) : Nat := bs.foldl (fun a b => a * 256 + b.toNat) 0

/-- `n` big-endian bytes of `v`. -/
def toBe (n v : Nat) : List Byte := (toLe n v).reverse

/-- Bytes `off .. off + len - 1`. -/
def slice (bs : List Byte) (off len : Nat) : List Byte := (bs.drop off).take len

/-- Little-endian field of `n` bytes at `off`; bytes beyond the end read 0. -/
def fld (bs : List Byte) (off n : Nat) : Nat := leNat (slice bs off n)

def u8At (bs : List Byte) (off : Nat) : Nat := fld bs off 1
def u16At (bs : List Byte) (off : Nat) : Nat := fld bs off 2
def u32At (bs : List Byte) (off : Nat) : Nat := fld bs off 4
def u64At (bs : List Byte) (off : Nat) : Nat := fld bs off 8

/-- A 48-byte digest field. -/
def digestAt (bs : List Byte) (off : Nat) : Digest := BitVec.ofNat 384 (beNat (slice bs off 48))

def digestBytes (d : Digest) : List Byte := toBe 48 d.toNat

/-- True when every byte is zero (reserved fields, 00 R13). -/
def allZero (bs : List Byte) : Bool := bs.all (· == 0#8)

def zeroAt (bs : List Byte) (off len : Nat) : Bool := allZero (slice bs off len)

def zeros (n : Nat) : List Byte := List.replicate n 0#8

/-- `n` rounded up to a multiple of `k`. -/
def roundUp (n k : Nat) : Nat := (n + k - 1) / k * k

/-- Zero padding to a multiple of `k` bytes. -/
def padTo (k : Nat) (bs : List Byte) : List Byte := bs ++ zeros (roundUp bs.length k - bs.length)

/-- Zero padding, or cutting, to exactly `n` bytes. -/
def fitTo (n : Nat) (bs : List Byte) : List Byte := bs.take n ++ zeros (n - bs.length)

/-- Bit `i` of a number. -/
def bitOf (v i : Nat) : Bool := v.testBit i

def b2n (b : Bool) : Nat := if b then 1 else 0

/-- The element list that fills whole records of `n` bytes. -/
def records (n : Nat) (bs : List Byte) : List (List Byte) :=
  if n = 0 then [] else (List.range (bs.length / n)).map fun i => slice bs (i * n) n

/-- The u32 words of a byte list. -/
def words32 (bs : List Byte) : List Nat := (records 4 bs).map leNat

/-- Range bits, the bit of item i in bit (i mod 8) of byte floor(i / 8) (16 R400, 14 R339). -/
def packBits (bits : List Bool) : List Byte :=
  (List.range ((bits.length + 7) / 8)).map fun k =>
    BitVec.ofNat 8 (((List.range 8).map fun j => b2n (bits.getD (8 * k + j) false) * 2 ^ j).sum)

def unpackBits (n : Nat) (bs : List Byte) : List Bool :=
  (List.range n).map fun i => bitOf (u8At bs (i / 8)) (i % 8)

/-! ### Sparse tables: keys strictly rising -/

/-- A sparse table: keys strictly rising. -/
abbrev Tab (α : Type) := List (Nat × α)

variable {α : Type}

def Tab.get? : Tab α → Nat → Option α
  | [], _ => none
  | (k, v) :: t, i => if k = i then some v else Tab.get? t i

/-- Put a value at a key, keeping the keys strictly rising. -/
def Tab.put : Tab α → Nat → α → Tab α
  | [], i, v => [(i, v)]
  | (k, w) :: t, i, v =>
    if i < k then (i, v) :: (k, w) :: t
    else if i = k then (i, v) :: t
    else (k, w) :: Tab.put t i v

def Tab.del : Tab α → Nat → Tab α
  | [], _ => []
  | (k, w) :: t, i => if k = i then Tab.del t i else (k, w) :: Tab.del t i

def Tab.vals (t : Tab α) : List α := t.map (·.2)

def Tab.mapVals (t : Tab α) (f : α → α) : Tab α := t.map fun p => (p.1, f p.2)

def Tab.modify (t : Tab α) (i : Nat) (f : α → α) : Tab α :=
  match t.get? i with
  | some v => t.put i (f v)
  | none => t

/-- The canonical form: keys strictly rising. -/
def Tab.wf : Tab α → Bool
  | [] => true
  | [_] => true
  | (k, _) :: (l, w) :: t => decide (k < l) && Tab.wf ((l, w) :: t)

/-- The lowest key from `i` that the table does not hold, looking at `fuel` keys. -/
def Tab.freeFrom (t : Tab α) (i : Nat) : Nat → Option Nat
  | 0 => none
  | fuel + 1 =>
    match t.get? i with
    | none => some i
    | some _ => Tab.freeFrom t (i + 1) fuel

/-! ### Byte memory in canonical form -/

/-- A byte memory whose unlisted addresses read 0: addresses strictly rising, no listed byte 0. -/
abbrev Mem := List Host.Cell

/-- What a byte of memory that nothing has written reads as (11 R256: a start clears the window). -/
def Mem.unlisted : Byte := 0#8

def Mem.read : Mem → Nat → Byte
  | [], _ => Mem.unlisted
  | (k, v) :: t, a => if k = a then v else Mem.read t a

def Mem.write : Mem → Nat → Byte → Mem
  | [], a, v => if v = Mem.unlisted then [] else [(a, v)]
  | (k, w) :: t, a, v =>
    if a < k then (if v = Mem.unlisted then (k, w) :: t else (a, v) :: (k, w) :: t)
    else if a = k then (if v = Mem.unlisted then t else (a, v) :: t)
    else (k, w) :: Mem.write t a v

def Mem.writeAll (m : Mem) (a : Nat) : List Byte → Mem
  | [] => m
  | b :: bs => Mem.writeAll (m.write a b) (a + 1) bs

def Mem.readN (m : Mem) (a n : Nat) : List Byte := (List.range n).map fun i => m.read (a + i)

/-- Every byte from `a` to `b - 1` becomes 0. -/
def Mem.clear (m : Mem) (a b : Nat) : Mem := m.filter fun c => !(decide (a ≤ c.1) && decide (c.1 < b))

/-- The canonical form of a byte memory. -/
def Mem.wf : Mem → Bool
  | [] => true
  | [(_, v)] => decide (v ≠ Mem.unlisted)
  | (k, v) :: (l, w) :: t => decide (v ≠ Mem.unlisted) && decide (k < l) && Mem.wf ((l, w) :: t)

end Sys2Proof.Machine
end

