-- ==== Sys2Proof/Machine/Finder.lean ====
section
/-! DEFINITION. The finder of a half: entries with their parity, the match rule and its order, searches, entry changes, block
moves, and the placing of entries in regions of whole banks (06 R127-R134, R146, R147; 09 R190, R191). -/
namespace Sys2Proof.Machine

/-! ### Entries and the match rule (06 R129, R130) -/

/-- The parity bits of the `n` low bytes of a number: the bit of byte i in bit i, even parity (06 R134, 09 R194). -/
def parityBits : Nat → Nat → Nat
  | 0, _ => 0
  | n + 1, v => (((List.range 8).filter fun i => bitOf v i).length % 2) + 2 * parityBits n (v / 256)

/-- One place of the finder: the key and the care mask of each unit, priority, result and valid bit, with the parity of its
bytes. -/
structure FEntry where
  valid : Bool
  units : List (Nat × Nat)
  prio : Nat
  result : Nat
  par : List Nat
  deriving DecidableEq, Repr, Inhabited

/-- The parity that an entry's bytes ask for. -/
def FEntry.parity (e : FEntry) : List Nat :=
  e.units.map (fun u => parityBits 8 u.1 + 256 * parityBits 8 u.2) ++ [parityBits 3 e.prio, parityBits 5 e.result]

/-- The record check of a reported match (06 R134). -/
def FEntry.sound (e : FEntry) : Bool := e.par == e.parity

def FEntry.sealed (e : FEntry) : FEntry := { e with par := e.parity }

/-- A zeroed place. -/
def FEntry.zero (width : Nat) : FEntry := FEntry.sealed ⟨false, List.replicate width (0, 0), 0, 0, []⟩

/-- TAG: bits [63:32] of the first unit (06 R129). -/
def withTag (tag low : Nat) : Nat := low % 2 ^ 32 + tag * 2 ^ 32

/-- The engine writes TAG and every care bit of TAG (06 R129). -/
def tagUnits (tag : Nat) : List (Nat × Nat) → List (Nat × Nat)
  | [] => []
  | u :: t => (withTag tag u.1, withTag (2 ^ 32 - 1) u.2) :: t

/-- An entry as an image gives it, without its TAG. -/
structure FRec where
  units : List (Nat × Nat)
  prio : Nat
  result : Nat
  deriving DecidableEq, Repr, Inhabited

/-- An entry is equal to the key wherever the global mask and its care mask are both 1 (06 R130). -/
def unitHit (u : Nat × Nat) (g k : Nat) : Bool := (g &&& u.2 &&& (u.1 ^^^ k)) == 0

def FEntry.hit (gs ks : List Nat) (e : FEntry) : Bool :=
  e.valid && (e.units.zip (gs.zip ks)).all fun x => unitHit x.1 x.2.1 x.2.2

/-- Order of matches: priority ascending, then finder address (06 R130). -/
def insertHit (e : FEntry) : List FEntry → List FEntry
  | [] => [e]
  | x :: xs => if e.prio < x.prio then e :: x :: xs else x :: insertHit e xs

/-- An ALL search (06 R131). -/
def searchAll (gs ks : List Nat) (cells : List FEntry) : List FEntry :=
  (cells.filter (FEntry.hit gs ks)).foldl (fun acc e => insertHit e acc) []

/-- A FIRST search (06 R131). -/
def searchFirst (gs ks : List Nat) (cells : List FEntry) : Option FEntry := (searchAll gs ks cells).head?

/-! ### Changes of entries (06 R132-R134) -/

/-- The three steps of an entry change: the valid bit goes, the body is written, the valid bit comes (06 R132). -/
def FEntry.clearValid (e : FEntry) : FEntry := { e with valid := false }
def FEntry.writeBody (e : FEntry) (tag : Nat) (r : FRec) : FEntry :=
  FEntry.sealed { e with units := tagUnits tag r.units, prio := r.prio % 2 ^ 24, result := r.result % 2 ^ 40 }
def FEntry.setValid (e : FEntry) : FEntry := { e with valid := true }

def FEntry.change (e : FEntry) (tag : Nat) (r : FRec) : FEntry := ((e.clearValid).writeBody tag r).setValid

/-- One action of a block move: the copy at the next address becomes valid and the source invalid together (06 R133). -/
def moveUp (cells : List FEntry) (i : Nat) : List FEntry :=
  match cells[i]? with
  | some e => (cells.set (i + 1) e).set i e.clearValid
  | none => cells

/-- A block move of the `n` entries from address `a` on, from the top of the run down, into the free address above them
(06 R133). -/
def blockMove (cells : List FEntry) (a : Nat) : Nat → List FEntry
  | 0 => cells
  | n + 1 => blockMove (moveUp cells (a + n)) a n

/-- Search slots for which a block move holds the region's searches: its moves across a bank boundary (06 R133). -/
def moveHolds (perBank a n : Nat) : Nat := ((List.range n).filter fun i => (a + i + 1) % perBank == 0).length

/-- Open a free place at an address, by a block move into the free space above. -/
def openPlace (width : Nat) (cells : List FEntry) (a : Nat) : List FEntry :=
  blockMove (cells ++ [FEntry.zero width]) a (cells.length - a)

/-- Write entries in record order from an address on, a free place opened for each (06 R130, R133). -/
def loadAt (width tag : Nat) (cells : List FEntry) (a : Nat) : List FRec → List FEntry
  | [] => cells
  | r :: t =>
    let opened := openPlace width cells a
    loadAt width tag (opened.set a ((opened.getD a (FEntry.zero width)).change tag r)) (a + 1) t

/-- Invalidate and zero a range (06 R134). -/
def zeroRange (width : Nat) (cells : List FEntry) (a n : Nat) : List FEntry :=
  cells.zipIdx.map fun x => if a ≤ x.2 && x.2 < a + n then FEntry.zero width else x.1

/-- A zeroed range leaves the run of its region: the free space stays in one run at the top (06 R133). -/
def closeRange (cells : List FEntry) (a n : Nat) : List FEntry := cells.take a ++ cells.drop (a + n)

/-! ### What one image sees -/

/-- The cells that a search of one image reads, and the image's TAG. -/
structure FView where
  tag : Nat
  cells : List FEntry
  deriving DecidableEq, Repr, Inhabited

/-- The cells of records alone in a region. -/
def viewOf (width : Nat) (rs : List FRec) : FView := ⟨0, rs.map fun r => (FEntry.zero width).change 0 r⟩

/-- A search carries the TAG of the image it searches, with all global bits of TAG 1 (06 R129, R143). -/
def tagKey (tag : Nat) : List Nat → List Nat
  | [] => []
  | k :: t => withTag tag k :: t

def FView.all (v : FView) (gs ks : List Nat) : List FEntry := searchAll (tagKey (2 ^ 32 - 1) gs) (tagKey v.tag ks) v.cells
def FView.first (v : FView) (gs ks : List Nat) : Option FEntry := (v.all gs ks).head?

/-! ### Regions of banks (06 R128, R133, R146) -/

/-- The job of a region; a class S list has two regions. -/
inductive FJob where
  | merges | specials | stops
  | lists (second : Bool)
  deriving DecidableEq, Repr, Inhabited

/-- Whose entries a run holds: an image's, or a binding's stop strings. -/
inductive FOwner where
  | image (d : Digest)
  | stopsOf (binding : Nat)
  deriving DecidableEq, Repr, Inhabited

structure FRun where
  owner : FOwner
  tag : Nat
  len : Nat
  deriving DecidableEq, Repr, Inhabited

/-- A region: its entry width, its banks (8 · position + k), the runs of its owners, sorted by TAG, its cells in address
order, and zeroed cells that no owner may have before the zeroing completes (06 R134). -/
structure FRegion where
  job : FJob
  width : Nat
  banks : List Nat
  runs : List FRun
  cells : List FEntry
  dirty : Nat
  deriving DecidableEq, Repr, Inhabited

/-- Units of a finder bank (06 R127). -/
def bankUnits : Nat := 4096

/-- Banks for a number of cells. -/
def banksFor (width n : Nat) : Nat := (n * width + bankUnits - 1) / bankUnits

def FRegion.has (r : FRegion) (o : FOwner) : Bool := r.runs.any fun x => x.owner == o

/-- The first address of the cells with a TAG or a greater one. -/
def FRegion.start (r : FRegion) (tag : Nat) : Nat := ((r.runs.filter fun x => decide (x.tag < tag)).map fun x => x.len).sum

/-- The lowest TAG that no owner of the region has. -/
def FRegion.newTag (r : FRegion) : Nat :=
  ((List.range (r.runs.length + 1)).find? fun t => !(r.runs.any fun x => x.tag == t)).getD 0

def insertRun (x : FRun) : List FRun → List FRun
  | [] => [x]
  | y :: t => if x.tag < y.tag then x :: y :: t else y :: insertRun x t

/-- An owner's entries enter the region under a TAG of their own (06 R133). -/
def FRegion.load (r : FRegion) (o : FOwner) (rs : List FRec) : FRegion :=
  let tag := r.newTag
  { r with cells := loadAt r.width tag r.cells (r.start tag) rs, runs := insertRun ⟨o, tag, rs.length⟩ r.runs }

/-- An owner's entries leave: its range is invalidated and zeroed, and waits for the zeroing (06 R128, R133, R134). -/
def FRegion.drop (r : FRegion) (o : FOwner) : FRegion :=
  match r.runs.find? fun x => x.owner == o with
  | none => r
  | some x =>
    { r with cells := closeRange (zeroRange r.width r.cells (r.start x.tag) x.len) (r.start x.tag) x.len
             runs := r.runs.filter fun y => y.owner != o, dirty := r.dirty + x.len }

/-- Banks that the region needs. -/
def FRegion.need (r : FRegion) : Nat := banksFor r.width (r.cells.length + r.dirty)

/-- The zeroing is complete: banks that no cell needs are free (06 R134). -/
def FRegion.cleared (r : FRegion) : FRegion :=
  { r with dirty := 0, banks := r.banks.take (banksFor r.width r.cells.length) }

def FRegion.view (r : FRegion) (o : FOwner) : Option FView :=
  (r.runs.find? fun x => x.owner == o).map fun x => ⟨x.tag, r.cells⟩

abbrev Finder := List FRegion

/-- The finder banks of the filled positions (06 R127, 09 R190). -/
def filledBanks (empty : List Nat) : List Nat :=
  ((List.range 128).filter fun p => !empty.contains p).flatMap fun p => (List.range 8).map fun k => 8 * p + k

def Finder.used (f : Finder) : List Nat := f.flatMap fun r => r.banks

def Finder.free (f : Finder) (empty : List Nat) : List Nat :=
  (filledBanks empty).filter fun b => !f.used.contains b

def Finder.region (f : Finder) (j : FJob) (w : Nat) : FRegion :=
  (f.find? fun r => r.job == j && r.width == w).getD ⟨j, w, [], [], [], 0⟩

/-- Replace a region; one without banks is gone. -/
def Finder.put (f : Finder) (r : FRegion) : Finder :=
  let rest := f.filter fun x => !(x.job == r.job && x.width == r.width)
  if r.banks.isEmpty then rest else rest ++ [r]

def Finder.has (f : Finder) (j : FJob) (o : FOwner) : Bool := f.any fun r => r.job == j && r.has o

def Finder.view (f : Finder) (j : FJob) (o : FOwner) : Option FView := (f.find? fun r => r.job == j && r.has o).bind (·.view o)

/-- The other region of a class S list, whose plates a region keeps off (06 R146). -/
def FJob.twin : FJob → Option FJob
  | .lists b => some (.lists !b)
  | _ => none

/-- Free banks that a region may take, in the order it takes them: the second region of a list from the top down
(06 R146). -/
def Finder.offer (f : Finder) (empty : List Nat) (j : FJob) (w : Nat) : List Nat :=
  let avoid := match j.twin with
    | some t => (f.region t w).banks.map (· / 8)
    | none => []
  let l := (f.free empty).filter fun b => !avoid.contains (b / 8)
  if j = .lists true then l.reverse else l

/-- Finder banks that bindings are not offered (09 R191). -/
def keptFree : Nat := 8

/-- Place an owner's entries in the region of their job and width, `keep` banks of the half staying free; none when they
cannot be placed (06 R128, 09 R191). -/
def Finder.place (f : Finder) (empty : List Nat) (keep : Nat) (j : FJob) (w : Nat) (o : FOwner) (rs : List FRec) : Option Finder :=
  if rs.isEmpty || f.has j o then some f
  else
    let r := f.region j w
    let more := banksFor w (r.cells.length + r.dirty + rs.length) - r.banks.length
    let l := f.offer empty j w
    if more ≤ l.length ∧ (more = 0 ∨ more + keep ≤ (f.free empty).length) then
      some (f.put (({ r with banks := r.banks ++ l.take more } : FRegion).load o rs))
    else none

/-- An owner's entries leave every region (06 R128). -/
def Finder.drop (f : Finder) (o : FOwner) : Finder := f.map fun r => r.drop o

/-- Owners leave from the top of a region until the rest fits its banks: who left, and with how many entries (09 R191). -/
def FRegion.shed (r : FRegion) : Nat → FRegion × List (FOwner × Nat)
  | 0 => (r, [])
  | n + 1 =>
    match r.runs.getLast? with
    | none => (r, [])
    | some x =>
      if r.need ≤ r.banks.length then (r, [])
      else
        let q := FRegion.shed { r.drop x.owner with dirty := r.dirty } n
        (q.1, (x.owner, x.len) :: q.2)

/-- The entries of an emptied position are loaded again into free banks of filled ones, the kept banks among them; what
finds no bank leaves (09 R191). -/
def Finder.losePlate (f : Finder) (empty : List Nat) (pos : Nat) : Finder × List (FOwner × Nat) :=
  let g := f.map fun r => { r with banks := r.banks.filter fun b => b / 8 != pos }
  g.foldl (fun (x : Finder × List (FOwner × Nat)) r =>
    let more := r.need - r.banks.length
    let q := FRegion.shed { r with banks := r.banks ++ (x.1.offer empty r.job r.width).take more } r.runs.length
    (x.1.put q.1, x.2 ++ q.2)) (g, [])

/-- The zeroing of the half's finder ranges is complete (06 R134). -/
def Finder.cleared (f : Finder) : Finder := (f.map FRegion.cleared).filter fun r => !r.banks.isEmpty

/-- The cells of a region with a bad byte: the region is invalidated, and loaded again owner by owner from what the stacks
hold (06 R147). -/
def FRegion.reload (r : FRegion) (recs : FOwner → List FRec) : FRegion :=
  r.runs.foldl (fun q x => { q with cells := q.cells ++ (recs x.owner).map fun e => (FEntry.zero r.width).change x.tag e })
    { r with cells := [] }

end Sys2Proof.Machine
end

