-- ==== Sys2Proof/Machine/Banks.lean ====
section
/-! DEFINITION. Bank words and what the two ports of a bank do to one word in one beat; the arbiter of port B; master
classes (09 R194, R198-R201). -/
namespace Sys2Proof.Machine

/-- A bank word: 64 data bits and one even-parity bit for each byte (09 R194). -/
structure BankWord where
  data : U64
  par : Byte
  deriving DecidableEq, Repr, Inhabited

/-- A word with correct parity. -/
def BankWord.of (v : U64) : BankWord := ⟨v, BitVec.ofNat 8 (parityBits 8 v.toNat)⟩

/-- The parity check of a read (09 R203). -/
def BankWord.sound (w : BankWord) : Bool := w.par == (BankWord.of w.data).par

/-- An operation of a port on a word (09 R199, R200). -/
inductive BankOp where
  | read
  | write (v : U64)
  | atomicAdd (v : U64)
  | atomicSwap (v : U64)
  deriving DecidableEq, Repr, Inhabited

/-- The word after the operation; an addition wraps modulo 2^64 (09 R200). -/
def BankOp.after (w : U64) : BankOp → U64
  | .read => w
  | .write v => v
  | .atomicAdd v => w + v
  | .atomicSwap v => v

def BankOp.changes : BankOp → Bool
  | .read => false
  | _ => true

/-- What the port receives, when the word reads `w` immediately before it takes effect. -/
def BankOp.receives (w : U64) : BankOp → Option U64
  | .write _ => none
  | _ => some w

/-- What one beat gives: what each port receives, the word afterwards with its parity, and whether it is a conflict. -/
structure Beat where
  a : Option U64
  b : Option U64
  word : BankWord
  conflict : Bool
  deriving DecidableEq, Repr, Inhabited

/-- Both ports at one word in one beat: a plain read samples the word before the beat, writes and atomics take effect in the
order port A, port B, and two that both change the word are a conflict (09 R199). -/
def sameWord (w : BankWord) (a b : BankOp) : Beat :=
  let mid := a.after w.data
  { a := a.receives w.data, b := b.receives (if b = .read then w.data else mid), word := BankWord.of (b.after mid)
    conflict := a.changes && b.changes }

/-- One operation alone. -/
def oneWord (w : BankWord) (b : BankOp) : Beat := sameWord w .read b

/-- Bytes of the aligned line that a port moves in a beat (09 R198). -/
def lineA : Nat := 4096
def lineB : Nat := 256

/-- Master classes (09 R201). -/
inductive Master where
  | home | plate | dispatch | zero | stack | meridian | firmware | safelight | host
  deriving DecidableEq, Repr, Inhabited

def Master.code : Master → Nat
  | .home => 0 | .plate => 1 | .dispatch => 2 | .zero => 3 | .stack => 4 | .meridian => 5 | .firmware => 6
  | .safelight => 7 | .host => 8

def Master.ofCode : Nat → Master
  | 0 => .home | 1 => .plate | 2 => .dispatch | 3 => .zero | 4 => .stack | 5 => .meridian | 6 => .firmware
  | 7 => .safelight | _ => .host

/-- Port A belongs to the home master of a bank; every other master uses port B (09 R198). -/
def Master.portA : Master → Bool
  | .home => true
  | _ => false

/-- The bank arbiter: of the masters that ask for port B in a beat it serves the next one after the last served, in rotating
order; a choice among several is counted (09 R198). Answers the master served and whether a choice was made. -/
def arbitrate (last : Nat) (asks : List Nat) : Option (Nat × Bool) :=
  match ((List.range 9).map fun i => (last + 1 + i) % 9).find? fun m => asks.contains m with
  | some m => some (m, decide (1 < asks.length))
  | none => none

/-- A shared count of the firmware, changed by an atomic (09 R200): the value afterwards. -/
def atomicWord (old : Nat) (op : BankOp) : Nat := (oneWord (BankWord.of (BitVec.ofNat 64 old)) op).word.data.toNat

end Sys2Proof.Machine
end

