-- ==== Sys2Proof/Machine/Crc.lean ====
section
/-! DEFINITION. The checksums the manual names: CRC-64/ECMA-182, CRC-32C, the CRC-16 of level messages (15 R363)
and the CRC-8 of TIME_IN (17 R424). The first two are named only; their parameters are PRESUMED (log 6). -/
namespace Sys2Proof.Machine

/-- A register run over bytes. -/
def crcRun (step : Nat → Byte → Nat) : List Byte → Nat → Nat
  | [], r => r
  | b :: bs, r => now (crcRun step bs) (step r b)

/-- One bit of a left-shifting CRC of width `w` with polynomial `poly`. -/
def crcBitL (w poly reg : Nat) : Nat :=
  if reg.testBit (w - 1) then (reg * 2 % 2 ^ w) ^^^ poly else reg * 2

def crcByteL (w poly reg : Nat) (b : Byte) : Nat :=
  let r := reg ^^^ (b.toNat * 2 ^ (w - 8))
  (List.range 8).foldl (fun a _ => now (crcBitL w poly) a) r

def crcBitR (poly reg : Nat) : Nat :=
  if reg.testBit 0 then (reg / 2) ^^^ poly else reg / 2

def crcByteR (poly reg : Nat) (b : Byte) : Nat :=
  let r := reg ^^^ b.toNat
  (List.range 8).foldl (fun a _ => now (crcBitR poly) a) r

/-- A running CRC-64/ECMA-182 (PRESUMED: polynomial 0x42F0E1EBA9EA3693, start 0, no reflection, no final
inversion; log 6), so that a digest of a growing byte string is kept by its last value. -/
def crc64From (start : U64) (bs : List Byte) : U64 :=
  BitVec.ofNat 64 (crcRun (crcByteL 64 0x42F0E1EBA9EA3693) bs start.toNat)

def crc64 (bs : List Byte) : U64 := crc64From 0 bs

/-- CRC-32C (PRESUMED: Castagnoli, reflected, start and final inversion 0xFFFFFFFF; log 6). -/
def crc32c (bs : List Byte) : U32 :=
  BitVec.ofNat 32 (crcRun (crcByteR 0x82F63B78) bs 0xFFFFFFFF ^^^ 0xFFFFFFFF)

/-- The CRC-16 of a level message: polynomial 0x1021, initial value 0xFFFF (15 R363). -/
def crc16 (bs : List Byte) : U16 := BitVec.ofNat 16 (crcRun (crcByteL 16 0x1021) bs 0xFFFF)

/-- The CRC-8 of a TIME_IN frame: polynomial 0x07 over the 64 bits, bit 0 first (17 R424).
Bit order as sent, start value 0 (DESIGN CHOICE, log 6). -/
def crc8Bits (v : Nat) : Nat :=
  (List.range 64).foldl
    (fun reg i =>
      let top := reg.testBit 7 != v.testBit i
      let r := reg * 2 % 256
      if top then r ^^^ 0x07 else r) 0

end Sys2Proof.Machine
end

