-- ==== Sys2Proof/Machine/Fp.lean ====
section
/-! DEFINITION. Number formats, exact products, the long accumulator and binary32 arithmetic
(02 R34-R50). Values are decoded to integers, computed exactly, and rounded once. -/
namespace Sys2Proof.Machine

/-- A decoded element: (−1)^neg · m · 2^e, an infinity, or NaN (02 R34). -/
inductive Fp where
  | fin (neg : Bool) (m : Nat) (e : Int)
  | inf (neg : Bool)
  | nan
  deriving DecidableEq, Repr, Inhabited

/-- A binary layout with `eb` exponent bits and `fb` fraction bits and an IEEE top exponent (02 R34). -/
def decodeIeee (eb fb : Nat) (bias : Int) (x : Nat) : Fp :=
  let neg := x.testBit (eb + fb)
  let ex := x / 2 ^ fb % 2 ^ eb
  let fr := x % 2 ^ fb
  if ex = 2 ^ eb - 1 then (if fr = 0 then .inf neg else .nan)
  else if ex = 0 then .fin neg fr (1 - bias - fb)
  else .fin neg (2 ^ fb + fr) (ex - bias - fb)

/-- A layout without infinities; `nanFrac` says which fraction of the top exponent is NaN, if any (02 R34). -/
def decodeFinite (eb fb : Nat) (bias : Int) (nanTop : Bool) (x : Nat) : Fp :=
  let neg := x.testBit (eb + fb)
  let ex := x / 2 ^ fb % 2 ^ eb
  let fr := x % 2 ^ fb
  if nanTop && decide (ex = 2 ^ eb - 1) && decide (fr = 2 ^ fb - 1) then .nan
  else if ex = 0 then .fin neg fr (1 - bias - fb)
  else .fin neg (2 ^ fb + fr) (ex - bias - fb)

def decodeF32 (x : U32) : Fp := decodeIeee 8 23 127 x.toNat
def decodeBf16 (x : Nat) : Fp := decodeIeee 8 7 127 x
def decodeFp16 (x : Nat) : Fp := decodeIeee 5 10 15 x
def decodeE4M3 (x : Nat) : Fp := decodeFinite 4 3 7 true x
def decodeE5M2 (x : Nat) : Fp := decodeIeee 5 2 15 x
def decodeE2M1 (x : Nat) : Fp := decodeFinite 2 1 1 false x
def decodeE2M3 (x : Nat) : Fp := decodeFinite 2 3 1 false x
def decodeE3M2 (x : Nat) : Fp := decodeFinite 3 2 3 false x

/-! ### Format codes (02 R35) -/

def fmtBf16 : Nat := 0x01
def fmtE4M3 : Nat := 0x02
def fmtE5M2 : Nat := 0x03
def fmtMx4 : Nat := 0x10
def fmtMx6a : Nat := 0x11
def fmtMx6b : Nat := 0x12
def fmtMx8a : Nat := 0x13
def fmtMx8b : Nat := 0x14
def fmtFp32 : Nat := 0x20
def fmtFp16 : Nat := 0x21

def isHiddenFmt (c : Nat) : Bool := c == 0x01 || c == 0x02 || c == 0x03
def isWeightFmt (c : Nat) : Bool := c == 0x01 || (decide (0x10 ≤ c) && decide (c ≤ 0x14))
def isIntakeFmt (c : Nat) : Bool := c == 0x01 || c == 0x13 || c == 0x14 || c == 0x20 || c == 0x21
/-- Formats with a shared E8M0 scale per block of 32. -/
def isMxFmt (c : Nat) : Bool := decide (0x10 ≤ c) && decide (c ≤ 0x14)

/-- Decode one element code of a format. -/
def decodeElem (c x : Nat) : Fp :=
  if c = 0x01 then decodeBf16 x
  else if c = 0x02 || c = 0x13 then decodeE4M3 x
  else if c = 0x03 || c = 0x14 then decodeE5M2 x
  else if c = 0x10 then decodeE2M1 x
  else if c = 0x11 then decodeE2M3 x
  else if c = 0x12 then decodeE3M2 x
  else if c = 0x20 then decodeIeee 8 23 127 x
  else if c = 0x21 then decodeFp16 x
  else .nan

/-- Bits of one element (02 R36). -/
def elemBits (c : Nat) : Nat :=
  if c = 0x01 || c = 0x21 then 16
  else if c = 0x20 then 32
  else if c = 0x10 then 4
  else if c = 0x11 || c = 0x12 then 6
  else 8

/-- Bytes of `n` packed elements (02 R36): groups of two to a byte, four to three bytes. -/
def elemBytes (c n : Nat) : Nat :=
  if c = 0x10 then (n + 1) / 2
  else if c = 0x11 || c = 0x12 then 3 * ((n + 3) / 4)
  else elemBits c / 8 * n

/-- Element code `i` of a packed area (02 R36). -/
def elemCode (c : Nat) (bs : List Byte) (i : Nat) : Nat :=
  if c = 0x10 then u8At bs (i / 2) / 2 ^ (4 * (i % 2)) % 16
  else if c = 0x11 || c = 0x12 then fld bs (3 * (i / 4)) 3 / 2 ^ (6 * (i % 4)) % 64
  else fld bs (elemBits c / 8 * i) (elemBits c / 8)

/-- All `n` element codes of a packed area, in element order. -/
def elemCodes (c n : Nat) (bs : List Byte) : List Nat :=
  if c = 0x10 then ((bs.flatMap fun b => [b.toNat % 16, b.toNat / 16])).take n
  else if c = 0x11 || c = 0x12 then
    ((records 3 bs).flatMap fun g =>
      let v := leNat g
      [v % 64, v / 64 % 64, v / 4096 % 64, v / 262144 % 64]).take n
  else ((records (elemBits c / 8) bs).map leNat).take n

/-- Scale a decoded element by 2^(x − 127) (02 R34). -/
def Fp.scale (v : Fp) (x : Nat) : Fp :=
  match v with
  | .fin n m e => .fin n m (e + x - 127)
  | w => w

def Fp.isFinite : Fp → Bool
  | .fin .. => true
  | _ => false

def Fp.isNan : Fp → Bool
  | .nan => true
  | _ => false

/-! ### The long accumulator (02 R40-R44) -/

/-- A product in units of 2^−288 (02 R42); a zero significand contributes nothing (R40). -/
def productUnits (h w : Fp) : Int :=
  match h, w with
  | .fin s1 m1 e1, .fin s2 m2 e2 =>
    let v : Int := (m1 * m2 : Nat) * 2 ^ ((e1 + e2 + 288).toNat)
    if s1 != s2 then -v else v
  | _, _ => 0

/-- The exact sum of a row's products, in units of 2^−288 (02 R41). -/
def dotUnits (h w : List Fp) : Int := ((h.zip w).map fun p => productUnits p.1 p.2).sum

/-- Bits that the rounding of m · 2^(−u) discards (02 R44). -/
def roundShift (u m : Nat) : Nat := max (Nat.log2 m - 23) (u - 149)

/-- Round (−1)^neg · m · 2^(−u), u ≥ 149, to binary32: nearest, ties to even, subnormals kept (02 R44).
The second component is the range bit. -/
def roundUnits (u : Nat) (neg : Bool) (m : Nat) : U32 × Bool :=
  let s : Nat := if neg then 2 ^ 31 else 0
  if m = 0 then (BitVec.ofNat 32 s, false)
  else
    let sh := roundShift u m
    let q := m / 2 ^ sh
    let rem := m % 2 ^ sh
    let up := decide (2 * rem > 2 ^ sh) || (decide (2 * rem = 2 ^ sh) && q.testBit 0)
    let q1 := if up then q + 1 else q
    let q2 := if q1 = 2 ^ 24 then 2 ^ 23 else q1
    let sh2 := if q1 = 2 ^ 24 then sh + 1 else sh
    if sh2 ≥ u + 105 then (BitVec.ofNat 32 (s + 0x7F800000), true)
    else (BitVec.ofNat 32 (s + ((sh2 - (u - 149)) * 2 ^ 23 + q2)), false)

/-- RNE_FP32 of the long accumulator; an exact zero is +0 (02 R44). -/
def rneFp32 (a : Int) : U32 × Bool := roundUnits 288 (decide (a < 0)) a.natAbs

/-- Unit in which the results of binary32 operations are formed exactly. -/
def opUnit : Nat := 400

/-- Round (−1)^neg · m · 2^e to binary32. -/
def roundExp (neg : Bool) (m : Nat) (e : Int) : U32 × Bool := roundUnits opUnit neg (m * 2 ^ (e + 400).toNat)

def infBits (neg : Bool) : U32 := if neg then 0xFF800000#32 else 0x7F800000#32
/-- Never formed by a chain of 02 (R50). -/
def nanBits : U32 := 0x7FC00000#32

/-- binary32 multiply, round to nearest even (02 R49). -/
def mul32 (x y : U32) : U32 × Bool :=
  match decodeF32 x, decodeF32 y with
  | .fin s m e, .fin t n f => roundExp (s != t) (m * n) (e + f)
  | .inf s, .fin t n _ => if n = 0 then (nanBits, false) else (infBits (s != t), false)
  | .fin s m _, .inf t => if m = 0 then (nanBits, false) else (infBits (s != t), false)
  | .inf s, .inf t => (infBits (s != t), false)
  | _, _ => (nanBits, false)

/-- binary32 add, round to nearest even; an exact zero sum is −0 only when both operands are −0. -/
def add32 (x y : U32) : U32 × Bool :=
  match decodeF32 x, decodeF32 y with
  | .fin s m e, .fin t n f =>
    let a : Int := (m : Int) * 2 ^ (e + 400).toNat
    let b : Int := (n : Int) * 2 ^ (f + 400).toNat
    let v : Int := (if s then -a else a) + (if t then -b else b)
    if v = 0 then (if s && t then 0x80000000#32 else 0#32, false)
    else roundUnits opUnit (decide (v < 0)) v.natAbs
  | .inf s, .fin .. => (infBits s, false)
  | .fin .., .inf t => (infBits t, false)
  | .inf s, .inf t => if s = t then (infBits s, false) else (nanBits, false)
  | _, _ => (nanBits, false)

def neg32 (x : U32) : U32 := x ^^^ 0x80000000#32

def sub32 (x y : U32) : U32 × Bool := add32 x (neg32 y)

/-- RNE(1 / x) as a binary32 division, for the finite non-zero parameters of 02 R47.
The quotient carries far more bits than a rounding reads, with a sticky bit below them. -/
def recip32 (x : U32) : U32 :=
  match decodeF32 x with
  | .fin s m e =>
    if m = 0 then infBits s
    else
      let q := 2 ^ 120 / m
      let sticky := if 2 ^ 120 % m = 0 then 0 else 1
      (roundExp s (2 * q + sticky) (-121 - e)).1
  | .inf s => if s then 0x80000000#32 else 0#32
  | .nan => nanBits

/-- An unsigned count of 16 bits as binary32, exactly (02 R49). -/
def u16ToF32 (c : Nat) : U32 := (roundExp false c 0).1

/-- A key whose order is the order of the FP32 values: +0.0 and −0.0 are equal (02 R50). -/
def fpKey (x : U32) : Int :=
  let mag : Int := (x.toNat % 2 ^ 31 : Nat)
  if x.toNat ≥ 2 ^ 31 then -mag else mag

def isInfBits (x : U32) : Bool := x.toNat % 2 ^ 31 == 0x7F800000

/-- Convert one supplied logit (02 R46): the FP32 bits and the range bit. An MXFP8 zero rounds to +0 (02 R44). -/
def intakeToF32 (fmt code scale : Nat) : U32 × Bool :=
  if fmt = 0x20 then (BitVec.ofNat 32 code, false)
  else
    match (decodeElem fmt code) with
    | .fin n m e =>
      if isMxFmt fmt then (if m = 0 then (0#32, false) else roundExp n m (e + scale - 127)) else roundExp n m e
    | .inf n => (infBits n, false)
    | .nan => (nanBits, false)

/-! ### The adjustment chain (02 R47-R50) -/

/-- The arithmetic parameters of a profile, with the two stored reciprocals (02 R47). -/
structure AdjParams where
  temp : U32
  tempInv : U32
  rep : U32
  repInv : U32
  freq : U32
  pres : U32
  deriving DecidableEq, Repr, Inhabited

/-- Carry a value and the range bit through one operation. -/
def andRange (r : U32 × Bool) (flag : Bool) : U32 × Bool := (r.1, flag || r.2)

def isZeroBits (x : U32) : Bool := x.toNat % 2 ^ 31 == 0

/-- The value after the bias, before the temperature multiply (02 R49), with the range bit. -/
def adjustToBias (p : AdjParams) (z : U32) (c : Nat) (b : U32) : U32 × Bool :=
  let r : U32 × Bool :=
    if c = 0 then (z, false)
    else
      let r1 : U32 × Bool :=
        if fpKey z > 0 then mul32 z p.repInv
        else if fpKey z < 0 then mul32 z p.rep
        else (z, false)
      let r2 := andRange (sub32 r1.1 (mul32 (u16ToF32 c) p.freq).1) r1.2
      andRange (sub32 r2.1 p.pres) r2.2
  andRange (add32 r.1 b) r.2

/-- The scaled logit of one allowed token (02 R49), with the range bit. -/
def adjust (p : AdjParams) (z : U32) (c : Nat) (b : U32) : U32 × Bool :=
  let r := adjustToBias p z c b
  if isZeroBits p.temp then r else andRange (mul32 r.1 p.tempInv) r.2

/-- Within a closed FP32 interval; subnormals, −0.0, infinities and NaN lie outside every range (02 R47). -/
def f32InRange (lo hi x : U32) : Bool :=
  match decodeF32 x with
  | .fin n m _ =>
    (if m = 0 then !n else decide (m ≥ 2 ^ 23)) && decide (fpKey lo ≤ fpKey x) && decide (fpKey x ≤ fpKey hi)
  | _ => false

/-- Above 0.0 and at most 1.0, subnormals among them (04 R76). -/
def unitRange (x : U32) : Bool := decide (0 < x.toNat) && decide (x.toNat ≤ 0x3F800000)

end Sys2Proof.Machine
end

