-- ==== Sys2Proof/Config.lean ====
section
/-! DEFINITION. What the manual leaves to the part, and the free values: constants with no body, so that nothing
can be proved of them but that they are values. -/
namespace Sys2Proof.Config

/-- Self-test signatures depend on the silicon (14 R335): a fresh value for each (log 9). -/
opaque selftestSignature (n : Nat) : U64

/-- Delay-line calibration codes depend on the silicon (14 R335): a fresh value for each (log 9). -/
opaque calCode (n : Nat) : U32

/-- A value that the manual leaves to timing or to a choice of the part: a fresh byte for each (log 9). -/
opaque freeByte (n : Nat) : Byte

/-- A byte of a bank region whose layout the manual does not give (12 R284): a function of the kind of region, of what it
holds, and of the offset (log 9). -/
opaque recordByte (kind : Nat) (contents : List Byte) (off : Nat) : Byte

/-- What the bytes of such a region spell for its owner after a diagnostic write (09 R211): a function of the bytes
(log 9). -/
opaque recordValue (kind : Nat) (bytes : List Byte) (i : Nat) : Byte

/-- The range bit of an infinite candidate that another engine reports from supplied logits, which its entry does not carry
(04 R87): a function of what the route and the member's logit are, so that it is the same at every execution (log 9). -/
opaque peerRange (seed : U64) (salt step token : Nat) (z : U32) : Bool

/-- The integrator's JEDEC manufacturer code, from fuses (17 R427; log 101). -/
opaque jedecCode : BitVec 11

/-- The constellation position of a shard group's member, by binding handle and shard index: the manual does not say how an
engine learns it (03 R67, 16 R402; log 33). -/
opaque memberPosition (binding shard : Nat) : Nat

/-- The shard index of a route's owner, by binding handle and salt, as its members know it (03 R68; log 33). -/
opaque ownerShard (binding salt : Nat) : Nat

/-- The 48 bits by which an engine names itself in a HELLO: a function of its serial number (16 R384; log 121). -/
opaque deviceId (serial : U64) : BitVec 48

/-- CHAIN of an engine's own HELLO, which its partner ignores (16 R384; log 121). -/
opaque helloChain : BitVec 8

/-- Bytes of a binding record (kind 3) and of a mask-cache entry (kind 5): the manual gives the regions no size
(12 R284; log 9). -/
opaque recordSize (kind : Nat) : Nat

/-- The interface level that a firmware image declares, from its manifest: the manual does not say where
(18 R437; log 9). -/
opaque fwiLevel (manifest : List Byte) : Nat

end Sys2Proof.Config
end

