-- ==== Sys2Proof/Machine/Codes.lean ====
section
/-! DEFINITION. The codes of statuses, object states, end causes and command codes
(11 R240, R246, R255, R257; 08 R184; 10 R213, R217, R220, R226; 12 R253). -/
namespace Sys2Proof.Machine

/-! ### Status codes (11 R246) -/

def stOk : Nat := 0x0
def stState : Nat := 0x1
def stArg : Nat := 0x2
def stNoSpace : Nat := 0x3
def stSignature : Nat := 0x4
def stStopped : Nat := 0x5
def stPaused : Nat := 0x6
def stDeadline : Nat := 0x7
def stNoToken : Nat := 0x8
def stSwapped : Nat := 0x9
def stRange : Nat := 0xA
def stFault : Nat := 0xB
def stBusy : Nat := 0xC

/-! ### State kinds (11 R240) -/

def skNone : Nat := 0
def skEngine : Nat := 1
def skImage : Nat := 2
def skBinding : Nat := 3
def skRoute : Nat := 4

/-- The STATE and kind a reply reports. -/
structure ObjState where
  kind : Nat
  state : Nat
  deriving DecidableEq, Repr, Inhabited

/-- Engine states (11 R255). -/
inductive EState where
  | off | reset | survey | ready | service | limp | drain | halt
  deriving DecidableEq, Repr, Inhabited

def EState.code : EState → Nat
  | .off => 0 | .reset => 1 | .survey => 2 | .ready => 3 | .service => 4 | .limp => 5 | .drain => 6 | .halt => 7

/-- Route states (11 R257). -/
inductive RState where
  | open | running | paused | saved | ended
  deriving DecidableEq, Repr, Inhabited

def RState.code : RState → Nat
  | .open => 0 | .running => 1 | .paused => 2 | .saved => 3 | .ended => 4

def RState.ofCode (n : Nat) : Option RState :=
  match n with
  | 0 => some .open | 1 => some .running | 2 => some .paused | 3 => some .saved | 4 => some .ended | _ => none

/-- Binding states (10 R226). -/
inductive BState where
  | loading | verified | active | stopping | stopped | swapping | retired
  deriving DecidableEq, Repr, Inhabited

def BState.code : BState → Nat
  | .loading => 0 | .verified => 1 | .active => 2 | .stopping => 3 | .stopped => 4 | .swapping => 5 | .retired => 6

/-- Image states (10 R220). -/
inductive IState where
  | fetching | stored | verifying | verified | failed | revoked
  deriving DecidableEq, Repr, Inhabited

def IState.code : IState → Nat
  | .fetching => 0 | .stored => 1 | .verifying => 2 | .verified => 3 | .failed => 4 | .revoked => 5

/-- Image types (10 R213). -/
inductive IType where
  | tki | hdi | csi | sli | fwi
  deriving DecidableEq, Repr, Inhabited

def IType.code : IType → Nat
  | .tki => 1 | .hdi => 2 | .csi => 3 | .sli => 4 | .fwi => 0x10

def IType.ofCode (n : Nat) : Option IType :=
  if n = 1 then some .tki else if n = 2 then some .hdi else if n = 3 then some .csi
  else if n = 4 then some .sli else if n = 0x10 then some .fwi else none

/-- Images of a type the engine holds at most (10 R220). -/
def IType.limit : IType → Nat
  | .tki => 4096 | .hdi => 16384 | .csi => 65536 | .sli => 65536 | .fwi => 4

/-- Keyslot states (10 R217). -/
inductive KState where
  | empty | active | revoked
  deriving DecidableEq, Repr, Inhabited

def KState.code : KState → Nat
  | .empty => 0 | .active => 1 | .revoked => 2

/-- One keyslot (10 R217). -/
structure Keyslot where
  digest : Digest
  cls : Nat
  state : KState
  deriving DecidableEq, Repr, Inhabited

/-- End causes (08 R184). -/
inductive EndCause where
  | none | eos | stop | limit | noToken | deadline | fault | swapped | host
  deriving DecidableEq, Repr, Inhabited

def EndCause.code : EndCause → Nat
  | .none => 0 | .eos => 1 | .stop => 2 | .limit => 3 | .noToken => 4 | .deadline => 5 | .fault => 6
  | .swapped => 7 | .host => 8

def EndCause.ofCode (n : Nat) : EndCause :=
  match n with
  | 1 => .eos | 2 => .stop | 3 => .limit | 4 => .noToken | 5 => .deadline | 6 => .fault | 7 => .swapped
  | 8 => .host | _ => .none

/-- The final status of a route that ends by a cause (08 R184, 01 R32). -/
def EndCause.status : EndCause → Nat
  | .noToken => stNoToken | .deadline => stDeadline | .fault => stFault | .swapped => stSwapped | _ => stOk

end Sys2Proof.Machine
end

