-- ==== Sys2Proof/Machine/MlDsa.lean ====
section
/-! DEFINITION. ML-DSA-65 verification (10 R216): the rule names FIPS 204 and prints nothing of it; SHAKE is that of FIPS 202.
PRESUMED (log 4). Numbers are Nat: residues below q, lanes below 2^64, as for SHA-384. -/
namespace Sys2Proof.Machine

/-! ### SHAKE (FIPS 202) -/

/-- Five lanes of 64 bits: a plane of the Keccak state. -/
structure Plane where
  a : Nat
  b : Nat
  c : Nat
  d : Nat
  e : Nat
  deriving DecidableEq, Repr, Inhabited

structure Keccak where
  p : Plane
  q : Plane
  r : Plane
  s : Plane
  t : Plane
  deriving DecidableEq, Repr, Inhabited

def Plane.xor (x y : Plane) : Plane := ⟨x.a ^^^ y.a, x.b ^^^ y.b, x.c ^^^ y.c, x.d ^^^ y.d, x.e ^^^ y.e⟩

def Plane.of (l : List Nat) : Plane := ⟨l.getD 0 0, l.getD 1 0, l.getD 2 0, l.getD 3 0, l.getD 4 0⟩

def Plane.lanes (x : Plane) : List Nat := [x.a, x.b, x.c, x.d, x.e]

def Keccak.zip (f : Plane → Plane → Plane) (x y : Keccak) : Keccak := ⟨f x.p y.p, f x.q y.q, f x.r y.r, f x.s y.s, f x.t y.t⟩

def Keccak.of (l : List Nat) : Keccak :=
  ⟨.of l, .of (l.drop 5), .of (l.drop 10), .of (l.drop 15), .of (l.drop 20)⟩

def Keccak.lanes (k : Keccak) : List Nat := k.p.lanes ++ k.q.lanes ++ k.r.lanes ++ k.s.lanes ++ k.t.lanes

def rotl64 (x n : Nat) : Nat := (x * 2 ^ n % 2 ^ 64) ||| (x / 2 ^ (64 - n))

/-- θ: what each column adds. -/
def Keccak.theta (k : Keccak) : Plane :=
  let c := (((k.p.xor k.q).xor k.r).xor k.s).xor k.t
  ⟨c.e ^^^ rotl64 c.b 1, c.a ^^^ rotl64 c.c 1, c.b ^^^ rotl64 c.d 1, c.c ^^^ rotl64 c.e 1, c.d ^^^ rotl64 c.a 1⟩

/-- ρ and π. -/
def Keccak.rhoPi (k : Keccak) : Keccak :=
  ⟨⟨k.p.a, rotl64 k.q.b 44, rotl64 k.r.c 43, rotl64 k.s.d 21, rotl64 k.t.e 14⟩,
   ⟨rotl64 k.p.d 28, rotl64 k.q.e 20, rotl64 k.r.a 3, rotl64 k.s.b 45, rotl64 k.t.c 61⟩,
   ⟨rotl64 k.p.b 1, rotl64 k.q.c 6, rotl64 k.r.d 25, rotl64 k.s.e 8, rotl64 k.t.a 18⟩,
   ⟨rotl64 k.p.e 27, rotl64 k.q.a 36, rotl64 k.r.b 10, rotl64 k.s.c 15, rotl64 k.t.d 56⟩,
   ⟨rotl64 k.p.c 62, rotl64 k.q.d 55, rotl64 k.r.e 39, rotl64 k.s.a 41, rotl64 k.t.b 2⟩⟩

/-- A lane of χ. -/
def chiLane (x y z : Nat) : Nat := x ^^^ ((2 ^ 64 - 1 - y) &&& z)

/-- χ of a plane. -/
def Plane.chi (x : Plane) : Plane :=
  ⟨chiLane x.a x.b x.c, chiLane x.b x.c x.d, chiLane x.c x.d x.e, chiLane x.d x.e x.a, chiLane x.e x.a x.b⟩

/-- A round of Keccak-f[1600]. -/
def Keccak.round (k : Keccak) (rc : Nat) : Keccak :=
  let d := k.theta
  let x := (Keccak.mk (k.p.xor d) (k.q.xor d) (k.r.xor d) (k.s.xor d) (k.t.xor d)).rhoPi
  ⟨x.p.chi.xor ⟨rc, 0, 0, 0, 0⟩, x.q.chi, x.r.chi, x.s.chi, x.t.chi⟩

def keccakConsts : List Nat :=
  [0x0000000000000001, 0x0000000000008082, 0x800000000000808A, 0x8000000080008000,
   0x000000000000808B, 0x0000000080000001, 0x8000000080008081, 0x8000000000008009,
   0x000000000000008A, 0x0000000000000088, 0x0000000080008009, 0x000000008000000A,
   0x000000008000808B, 0x800000000000008B, 0x8000000000008089, 0x8000000000008003,
   0x8000000000008002, 0x8000000000000080, 0x000000000000800A, 0x800000008000000A,
   0x8000000080008081, 0x8000000000008080, 0x0000000080000001, 0x8000000080008008]

def Keccak.permute (k : Keccak) : Keccak := keccakConsts.foldl Keccak.round k

/-- The padding of SHAKE for blocks of `rate` bytes. -/
def shakePad (rate : Nat) (msg : List Byte) : List Byte :=
  let n := rate - msg.length % rate
  msg ++ (if n = 1 then [0x9F#8] else [0x1F#8] ++ zeros (n - 2) ++ [0x80#8])

def Keccak.absorb (k : Keccak) (block : List Byte) : Keccak :=
  (k.zip Plane.xor (.of ((records 8 block).map leNat))).permute

/-- `n` blocks of output. -/
def Keccak.squeeze (rate : Nat) : Nat → Keccak → List Byte
  | 0, _ => []
  | n + 1, k => (k.lanes.flatMap (toLe 8)).take rate ++ Keccak.squeeze rate n k.permute

/-- The first blocks that SHAKE with blocks of `rate` bytes gives of a message: 168 for SHAKE128, 136 for SHAKE256. -/
def shake (rate blocks : Nat) (msg : List Byte) : List Byte :=
  Keccak.squeeze rate blocks ((records rate (shakePad rate msg)).foldl Keccak.absorb (.of []))

/-- H of FIPS 204, of up to 136 bytes. -/
def hashH (n : Nat) (msg : List Byte) : List Byte := (shake 136 1 msg).take n

/-! ### Polynomials (FIPS 204, sections 7.5 and 7.6) -/

def mlQ : Nat := 8380417

/-- γ1 and 2 γ2. -/
def mlGamma1 : Nat := 2 ^ 19
def mlAlpha : Nat := 523776

abbrev Poly := List Nat

def Poly.add (x y : Poly) : Poly := x.zipWith (fun a b => (a + b) % mlQ) y
def Poly.sub (x y : Poly) : Poly := x.zipWith (fun a b => (a + (mlQ - b)) % mlQ) y
def Poly.mul (x y : Poly) : Poly := x.zipWith (fun a b => a * b % mlQ) y

/-- BitRev8. -/
def bitRev8 (m : Nat) : Nat := ((List.range 8).map fun i => m / 2 ^ i % 2 * 2 ^ (7 - i)).sum

/-- NTT: the butterfly `m` of its layer, and the layers below it, on 2 ^ n coefficients. -/
def ntt : Nat → Nat → Poly → Poly
  | 0, _, w => w
  | n + 1, m, w =>
    let z := 1753 ^ bitRev8 m % mlQ
    let t := (w.drop (2 ^ n)).map fun b => z * b % mlQ
    ntt n (2 * m) (Poly.add (w.take (2 ^ n)) t) ++ ntt n (2 * m + 1) (Poly.sub (w.take (2 ^ n)) t)

/-- NTT⁻¹ without its last factor. -/
def invLayers : Nat → Nat → Poly → Poly
  | 0, _, w => w
  | n + 1, m, w =>
    let z := 1753 ^ (512 - bitRev8 m) % mlQ
    let a := invLayers n (2 * m) (w.take (2 ^ n))
    let b := invLayers n (2 * m + 1) (w.drop (2 ^ n))
    Poly.add a b ++ (Poly.sub a b).map fun x => z * x % mlQ

def Poly.ntt (w : Poly) : Poly := Machine.ntt 8 1 w
def Poly.inv (w : Poly) : Poly := (invLayers 8 1 w).map fun x => x * 8347681 % mlQ

/-- 256 fields of `n` bits, the first in the lowest bits. -/
def coeffs (n : Nat) (b : List Byte) : List Nat :=
  let v := leNat b
  (List.range 256).map fun i => v / 2 ^ (n * i) % 2 ^ n

/-- 4 bits for each coefficient. -/
def packNibbles : Poly → List Byte
  | a :: b :: w => BitVec.ofNat 8 (a + 16 * b) :: packNibbles w
  | _ => []

/-- RejNTTPoly: the residues that a string's groups of three bytes give. -/
def residues : List Byte → List Nat
  | a :: b :: c :: l =>
    let z := a.toNat + 256 * b.toNat + 65536 * (c.toNat % 128)
    if z < mlQ then z :: residues l else residues l
  | _ => []

/-- An entry of ExpandA: row `r`, column `s`. Six blocks give 336 groups. -/
def expandA (rho : List Byte) (r s : Nat) : Poly := (residues (shake 168 6 (rho ++ toLe 1 s ++ toLe 1 r))).take 256

/-- The steps of SampleInBall from coefficient `i` on, `n` of them: a byte above `i` is passed over. -/
def ballSteps (signs : Nat) : List Byte → Nat → Poly → Poly
  | [], _, c => c
  | j :: l, i, c =>
    if 256 ≤ i then c
    else if i < j.toNat then ballSteps signs l i c
    else
      let x := if signs / 2 ^ (i - 207) % 2 = 1 then mlQ - 1 else 1
      ballSteps signs l (i + 1) ((c.set i (c.getD j.toNat 0)).set j.toNat x)

/-- SampleInBall: 49 coefficients of 1 or -1. -/
def sampleInBall (ct : List Byte) : Poly :=
  let b := shake 136 3 ct
  ballSteps (leNat (b.take 8)) (b.drop 8) 207 (List.replicate 256 0)

/-! ### Hints and the verification (FIPS 204, algorithms 3, 8, 21 and 40) -/

/-- UseHint: the high part of a residue, adjusted. -/
def useHint (hint : Bool) (r : Nat) : Nat :=
  let low := r % mlAlpha
  let neg := decide (mlAlpha / 2 < low)
  let high := if neg then r / mlAlpha + 1 else r / mlAlpha
  let top := high * mlAlpha = mlQ - 1
  let r1 := if top then 0 else high
  if !hint then r1 else if !neg && decide (0 < low) && !top then (r1 + 1) % 16 else (r1 + 15) % 16

/-- HintBitUnpack: the positions of each of six polynomials, or none. -/
def hintRows (y : List Byte) : Option (List (List Nat)) :=
  let ends := (y.drop 55).map (·.toNat)
  let starts := 0 :: ends
  let rows := (starts.zip ends).map fun x => ((y.drop x.1).take (x.2 - x.1)).map (·.toNat)
  let rising (l : List Nat) : Bool := (l.zip (l.drop 1)).all fun x => decide (x.1 < x.2)
  if (starts.zip ends).all (fun x => decide (x.1 ≤ x.2)) && ends.all (fun e => decide (e ≤ 55)) && rows.all rising &&
      ((y.take 55).drop (ends.getLastD 0)).all (fun b => b == 0) then some rows else none

/-- The distance of a residue from 0. -/
def mlNorm (x : Nat) : Nat := if x ≤ mlQ / 2 then x else mlQ - x

/-- A row of w1: UseHint of Â z - c t1 2^13. -/
def w1Row (rho : List Byte) (zs : List Poly) (c t1 : Poly) (r : Nat) (hints : List Nat) : List Byte :=
  let az := ((List.range 5).zip zs).foldl (fun acc x => Poly.add acc (Poly.mul (expandA rho r x.1) x.2)) (List.replicate 256 0)
  let w := (Poly.sub az (Poly.mul c (Poly.ntt (t1.map fun x => x * 2 ^ 13)))).inv
  packNibbles ((List.range 256).zipWith (fun i x => useHint (hints.contains i) x) w)

/-- ML-DSA.Verify with the parameters of ML-DSA-65, in its pure form: key, message, context string, signature. -/
def mldsaVerify (key msg ctx sig : List Byte) : Bool :=
  let ct := sig.take 48
  let z := (List.range 5).map fun i => (coeffs 20 (slice sig (48 + 640 * i) 640)).map fun x => (mlGamma1 + (mlQ - x)) % mlQ
  match hintRows (slice sig 3248 61) with
  | none => false
  | some hints =>
    let rho := key.take 32
    let mu := hashH 64 (hashH 64 key ++ [0#8] ++ toLe 1 ctx.length ++ ctx ++ msg)
    let c := (sampleInBall ct).ntt
    let zs := z.map Poly.ntt
    let w1 := (List.range 6).flatMap fun r => w1Row rho zs c (coeffs 10 (slice key (32 + 320 * r) 320)) r (hints.getD r [])
    key.length == 1952 && sig.length == 3309 && decide (ctx.length ≤ 255) &&
      z.all (fun p => p.all fun x => decide (mlNorm x < mlGamma1 - 196)) && hashH 48 (mu ++ w1) == ct

end Sys2Proof.Machine
end

