-- ==== Sys2Proof/Machine/Sha.lean ====
section
/-! DEFINITION. SHA-384, which the manual names for every digest (10 R213-R215). The algorithm is that of
FIPS 180-4, which the manual does not print: PRESUMED (log 5). The constants follow from their generating rules. -/
namespace Sys2Proof.Machine

/-- The largest r with r ^ k ≤ n, built bit by bit from bit `i`. -/
def rootFloor (k n : Nat) : Nat → Nat → Nat
  | 0, r => if (r + 1) ^ k ≤ n then r + 1 else r
  | i + 1, r => now (rootFloor k n i) (if (r + 2 ^ (i + 1)) ^ k ≤ n then r + 2 ^ (i + 1) else r)

/-- True for the primes below 441: no other number from 2 to 20 divides n. -/
def isPrime (n : Nat) : Bool := decide (2 ≤ n) && (List.range 21).all fun d => decide (d < 2) || n == d || n % d != 0

def shaPrimes : List Nat := (List.range 410).filter isPrime

/-- Round constants: the first 64 bits of the fractional parts of the cube roots of the first 80 primes. -/
def shaK : List Nat :=
  shaPrimes.map fun p => rootFloor 3 (p * 2 ^ 192) 66 0 % 2 ^ 64

/-- Start values: the first 64 bits of the fractional parts of the square roots of the ninth to sixteenth primes. -/
def shaH0 : List Nat :=
  ((shaPrimes.drop 8).take 8).map fun p => rootFloor 2 (p * 2 ^ 128) 66 0 % 2 ^ 64

def rotr64 (x n : Nat) : Nat := (x / 2 ^ n) ||| (x * 2 ^ (64 - n) % 2 ^ 64)

def shaSmall0 (x : Nat) : Nat := rotr64 x 1 ^^^ rotr64 x 8 ^^^ (x / 2 ^ 7)
def shaSmall1 (x : Nat) : Nat := rotr64 x 19 ^^^ rotr64 x 61 ^^^ (x / 2 ^ 6)
def shaBig0 (x : Nat) : Nat := rotr64 x 28 ^^^ rotr64 x 34 ^^^ rotr64 x 39
def shaBig1 (x : Nat) : Nat := rotr64 x 14 ^^^ rotr64 x 18 ^^^ rotr64 x 41
def shaCh (x y z : Nat) : Nat := (x &&& y) ^^^ ((2 ^ 64 - 1 - x) &&& z)
def shaMaj (x y z : Nat) : Nat := (x &&& y) ^^^ (x &&& z) ^^^ (y &&& z)

/-- The message schedule, newest word first. -/
def shaSchedule : Nat → List Nat → List Nat
  | 0, w => w
  | n + 1, w =>
    let v := (shaSmall1 (w.getD 1 0) + w.getD 6 0 + shaSmall0 (w.getD 14 0) + w.getD 15 0) % 2 ^ 64
    shaSchedule n (v :: w)

structure ShaRegs where
  a : Nat
  b : Nat
  c : Nat
  d : Nat
  e : Nat
  f : Nat
  g : Nat
  h : Nat
  deriving DecidableEq, Repr

def shaRound (r : ShaRegs) (kw : Nat × Nat) : ShaRegs :=
  let t1 := r.h + shaBig1 r.e + shaCh r.e r.f r.g + kw.1 + kw.2
  let t2 := shaBig0 r.a + shaMaj r.a r.b r.c
  ⟨(t1 + t2) % 2 ^ 64, r.a, r.b, r.c, (r.d + t1) % 2 ^ 64, r.e, r.f, r.g⟩

def shaBlock (ks : List Nat) (r : ShaRegs) (block : List Byte) : ShaRegs :=
  let w16 := ((records 8 block).map beNat).reverse
  let w := (shaSchedule 64 w16).reverse
  let o := (ks.zip w).foldl shaRound r
  ⟨(r.a + o.a) % 2 ^ 64, (r.b + o.b) % 2 ^ 64, (r.c + o.c) % 2 ^ 64, (r.d + o.d) % 2 ^ 64,
   (r.e + o.e) % 2 ^ 64, (r.f + o.f) % 2 ^ 64, (r.g + o.g) % 2 ^ 64, (r.h + o.h) % 2 ^ 64⟩

def shaPad (bs : List Byte) : List Byte :=
  let n := bs.length
  bs ++ [0x80#8] ++ zeros (roundUp (n + 17) 128 - (n + 17)) ++ toBe 16 (8 * n)

/-- SHA-384 of a byte string. -/
def sha384 (bs : List Byte) : Digest :=
  let h := shaH0
  let r0 : ShaRegs := ⟨h.getD 0 0, h.getD 1 0, h.getD 2 0, h.getD 3 0, h.getD 4 0, h.getD 5 0, h.getD 6 0, h.getD 7 0⟩
  let ks := shaK
  let r := (records 128 (shaPad bs)).foldl (shaBlock ks) r0
  BitVec.ofNat 384 (((((r.a * 2 ^ 64 + r.b) * 2 ^ 64 + r.c) * 2 ^ 64 + r.d) * 2 ^ 64 + r.e) * 2 ^ 64 + r.f)

end Sys2Proof.Machine
end

