-- ==== Sys2Proof/Machine/Gwerno.lean ====
section
/-! DEFINITION. Gwerno containers: structure, manifest, digests and signature (10 R213-R218). -/
namespace Sys2Proof.Machine

/-- One section entry of the manifest (10 R214). -/
structure Sect where
  kind : Nat
  off : Nat
  len : Nat
  digest : Digest
  deriving DecidableEq, Repr, Inhabited

/-- A four-letter section kind as the number of its bytes. -/
def kindOf (a b c d : Char) : Nat := a.toNat + 256 * b.toNat + 65536 * c.toNat + 16777216 * d.toNat

/-! Fields of the header (10 R213); the container is its byte list. -/

def hdrMagicOk (c : List Byte) : Bool := slice c 0 4 == [0x47#8, 0x57#8, 0x52#8, 0x4E#8]
def hdrFormatOk (c : List Byte) : Bool := u16At c 4 == 1
def hdrType (c : List Byte) : Nat := u8At c 6
def hdrTotal (c : List Byte) : Nat := u64At c 0x08
def hdrManOff (c : List Byte) : Nat := u64At c 0x10
def hdrManBytes (c : List Byte) : Nat := u32At c 0x18
def hdrKeyOff (c : List Byte) : Nat := u64At c 0x20
def hdrSigOff (c : List Byte) : Nat := u64At c 0x28

def keyBytes : Nat := 1952
def sigBytes : Nat := 3309

def manifest (c : List Byte) : List Byte := slice c (hdrManOff c) (hdrManBytes c)
def manMagicOk (m : List Byte) : Bool := slice m 0 4 == [0x47#8, 0x57#8, 0x4D#8, 0x46#8]
def manType (m : List Byte) : Nat := u8At m 4
def manSections (m : List Byte) : Nat := u16At m 6
def manPublisher (m : List Byte) : Nat := u32At m 8
def manVersion (m : List Byte) : Nat := u32At m 0xC
def manKeyDigest (m : List Byte) : Digest := digestAt m 0x10

/-- The section entries a manifest lists (10 R214). -/
def sections (m : List Byte) : List Sect :=
  (List.range (manSections m)).map fun i =>
    let b := slice m (128 + 80 * i) 80
    { kind := u32At b 0, off := u64At b 8, len := u64At b 0x10, digest := digestAt b 0x20 }

/-- The manifest digest: the identity of an image (10 R215). -/
def manifestDigest (c : List Byte) : Digest := sha384 (manifest c)

/-- The checks of a header that an `image.load` makes before it reads the manifest (10 R221). -/
def headChecks (c : List Byte) (descTotal : Nat) : Bool :=
  hdrMagicOk c && hdrFormatOk c && (IType.ofCode (hdrType c)).isSome && hdrTotal c == descTotal &&
  decide (hdrManOff c + hdrManBytes c ≤ hdrTotal c)

/-- The checks of a manifest that follow (10 R221). -/
def manChecks (c m : List Byte) : Bool :=
  hdrManBytes c == 128 + 80 * manSections m && manMagicOk m && manType m == hdrType c

/-- The checks an `image.load` makes before it computes the digest (10 R221). -/
def loadChecks (c : List Byte) (descTotal : Nat) : Bool := headChecks c descTotal && manChecks c (manifest c)

/-- The parts of a container, as (offset, length) pairs: header, manifest, key, signature, sections. -/
def parts (c : List Byte) : List (Nat × Nat) :=
  [(0, 64), (hdrManOff c, hdrManBytes c), (hdrKeyOff c, keyBytes), (hdrSigOff c, sigBytes)] ++
  (sections (manifest c)).map fun s => (s.off, s.len)

def disjoint (a b : Nat × Nat) : Bool :=
  decide (a.1 + a.2 ≤ b.1) || decide (b.1 + b.2 ≤ a.1) || a.2 == 0 || b.2 == 0

def pairwiseDisjoint : List (Nat × Nat) → Bool
  | [] => true
  | a :: t => t.all (disjoint a) && pairwiseDisjoint t

/-- The container with the bytes of one part set to zero. -/
def blank (c : List Byte) (p : Nat × Nat) : List Byte :=
  c.take p.1 ++ zeros (min p.2 (c.length - p.1)) ++ c.drop (p.1 + p.2)

/-- Step 1 of verification: the container structure of 10 R213 and R214. -/
def structureOk (c : List Byte) : Bool :=
  let m := manifest c
  let ps := parts c
  loadChecks c c.length && zeroAt c 7 1 && zeroAt c 0x1C 4 && zeroAt c 0x30 16 &&
  decide (1 ≤ manSections m) && decide (manSections m ≤ 64) &&
  zeroAt m 5 1 && zeroAt m 0x40 64 &&
  ps.all (fun p => p.1 % 64 == 0 && decide (p.1 + p.2 ≤ c.length)) && pairwiseDisjoint ps &&
  (List.range (manSections m)).all (fun i => zeroAt m (128 + 80 * i + 4) 4 && zeroAt m (128 + 80 * i + 0x18) 8 &&
    (slice m (128 + 80 * i) 4).all fun b => decide (b.toNat < 0x80)) &&
  allZero (ps.foldl blank c)

/-- "GWERNO01", the context string of the signature (10 R216). -/
def gwernoContext : List Byte := [0x47#8, 0x57#8, 0x45#8, 0x52#8, 0x4E#8, 0x4F#8, 0x30#8, 0x31#8]

/-- The keyslot class a type requires (10 R218): 0 KS_FIRMWARE, 1 KS_CONTENT. -/
def requiredClass (t : Nat) : Nat := if t = 0x10 then 0 else 1

/-- The first KS_ACTIVE slot of the required class whose digest is the image's (10 R218). -/
def matchKeyslot (slots : List Keyslot) (cls : Nat) (d : Digest) : Option Nat :=
  slots.findIdx? fun k => decide (k.state = .active) && k.cls == cls && k.digest == d

/-- Signature checking (10 R218). -/
def signatureOk (slots : List Keyslot) (c : List Byte) : Bool :=
  let m := manifest c
  let key := slice c (hdrKeyOff c) keyBytes
  manKeyDigest m == sha384 key && (matchKeyslot slots (requiredClass (hdrType c)) (manKeyDigest m)).isSome &&
  mldsaVerify key m gwernoContext (slice c (hdrSigOff c) sigBytes)

/-- Every section's digest matches (10 R219, step 3). -/
def digestsOk (c : List Byte) : Bool :=
  (sections (manifest c)).all fun s => sha384 (slice c s.off s.len) == s.digest

/-- The bytes of the first section of a kind. -/
def sectOf (c : List Byte) (kind : Nat) : List Byte :=
  match (sections (manifest c)).find? fun s => s.kind == kind with
  | some s => slice c s.off s.len
  | none => []

/-- Where the first section of a kind begins. -/
def sectOff (c : List Byte) (kind : Nat) : Nat :=
  (((sections (manifest c)).find? fun s => s.kind == kind).map (·.off)).getD 0

/-- Bytes with some replaced from an offset on; those that reach beyond the end change nothing. -/
def patch (c : List Byte) (off : Nat) (b : List Byte) : List Byte :=
  if off + b.length ≤ c.length then c.take off ++ b ++ c.drop (off + b.length) else c

/-- The container holds exactly one section of each kind in `must`, at most one of `may`, and no other. -/
def sectionsExactly (c : List Byte) (must : List Nat) : Bool :=
  let ks := (sections (manifest c)).map (·.kind)
  ks.length == must.length && must.all fun k => ks.count k == 1

end Sys2Proof.Machine
end

