-- ==== Sys2Proof/Machine/Hdi.lean ====
section
/-! DEFINITION. Head images: sections, row records, the row map, and the logit of a row (03 R53-R58, 02 R38-R44). -/
namespace Sys2Proof.Machine

def kHead : Nat := kindOf 'H' 'E' 'A' 'D'
def kRows : Nat := kindOf 'R' 'O' 'W' 'S'
def kRmap : Nat := kindOf 'R' 'M' 'A' 'P'

/-- The HEAD section (03 R53). -/
structure Head where
  rowsN : Nat
  vocab : Nat
  hidden : Nat
  wfmt : Nat
  hfmt : Nat
  flags : Nat
  stride : Nat
  tki : Digest
  deriving DecidableEq, Repr, Inhabited

def headOf (c : List Byte) : Head :=
  let h := sectOf c kHead
  { rowsN := u32At h 0, vocab := u32At h 4, hidden := u32At h 8, wfmt := u8At h 0xC, hfmt := u8At h 0xD
    flags := u16At h 0xE, stride := u32At h 0x10, tki := digestAt h 0x18 }

def Head.hasMap (h : Head) : Bool := bitOf h.flags 0

/-- Scale bytes of a row record (03 R54). -/
def Head.scaleBytes (h : Head) : Nat := if isMxFmt h.wfmt then h.hidden / 32 else 0

/-- The STRIDE that R54 requires. -/
def Head.strideOf (h : Head) : Nat := roundUp (elemBytes h.wfmt h.hidden + h.scaleBytes) 64

/-- The row map's token numbers, when the image has one (03 R55). -/
def rowMapOf (c : List Byte) : Option (List Nat) :=
  if (headOf c).hasMap then some (words32 (sectOf c kRmap)) else none

def strictlyRising : List Nat → Bool
  | [] => true
  | [_] => true
  | a :: b :: t => decide (a < b) && strictlyRising (b :: t)

/-- The decoded weight elements of a row record (02 R34-R36, 03 R54). -/
def rowElems (h : Head) (rec : List Byte) : List Fp :=
  let es := (elemCodes h.wfmt h.hidden rec).map (decodeElem h.wfmt)
  if isMxFmt h.wfmt then
    let sc := (slice rec (elemBytes h.wfmt h.hidden) h.scaleBytes).map (·.toNat)
    es.zipIdx.map fun p => p.1.scale (sc.getD (p.2 / 32) 127)
  else es

/-- The weights of a row are finite (02 R38). -/
def rowFinite (h : Head) (rec : List Byte) : Bool :=
  (rowElems h rec).all Fp.isFinite &&
  (!isMxFmt h.wfmt || (slice rec (elemBytes h.wfmt h.hidden) h.scaleBytes).all fun b => b != 0xFF#8)

/-- The type checks of a head image (10 R219 step 4; 03 R53, R54, R55; 02 R38). -/
def hdiOk (c : List Byte) : Bool :=
  let h := headOf c
  let hs := sectOf c kHead
  let rows := sectOf c kRows
  sectionsExactly c (if h.hasMap then [kHead, kRows, kRmap] else [kHead, kRows]) &&
  hs.length == 128 && decide (1 ≤ h.rowsN) && decide (h.rowsN ≤ 2 ^ 20) &&
  decide (h.rowsN ≤ h.vocab) && decide (h.vocab ≤ 2 ^ 20) &&
  decide (32 ≤ h.hidden) && decide (h.hidden ≤ 32768) && h.hidden % 32 == 0 &&
  isWeightFmt h.wfmt && isHiddenFmt h.hfmt && h.flags / 2 == 0 && zeroAt hs 0x14 4 && zeroAt hs 0x48 56 &&
  h.stride == h.strideOf && rows.length == h.rowsN * h.stride &&
  (match rowMapOf c with
   | none => h.rowsN == h.vocab
   | some m => (sectOf c kRmap).length == 4 * h.rowsN && strictlyRising m && m.all fun t => decide (t < h.vocab)) &&
  (records h.stride rows).all (rowFinite h)

/-- The shard of a token (03 R67). -/
def shardOf (s t : Nat) : Nat := t / 32 % s

/-- The tokens that have a row, in token order (03 R55). -/
def rowTokens (c : List Byte) : List Nat := (rowMapOf c).getD (List.range (headOf c).rowsN)

/-- Rows this shard holds (03 R64, R67). -/
def rowsHeld (c : List Byte) (shards shard : Nat) : Nat :=
  ((rowTokens c).filter fun t => shardOf shards t == shard).length

/-- The place of t in a rising list of tokens. -/
def indexIn (ts : List Nat) (t : Nat) : Nat := (ts.filter fun x => decide (x < t)).length

/-- The half that holds a token's row under HP_BOTH, from its local row index (03 R57). -/
def rowHalf (shardTokens : List Nat) (t : Nat) : Half :=
  if indexIn shardTokens t % 256 < 128 then .west else .east

/-- The record index of a token's row (03 R55). -/
def rowIndex (c : List Byte) (t : Nat) : Option Nat :=
  match rowMapOf c with
  | none => if t < (headOf c).rowsN then some t else none
  | some m => m.idxOf? t

/-- The decoded hidden vector of a position. -/
def hiddenElems (h : Head) (pos : List Byte) : List Fp :=
  (elemCodes h.hfmt h.hidden pos).map (decodeElem h.hfmt)

/-- The logits of tokens: each the exact dot product, rounded once (02 R41, R44). -/
def rowLogits (c : List Byte) (pos : List Byte) (ts : List Nat) : List (Nat × U32 × Bool) :=
  let h := headOf c
  let rows := sectOf c kRows
  let hid := hiddenElems h pos
  ts.map fun t =>
    match rowIndex c t with
    | none => (t, 0#32, false)
    | some i => (t, rneFp32 (dotUnits hid (rowElems h (slice rows (i * h.stride) h.stride))))

/-- Bytes of a shard's rows: the size of a head in the head region (03 R59). -/
def headRegionBytes (c : List Byte) (shards shard : Nat) : Nat := rowsHeld c shards shard * (headOf c).stride

end Sys2Proof.Machine
end

