-- ==== Sys2Proof/Machine/Utf8.lean ====
section
/-! DEFINITION. UTF-8 decoding with maximal subparts of ill-formed sequences (07 R159 step 4, 08 R173). -/
namespace Sys2Proof.Machine

/-- A decoded character: a code point, or an ill-formed subpart with its raw bytes. -/
inductive Ch where
  | cp (c : Nat)
  | bad (raw : List Byte)
  deriving DecidableEq, Repr, Inhabited

/-- Length of the sequence a lead byte starts; 0 when the byte starts none. -/
def leadLen (b : Nat) : Nat :=
  if b < 0x80 then 1
  else if 0xC2 ≤ b && b ≤ 0xDF then 2
  else if 0xE0 ≤ b && b ≤ 0xEF then 3
  else if 0xF0 ≤ b && b ≤ 0xF4 then 4
  else 0

/-- Whether byte b may follow the pending prefix (well-formed UTF-8 byte sequences of the Unicode Standard). -/
def contOk (pend : List Byte) (b : Nat) : Bool :=
  match pend with
  | [l] =>
    if l.toNat = 0xE0 then 0xA0 ≤ b && b ≤ 0xBF
    else if l.toNat = 0xED then 0x80 ≤ b && b ≤ 0x9F
    else if l.toNat = 0xF0 then 0x90 ≤ b && b ≤ 0xBF
    else if l.toNat = 0xF4 then 0x80 ≤ b && b ≤ 0x8F
    else 0x80 ≤ b && b ≤ 0xBF
  | _ => 0x80 ≤ b && b ≤ 0xBF

/-- The code point of a well-formed sequence. -/
def codePoint (bs : List Byte) : Nat :=
  match bs with
  | [a] => a.toNat
  | [a, b] => (a.toNat % 32) * 64 + b.toNat % 64
  | [a, b, c] => (a.toNat % 16) * 4096 + (b.toNat % 64) * 64 + c.toNat % 64
  | [a, b, c, d] => (a.toNat % 8) * 262144 + (b.toNat % 64) * 4096 + (c.toNat % 64) * 64 + d.toNat % 64
  | _ => 0

/-- A byte that starts a sequence. -/
def utf8Start (b : Byte) : List Ch × List Byte :=
  if leadLen b.toNat = 1 then ([.cp b.toNat], [])
  else if leadLen b.toNat = 0 then ([.bad [b]], [])
  else ([], [b])

/-- One byte after a pending prefix: the characters it resolves, and the new pending prefix. -/
def utf8Step (pend : List Byte) (b : Byte) : List Ch × List Byte :=
  match pend with
  | [] => utf8Start b
  | l :: _ =>
    if contOk pend b.toNat then
      let p := pend ++ [b]
      if p.length = leadLen l.toNat then ([.cp (codePoint p)], []) else ([], p)
    else
      let r := utf8Start b
      (.bad pend :: r.1, r.2)

/-- Decode from a pending prefix: the characters, and the bytes still pending. -/
def utf8Decode (pend : List Byte) : List Byte → List Ch × List Byte
  | [] => ([], pend)
  | b :: bs =>
    let r := utf8Step pend b
    let q := utf8Decode r.2 bs
    (r.1 ++ q.1, q.2)

/-- Decode a whole segment: a trailing incomplete sequence is one ill-formed subpart. -/
def utf8DecodeAll (bs : List Byte) : List Ch :=
  let r := utf8Decode [] bs
  if r.2.isEmpty then r.1 else r.1 ++ [.bad r.2]

/-- The bytes of a code point. -/
def utf8Encode (c : Nat) : List Byte :=
  if c < 0x80 then [BitVec.ofNat 8 c]
  else if c < 0x800 then [BitVec.ofNat 8 (0xC0 + c / 64), BitVec.ofNat 8 (0x80 + c % 64)]
  else if c < 0x10000 then
    [BitVec.ofNat 8 (0xE0 + c / 4096), BitVec.ofNat 8 (0x80 + c / 64 % 64), BitVec.ofNat 8 (0x80 + c % 64)]
  else
    [BitVec.ofNat 8 (0xF0 + c / 262144), BitVec.ofNat 8 (0x80 + c / 4096 % 64),
     BitVec.ofNat 8 (0x80 + c / 64 % 64), BitVec.ofNat 8 (0x80 + c % 64)]

def Ch.bytes : Ch → List Byte
  | .cp c => utf8Encode c
  | .bad raw => raw

def Ch.isCp : Ch → Bool
  | .cp _ => true
  | .bad _ => false

/-- Well-formed UTF-8 that does not hold U+FFFD (08 R172). -/
def stopTextOk (bs : List Byte) : Bool := (utf8DecodeAll bs).all fun c => c.isCp && c != .cp 0xFFFD

end Sys2Proof.Machine
end

