-- ==== Sys2Proof/Machine/Tki.lean ====
section
/-! DEFINITION. Tokeniser images and the reference tokeniser (07 R149-R161, R165). -/
namespace Sys2Proof.Machine

def kThdr : Nat := kindOf 'T' 'H' 'D' 'R'
def kBmap : Nat := kindOf 'B' 'M' 'A' 'P'
def kMerg : Nat := kindOf 'M' 'E' 'R' 'G'
def kVstr : Nat := kindOf 'V' 'S' 'T' 'R'
def kSpec : Nat := kindOf 'S' 'P' 'E' 'C'
def kClas : Nat := kindOf 'C' 'L' 'A' 'S'
def kSplt : Nat := kindOf 'S' 'P' 'L' 'T'
def kNorm : Nat := kindOf 'N' 'O' 'R' 'M'

structure Merge where
  left : Nat
  right : Nat
  result : Nat
  deriving DecidableEq, Repr, Inhabited

structure Special where
  token : Nat
  flags : Nat
  deriving DecidableEq, Repr, Inhabited

def Special.text (s : Special) : Bool := bitOf s.flags 0
def Special.eos (s : Special) : Bool := bitOf s.flags 1

structure ClassRange where
  first : Nat
  last : Nat
  cls : Nat
  deriving DecidableEq, Repr, Inhabited

structure SplitIns where
  classes : Nat
  state : Nat
  op : Nat
  next : Nat
  deriving DecidableEq, Repr, Inhabited

/-- One decomposition: a code point and its full canonical decomposition, as a place in the pool (07 R156). -/
structure Decomp where
  cp : Nat
  off : Nat
  len : Nat
  deriving DecidableEq, Repr, Inhabited

structure Norm where
  ccc : List ClassRange
  dec : List Decomp
  pool : List Nat
  comp : List Merge
  deriving DecidableEq, Repr, Inhabited

/-- A tokeniser image's tables (07 R149-R156). -/
structure Tki where
  vocab : Nat
  mergesN : Nat
  specialsN : Nat
  eos : Nat
  classesN : Nat
  splitStates : Nat
  flags : Nat
  splitN : Nat
  bmap : List Nat
  offs : List Nat
  area : List Byte
  merges : List Merge
  specials : List Special
  classes : List ClassRange
  split : List SplitIns
  norm : Option Norm
  /-- What searches of the merges and of the text specials read. -/
  mergeView : FView
  specView : FView
  deriving DecidableEq, Repr, Inhabited

def mergeOf (r : List Byte) : Merge := ⟨u32At r 0, u32At r 4, u32At r 8⟩

def normOf (b : List Byte) : Norm :=
  let cccN := u32At b 0
  let decN := u32At b 4
  let poolN := u32At b 8
  let compN := u32At b 0xC
  let o1 := 0x20 + 12 * cccN
  let o2 := o1 + 12 * decN
  let o3 := o2 + 4 * poolN
  { ccc := (records 12 (slice b 0x20 (12 * cccN))).map fun r => ⟨u32At r 0, u32At r 4, u8At r 8⟩
    dec := (records 12 (slice b o1 (12 * decN))).map fun r => ⟨u32At r 0, u32At r 4, u8At r 8⟩
    pool := words32 (slice b o2 (4 * poolN))
    comp := (records 12 (slice b o3 (12 * compN))).map mergeOf }

/-- The string of a token in the VSTR section (07 R150). -/
def strIn (offs : List Nat) (area : List Byte) (t : Nat) : List Byte :=
  slice area (offs.getD t 0) (offs.getD (t + 1) 0 - offs.getD t 0)

/-- The finder records of merges: LEFT and RIGHT in two units, every care bit 1, priority the rank (07 R151). -/
def mergeRecs (ms : List Merge) : List FRec :=
  ms.zipIdx.map fun m => ⟨[(m.1.left % 2 ^ 20, 2 ^ 64 - 1), (m.1.right % 2 ^ 20, 2 ^ 64 - 1)], m.2, m.1.result % 2 ^ 20⟩

/-- The units of 28 bytes: four in unit 0, eight in each of the others (07 R152). -/
def textUnits (b : List Byte) : List Nat :=
  [leNat (slice b 0 4), leNat (slice b 4 8), leNat (slice b 12 8), leNat (slice b 20 8)]

/-- The key of the first 28 bytes of a string, and a care bit for each bit of the bytes it has (07 R152). -/
def textKey (b : List Byte) : List (Nat × Nat) :=
  (textUnits b).zip (textUnits (List.replicate (min b.length 28) 0xFF#8))

/-- The finder records of text specials: priority 128 less the length (07 R152). -/
def specRecs (ss : List (Nat × List Byte)) : List FRec := ss.map fun p => ⟨textKey p.2, 128 - p.2.length, p.1⟩

def specialsOf (c : List Byte) : List Special := (records 8 (sectOf c kSpec)).map fun r => ⟨u32At r 0, u16At r 4⟩

def tkiOf (c : List Byte) : Tki :=
  let h := sectOf c kThdr
  let vs := sectOf c kVstr
  let vocab := u32At h 0
  let st := u16At h 0x14
  let offs := words32 (slice vs 0 (4 * (vocab + 1)))
  let area := vs.drop (4 * (vocab + 1))
  { vocab := vocab, mergesN := u32At h 4, specialsN := u32At h 8, eos := u32At h 0xC, classesN := u32At h 0x10
    splitStates := if st = 0 then 65536 else st
    flags := u16At h 0x16, splitN := u32At h 0x18
    bmap := words32 (sectOf c kBmap)
    offs := offs
    area := area
    merges := (records 12 (sectOf c kMerg)).map mergeOf
    specials := specialsOf c
    classes := (records 16 (sectOf c kClas)).map fun r => ⟨u32At r 0, u32At r 4, u8At r 8⟩
    split := (records 16 (sectOf c kSplt)).map fun r => ⟨u64At r 0, u16At r 8, u8At r 0xA, u16At r 0xC⟩
    norm := if bitOf (u16At h 0x16) 0 then some (normOf (sectOf c kNorm)) else none
    mergeView := viewOf 2 (mergeRecs ((records 12 (sectOf c kMerg)).map mergeOf))
    specView := viewOf 4 (specRecs (((specialsOf c).filter Special.text).map fun s => (s.token, strIn offs area s.token))) }

/-- The byte string of a token (07 R150). -/
def Tki.str (k : Tki) (t : Nat) : List Byte := strIn k.offs k.area t

def Tki.isSpecial (k : Tki) (t : Nat) : Bool := k.specials.any fun s => s.token == t

/-! ### Verification (07 R149, R158) -/

def risingOffs : List Nat → Bool
  | [] => true
  | [_] => true
  | a :: b :: t => decide (a ≤ b) && decide (b - a ≤ 128) && risingOffs (b :: t)

def nodupNat : List Nat → Bool
  | [] => true
  | a :: t => !(t.contains a) && nodupNat t

def rangesOk : List ClassRange → Bool
  | [] => true
  | [r] => decide (r.first ≤ r.last) && decide (r.last ≤ 0x10FFFF)
  | r :: s :: t => decide (r.first ≤ r.last) && decide (r.last < s.first) && rangesOk (s :: t)

def risingLe : List Nat → Bool
  | [] => true
  | [_] => true
  | a :: b :: t => decide (a ≤ b) && risingLe (b :: t)

/-- Each merge builds on base tokens or results of lower rank (07 R158). -/
def mergeChainOk (base : List Nat) : List Merge → List Nat → Bool
  | [], _ => true
  | m :: ms, earlier =>
    (base.contains m.left || earlier.contains m.left) && (base.contains m.right || earlier.contains m.right) &&
    mergeChainOk base ms (m.result :: earlier)

def Tki.mergesOk (k : Tki) : Bool :=
  let res := k.merges.map (·.result)
  k.merges.all (fun m => decide (m.left < k.vocab) && decide (m.right < k.vocab) && decide (m.result < k.vocab) &&
    !(k.bmap.contains m.result) && !(k.isSpecial m.result) && k.str m.result == k.str m.left ++ k.str m.right) &&
  nodupNat (k.merges.map fun m => m.left * 2 ^ 20 + m.right) && nodupNat res && mergeChainOk k.bmap k.merges []

def nodupBytes : List (List Byte) → Bool
  | [] => true
  | a :: t => !(t.contains a) && nodupBytes t

def Tki.specialsOk (k : Tki) : Bool :=
  let res := k.merges.map (·.result)
  let eoss := k.specials.filter Special.eos
  nodupNat (k.specials.map (·.token)) &&
  k.specials.all (fun s => decide (s.token < k.vocab) && !(k.bmap.contains s.token) && !(res.contains s.token) &&
    decide (s.flags < 4) && (!s.text || !(k.str s.token).isEmpty)) &&
  eoss.length == 1 && eoss.all (fun s => s.token == k.eos) &&
  nodupBytes ((k.specials.filter Special.text).map fun s => k.str s.token)

def Tki.splitOk (k : Tki) : Bool :=
  risingLe (k.split.map (·.state)) &&
  k.split.all (fun i => decide (i.state < k.splitStates) && decide (i.next < k.splitStates) &&
    decide (1 ≤ i.op) && decide (i.op ≤ 3)) &&
  (List.range k.splitStates).all fun q =>
    ((k.split.filter fun i => i.state == q).foldl (fun m i => m ||| i.classes) 0) == 2 ^ 64 - 1

def Norm.decOf (n : Norm) (c : Nat) : Option (List Nat) :=
  (n.dec.find? fun d => d.cp == c).map fun d => (n.pool.drop d.off).take d.len

/-- The form of the normalisation section (07 R158). Two decompositions of one code point are refused: the table rises strictly.
DESIGN CHOICE (log 109), unsafe. -/
def Norm.ok (n : Norm) (b : List Byte) : Bool :=
  b.length == 0x20 + 12 * n.ccc.length + 12 * n.dec.length + 4 * n.pool.length + 12 * n.comp.length &&
  u32At b 0 == n.ccc.length && u32At b 4 == n.dec.length && u32At b 8 == n.pool.length && u32At b 0xC == n.comp.length &&
  zeroAt b 0x10 16 &&
  (List.range n.ccc.length).all (fun i => zeroAt b (0x20 + 12 * i + 9) 3) &&
  (List.range n.dec.length).all (fun i => zeroAt b (0x20 + 12 * n.ccc.length + 12 * i + 9) 3) &&
  rangesOk n.ccc && strictlyRising (n.dec.map (·.cp)) &&
  n.dec.all (fun d => decide (d.cp ≤ 0x10FFFF) && decide (2 ≤ d.len) && decide (d.len ≤ 18) &&
    decide (d.off + d.len ≤ n.pool.length)) &&
  risingLe (n.comp.map (·.left)) && n.pool.all (fun c => (n.decOf c).isNone)

/-- The type checks of a tokeniser image (10 R219 step 4; 07 R149, R158). -/
def tkiOk (c : List Byte) : Bool :=
  let k := tkiOf c
  let h := sectOf c kThdr
  let must := [kThdr, kBmap, kMerg, kVstr, kSpec, kClas, kSplt]
  sectionsExactly c (if bitOf k.flags 0 then must ++ [kNorm] else must) &&
  h.length == 128 && decide (257 ≤ k.vocab) && decide (k.vocab ≤ 2 ^ 20) && decide (k.mergesN ≤ 2 ^ 20) &&
  decide (1 ≤ k.specialsN) && decide (k.specialsN ≤ 4096) && decide (k.classesN ≤ 65536) &&
  k.flags / 2 == 0 && decide (1 ≤ k.splitN) && decide (k.splitN ≤ 2 ^ 20) && zeroAt h 0x20 96 &&
  (sectOf c kBmap).length == 1024 && (sectOf c kMerg).length == 12 * k.mergesN &&
  (sectOf c kSpec).length == 8 * k.specialsN && (sectOf c kClas).length == 16 * k.classesN &&
  (sectOf c kSplt).length == 16 * k.splitN && k.offs.length == k.vocab + 1 &&
  k.offs.getD k.vocab 0 == k.area.length && risingOffs k.offs &&
  nodupNat k.bmap && k.bmap.all (fun t => decide (t < k.vocab)) &&
  (List.range 256).all (fun b => k.str (k.bmap.getD b 0) == [BitVec.ofNat 8 b]) &&
  k.mergesOk && k.specialsOk && (records 8 (sectOf c kSpec)).all (fun r => zeroAt r 6 2) &&
  rangesOk k.classes && k.classes.all (fun r => decide (r.cls ≤ 62)) &&
  (records 16 (sectOf c kClas)).all (fun r => zeroAt r 9 7) &&
  k.splitOk && (records 16 (sectOf c kSplt)).all (fun r => zeroAt r 0xB 1 && zeroAt r 0xE 2) &&
  (match k.norm with
   | none => true
   | some n => n.ok (sectOf c kNorm))

/-! ### Normalisation (07 R157) -/

def Norm.cccOf (n : Norm) (c : Nat) : Nat :=
  match n.ccc.find? fun r => decide (r.first ≤ c) && decide (c ≤ r.last) with
  | some r => r.cls
  | none => 0

/-- Decomposition of one code point: its DEC record, or the Hangul algorithm. -/
def Norm.decompose (n : Norm) (c : Nat) : List Nat :=
  match n.decOf c with
  | some d => d
  | none =>
    if 0xAC00 ≤ c && c ≤ 0xD7A3 then
      let s := c - 0xAC00
      let lv := [0x1100 + s / 588, 0x1161 + s % 588 / 28]
      if s % 28 = 0 then lv else lv ++ [0x11A7 + s % 28]
    else [c]

/-- Insert a mark into a run of marks of rising class, after those of its own class. -/
def Norm.insertMark (n : Norm) (c : Nat) : List Nat → List Nat
  | [] => [c]
  | x :: xs => if n.cccOf c < n.cccOf x then c :: x :: xs else x :: n.insertMark c xs

/-- Canonical order: each maximal run of marks sorted by class, stable. `run` is the current run, sorted. -/
def Norm.reorder (n : Norm) : List Nat → List Nat → List Nat
  | [], run => run
  | c :: cs, run =>
    if n.cccOf c = 0 then run ++ c :: n.reorder cs []
    else n.reorder cs (n.insertMark c run)

/-- The primary composite of a pair: COMP, or the Hangul algorithm. -/
def Norm.pair (n : Norm) (a b : Nat) : Option Nat :=
  match n.comp.find? fun m => m.left == a && m.right == b with
  | some m => some m.result
  | none =>
    if 0x1100 ≤ a && a ≤ 0x1112 && 0x1161 ≤ b && b ≤ 0x1175 then
      some (0xAC00 + ((a - 0x1100) * 21 + (b - 0x1161)) * 28)
    else if 0xAC00 ≤ a && a ≤ 0xD7A3 && (a - 0xAC00) % 28 == 0 && 0x11A8 ≤ b && b ≤ 0x11C2 then
      some (a + (b - 0x11A7))
    else none

/-- Canonical composition: `st` the last starter, `mid` the characters kept after it, `lastCcc` the class of the
last one kept (0 when none). -/
def Norm.compose (n : Norm) : List Nat → Option Nat → List Nat → Nat → List Nat
  | [], none, mid, _ => mid
  | [], some s, mid, _ => s :: mid
  | c :: cs, none, mid, _ =>
    if n.cccOf c = 0 then mid ++ n.compose cs (some c) [] 0 else n.compose cs none (mid ++ [c]) 0
  | c :: cs, some s, mid, last =>
    let cc := n.cccOf c
    let blocked := !mid.isEmpty && decide (cc ≤ last)
    match (if blocked then none else n.pair s c) with
    | some r => n.compose cs (some r) mid last
    | none =>
      if cc = 0 then s :: mid ++ n.compose cs (some c) [] 0
      else n.compose cs (some s) (mid ++ [c]) cc

/-- NFC of a run of code points by the image's tables (07 R157). -/
def Norm.nfc (n : Norm) (cs : List Nat) : List Nat :=
  n.compose (n.reorder (cs.flatMap n.decompose) []) none [] 0

/-- A normalisation boundary (07 R157). -/
def Norm.boundary (n : Norm) : Ch → Bool
  | .bad _ => true
  | .cp c => n.cccOf c == 0 && (n.decOf c).isNone && !(n.comp.any fun m => m.right == c) &&
    !(0x1161 ≤ c && c ≤ 0x1175) && !(0x11A8 ≤ c && c ≤ 0x11C2)

/-- Nothing that follows can change this boundary character: it composes with nothing after it. -/
def Norm.settled (n : Norm) : Ch → Bool
  | .bad _ => true
  | .cp c => !(n.comp.any fun m => m.left == c) && !(0x1100 ≤ c && c ≤ 0x1112) &&
    !(0xAC00 ≤ c && c ≤ 0xD7A3 && (c - 0xAC00) % 28 == 0)

def cpsOf (cs : List Ch) : List Nat := cs.filterMap fun
  | .cp c => some c
  | .bad _ => none

/-- Normalise characters: runs between boundaries are normalised alone. `run` is the open run.
The second component is what the end of the text still leaves open. -/
def Norm.run (n : Norm) : List Ch → List Ch → List Ch × List Ch
  | [], run => ([], run)
  | ch :: cs, run =>
    if n.boundary ch then
      let r := n.run cs (match ch with | .bad _ => [] | .cp _ => [ch])
      ((n.nfc (cpsOf run)).map Ch.cp ++ (match ch with | .bad _ => [ch] | .cp _ => []) ++ r.1, r.2)
    else n.run cs (run ++ [ch])

/-- Normalised characters of a text: all of them when its segment has ended, otherwise those that nothing can
change any more (07 R165; log 24). -/
def Tki.normalise (k : Tki) (ended : Bool) (cs : List Ch) : List Ch :=
  match k.norm with
  | none => cs
  | some n =>
    let r := n.run cs []
    if ended then r.1 ++ (n.nfc (cpsOf r.2)).map Ch.cp
    else
      match r.2 with
      | [c] => if n.boundary c && n.settled c then r.1 ++ [c] else r.1
      | _ => r.1

/-! ### Splitting (07 R155) -/

def Tki.clsOf (k : Tki) : Ch → Nat
  | .bad _ => 63
  | .cp c =>
    match k.classes.find? fun r => decide (r.first ≤ c) && decide (c ≤ r.last) with
    | some r => r.cls
    | none => 0

def bytesOf (cs : List Ch) : List Byte := cs.flatMap Ch.bytes

/-- Split characters into pretokens: the pretokens that ended, and the open one (07 R155). SP_CUT on one character cuts, as the
rule's procedure does; the sentence below the procedure has it act as SP_TAKE. DESIGN CHOICE (log 108), unsafe. -/
def Tki.splitChars (k : Tki) : List Ch → Nat → List Ch → List (List Ch) × List Ch
  | [], _, cur => ([], cur)
  | ch :: cs, state, cur =>
    let ins := (k.split.find? fun i => i.state == state && bitOf i.classes (k.clsOf ch)).getD ⟨0, 0, 1, 0⟩
    if ins.op = 1 || cur.isEmpty || (ins.op = 3 && cur.length < 2) then
      if (bytesOf cur).length + ch.bytes.length > 4096 then
        let r := k.splitChars cs ins.next [ch]
        (cur :: r.1, r.2)
      else k.splitChars cs ins.next (cur ++ [ch])
    else if ins.op = 2 then
      let r := k.splitChars cs ins.next [ch]
      (cur :: r.1, r.2)
    else
      let r := k.splitChars cs ins.next (cur.drop (cur.length - 1) ++ [ch])
      (cur.take (cur.length - 1) :: r.1, r.2)

/-! ### BPE (07 R160) -/

/-- The merge of a pair: its rank and its token, by a FIRST search (07 R151). -/
def Tki.mergeAt (k : Tki) (a b : Nat) : Option (Nat × Nat) :=
  (k.mergeView.first [2 ^ 64 - 1, 2 ^ 64 - 1] [a, b]).map fun e => (e.prio, e.result % 2 ^ 20)

/-- The merge that comes next: the lowest rank among the adjacent pairs, leftmost first. -/
structure Best2 where
  rank : Nat
  place : Nat
  token : Nat
  deriving DecidableEq, Repr, Inhabited

def Tki.bestPair (k : Tki) : List Nat → Nat → Option Best2 → Option Best2
  | a :: b :: t, i, best =>
    let best' :=
      match k.mergeAt a b with
      | none => best
      | some (r, m) =>
        match best with
        | none => some ⟨r, i, m⟩
        | some x => if r < x.rank then some ⟨r, i, m⟩ else best
    k.bestPair (b :: t) (i + 1) best'
  | _, _, best => best

/-- BPE with at most `fuel` merges; a pretoken of n bytes takes fewer than n. -/
def Tki.bpeLoop (k : Tki) : Nat → List Nat → List Nat
  | 0, toks => toks
  | fuel + 1, toks =>
    match k.bestPair toks 0 none with
    | none => toks
    | some x => k.bpeLoop fuel (toks.take x.place ++ [x.token] ++ toks.drop (x.place + 2))

def Tki.bpe (k : Tki) (b : List Byte) : List Nat :=
  k.bpeLoop b.length (b.map fun x => k.bmap.getD x.toNat 0)

/-! ### The reference procedure (07 R159) and what is final (R165) -/

/-- Intake of a route in SEQ order: bytes with their SPECIAL flags, or token numbers. -/
inductive Intake where
  | text (special : Bool) (bytes : List Byte)
  | toks (ts : List Nat)
  deriving DecidableEq, Repr, Inhabited

def Tki.textSpecials (k : Tki) : List (Nat × List Byte) :=
  (k.specials.filter Special.text).map fun s => (s.token, k.str s.token)

def startsWith (pre s : List Byte) : Bool := s.take pre.length == pre

/-- The longest text special that starts here with every byte marked (07 R159 step 2): the candidates of an ALL search over
the next 28 bytes, longest first, the first one whose whole string stands there (07 R152). A longer special whose bytes are
not all marked does not shut out a shorter one whose bytes are. DESIGN CHOICE (log 110), unsafe. -/
def Tki.matchSpecial (k : Tki) (s : List (Bool × Byte)) : Option (Nat × Nat) :=
  let marked := ((s.takeWhile fun p => p.1).map (·.2))
  ((k.specView.all (List.replicate 4 (2 ^ 64 - 1)) (textUnits marked)).find? fun e =>
    let b := k.str (e.result % 2 ^ 20)
    !b.isEmpty && startsWith b marked).map fun e => (e.result % 2 ^ 20, (k.str (e.result % 2 ^ 20)).length)

/-- The bytes here could still begin a longer special when more bytes arrive. -/
def couldBegin (specs : List (Nat × List Byte)) (s : List (Bool × Byte)) : Bool :=
  s.all (fun p => p.1) &&
  specs.any fun p => decide (p.2.length > s.length) && startsWith (s.map (·.2)) p.2

/-- Pieces of a text: segments and specials. -/
inductive Piece where
  | seg (bytes : List Byte) (ended : Bool)
  | special (t : Nat)
  deriving DecidableEq, Repr, Inhabited

/-- Scan a text for specials. `skip` bytes are inside a match; `cur` is the segment so far. When the text goes on
(`open_`), the scan stops where a special might still begin. -/
def Tki.scanText (k : Tki) (open_ : Bool) : List (Bool × Byte) → Nat → List Byte → List Piece
  | [], _, cur => [.seg cur (!open_)]
  | p :: t, skip, cur =>
    if skip > 0 then k.scanText open_ t (skip - 1) cur
    else if open_ && couldBegin k.textSpecials (p :: t) then [.seg cur false]
    else
      match k.matchSpecial (p :: t) with
      | some (tok, n) => .seg cur true :: .special tok :: k.scanText open_ t (n - 1) []
      | none => k.scanText open_ t 0 (cur ++ [p.2])

/-- A group of prompt tokens that are released together, and the bytes that their strings spell (07 R169): a pretoken's, or a
special's. Tokens of an IN_TOKENS record spell no text. -/
structure Group where
  bytes : Option (List Byte)
  toks : List Nat
  deriving DecidableEq, Repr, Inhabited

/-- Groups of one segment, one for each pretoken: all of them when it has ended, those of final pretokens
otherwise. -/
def Tki.segGroups (k : Tki) (bytes : List Byte) (ended : Bool) : List Group :=
  let d := utf8Decode [] bytes
  let chars := if ended && !d.2.isEmpty then d.1 ++ [.bad d.2] else d.1
  let r := k.splitChars (k.normalise ended chars) 0 []
  let pres := if ended && !r.2.isEmpty then r.1 ++ [r.2] else r.1
  pres.map fun p => ⟨some (bytesOf p), k.bpe (bytesOf p)⟩

def Tki.textGroups (k : Tki) (open_ : Bool) (s : List (Bool × Byte)) : List Group :=
  (k.scanText open_ s 0 []).flatMap fun
    | .seg b e => k.segGroups b e
    | .special t => [⟨some (k.str t), [t]⟩]

/-- Groups of prompt tokens of the intake so far that nothing can change; all of them once the intake has ended. -/
def Tki.groupsFrom (k : Tki) (ended : Bool) : List Intake → List (Bool × Byte) → List Group
  | [], acc => k.textGroups (!ended) acc
  | .text sp bs :: t, acc => k.groupsFrom ended t (acc ++ bs.map fun b => (sp, b))
  | .toks ts :: t, acc => k.textGroups false acc ++ [⟨none, ts⟩] ++ k.groupsFrom ended t []

/-- The strings of a group's tokens spell its bytes (07 R169). -/
def Tki.spells (k : Tki) (g : Group) : Bool := (g.bytes.map fun b => g.toks.flatMap k.str == b).getD true

/-- The prompt tokens of R159 as far as they are final (07 R165). -/
def Tki.prompt (k : Tki) (ended : Bool) (items : List Intake) : List Nat := (k.groupsFrom ended items []).flatMap Group.toks

/-- The next group that adds something beyond the first `n` tokens, and what it adds. -/
def nextGroup : List Group → Nat → Option (Group × List Nat)
  | [], _ => none
  | g :: gs, n => if g.toks.length ≤ n then nextGroup gs (n - g.toks.length) else some (g, g.toks.drop n)

end Sys2Proof.Machine
end

