-- ==== Sys2Proof/Machine/Developer.lean ====
section
/-! DEFINITION. The developer and the stop bath (08 R171-R179). -/
namespace Sys2Proof.Machine

/-- A stop set (08 R172). -/
structure StopSet where
  strings : List (List Byte)
  include_ : Bool
  policy : Nat
  specialText : Bool
  deriving DecidableEq, Repr, Inhabited

/-- The conditions on a stop set (08 R172). -/
def StopSet.ok (s : StopSet) : Bool :=
  decide (s.strings.length ≤ 64) && decide (s.policy ≤ 2) &&
  s.strings.all (fun b => decide (1 ≤ b.length) && decide (b.length ≤ 256) && stopTextOk b) && nodupBytes s.strings

/-- What has become printable, in stream order: text, with a mark when it holds a substituted U+FFFD, or raw bytes. -/
inductive Print where
  | text (bytes : List Byte) (repl : Bool)
  | raw (bytes : List Byte)
  deriving DecidableEq, Repr, Inhabited

/-- Development state of a route: the UTF-8 holdback and the stop-bath holdback (08 R173, R176). -/
structure Dev where
  pend : List Byte
  held : List Byte
  deriving DecidableEq, Repr, Inhabited

/-- The bytes a token contributes (08 R171). -/
def contribution (k : Tki) (s : StopSet) (t : Nat) : List Byte :=
  if t = k.eos then [] else if k.isSpecial t && !s.specialText then [] else k.str t

/-- The longest suffix of b that is a proper prefix of a stop string (08 R176). -/
def holdSuffix (strings : List (List Byte)) : List Byte → List Byte
  | [] => []
  | x :: xs =>
    if strings.any fun s => decide ((x :: xs).length < s.length) && startsWith (x :: xs) s then x :: xs
    else holdSuffix strings xs

/-- The longest stop string that ends b, which starts earliest (08 R175). -/
def stopMatch (strings : List (List Byte)) (b : List Byte) : Option (List Byte) :=
  strings.foldl (fun best s =>
    if decide (s.length ≤ b.length) && b.drop (b.length - s.length) == s then
      match best with
      | some t => if s.length > t.length then some s else best
      | none => some s
    else best) none

def printText (b : List Byte) (repl : Bool) : List Print := if b.isEmpty then [] else [.text b repl]

/-- One resolved character through the end policy and the stop bath (08 R174-R177).
Answers the prints, the new stop-bath holdback, and whether a stop string completed. -/
def bathStep (s : StopSet) (held : List Byte) (c : Ch) : List Print × List Byte × Bool :=
  match c with
  | .bad raw =>
    let brk := printText held false ++
      (if s.policy = 0 then [.text [0xEF#8, 0xBF#8, 0xBD#8] true]
       else if s.policy = 2 then [.raw raw] else [])
    (brk, [], false)
  | .cp _ =>
    let b := held ++ c.bytes
    match stopMatch s.strings b with
    | some m =>
      (printText (if s.include_ then b else b.take (b.length - m.length)) false, [], true)
    | none =>
      let keep := holdSuffix s.strings b
      (printText (b.take (b.length - keep.length)) false, keep, false)

/-- Characters that one byte resolved, until a stop. -/
def bathSteps (s : StopSet) : List Ch → List Byte → List Print × List Byte × Bool
  | [], held => ([], held, false)
  | c :: cs, held =>
    let r := bathStep s held c
    if r.2.2 then r
    else
      let q := bathSteps s cs r.2.1
      (r.1 ++ q.1, q.2)

/-- Bytes of a token from the development state: the prints, the new state, and the number of bytes consumed
when a stop completed (08 R177). -/
def devBytes (s : StopSet) : List Byte → Nat → Dev → List Print × Dev × Option Nat
  | [], _, d => ([], d, none)
  | b :: bs, n, d =>
    let u := utf8Step d.pend b
    let r := bathSteps s u.1 d.held
    if r.2.2 then (r.1, ⟨[], []⟩, some (n + 1))
    else
      let q := devBytes s bs (n + 1) ⟨u.2, r.2.1⟩
      (r.1 ++ q.1, q.2)

/-- Develop one token (08 R171-R177). -/
def devToken (k : Tki) (s : StopSet) (t : Nat) (d : Dev) : List Print × Dev × Option Nat :=
  devBytes s (contribution k s t) 0 d

/-- The flush at an end other than END_STOP (08 R178). -/
def devFlush (s : StopSet) (d : Dev) : List Print :=
  printText d.held false ++ (if d.pend.isEmpty then [] else (bathStep s [] (.bad d.pend)).1)

def Print.bytes : Print → List Byte
  | .text b _ => b
  | .raw b => b

def printBytes (ps : List Print) : List Byte := ps.flatMap Print.bytes

end Sys2Proof.Machine
end

