-- ==== Sys2Proof/Machine/Noise.lean ====
section
/-! DEFINITION. Counter-based noise, the fixed-point logarithm and exponential, and scores (04 R77-R84). -/
namespace Sys2Proof.Machine

def m32 (x : Nat) : Nat := x % 2 ^ 32

/-- One round of Philox-4x32 on counter (c0, c1, c2, c3) under key (k0, k1) (04 R77). -/
structure PhiloxReg where
  c0 : Nat
  c1 : Nat
  c2 : Nat
  c3 : Nat
  deriving DecidableEq, Repr

def philoxRound (k0 k1 : Nat) (c : PhiloxReg) : PhiloxReg :=
  let p0 := 0xD2511F53 * c.c0
  let p1 := 0xCD9E8D57 * c.c2
  ⟨(p1 / 2 ^ 32) ^^^ c.c1 ^^^ k0, m32 p1, (p0 / 2 ^ 32) ^^^ c.c3 ^^^ k1, m32 p0⟩

def philoxRounds : Nat → Nat → Nat → PhiloxReg → PhiloxReg
  | 0, _, _, c => c
  | n + 1, k0, k1, c =>
    philoxRounds n (m32 (k0 + 0x9E3779B9)) (m32 (k1 + 0xBB67AE85)) (philoxRound k0 k1 c)

/-- Philox-4x32-10 (04 R77): ten rounds, the key bumped between rounds. -/
def philox (k0 k1 c0 c1 c2 c3 : Nat) : PhiloxReg := philoxRounds 10 k0 k1 ⟨c0, c1, c2, c3⟩

def noiseGumbel : Nat := 0
def noiseRatio : Nat := 1

/-- The noise word of token t at step n (04 R78). -/
def noiseWord (seed : U64) (salt step dom t : Nat) : Nat :=
  let r := philox (seed.toNat % 2 ^ 32) (seed.toNat / 2 ^ 32) (t / 4) step salt dom
  if t % 4 = 0 then r.c0 else if t % 4 = 1 then r.c1 else if t % 4 = 2 then r.c2 else r.c3

/-! ### Tables by their generating rules. The series are summed in units of 2^−140, whose error stays far below
the distance of every entry from a rounding boundary. -/

/-- Σ x^(2k+1) / (2k+1) for k below `n`, in units of 2^−140; x = num/den. -/
def atanhSum (num den : Nat) : Nat → Nat → Nat → Nat
  | 0, _, _ => 0
  | n + 1, k, pw => pw / (2 * k + 1) + atanhSum num den n (k + 1) (pw * num * num / (den * den))

/-- round(x · 2^−80), half to even, of a value in units of 2^−140 that is then in units of 2^−60. -/
def round140to60 (x : Nat) : Nat :=
  let q := x / 2 ^ 80
  let r := x % 2 ^ 80
  if r > 2 ^ 79 || (decide (r = 2 ^ 79) && q.testBit 0) then q + 1 else q

/-- Entry i of table t: ln(1 + i/1024) in units of 2^−60 (04 R79); ln((1024+i)/1024) = 2 atanh(i/(2048+i)). -/
def lnTab (i : Nat) : Nat := round140to60 (2 * atanhSum i (2048 + i) 48 0 (2 ^ 140 * i / (2048 + i)))

/-- Σ (−1)^k x^k / k! from term k on, in units of 2^−140. -/
def expSum (i : Nat) : Nat → Nat → Nat → Int
  | 0, _, _ => 0
  | n + 1, k, t =>
    let s : Int := if k % 2 = 0 then Int.ofNat t else -(Int.ofNat t)
    s + expSum i n (k + 1) (t * i / (1024 * (k + 1)))

/-- Entry i of table e: exp(−i/1024) in units of 2^−60 (04 R84). -/
def expTab (i : Nat) : Nat := round140to60 (expSum i 48 0 (2 ^ 140)).toNat

def ln2Fix : Nat := 0x0B17217F7D1CF79B

/-- DLN (04 R79): ln(v · 2^−s) in units of 2^−60, for v > 0. -/
def dln (v s : Nat) : Int :=
  let k := Nat.log2 v
  let f := if k ≤ 60 then v * 2 ^ (60 - k) - 2 ^ 60 else v / 2 ^ (k - 60) - 2 ^ 60
  let idx := f / 2 ^ 50
  let r := f % 2 ^ 50
  let y := r * 1024 / (1024 + idx)
  let y2 := y * y / 2 ^ 60
  let y3 := y2 * y / 2 ^ 60
  let p : Nat := y - y2 / 2 + y3 / 3
  ((k : Int) - (s : Int)) * (ln2Fix : Int) + (lnTab idx : Int) + (p : Int)

/-- The Gumbel noise of a noise word, in units of 2^−60 (04 R80). -/
def gumbel (x : Nat) : Int := -(dln (-(dln (2 * x + 1) 33)).toNat 60)

/-- The first term of a score: a finite scaled logit in units of 2^−160, or an end of the domain (04 R81). -/
def scoreBase (z : U32) : Int :=
  match decodeF32 z with
  | .fin n m e =>
    let v : Int := (m : Int) * 2 ^ (e + 160).toNat
    if n then -v else v
  | .inf n => if n then -(2 ^ 319) else 2 ^ 319 - 1
  | .nan => -(2 ^ 319)

/-- The score of a token from its scaled logit and noise (04 R81); no noise is added to an infinity. -/
def score (z : U32) (g : Int) : Int := if isInfBits z then scoreBase z else scoreBase z + g * 2 ^ 100

/-- DEXP (04 R84): exp(d) in units of 2^−48 for d ≤ 0 in units of 2^−160. -/
def dexp (d : Int) : Nat :=
  let a := (-d).toNat / 2 ^ 100
  if a ≥ 34 * 2 ^ 60 then 0
  else
    let n := a / ln2Fix
    let r := a - n * ln2Fix
    let idx := r / 2 ^ 50
    let rho := r % 2 ^ 50
    let q2 := rho * rho / 2 ^ 60
    let q3 := q2 * rho / 2 ^ 60
    let p : Nat := 2 ^ 60 - rho + q2 / 2 - q3 / 6
    let w := expTab idx * p / 2 ^ 60
    w / 2 ^ (12 + n)

/-- The weight of a token at a position (04 R84). -/
def weight (z zmax : U32) : Nat :=
  if isInfBits zmax then (if fpKey z = fpKey zmax then 2 ^ 48 else 0)
  else if isInfBits z then 0
  else dexp (scoreBase z - scoreBase zmax)

end Sys2Proof.Machine
end

