-- ==== Sys2Proof/Machine/Csi.lean ====
section
/-! DEFINITION. Constraint-set images: states, masks, transitions and their checks (05 R103-R109). -/
namespace Sys2Proof.Machine

def kChdr : Nat := kindOf 'C' 'H' 'D' 'R'
def kStat : Nat := kindOf 'S' 'T' 'A' 'T'
def kMask : Nat := kindOf 'M' 'A' 'S' 'K'
def kTran : Nat := kindOf 'T' 'R' 'A' 'N'
def kSrcm : Nat := kindOf 'S' 'R' 'C' 'M'

/-- One state record (05 R105). -/
structure GState where
  flags : Nat
  menc : Nat
  mcount : Nat
  maskOff : Nat
  mlen : Nat
  tranFirst : Nat
  tranRuns : Nat
  single : Nat
  deriving DecidableEq, Repr, Inhabited

/-- A constraint set: the header fields the engine uses and the three tables (05 R104). -/
structure Csi where
  statesN : Nat
  vocab : Nat
  initial : Nat
  eos : Nat
  flags : Nat
  source : Nat
  depth : Nat
  tki : Digest
  maskBytes : Nat
  tranN : Nat
  deadN : Nat
  stat : List Byte
  mask : List Byte
  tran : List Byte
  deriving DecidableEq, Repr, Inhabited

def csiOf (c : List Byte) : Csi :=
  let h := sectOf c kChdr
  { statesN := u32At h 0, vocab := u32At h 4, initial := u32At h 8, eos := u32At h 0xC, flags := u16At h 0x10
    source := u8At h 0x12, depth := u8At h 0x13, tki := digestAt h 0x18, maskBytes := u64At h 0x48
    tranN := u32At h 0x50, deadN := u32At h 0x54
    stat := sectOf c kStat, mask := sectOf c kMask, tran := sectOf c kTran }

def Csi.state (g : Csi) (q : Nat) : GState :=
  let r := slice g.stat (q * 32) 32
  { flags := u8At r 0, menc := u8At r 1, mcount := u32At r 4, maskOff := u64At r 8, mlen := u32At r 0x10
    tranFirst := u32At r 0x14, tranRuns := u32At r 0x18, single := u32At r 0x1C }

def GState.accepting (s : GState) : Bool := bitOf s.flags 0
def GState.eosOk (s : GState) : Bool := bitOf s.flags 1
def GState.singleton (s : GState) : Bool := bitOf s.flags 2
def GState.dead (s : GState) : Bool := bitOf s.flags 3

/-- Bytes of a state's mask (05 R106). -/
def Csi.maskSize (g : Csi) (s : GState) : Nat :=
  if s.menc = 0 then (g.vocab + 63) / 64 * 8 else if s.menc = 1 then 8 * s.mlen else 4 * s.mlen

/-- The interval pairs of a MASK_INTERVAL mask. -/
def Csi.intervals (g : Csi) (s : GState) : List (Nat × Nat) :=
  (records 8 (slice g.mask s.maskOff (8 * s.mlen))).map fun r => (u32At r 0, u32At r 4)

/-- The tokens of a state's mask, rising (05 R106). -/
def Csi.maskTokens (g : Csi) (s : GState) : List Nat :=
  if s.menc = 0 then
    let bytes := slice g.mask s.maskOff (g.maskSize s)
    (bytes.zipIdx.flatMap fun p => ((List.range 8).filter fun j => bitOf p.1.toNat j).map fun j => 8 * p.2 + j)
  else if s.menc = 1 then (g.intervals s).flatMap fun p => (List.range (p.2 + 1 - p.1)).map (p.1 + ·)
  else words32 (slice g.mask s.maskOff (4 * s.mlen))

def insertNat (t : Nat) : List Nat → List Nat
  | [] => [t]
  | x :: xs => if t < x then t :: x :: xs else if t = x then x :: xs else x :: insertNat t xs

/-- The G-set of a state, rising (05 R107). -/
def Csi.gset (g : Csi) (q : Nat) : List Nat :=
  let s := g.state q
  if s.eosOk then insertNat g.eos (g.maskTokens s) else g.maskTokens s

/-- The transition runs of a state as (FIRST, NEXT) (05 R108). -/
def Csi.runs (g : Csi) (s : GState) : List (Nat × Nat) :=
  (records 8 (slice g.tran (8 * s.tranFirst) (8 * s.tranRuns))).map fun r => (u32At r 0, u32At r 4)

/-- NEXT of the run that holds a token (05 R108). -/
def runTo (runs : List (Nat × Nat)) (q t : Nat) : Nat := runs.foldl (fun acc r => if r.1 ≤ t then r.2 % 2 ^ 24 else acc) q

/-- The state after a token of the mask (05 R108); the end-of-sequence token leaves the state (R114). -/
def Csi.next (g : Csi) (q t : Nat) : Nat := if t = g.eos then q else runTo (g.runs (g.state q)) q t

/-- An entry of the mask cache: a state's record, its G-set and its runs (05 R120). -/
structure MaskEnt where
  state : Nat
  accepting : Bool
  gset : List Nat
  runs : List (Nat × Nat)
  deriving DecidableEq, Repr, Inhabited

/-- The entry that a fetch of a state fills (05 R120, R121). -/
def Csi.maskEnt (g : Csi) (q : Nat) : MaskEnt := ⟨q, (g.state q).accepting, g.gset q, g.runs (g.state q)⟩

/-- The intervals are sorted, apart and below VOCAB (05 R109). -/
def intervalsOk (vocab : Nat) : List (Nat × Nat) → Bool
  | [] => true
  | [p] => decide (p.1 ≤ p.2) && decide (p.2 < vocab)
  | p :: q :: t => decide (p.1 ≤ p.2) && decide (p.2 + 2 ≤ q.1) && intervalsOk vocab (q :: t)

/-- Every run covers at least one mask token (05 R109). -/
def runsCover (mask : List Nat) : List (Nat × Nat) → Bool
  | [] => true
  | [r] => mask.any fun t => decide (r.1 ≤ t)
  | r :: s :: t => (mask.any fun x => decide (r.1 ≤ x) && decide (x < s.1)) && runsCover mask (s :: t)

/-- The structural conditions on one state (05 R109). -/
def Csi.stateOk (g : Csi) (q : Nat) : Bool :=
  let r := slice g.stat (q * 32) 32
  let s := g.state q
  let m := g.maskTokens s
  let runs := g.runs s
  let total := s.mcount + b2n s.eosOk
  let all := g.gset q
  s.flags / 16 == 0 && zeroAt r 2 2 && decide (s.menc ≤ 2) && s.maskOff % 8 == 0 &&
  decide (s.maskOff + g.maskSize s ≤ g.mask.length) &&
  (if s.menc = 0 then s.mlen == 0 && m.all (fun t => decide (t < g.vocab)) && m.length == s.mcount
   else if s.menc = 1 then decide (1 ≤ s.mlen) && intervalsOk g.vocab (g.intervals s) && m.length == s.mcount
   else s.mlen == s.mcount && decide (s.mcount ≤ 4096) && strictlyRising m && m.all fun t => decide (t < g.vocab)) &&
  !(m.contains g.eos) &&
  (s.mcount != 0 || (s.menc == 2 && s.mlen == 0 && s.maskOff == 0 && s.tranRuns == 0)) &&
  s.singleton == (total == 1) && s.dead == (total == 0) && (!s.eosOk || s.accepting) &&
  s.single == (if total = 1 then all.headD 0 else 0) &&
  (s.mcount == 0 ||
    (decide (1 ≤ s.tranRuns) && decide (s.tranRuns ≤ s.mcount) &&
     decide (8 * (s.tranFirst + s.tranRuns) ≤ g.tran.length) &&
     strictlyRising (runs.map (·.1)) && decide ((runs.headD (0, 0)).1 ≤ m.headD 0) && runsCover m runs &&
     runs.all fun r => decide (r.2 < g.statesN)))

/-- States reachable in `fuel` rounds from a frontier. -/
def Csi.reach (g : Csi) : Nat → List Nat → List Nat → List Nat
  | 0, seen, _ => seen
  | fuel + 1, seen, frontier =>
    let succ := frontier.flatMap fun q => (g.runs (g.state q)).map (·.2)
    let fresh := (succ.filter fun q => !(seen.contains q)).eraseDups
    if fresh.isEmpty then seen else g.reach fuel (seen ++ fresh) fresh

/-- The type checks of a constraint set (10 R219 step 4; 05 R103, R104, R109). -/
def csiOk (c : List Byte) : Bool :=
  let g := csiOf c
  let h := sectOf c kChdr
  sectionsExactly c (if bitOf g.flags 0 then [kChdr, kStat, kMask, kTran, kSrcm] else [kChdr, kStat, kMask, kTran]) &&
  h.length == 128 && decide (1 ≤ g.statesN) && decide (g.statesN ≤ 2 ^ 24) &&
  g.stat.length == 32 * g.statesN && g.mask.length == g.maskBytes && g.tran.length == 8 * g.tranN &&
  decide (g.mask.length ≤ 2 ^ 29) && decide (g.tran.length ≤ 2 ^ 29) &&
  decide (((sections (manifest c)).map (·.len)).sum ≤ 2 ^ 30) &&
  decide (g.initial < g.statesN) && decide (g.eos < g.vocab) && g.flags / 4 == 0 &&
  decide (1 ≤ g.source) && decide (g.source ≤ 3) && decide (1 ≤ g.depth) && decide (g.depth ≤ 64) && zeroAt h 0x58 40 &&
  (List.range g.statesN).all g.stateOk &&
  g.deadN == ((List.range g.statesN).filter fun q => (g.state q).dead).length &&
  bitOf g.flags 1 == (g.reach g.statesN [g.initial] [g.initial]).any fun q => (g.state q).dead

end Sys2Proof.Machine
end

