-- ==== Sys2Proof/Machine/Sli.lean ====
section
/-! DEFINITION. Sequence-list images and the class S search (06 R129-R131, R137-R145). -/
namespace Sys2Proof.Machine

def kLhdr : Nat := kindOf 'L' 'H' 'D' 'R'
def kEntr : Nat := kindOf 'E' 'N' 'T' 'R'
def kCmap : Nat := kindOf 'C' 'M' 'A' 'P'

/-- One list entry: its slots are (key, care) pairs, slot 0 first (06 R139). -/
structure SliEntry where
  prio : Nat
  action : Nat
  token : Nat
  tagKey : Nat
  tagCare : Nat
  slots : List (Nat × Nat)
  deriving DecidableEq, Repr, Inhabited

structure Sli where
  entriesN : Nat
  width : Nat
  flags : Nat
  vocab : Nat
  tki : Digest
  entr : List Byte
  cmap : List Byte
  deriving DecidableEq, Repr, Inhabited

def sliOf (c : List Byte) : Sli :=
  let h := sectOf c kLhdr
  { entriesN := u32At h 0, width := u8At h 4, flags := u8At h 5, vocab := u32At h 8, tki := digestAt h 0x10
    entr := sectOf c kEntr, cmap := sectOf c kCmap }

def Sli.recBytes (l : Sli) : Nat := 8 + 16 * l.width

/-- Offset of a slot within the units of a record (06, history slots). -/
def slotAt (s : Nat) : Nat := if s = 0 then 0 else 16 * ((s + 1) / 2) + 4 * (1 - s % 2)

def entryOf (width : Nat) (r : List Byte) : SliEntry :=
  let meta' := u64At r 0
  { prio := meta' / 2 ^ 40, action := meta' / 2 ^ 20 % 4, token := meta' % 2 ^ 20
    tagKey := u32At r 12, tagCare := u32At r 20
    slots := (List.range (2 * width - 1)).map fun s => (u32At r (8 + slotAt s), u32At r (16 + slotAt s)) }

def Sli.entries (l : Sli) : List SliEntry := (records l.recBytes l.entr).map (entryOf l.width)

def slotPresent : Nat := 2 ^ 31
def slotTokenMask : Nat := 0xFFFFF

/-- The class code of a token (06 R138). -/
def Sli.cls (l : Sli) (t : Nat) : Nat := if bitOf l.flags 0 then u16At l.cmap (2 * t) % 2048 else 0

/-- The conditions on one slot (06 R140). -/
def slotOk (vocab : Nat) (p : Nat × Nat) : Bool :=
  let key := p.1
  let care := p.2
  key &&& care == key &&
  (care % 2 ^ 31 == 0 || (care.testBit 31 && key.testBit 31)) &&
  (care % 2 ^ 20 != slotTokenMask || decide (key % 2 ^ 20 < vocab))

/-- Slots after a start anchor care for nothing (06 R140). -/
def anchorsOk : List (Nat × Nat) → Bool
  | [] => true
  | p :: t => (if p.2.testBit 31 && !p.1.testBit 31 then t.all fun q => q.2 == 0 else true) && anchorsOk t

def entryOk (vocab : Nat) (e : SliEntry) : Bool :=
  e.action != 3 && decide (e.token < vocab) && e.tagKey == 0 && e.tagCare == 0 &&
  e.slots.all (slotOk vocab) && anchorsOk e.slots

/-- The type checks of a sequence list (10 R219 step 4; 06 R137, R140). -/
def sliOk (c : List Byte) : Bool :=
  let l := sliOf c
  let h := sectOf c kLhdr
  sectionsExactly c (if bitOf l.flags 0 then [kLhdr, kEntr, kCmap] else [kLhdr, kEntr]) &&
  h.length == 64 && decide (1 ≤ l.entriesN) && decide (l.entriesN ≤ 262144) &&
  (l.width == 1 || l.width == 2 || l.width == 4) && l.flags / 2 == 0 && zeroAt h 6 2 && zeroAt h 0xC 4 &&
  l.entr.length == l.entriesN * l.recBytes &&
  (!bitOf l.flags 0 || (l.cmap.length == 2 * l.vocab && (records 2 l.cmap).all fun r => decide (leNat r < 2048))) &&
  l.entries.all (entryOk l.vocab)

/-- An entry's finder record: the units as the image lays them out, PRIORITY, and the low 40 bits of META as the result
(06 R129, R139). -/
def recOf (width : Nat) (r : List Byte) : FRec :=
  { units := (List.range width).map fun u => (u64At r (8 + 16 * u), u64At r (16 + 16 * u))
    prio := u64At r 0 / 2 ^ 40, result := u64At r 0 % 2 ^ 40 }

/-- The finder records of a list, in record order. -/
def Sli.recs (l : Sli) : List FRec := (records l.recBytes l.entr).map (recOf l.width)

/-- The units of a key or of a mask from its slots: slot 0 in unit 0, then two in each unit (06, history slots). -/
def slotUnits : List Nat → List Nat
  | [] => []
  | s :: t => s :: pairs t
where
  pairs : List Nat → List Nat
    | a :: b :: t => (a + b * 2 ^ 32) :: pairs t
    | [a] => [a]
    | [] => []

/-- The global mask of a slot (06 R143). -/
def slotGlobal (classSel : Nat) : Nat := slotPresent + classSel * 2 ^ 20 + slotTokenMask

/-- The slots of the search key of a history, newest token first (06 R143). -/
def Sli.key (l : Sli) (recent : List Nat) : List Nat :=
  (List.range (2 * l.width - 1)).map fun s =>
    match recent[s]? with
    | some t => slotPresent + l.cls t * 2 ^ 20 + t
    | none => 0

/-- ACTION and TOKEN of a reported result. -/
structure ListHit where
  action : Nat
  token : Nat
  deriving DecidableEq, Repr, Inhabited

/-- The matches of an ALL search of the list's region, in the order of 06 R130 (06 R143). -/
def Sli.search (l : Sli) (v : FView) (classSel : Nat) (recent : List Nat) : List ListHit :=
  (v.all (slotUnits ((List.range (2 * l.width - 1)).map fun _ => slotGlobal classSel)) (slotUnits (l.key recent))).map fun e =>
    ⟨e.result / 2 ^ 20 % 4, e.result % 2 ^ 20⟩

/-- An S-set (06 R144). -/
inductive SSet where
  | allBut (removed : List Nat)
  | only (t : Nat)
  | empty
  deriving DecidableEq, Repr, Inhabited

def sSetFrom : List ListHit → List Nat → List Nat → SSet
  | [], _, removed => .allBut removed
  | m :: ms, exempt, removed =>
    if m.action = 2 then sSetFrom ms (m.token :: exempt) removed
    else if m.action = 0 then sSetFrom ms exempt (if exempt.contains m.token then removed else m.token :: removed)
    else if m.action = 1 then (if removed.contains m.token then .empty else .only m.token)
    else sSetFrom ms exempt removed

/-- The S-set of a position from its history, newest first (06 R143, R144). -/
def Sli.sset (l : Sli) (v : FView) (classSel : Nat) (recent : List Nat) : SSet := sSetFrom (l.search v classSel recent) [] []

/-- Intersection with an S-set. -/
def SSet.inter (s : SSet) (a : List Nat) : List Nat :=
  match s with
  | .allBut r => a.filter fun t => !(r.contains t)
  | .only t => if a.contains t then [t] else []
  | .empty => []

end Sys2Proof.Machine
end

