-- ==== Sys2Proof/Machine/Sampler.lean ====
section
/-! DEFINITION. The sampler: values, parts of holders, filters, winners and draft acceptance
(02 R45-R50; 03 R73, R74; 04 R76-R95). A holder is a half, or an engine of a shard group; it forms a part of each
position from the tokens it covers, and parts are combined without gathering logits. -/
namespace Sys2Proof.Machine

/-- A sampling profile with the reciprocals of R47 (12 R272). -/
structure Profile where
  adj : AdjParams
  penWindow : Nat
  topP : U32
  minP : U32
  topK : Nat
  spec : Nat
  penPrompt : Bool
  biasN : Nat
  deriving DecidableEq, Repr, Inhabited

def f32One : U32 := 0x3F800000

def profileOf (b : List Byte) : Profile :=
  let temp := BitVec.ofNat 32 (u32At b 0)
  let rep := BitVec.ofNat 32 (u32At b 4)
  { adj := { temp := temp, tempInv := if isZeroBits temp then 0 else recip32 temp, rep := rep, repInv := recip32 rep
             freq := BitVec.ofNat 32 (u32At b 8), pres := BitVec.ofNat 32 (u32At b 0xC) }
    penWindow := u32At b 0x10, topP := BitVec.ofNat 32 (u32At b 0x14), minP := BitVec.ofNat 32 (u32At b 0x18)
    topK := u16At b 0x1C, spec := u8At b 0x1E, penPrompt := bitOf (u8At b 0x1F) 0, biasN := u16At b 0x20 }

/-- The ranges of R47 and R76 and the reserved fields of R272. A min_p of -0.0 is not 0.0 here. DESIGN CHOICE (log 100), unsafe. -/
def profileOk (b : List Byte) : Bool :=
  let p := profileOf b
  (p.adj.temp == 0#32 || f32InRange 0x3A800000 0x44800000 p.adj.temp) &&
  f32InRange 0x3F800000 0x41800000 p.adj.rep &&
  f32InRange 0xC2800000 0x42800000 p.adj.freq && f32InRange 0xC2800000 0x42800000 p.adj.pres &&
  decide (p.penWindow ≤ 65536) && decide (p.topK ≤ 1024) &&
  unitRange p.topP &&
  (p.minP == 0#32 || (f32InRange 0x33800000 f32One p.minP && p.minP != f32One)) &&
  decide (p.spec ≤ 1) && decide (p.biasN ≤ 4096)

def profileReservedOk (b : List Byte) : Bool := u8At b 0x1F / 2 == 0 && zeroAt b 0x22 30

def Profile.greedy (p : Profile) : Bool := isZeroBits p.adj.temp
def Profile.ratio (p : Profile) : Bool := p.spec == 1 && !p.greedy
def Profile.topKOn (p : Profile) : Bool := p.topK != 0 && !p.greedy
def Profile.topPOn (p : Profile) : Bool := p.topP != f32One && !p.greedy
def Profile.minPOn (p : Profile) : Bool := p.minP != 0#32 && !p.greedy
def Profile.filtered (p : Profile) : Bool := p.topKOn || p.topPOn || p.minPOn
/-- Round 1 of R86 runs. -/
def Profile.weighted (p : Profile) : Bool := p.minPOn || p.topPOn || p.ratio
/-- Candidate lists are exchanged (04 R86, R94). -/
def Profile.listed (p : Profile) : Bool := p.filtered || p.ratio
/-- The cap of R85. -/
def Profile.cap (p : Profile) : Nat := if p.topKOn then p.topK else 1024

/-- A bias list as the host gave it (12 R273). -/
abbrev BiasList := List (Nat × U32)

def biasOf (l : BiasList) (t : Nat) : U32 := ((l.find? fun p => p.1 == t).map (·.2)).getD 0#32

/-! ### Penalty history (02 R48) -/

/-- The penalty history: counts of the whole history, or its last pen_window tokens, oldest first. -/
inductive Pen where
  | counts (tab : Tab Nat)
  | window (ts : List Nat)
  deriving DecidableEq, Repr, Inhabited

def Pen.init (p : Profile) : Pen := if p.penWindow = 0 then .counts [] else .window []

/-- The count of a token, saturating at 65,535. -/
def Pen.count (h : Pen) (t : Nat) : Nat :=
  match h with
  | .counts tab => (tab.get? t).getD 0
  | .window ts => min 65535 (ts.count t)

def Pen.add (h : Pen) (win t : Nat) : Pen :=
  match h with
  | .counts tab => .counts (tab.put t (min 65535 ((tab.get? t).getD 0 + 1)))
  | .window ts => .window ((ts ++ [t]).drop (ts.length + 1 - win))

/-! ### Values and parts -/

/-- One allowed token at a position: logit, scaled logit, range bit. -/
structure Val where
  tok : Nat
  raw : U32
  z : U32
  range : Bool
  deriving DecidableEq, Repr, Inhabited

/-- The adjustment chain on one token's logit (02 R49), with the range bit of R45. -/
def valOf (p : Profile) (bias : BiasList) (pen : Pen) (l : Nat × U32 × Bool) : Val :=
  let r := adjust p.adj l.2.1 (pen.count l.1) (biasOf bias l.1)
  { tok := l.1, raw := l.2.1, z := r.1, range := l.2.2 || r.2 }

/-- A candidate of a list (04 R87). -/
structure Cand where
  tok : Nat
  z : U32
  w : Nat
  range : Bool
  deriving DecidableEq, Repr, Inhabited

/-- The candidate that a summary record carries (03 R73). -/
structure Best where
  tok : Nat
  z : U32
  score : Int
  range : Bool
  deriving DecidableEq, Repr, Inhabited

/-- A holder's part of a position: the fields of its summary record, of its list and of the list's trailer. -/
structure Part where
  count : Nat
  best : Option Best
  cands : List Cand
  sum : Nat
  draft : Option Cand
  deriving DecidableEq, Repr, Inhabited

/-- Greater scaled logit first, then the lower token (04 R85). -/
def ranksBefore (z1 : U32) (t1 : Nat) (z2 : U32) (t2 : Nat) : Bool :=
  decide (fpKey z1 > fpKey z2) || (decide (fpKey z1 = fpKey z2) && decide (t1 < t2))

def insertCand (c : Cand) : List Cand → List Cand
  | [] => [c]
  | x :: xs => if ranksBefore c.z c.tok x.z x.tok then c :: x :: xs else x :: insertCand c xs

def rankCands (cs : List Cand) : List Cand := cs.foldl (fun acc c => insertCand c acc) []

/-- The greater scaled logit of two, if any (04 R86 round 1). -/
def zMaxOf (zs : List U32) : Option U32 :=
  zs.foldl (fun m z =>
    match m with
    | none => some z
    | some y => if fpKey z > fpKey y then some z else some y) none

/-- The value that decides between candidates: FP32 order for a greedy profile, the score otherwise. -/
def beats (greedy : Bool) (a b : Best) : Bool :=
  let ka := if greedy then fpKey a.z else a.score
  let kb := if greedy then fpKey b.z else b.score
  decide (ka > kb) || (decide (ka = kb) && decide (a.tok < b.tok))

def bestOf (greedy : Bool) (bs : List Best) : Option Best :=
  bs.foldl (fun m b =>
    match m with
    | none => some b
    | some a => if beats greedy b a then some b else some a) none

/-- The seed, salt and step that a noise word takes (04 R78). -/
structure NoiseKey where
  seed : U64
  salt : Nat
  step : Nat
  deriving DecidableEq, Repr, Inhabited

/-- The score of a scaled logit (04 R81). -/
def scoreOf (k : NoiseKey) (t : Nat) (z : U32) : Int := score z (gumbel (noiseWord k.seed k.salt k.step noiseGumbel t))

def toBest (p : Profile) (k : NoiseKey) (t : Nat) (z : U32) (range : Bool) : Best :=
  { tok := t, z := z, score := if p.greedy then 0 else scoreOf k t z, range := range }

/-- The exact comparison a ≥ x · b of a non-negative FP32 value x. -/
def geScaled (a : Nat) (x : U32) (b : Nat) : Bool :=
  match decodeF32 x with
  | .fin _ m e => decide (a * 2 ^ 200 ≥ m * b * 2 ^ (e + 200).toNat)
  | _ => false

/-- A holder's part of a position (04 R85, R86, R94). `zmax` is the value returned by round 1. Under SPEC_RATIO the
summary's candidate leaves out the draft, because only a rejection reads it (R94). -/
def partOf (p : Profile) (k : NoiseKey) (zmax : Option U32) (draft : Option Nat) (vals : List Val) : Part :=
  let zm := zmax.getD 0#32
  let w (v : Val) : Nat := if p.weighted then weight v.z zm else 0
  let kept := if p.minPOn then vals.filter fun v => geScaled (w v) p.minP (2 ^ 48) else vals
  let cs := if p.listed then rankCands (kept.map fun v => ⟨v.tok, v.z, w v, v.range⟩) else []
  let eligible := if p.ratio then vals.filter fun v => some v.tok != draft else vals
  { count := vals.length
    best := if p.filtered then none else bestOf p.greedy (eligible.map fun v => toBest p k v.tok v.z v.range)
    cands := cs.take p.cap
    sum := if p.topKOn || !p.weighted then 0 else (kept.map w).sum
    draft := if p.ratio then ((vals.filter fun v => some v.tok == draft).map fun v => ⟨v.tok, v.z, w v, v.range⟩).head?
             else none }

/-- Combine two parts of one position (03 R74, 04 R86). -/
def combinePart (p : Profile) (a b : Part) : Part :=
  { count := a.count + b.count
    best := bestOf p.greedy (a.best.toList ++ b.best.toList)
    cands := (rankCands (a.cands ++ b.cands)).take p.cap
    sum := a.sum + b.sum
    draft := a.draft.or b.draft }

/-- The shortest prefix whose weight sum reaches top_p · W; the whole list when none does (04 R85 step 5). -/
def nucleus (p : Profile) (wTotal : Nat) : List Cand → Nat → List Cand
  | [], _ => []
  | c :: cs, acc =>
    if geScaled (acc + c.w) p.topP wTotal then [c] else c :: nucleus p wTotal cs (acc + c.w)

/-- The sampling set of a filtered profile (04 R85). -/
def samplingList (p : Profile) (x : Part) : List Cand :=
  if p.topPOn then
    let wTotal := if p.topKOn then (x.cands.map (·.w)).sum else x.sum
    nucleus p wTotal x.cands 0
  else x.cands

/-- What a non-forced position gives: the token, its range bit, and whether the draft was accepted. -/
structure Sel where
  tok : Nat
  range : Bool
  accept : Bool
  deriving DecidableEq, Repr, Inhabited

def winner (p : Profile) (k : NoiseKey) (x : Part) (drop : Option Nat) : Option Best :=
  if p.filtered then
    bestOf p.greedy (((samplingList p x).filter fun c => some c.tok != drop).map fun c => toBest p k c.tok c.z c.range)
  else x.best

/-- A draft under SPEC_RATIO: token and q (04 R94). -/
structure Draft where
  tok : Nat
  q : U32
  deriving DecidableEq, Repr, Inhabited

/-- The test of R94: (2v + 1) · q · W ≤ w · 2^33, exactly. -/
def ratioTest (v : Nat) (q : U32) (wSum w : Nat) : Bool := geScaled (w * 2 ^ 33) q ((2 * v + 1) * wSum)

/-- Select at a non-forced position from the combined part (04 R82, R83, R90, R94). -/
def select (p : Profile) (k : NoiseKey) (x : Part) (draft : Option Draft) : Option Sel :=
  let coupled :=
    (winner p k x none).map fun b => { tok := b.tok, range := b.range, accept := (draft.map (·.tok)) == some b.tok }
  if p.ratio then
    match draft with
    | none => coupled
    | some d =>
      let s := samplingList p x
      let wSum := if p.filtered then (s.map (·.w)).sum else x.sum
      let dc := if p.filtered then s.find? fun c => c.tok == d.tok else x.draft
      let v := noiseWord k.seed k.salt k.step noiseRatio d.tok
      match dc with
      | some c =>
        if ratioTest v d.q wSum c.w then some ⟨d.tok, c.range, true⟩
        else
          match winner p k x (some d.tok) with
          | some b => some ⟨b.tok, b.range, false⟩
          | none => some ⟨d.tok, c.range, true⟩
      | none => (winner p k x (some d.tok)).map fun b => ⟨b.tok, b.range, false⟩
  else coupled

end Sys2Proof.Machine
end

