-- ==== Sys2Proof/Machine/Walk.lean ====
section
/-! DEFINITION. The walk of a route over tokens: allowed sets, draft positions, verification, jump-ahead and
development (01 R19, R27, R32; 04 R88-R97; 05 R112-R114, R123; 06 R142-R145; 08 R177-R179). -/
namespace Sys2Proof.Machine

/-- What a binding gives a walk: its images, profile, bias list and stop set. -/
structure Env where
  tki : Tki
  csi : Option Csi
  /-- Entries of the constraint set that stand in the mask cache of the route's half (05 R120). -/
  masks : List MaskEnt
  sli : Option Sli
  /-- What searches of the list's first and second regions read (06 R146). -/
  list : FView
  second : FView
  head : Option (List Byte)
  /-- The copy that the East half computes its rows from, when the halves split the head (03 R57). -/
  headE : Option (List Byte)
  rows : Option (List Nat)
  classSel : Nat
  prof : Profile
  bias : BiasList
  stops : StopSet
  infmt : Nat
  shards : Nat
  shard : Nat
  deriving DecidableEq, Repr, Inhabited

/-- The state a position depends on: grammar state, class S history newest first, penalty history. -/
structure Pos where
  g : Nat
  sw : List Nat
  pen : Pen
  deriving DecidableEq, Repr, Inhabited

/-- The cached entry of a state, if there is one. -/
def Env.mask (e : Env) (g : Nat) : Option MaskEnt := e.masks.find? fun m => m.state == g

/-- The G-set: every token below the vocabulary size without a CSI (05 R111). -/
def gSet (e : Env) (g : Nat) : List Nat :=
  match e.csi with
  | some c => ((e.mask g).map fun m => m.gset).getD (c.gset g)
  | none => List.range e.tki.vocab

/-- The state after a token (05 R108, R114), from the runs of the cached entry or of the image. -/
def nextState (e : Env) (g t : Nat) : Nat :=
  match e.csi with
  | some c => ((e.mask g).map fun m => if t = e.tki.eos then g else runTo m.runs g t).getD (c.next g t)
  | none => g

/-- Remove the tokens without a head row (03 R55). -/
def keepRows (e : Env) (a : List Nat) : List Nat :=
  match e.rows with
  | some r => a.filter fun t => r.contains t
  | none => a

/-- The S-set of a history (06 R144). -/
def sSet (e : Env) (sw : List Nat) : SSet :=
  match e.sli with
  | some l => l.sset e.list e.classSel sw
  | none => .allBut []

/-- The S-set that the proof print finds in the list's second region (06 R146). -/
def sSetAgain (e : Env) (sw : List Nat) : SSet :=
  match e.sli with
  | some l => l.sset e.second e.classSel sw
  | none => .allBut []

/-- The allowed set of a position, rising (05 R112). -/
def allowed (e : Env) (p : Pos) : List Nat := (sSet e p.sw).inter (keepRows e (gSet e p.g))

/-- The state after a token (05 R114, 06 R142, 02 R48). -/
def Pos.advance (e : Env) (p : Pos) (t : Nat) : Pos :=
  { g := nextState e p.g t
    sw := (t :: p.sw).take 7
    pen := p.pen.add e.prof.penWindow t }

/-- The positions a step computes with their allowed sets: it goes no further than the first draft outside the
allowed set of its position, or an empty set (04 R91, 05 R117, R123). -/
def positions (e : Env) (p : Pos) : List Nat → List (Pos × List Nat)
  | [] => [(p, allowed e p)]
  | d :: ds =>
    let a := allowed e p
    if a.contains d then (p, a) :: positions e (p.advance e d) ds else [(p, a)]

/-- What a position gives once it has been selected. -/
inductive PosSel where
  | empty
  | forced (t : Nat)
  | chosen (s : Sel)
  deriving DecidableEq, Repr, Inhabited

/-- A token of a release: its range bit, whether its position was forced, and its position in the entry. -/
structure Tk where
  tok : Nat
  range : Bool
  forced : Bool
  pos : Option Nat
  deriving DecidableEq, Repr, Inhabited

/-- Verification: accepted drafts, the sampled token, or an empty set after the accepted drafts (04 R90-R94). -/
structure Verdict where
  accepted : List Tk
  sampled : Option Tk
  deriving DecidableEq, Repr, Inhabited

def verify : List PosSel → List Nat → Nat → Verdict
  | [], _, _ => ⟨[], none⟩
  | .empty :: _, _, _ => ⟨[], none⟩
  | .forced t :: rest, ds, j =>
    match ds with
    | d :: ds' =>
      if d = t then
        let v := verify rest ds' (j + 1)
        { v with accepted := ⟨t, false, true, some j⟩ :: v.accepted }
      else ⟨[], some ⟨t, false, true, some j⟩⟩
    | [] => ⟨[], some ⟨t, false, true, some j⟩⟩
  | .chosen s :: rest, ds, j =>
    match ds with
    | _ :: ds' =>
      if s.accept then
        let v := verify rest ds' (j + 1)
        { v with accepted := ⟨s.tok, s.range, false, some j⟩ :: v.accepted }
      else ⟨[], some ⟨s.tok, s.range, false, some j⟩⟩
    | [] => ⟨[], some ⟨s.tok, s.range, false, some j⟩⟩

/-- The released state that tokens move: the position state, the development state, printed bytes with their
digest, and the generated tokens. -/
structure Rel where
  pos : Pos
  dev : Dev
  bytes : Nat
  digest : U64
  gen : Nat
  deriving DecidableEq, Repr, Inhabited

/-- A token taken into a release, with the state before it. -/
structure Taken where
  tk : Tk
  before : Rel
  deriving DecidableEq, Repr, Inhabited

/-- A release as it grows. `live` is false once an end has been met. -/
structure Grow where
  rel : Rel
  taken : List Taken
  prints : List Print
  ending : EndCause
  consumed : Nat
  deriving DecidableEq, Repr, Inhabited

def Grow.start (r : Rel) : Grow := ⟨r, [], [], .none, 0⟩

def Rel.printed (r : Rel) (ps : List Print) : Rel :=
  { r with bytes := r.bytes + (printBytes ps).length, digest := crc64From r.digest (printBytes ps) }

/-- Take one token: advance, develop, and find the end it makes, in the order of 08 R179. -/
def Grow.take (e : Env) (limit : Nat) (s : Grow) (k : Tk) : Grow :=
  let d := devToken e.tki e.stops k.tok s.rel.dev
  let r : Rel := ({ s.rel with pos := s.rel.pos.advance e k.tok, dev := d.2.1, gen := s.rel.gen + 1 }).printed d.1
  let fin : EndCause :=
    if k.tok = e.tki.eos then .eos
    else if d.2.2.isSome then .stop
    else if r.gen ≥ limit then .limit
    else .none
  { rel := r, taken := s.taken ++ [⟨k, s.rel⟩], prints := s.prints ++ d.1, ending := fin, consumed := d.2.2.getD 0 }

/-- Take tokens until one ends the route. -/
def Grow.takeAll (e : Env) (limit : Nat) (s : Grow) : List Tk → Grow
  | [] => s
  | k :: ks => if s.ending = .none then (s.take e limit k).takeAll e limit ks else s

/-- Jump-ahead: forced tokens while each next position is forced, at most `fuel` (04 R96; 01 R27). -/
def Grow.jump (e : Env) (limit : Nat) : Nat → Grow → Grow
  | 0, s => s
  | fuel + 1, s =>
    if s.ending ≠ .none then s
    else
      match allowed e s.rel.pos with
      | [t] => Grow.jump e limit fuel (s.take e limit ⟨t, false, true, none⟩)
      | _ => s

/-- How the walk goes on after a release. -/
inductive After where
  | goes | forcedMore | dead | ends (c : EndCause)
  deriving DecidableEq, Repr, Inhabited

def Grow.after (e : Env) (s : Grow) : After :=
  if s.ending ≠ .none then .ends s.ending
  else
    match allowed e s.rel.pos with
    | [] => .dead
    | [_] => .forcedMore
    | _ => .goes

/-- A release with what leads on from it. -/
structure Release where
  grow : Grow
  nAccepted : Nat
  nForced : Nat
  forcedOnly : Bool
  after : After
  deriving DecidableEq, Repr, Inhabited

/-- The release of a verified step (01 R27, 04 R92, R96). -/
def stepRelease (e : Env) (limit : Nat) (r : Rel) (v : Verdict) : Release :=
  let s1 := (Grow.start r).takeAll e limit v.accepted
  if s1.ending ≠ .none then ⟨s1, s1.taken.length, 0, false, .ends s1.ending⟩
  else
    match v.sampled with
    | none => ⟨s1, s1.taken.length, 0, false, .dead⟩
    | some k =>
      let s2 := s1.take e limit k
      let s3 := Grow.jump e limit 256 s2
      ⟨s3, s1.taken.length, s3.taken.length - s2.taken.length, false, s3.after e⟩

/-- A forced-only release (01 R27, 04 R98). -/
def forcedRelease (e : Env) (limit : Nat) (r : Rel) : Release :=
  let s := Grow.jump e limit 256 (Grow.start r)
  ⟨s, 0, s.taken.length, true, s.after e⟩

/-- ACCEPTING of the route's grammar state (05 R115). -/
def acceptingOf (e : Env) (g : Nat) : Bool :=
  match e.csi with
  | some c => ((e.mask g).map fun m => m.accepting).getD (c.state g).accepting
  | none => false

/-! ### Latent slots (04 R99, 08 R185) -/

/-- A latent slot: the state, the holdback and the stop-bath state after a draft, and the allowed set of the position. -/
structure LSlot where
  pos : Pos
  dev : Dev
  set : List Nat
  deriving DecidableEq, Repr, Inhabited

/-- A zeroed slot (04 R100). -/
def LSlot.zero : LSlot := ⟨⟨0, [], .counts []⟩, ⟨[], []⟩, []⟩

/-- The slots of a list of drafts; those after the first draft outside its position's allowed set stay zero (04 R91, R99). -/
def latentSlots (e : Env) (p : Pos) (d : Dev) : List Nat → List LSlot
  | [] => []
  | t :: ts =>
    if (allowed e p).contains t then
      let q := p.advance e t
      let f := (devToken e.tki e.stops t d).2.1
      ⟨q, f, allowed e q⟩ :: latentSlots e q f ts
    else List.replicate (ts.length + 1) LSlot.zero

end Sys2Proof.Machine
end

