-- ==== Sys2Proof/Machine/Formats.lean ====
section
/-! DEFINITION. Byte layouts that the engine writes: TOK, SYN and PRT entries (16 R400-R404), summary records
(03 R73) and candidates (04 R87), stream records (07 R162, 08 R180-R183), journal payloads (14 R339-R344) and
benchmarks (14 R328, R329). -/
namespace Sys2Proof.Machine

/-! ### TOK entries (16 R400) -/

/-- One TOK entry. `prompt`, `last`, `forcedOnly`, `refused` are the TFLAGS bits; CUT is set with `consumed`. -/
structure TokEntry where
  handle : Nat
  step : Nat
  status : Nat
  toks : List Nat
  ranges : List Bool
  nForced : Nat
  accepted : Nat
  ending : EndCause
  prompt : Bool
  last : Bool
  cut : Bool
  forcedOnly : Bool
  refused : Bool
  consumed : Nat
  deriving DecidableEq, Repr, Inhabited

def TokEntry.flags (t : TokEntry) : Nat :=
  b2n t.prompt + 2 * b2n t.last + 4 * b2n t.cut + 8 * b2n t.forcedOnly + 16 * b2n t.refused

def u32s (ts : List Nat) : List Byte := ts.flatMap (toLe 4)

def TokEntry.bytes (t : TokEntry) : List Byte :=
  padTo 16 (toLe 4 t.handle ++ toLe 4 t.step ++ toLe 2 t.status ++ toLe 2 t.toks.length ++ toLe 2 t.nForced ++
    toLe 1 t.accepted ++ toLe 1 t.ending.code ++ toLe 1 t.flags ++ toLe 1 t.consumed ++ zeros 6 ++
    u32s t.toks ++ packBits t.ranges)

/-- The tokens, range bits and end a TOK entry carries, read back from a release notice (16 R402). -/
def tokOfBytes (b : List Byte) : TokEntry :=
  let n := u16At b 0xA
  let f := u8At b 0x10
  { handle := u32At b 0, step := u32At b 4, status := u16At b 8, toks := words32 (slice b 24 (4 * n))
    ranges := unpackBits n (b.drop (24 + 4 * n)), nForced := u16At b 0xC, accepted := u8At b 0xE
    ending := EndCause.ofCode (u8At b 0xF), prompt := bitOf f 0, last := bitOf f 1, cut := bitOf f 2
    forcedOnly := bitOf f 3, refused := bitOf f 4, consumed := u8At b 0x11 }

/-- A TOK entry with no tokens. -/
def emptyTok (handle step status : Nat) (c : EndCause) (refused : Bool) : TokEntry :=
  { handle := handle, step := step, status := status, toks := [], ranges := [], nForced := 0, accepted := 0
    ending := c, prompt := false, last := false, cut := false, forcedOnly := false, refused := refused, consumed := 0 }

/-- A refusal entry (01 R23). -/
def refusalTok (handle step status : Nat) : TokEntry := emptyTok handle step status .none true

/-! ### SYN bodies (16 R404) -/

structure SynRec where
  handle : Nat
  next : Nat
  salt : Nat
  chain : Nat
  half : Half
  deriving DecidableEq, Repr, Inhabited

def synRecBytes (r : SynRec) : List Byte :=
  toLe 4 r.handle ++ toLe 4 r.next ++ toLe 4 r.salt ++ toLe 2 (r.chain % 16 + 16 * r.half.code) ++ zeros 2

def synFence (binding fence : Nat) : List Byte := toLe 1 1 ++ zeros 3 ++ toLe 4 binding ++ toLe 4 fence ++ toLe 4 0

def synResume (rs : List SynRec) : List Byte :=
  toLe 1 2 ++ zeros 3 ++ zeros 8 ++ toLe 4 rs.length ++ rs.flatMap synRecBytes

/-! ### Summary records and candidates (03 R73, 04 R87) -/

def intToLe (n : Nat) (v : Int) : List Byte := toLe n (v % 2 ^ (8 * n)).toNat

def intOfLe (bs : List Byte) : Int :=
  let n := leNat bs
  if n ≥ 2 ^ (8 * bs.length - 1) then (n : Int) - 2 ^ (8 * bs.length) else n

def summaryBytes (p : Profile) (step pos shard shards salt status : Nat) (half : Bool) (x : Part) : List Byte :=
  let b := x.best.getD default
  let has := x.best.isSome
  let f := b2n (x.count != 0) + 2 * b2n (p.greedy && has && b.range) + 4 * b2n (!p.greedy && has && b.range) + 8 * b2n half
  toLe 4 step ++ toLe 1 pos ++ toLe 1 shard ++ toLe 1 shards ++ toLe 1 f ++ toLe 4 salt ++ toLe 4 x.count ++
  (if p.greedy && has then toLe 4 b.tok ++ toLe 4 b.z.toNat else zeros 8) ++
  (if !p.greedy && has then toLe 4 b.tok else zeros 4) ++ toLe 2 status ++ zeros 2 ++
  (if !p.greedy && has then intToLe 40 b.score else zeros 40) ++ zeros 184

/-- The part a summary record carries, without its lists. -/
def partOfSummary (p : Profile) (b : List Byte) : Part :=
  let f := u8At b 7
  { count := u32At b 0xC
    best :=
      if bitOf f 0 && !p.filtered then
        some (if p.greedy then ⟨u32At b 0x10, BitVec.ofNat 32 (u32At b 0x14), 0, bitOf f 1⟩
              else ⟨u32At b 0x18, 0#32, intOfLe (slice b 0x20 40), bitOf f 2⟩)
      else none
    cands := [], sum := 0, draft := none }

def candBytes (c : Cand) : List Byte := toLe 4 c.tok ++ toLe 4 c.z.toNat ++ toLe 8 c.w

/-- A round-2 body: candidates, trailer, and the draft's entry (04 R87, 16 R402). -/
def candsBytes (step : Nat) (x : Part) : List Byte :=
  x.cands.flatMap candBytes ++ toLe 10 x.sum ++ toLe 2 x.cands.length ++ toLe 4 step ++
  (x.draft.map candBytes).getD []

/-! ### Stream records (07 R162) -/

def streamRecord (handle kind flags status seq : Nat) (payload : List Byte) : List Byte :=
  toLe 4 handle ++ toLe 1 kind ++ toLe 1 flags ++ toLe 2 status ++ toLe 4 payload.length ++ toLe 4 seq ++
  padTo 16 payload

/-- Outbound records before their SEQ is given: kind, flags, status, payload. -/
structure OutRec where
  kind : Nat
  flags : Nat
  status : Nat
  payload : List Byte
  deriving DecidableEq, Repr, Inhabited

def printPayload (step : Nat) (b : List Byte) : List Byte := toLe 4 step ++ zeros 4 ++ b

/-- Text bytes of a print record (08 R181). -/
def maxText : Nat := 65528

/-- A continuation byte of UTF-8. -/
def contByte (b : Byte) : Bool := decide (0x80 ≤ b.toNat) && decide (b.toNat ≤ 0xBF)

/-- The longest piece of at most `n` bytes that ends between two characters (08 R174, R180). -/
def charCut (b : List Byte) : Nat → Nat
  | 0 => 0
  | n + 1 => if b.length ≤ n + 1 then b.length else if !contByte (b.getD (n + 1) 0) then n + 1 else charCut b n

/-- Pieces of at most `maxText` bytes; text is cut between characters only (08 R174, R181). -/
def pieces (whole : Bool) : Nat → List Byte → List (List Byte)
  | 0, _ => []
  | fuel + 1, b =>
    let n := if whole then charCut b maxText else maxText
    if b.isEmpty then [] else b.take n :: pieces whole fuel (b.drop n)

/-- A print in pieces that a record can hold. A text has at least `maxText` - 3 bytes in each piece but the last. -/
def Print.pieces : Print → List Print
  | .text b r => (Machine.pieces true (b.length / (maxText - 3) + 1) b).map fun c => .text c r
  | .raw b => (Machine.pieces false (b.length / maxText + 1) b).map fun c => .raw c

/-- Neighbouring pieces of one kind joined while a record holds them. -/
def packPrints : List Print → List Print
  | .text a p :: rest =>
    match packPrints rest with
    | .text b q :: t => if a.length + b.length ≤ maxText then .text (a ++ b) (p || q) :: t else .text a p :: .text b q :: t
    | t => .text a p :: t
  | .raw a :: rest =>
    match packPrints rest with
    | .raw b :: t => if a.length + b.length ≤ maxText then .raw (a ++ b) :: t else .raw a :: .raw b :: t
    | t => .raw a :: t
  | [] => []

/-- The print records of a release: whole characters in each text record, and REPL where a record holds a substituted
U+FFFD; neighbouring texts join (08 R174, R180; log 26; the division is not promised, 08 R182). -/
def printRecords (step : Nat) (flush : Bool) (ps : List Print) : List OutRec :=
  (packPrints (ps.flatMap Print.pieces)).map fun
    | .text b r => ⟨0x90, b2n r + 2 * b2n flush, stOk, printPayload step b⟩
    | .raw b => ⟨0x91, 2 * b2n flush, stOk, printPayload step b⟩

/-- The terminator payload (08 R183). -/
def endPayload (next : Nat) (c : EndCause) (grammar accepting : Bool) (toks bytes : Nat) (digest : U64) : List Byte :=
  toLe 4 next ++ toLe 1 c.code ++ toLe 1 (b2n grammar + 2 * b2n (grammar && accepting)) ++ zeros 2 ++ toLe 4 toks ++
  zeros 4 ++ toLe 8 bytes ++ toLe 8 digest.toNat

/-! ### Journal payloads (14 R339, R343, R344) -/

/-- A release record payload (14 R339). -/
def releasePayload (salt step status : Nat) (c : EndCause) (accepted : Nat) (toks : List Nat) (ranges : List Bool)
    (forcedOnly : Bool) (consumed : Nat) (cut : Bool) (bytes : Nat) (digest : U64) : List Byte :=
  toLe 4 salt ++ toLe 4 step ++ toLe 2 status ++ toLe 1 c.code ++ toLe 1 accepted ++ toLe 2 toks.length ++
  toLe 1 (b2n forcedOnly + 2 * b2n cut) ++ toLe 1 consumed ++ toLe 8 bytes ++ toLe 8 digest.toNat ++ u32s toks ++
  packBits ranges

def swindowBytes (sw : List Nat) : List Byte := (List.range 7).flatMap fun i => toLe 4 (sw.getD i 0xFFFFFFFF)

/-- D_STATE: grammar state, class S window and printed bytes before a step (14 R343). -/
def dState (hasCsi : Bool) (r : Rel) : U64 :=
  crc64 (toLe 4 (if hasCsi then r.pos.g else 0) ++ swindowBytes r.pos.sw ++ toLe 8 r.bytes)

/-- XOR of the CRC-64 of byte strings (14 R344). -/
def xorCrc (bs : List (List Byte)) : U64 := bs.foldl (fun a b => a ^^^ crc64 b) 0

def dMask (a : List Nat) : U64 := xorCrc (a.map (toLe 4))
def dLogit (vs : List Val) : U64 := xorCrc (vs.map fun v => toLe 4 v.tok ++ toLe 4 v.raw.toNat)

/-- What a contact-sheet record says of one token, beyond the state before it. -/
structure Contact where
  count : Nat
  forced : Bool
  input : U64
  mask : U64
  logit : U64
  score : U64
  deriving DecidableEq, Repr, Inhabited

def contactPayload (p : Profile) (hasCsi : Bool) (salt step shard shards : Nat) (t : Taken) (c : Contact) : List Byte :=
  toLe 4 salt ++ toLe 4 step ++ toLe 4 t.tk.tok ++ toLe 4 c.count ++ toLe 1 shard ++ toLe 1 shards ++
  toLe 1 (b2n p.greedy + 2 * b2n t.tk.forced + 4 * b2n t.tk.range + 8 * b2n p.filtered) ++ zeros 5 ++
  toLe 8 c.input.toNat ++ toLe 8 c.mask.toNat ++ toLe 8 c.logit.toNat ++ toLe 8 c.score.toNat ++
  toLe 8 (dState hasCsi t.before).toNat

/-! ### Benchmarks (14 R328, R329) -/

/-- The fields of a benchmark. -/
structure Bench where
  seed : U64
  salt : Nat
  startStep : Nat
  next : Nat
  limit : Nat
  oflags : Nat
  rstate : RState
  ending : EndCause
  rebasedAt : Nat
  gstate : Nat
  promptN : Nat
  outSeq : Nat
  promptDigest : U64
  bytes : Nat
  printDigest : U64
  sw : List Nat
  held : List Byte
  u8n : Nat
  pen : Pen
  digests : List Digest
  pdigest : Digest
  deriving DecidableEq, Repr, Inhabited

def ifLevel : Nat := 3
def aLevel : Nat := 2

/-- Pairs of u32 tokens, the last filled with 0xFFFF_FFFF (14 R329). -/
def pairUp : List Nat → List (Nat × Nat)
  | [] => []
  | [a] => [(a, 0xFFFFFFFF)]
  | a :: b :: t => (a, b) :: pairUp t

def penRecords : Pen → List (Nat × Nat)
  | .counts tab => tab
  | .window ts => pairUp ts

def penBytes (h : Pen) : List Byte := (penRecords h).flatMap fun r => toLe 4 r.1 ++ toLe 4 r.2

def penOfBytes (window : Bool) (b : List Byte) : Pen :=
  let rs := (records 8 b).map fun r => (u32At r 0, u32At r 4)
  if window then .window ((rs.flatMap fun r => [r.1, r.2]).filter fun t => t != 0xFFFFFFFF)
  else .counts (rs.foldl (fun (t : Tab Nat) r => t.put r.1 (r.2 % 65536)) [])

def benchMagic : List Byte := [0x42#8, 0x4E#8, 0x43#8, 0x48#8]

def benchBytes (b : Bench) : List Byte :=
  let size := 0x290 + 8 * (penRecords b.pen).length + 48
  let body := benchMagic ++ toLe 2 1 ++ toLe 1 ifLevel ++ toLe 1 aLevel ++ toLe 8 size ++ toLe 8 b.seed.toNat ++
    toLe 4 b.salt ++ toLe 4 b.startStep ++ toLe 4 b.next ++ toLe 4 b.limit ++ toLe 4 b.oflags ++ toLe 1 b.rstate.code ++
    toLe 1 b.ending.code ++ zeros 2 ++ toLe 4 b.rebasedAt ++ toLe 4 b.gstate ++ toLe 4 b.promptN ++ toLe 4 b.outSeq ++
    toLe 8 b.promptDigest.toNat ++ toLe 8 b.bytes ++ toLe 8 b.printDigest.toNat ++ swindowBytes b.sw ++
    toLe 2 b.held.length ++ toLe 2 b.u8n ++ toLe 4 (penRecords b.pen).length ++ zeros 4 ++
    b.digests.flatMap digestBytes ++ digestBytes b.pdigest ++ zeros 16 ++ fitTo 272 b.held ++ penBytes b.pen
  body ++ digestBytes (sha384 body)

def benchPenN (b : List Byte) : Nat := u32At b 0x78

/-- The checks R330 makes of a benchmark before any other. -/
def benchOk (b : List Byte) : Bool :=
  slice b 0 4 == benchMagic && u16At b 4 == 1 && u64At b 8 == b.length && decide (0x290 + 48 ≤ b.length) &&
  digestAt b (b.length - 48) == sha384 (b.take (b.length - 48)) && b.length == 0x290 + 8 * benchPenN b + 48

/-- Read a benchmark; `window` says how its penalty section is read (14 R329). -/
def benchOf (window : Bool) (b : List Byte) : Bench :=
  { seed := BitVec.ofNat 64 (u64At b 0x10), salt := u32At b 0x18, startStep := u32At b 0x1C, next := u32At b 0x20
    limit := u32At b 0x24, oflags := u32At b 0x28, rstate := (RState.ofCode (u8At b 0x2C)).getD .ended
    ending := EndCause.ofCode (u8At b 0x2D), rebasedAt := u32At b 0x30, gstate := u32At b 0x34
    promptN := u32At b 0x38, outSeq := u32At b 0x3C, promptDigest := BitVec.ofNat 64 (u64At b 0x40)
    bytes := u64At b 0x48, printDigest := BitVec.ofNat 64 (u64At b 0x50)
    sw := (words32 (slice b 0x58 28)).filter fun t => t != 0xFFFFFFFF
    held := slice b 0x180 (u16At b 0x74), u8n := u16At b 0x76
    pen := penOfBytes window (slice b 0x290 (8 * benchPenN b))
    digests := [digestAt b 0x80, digestAt b 0xB0, digestAt b 0xE0, digestAt b 0x110], pdigest := digestAt b 0x140 }

/-- The benchmark with its route ended (10 R234, 12 R279): RSTATE and END, and the trailer over the new bytes. -/
def benchEnded (b : List Byte) (c : EndCause) : List Byte :=
  let body := (b.take 0x2C) ++ toLe 1 RState.ended.code ++ toLe 1 c.code ++ ((b.take (b.length - 48)).drop 0x2E)
  body ++ digestBytes (sha384 body)

end Sys2Proof.Machine
end

