-- ==== Sys2Proof/Machine/State.lean ====
section
/-! DEFINITION. The machine's state as plain data, and the state after reset. -/
namespace Sys2Proof.Machine

/-- A reason to stop. No meaning of this model raises one: the spec gives every row an effect. -/
inductive Fault where
  /-- Raised by no meaning; kept so that the type is inhabited (safe: it stops nothing). -/
  | outsideModel (why : String)
  deriving DecidableEq, Repr, Inhabited

/-- A command without a meaning. -/
inductive Refusal where
  /-- Raised by an arm of `exec` that has no meaning yet (safe: the machine stops). -/
  | notModelled (mnemonic : String)
  deriving DecidableEq, Repr, Inhabited

/-! ### The engine as a whole -/

/-- Where a start stands (15 R354, R374): the step that is to complete next. `up` after C9 or W8. -/
inductive Phase where
  | held | bootList | firmware | census | meridian | stackTrain | chains | bootSet | ready | up
  deriving DecidableEq, Repr, Inhabited

/-- One entry of the boot list (15 R351). -/
structure BootEntry where
  addr : Nat
  len : Nat
  typ : Nat
  role : Nat
  digest : Digest
  deriving DecidableEq, Repr, Inhabited

structure EngSt where
  state : EState
  limp : Bool
  strict : Bool
  pcapW : U16
  pcapE : U16
  tset : Byte
  serial : U64
  phase : Phase
  warm : Bool
  coreRst : Bool
  safeRst : Bool
  fullTest : Bool
  declared : Nat
  waitS : Nat
  boot : List BootEntry
  /-- A warm restart has been decided and not begun (12 R268, 17 R432, 15 R380). -/
  restartDue : Bool
  /-- The routes' states have been recovered after a warm restart (15 R375). -/
  recovered : Bool
  staged : Option Digest
  fwRun : Option Digest
  fwFall : Option Digest
  deriving DecidableEq, Repr, Inhabited

/-! ### One half -/

/-- Half codes (12 R465). -/
inductive HCode where
  | down | up | drained | inReset | fwRestart
  deriving DecidableEq, Repr, Inhabited

def HCode.code : HCode → Nat
  | .down => 0 | .up => 1 | .drained => 2 | .inReset => 3 | .fwRestart => 4

/-- Firmware codes (12 R465). -/
inductive FCode where
  | running | booting | failed | stopped
  deriving DecidableEq, Repr, Inhabited

def FCode.code : FCode → Nat
  | .running => 0 | .booting => 1 | .failed => 2 | .stopped => 3

/-- A suspect plate: its census position and the time of its charge (13 R302). -/
structure Suspect where
  pos : Nat
  time : Nat
  deriving DecidableEq, Repr, Inhabited

/-- A column of a bank (09 R203). -/
structure Column where
  tray : Bool
  bank : Nat
  column : Nat
  deriving DecidableEq, Repr, Inhabited

/-- Parity errors seen at a column, with their times (09 R204). -/
structure ColSeen where
  col : Column
  times : List Nat
  deriving DecidableEq, Repr, Inhabited

/-- A group of 512 columns of a bank that repair has touched, with its free redundant columns (09 R203, R205). -/
structure ColGroup where
  tray : Bool
  bank : Nat
  group : Nat
  left : Nat
  deriving DecidableEq, Repr, Inhabited

/-- The function of a tray bank (09 R197, R206). -/
inductive TrayFn where
  | voc | mask | input | retired
  deriving DecidableEq, Repr, Inhabited

/-- A key of the mask cache or the vocabulary cache: an image and a state or a token. -/
structure CacheKey where
  digest : Digest
  item : Nat
  deriving DecidableEq, Repr, Inhabited

/-- A row in the vocabulary cache, with the bytes it holds (03 R63, 09 R211). -/
structure RowEnt where
  key : CacheKey
  bytes : List Byte
  deriving DecidableEq, Repr, Inhabited

/-- An entry in the mask cache (05 R120); `bytes`: what a diagnostic write has left in its region (09 R211). -/
structure MaskCell where
  key : CacheKey
  ent : MaskEnt
  bytes : Option (List Byte)
  deriving DecidableEq, Repr, Inhabited

/-- Which rows of a head a half holds: the shard, and all its rows or only those of the half (03 R57, R59, R67). -/
structure HeadShare where
  shards : Nat
  shard : Nat
  all : Bool
  deriving DecidableEq, Repr, Inhabited

/-- A head in a half's head region: filling after a clear, or resident with the rows it was filled from (03 R59-R62). -/
structure HeadRes where
  digest : Digest
  share : HeadShare
  cleared : Bool
  resident : Bool
  used : Nat
  rows : List Byte
  deriving DecidableEq, Repr, Inhabited

/-- A region that the zero engine is to clear before it changes owner (09 R208). -/
inductive ClearFor where
  | head (d : Digest) (shards shard : Nat)
  | finder
  | tray (bank : Nat)
  | spare (pos : Nat)
  | bank
  | slots (n : Nat)
  | fixing (bytes : Nat)
  | cache
  | input (bytes : Nat)
  deriving DecidableEq, Repr, Inhabited

/-- A clear with its bytes (09 R209). -/
structure Clear where
  what : ClearFor
  bytes : Nat
  deriving DecidableEq, Repr, Inhabited

/-- An entry that waits for room or for the fence (09 R197, 10 R229). -/
structure WaitEntry where
  half : Half
  chain : Nat
  hid : Bool
  bytes : List Byte
  deriving DecidableEq, Repr, Inhabited

/-- Owners whose finder entries could not be placed after a position was left empty, with their number (09 R191). -/
structure Unplaced where
  owner : FOwner
  entries : Nat
  deriving DecidableEq, Repr, Inhabited

/-- Stack fetches made for an image (12 R285). -/
structure FetchCount where
  digest : Digest
  n : Nat
  deriving DecidableEq, Repr, Inhabited

structure HalfSt where
  code : HCode
  fw : FCode
  fwi : Option Digest
  bootTries : Nat
  /-- The half has been reset or unpowered since it was drained or lost (18 R436). -/
  needsSurvey : Bool
  /-- Firmware boot, survey and training of a half that returns by itself have reached this step (18 R436). -/
  phase : Phase
  emptyPos : List Nat
  spare : Nat
  retired : Nat
  underTest : Nat
  suspects : List Suspect
  trays : List TrayFn
  stackMask : U16
  rebuild : List (Nat × Nat)
  signature : U64
  cal : U32
  pendingRepairs : List Column
  burnt : List Column
  cut : List Column
  left : Nat
  groups : List ColGroup
  colErrs : List ColSeen
  retention : Bool
  conflicts : List Nat
  choices : List Nat
  faults : List Nat
  finder : List Nat
  steps : List Nat
  maskCache : List MaskCell
  maskFetch : List CacheKey
  vocCache : List RowEnt
  heads : List HeadRes
  fetches : List FetchCount
  clears : List Clear
  dirty : Nat
  /-- The finder's regions (06 R128-R134). -/
  regions : Finder
  unplaced : List Unplaced
  /-- The last master that each arbiter of a port B served (09 R198). -/
  arbiter : Nat
  waiting : List WaitEntry
  railOk : BitVec 9
  vcore : U16
  vmem : U16
  pwr : U16
  tj : Byte
  tpeak : Byte
  /-- Readings at 120 degrees or more without a break (17 R432). -/
  hot : Nat
  stackHot : U16
  trip : Bool
  hold : Bool
  rate : Nat
  latchCtl : List Byte
  latchSb : List Byte
  sbOffset : U16
  safeUp : Bool
  heartbeat : Bool
  strapAddr : BitVec 2
  deriving DecidableEq, Repr, Inhabited

/-! ### Safelight -/

/-- A host region taken from a descriptor (11 R251). -/
structure Region where
  addr : Nat
  len : Nat
  deriving DecidableEq, Repr, Inhabited

/-- An error-log entry (19 R458). -/
structure LogEnt where
  number : Nat
  code : Nat
  half : Nat
  sev : Nat
  time : Nat
  estate : Nat
  src : Nat
  arg0 : Nat
  arg1 : Nat
  detail : List Byte
  deriving DecidableEq, Repr, Inhabited

/-- A fuse command that runs (12 R289). -/
inductive FuseJob where
  | burn (slot : Nat) (h : Half) (done : Nat)
  | program (slot key : Nat)
  | revoke (slot key : Nat)
  deriving DecidableEq, Repr, Inhabited

structure SafeSt where
  bootPtr : U64
  waiting : Bool
  events : U32
  warn : Bool
  flush : Nat
  fuseV : Bool
  target : Option Region
  fuses : List Keyslot
  /-- A keyslot that was being programmed when a burn was cut short (18 R444). -/
  cutKey : Option (Nat × Keyslot)
  fuseJob : Option FuseJob
  logs : Halves (List LogEnt)
  nextW : Nat
  nextE : Nat
  logSel : BitVec 33
  inband : Halves Nat
  rescueEast : Bool
  deriving DecidableEq, Repr, Inhabited

/-! ### Mailbox -/

/-- A request that waits under AFTER, with the time of its notice (11 R249). -/
structure MbxWait where
  slot : Nat
  since : Nat
  deriving DecidableEq, Repr, Inhabited

/-- The principal object of a command, whose state its reply reports when it completes (11 R240). -/
inductive ObjRef where
  | engine
  | image (d : Digest)
  | binding (handle : Nat)
  | route (handle : Nat)
  | fixed (o : ObjState)
  deriving DecidableEq, Repr, Inhabited

/-- A command in execution that has not completed: its code, its copied request, and what it has gathered. `committed`: its commit
record is in the journal (11 R254); `due`: its accesses have ended while no firmware served its slot, `failed` the address of one
that failed; `done`: the command has ended with `status`, and its reply waits for firmware (11 R260). -/
structure Job where
  slot : Nat
  code : Nat
  body : List Byte
  stage : Nat
  left : Nat
  parts : List (List Byte)
  reply : List Byte
  obj : ObjRef
  arg : Nat
  digest : Digest
  half : Half
  committed : Bool := false
  due : Bool := false
  failed : Option Nat := none
  done : Bool := false
  status : Nat := 0
  deriving DecidableEq, Repr, Inhabited

structure MbxSt where
  mem : Mem
  last : Tab Nat
  done : BitVec 256
  irqEn : U16
  waits : List MbxWait
  jobs : List Job
  /-- The half's slots are served by the other half (11 R260). -/
  taken : Halves Bool
  discarded : Nat
  busy : Nat
  takeovers : Nat
  deriving DecidableEq, Repr, Inhabited

/-! ### Memory initiator -/

/-- What an access of the memory initiator port is for. -/
inductive Purpose where
  | bootHeader
  | bootEntries (n : Nat)
  | bootImage (digest : Digest) (role : Nat)
  | job (slot part : Nat)
  | fetch (digest : Digest) (part : Nat)
  | warnFlush
  | hostFlush
  deriving DecidableEq, Repr, Inhabited

/-- An access outstanding at the memory initiator port (17 R416). -/
structure MiAcc where
  half : Half
  tag : Nat
  write : Bool
  addr : Nat
  len : Nat
  data : List Byte
  purpose : Purpose
  retried : Bool
  deriving DecidableEq, Repr, Inhabited

/-! ### Lanes and chains -/

inductive LaneMode where
  | idle | up | dropped
  deriving DecidableEq, Repr, Inhabited

structure Lane where
  mode : LaneMode
  kind : Nat
  chain : Nat
  id : Nat
  /-- The chain of the half that the lane belongs to. -/
  member : Option Nat
  deriving DecidableEq, Repr, Inhabited

/-- A frame to send, and the route its entry belongs to, if any. -/
structure Out where
  typ : Nat
  fflags : Nat
  harg : Nat
  payload : List Byte
  handle : Nat
  deriving DecidableEq, Repr, Inhabited

/-- A frame in the replay buffer (16 R393). -/
structure Sent where
  seq : U32
  out : Out
  deriving DecidableEq, Repr, Inhabited

inductive ChainKind where
  | none | accel | switch | peer
  deriving DecidableEq, Repr, Inhabited

structure Chain where
  kind : ChainKind
  partner : Nat
  expected : U32
  seq : U32
  acked : U32
  replay : List Sent
  /-- The type and the bytes so far of an entry that is split. -/
  part : Option (Nat × List Byte)
  nakked : Bool
  /-- ACK, NAK and CRD frames to send, and replays asked for. -/
  ctl : List Out
  sentCost : Nat × Nat × Nat
  limit : Nat × Nat × Nat
  granted : Nat × Nat × Nat
  /-- The cost of the frames received in each class. -/
  got : Nat × Nat × Nat
  wait : List Out
  quiet : Bool
  paused : Bool
  cnt : List Nat
  deriving DecidableEq, Repr, Inhabited

structure Merid where
  toEast : U16
  toWest : U16
  trained : Bool
  lost : Bool
  deriving DecidableEq, Repr, Inhabited

/-! ### Images, bindings, routes -/

/-- What a load of an image that has failed verification replaces, until the load succeeds (10 R221, 17 R417). -/
structure PriorImage where
  vstatus : Nat
  hostRef : Bool
  total : Nat
  copies : Halves (List Byte)
  lost : Halves Bool
  deriving DecidableEq, Repr, Inhabited

/-- An image of the store (10 R220-R222). An empty byte list is an absent copy. -/
structure Image where
  digest : Digest
  typ : IType
  state : IState
  vstatus : Nat
  hostRef : Bool
  total : Nat
  copies : Halves (List Byte)
  /-- The host regions that the container is fetched from. -/
  src : List Region
  /-- A second fetch of a half's copy runs (10 R219). -/
  refetch : Halves Bool
  /-- The manifest, as the load has read it (10 R221, 12 R270). -/
  man : List Byte := []
  /-- A retired stack has taken the half's copy with it (13 R305). -/
  lost : Halves Bool := ⟨false, false⟩
  prior : Option PriorImage := none
  deriving DecidableEq, Repr, Inhabited

/-- An image set with the settings that depend on it (10 R226, 12 R275). -/
structure ImgSet where
  tki : Digest
  hdi : Digest
  csi : Digest
  sli : Digest
  infmt : Nat
  pin : Bool
  one : Bool
  half : Half
  deriving DecidableEq, Repr, Inhabited

inductive Fence where
  | none | phase1 | set
  deriving DecidableEq, Repr, Inhabited

structure Binding where
  handle : Nat
  state : BState
  set : ImgSet
  /-- The set of a swap that runs, and its HOLD flag. -/
  newSet : Option (ImgSet × Bool)
  flags : Nat
  shards : Nat
  shard : Nat
  prio : Nat
  classSel : Nat
  stream : Half
  profile : List Byte
  bias : List Byte
  stops : List Byte
  stopsN : Nat
  stopFlags : Nat
  endPolicy : Nat
  fence : Fence
  fences : Nat
  /-- ACTIVE is to follow once the pinned head is resident (03 R60). -/
  starting : Bool
  /-- The bytes that a diagnostic write has left in the binding's record on a half (09 R211). -/
  record : Halves (Option (List Byte))
  deriving DecidableEq, Repr, Inhabited

/-- A copy of an entry held for its partner (01 R464). -/
structure Copy where
  step : Nat
  bytes : List Byte
  hid : Bool
  deriving DecidableEq, Repr, Inhabited

/-- Drafts prepared by a DRF frame, with their latent slots once they have them (04 R93, R99). -/
structure Prepared where
  half : Half
  step : Nat
  drafts : List Draft
  held : Bool
  slots : List LSlot
  deriving DecidableEq, Repr, Inhabited

inductive AdmPhase where
  | waitSlots | waitMask | waitHalf | waitPeers | waitRelease | formed | written | acked
  deriving DecidableEq, Repr, Inhabited

/-- A record received from a peer for a position of the route's step (16 R402). `step` is that of position 0. -/
structure PeerRec where
  kind : Nat
  src : Nat
  step : Nat
  pos : Nat
  flags : Nat
  body : List Byte
  deriving DecidableEq, Repr, Inhabited

/-- What a position of the step gives the contact sheet. -/
structure Formed where
  release : Release
  contacts : List Contact
  deriving DecidableEq, Repr, Inhabited

/-- An admitted step and its retained inputs (01 R24): the entry, and what the binding gives the step at admission. -/
structure Adm where
  hid : Bool
  step : Nat
  drafts : List Draft
  body : List Byte
  env : Env
  slots : List LSlot
  strict : Bool
  execs : Nat
  phase : AdmPhase
  formed : Option Formed
  charges : List (Half × Nat)
  /-- The plate position that selects each computed position, and the one that prints its proof (14 R332). -/
  places : List (Nat × Nat)
  deriving DecidableEq, Repr, Inhabited

/-- A route record as a half holds it (09 R196): what a release changes and what was set at the opening. -/
structure RouteRec where
  seed : U64
  salt : Nat
  limit : Nat
  promptN : Nat
  promptDigest : U64
  outSeq : Nat
  rel : Rel
  deriving DecidableEq, Repr, Inhabited

structure Route where
  handle : Nat
  binding : Nat
  state : RState
  /-- A step has been admitted: the state it resumes into is RUNNING. -/
  ran : Bool
  seed : U64
  salt : Nat
  startStep : Nat
  limit : Nat
  oflags : Nat
  deadline : Nat
  chains : Halves (Option Nat)
  half : Half
  stream : Half
  rel : Rel
  /-- The copy of the route record on the other half (09 R196). -/
  mirror : RouteRec
  /-- The bytes that a diagnostic write has left in the record on a half (09 R211). -/
  record : Halves (Option (List Byte))
  promptN : Nat
  promptDigest : U64
  inSeq : Nat
  outSeq : Nat
  intake : List Intake
  intakeEnded : Bool
  /-- Executions of the open segment or of the forced run whose checks have failed, and the plates to charge (07 R169; 13 R301,
  R302). -/
  tries : Nat
  tried : List (Half × Nat)
  ending : EndCause
  rebasedAt : Nat
  adm : Option Adm
  copies : Halves (List Copy)
  peers : List PeerRec
  /-- Refusal summaries of members that answer an entry which the owner has refused itself: source and number (03 R70). -/
  skip : List (Nat × Nat)
  /-- Lone copies that drew ST_STOPPED at the fence: the half of each one's partner, and its step (01 R464). -/
  stoppedSteps : List (Half × Nat)
  drafts : Option Prepared
  /-- A forced run goes on in further releases (01 R27). -/
  forcedMore : Bool
  /-- The opening release waits for a finder that is stopped (06 R136). -/
  openDue : Bool
  /-- The route is to pause once its step and its forced-only releases are over (11 R257). -/
  pauseDue : Bool
  /-- Entries of the next step that wait for the forced-only releases. -/
  entries : List WaitEntry
  /-- The benchmark is being written (10 R231, 12 R279). -/
  saving : Bool
  bench : Option Nat
  /-- The TOK entries and stream records of the last release (13 R310). -/
  lastToks : List (List Byte)
  lastRecs : List (List Byte)
  /-- Stream records that wait for room in the output queue (17 R413). -/
  waitRecs : List (List Byte)
  /-- Input-store and fixing-buffer bytes of the last step until its outputs have left (13 R299). -/
  spent : Nat
  outBytes : Nat
  sinceCheck : Nat
  /-- The record number from which the state can be recomputed, and the journal bytes written before it (14 R342). -/
  checkAt : Nat
  checkBytes : Nat
  /-- A diagnostic write whose mark is due once the admitted step is released (14 R326, R340). -/
  markDue : Bool
  deriving DecidableEq, Repr, Inhabited

/-- A benchmark in the stacks (12 R279). -/
structure BenchEnt where
  handle : Nat
  route : Nat
  bytes : List Byte
  deriving DecidableEq, Repr, Inhabited

/-- A committed TOK entry that no ACK had covered when its chain went (13 R307). -/
structure Owed where
  half : Half
  chain : Nat
  out : Out
  deriving DecidableEq, Repr, Inhabited

/-! ### Journal -/

/-- A journal record (14 R338). `saved`: it has been written to host memory (14 R342). -/
structure JRec where
  number : Nat
  kind : Nat
  east : Bool
  payload : List Byte
  time : Nat
  subject : Nat
  saved : Bool := false
  deriving DecidableEq, Repr, Inhabited

/-- A flush of the journal to host memory, and the numbers of its records (12 R287). -/
structure Flush where
  region : Region
  numbers : List Nat
  first : Nat
  records : Nat
  bytes : Nat
  done : Bool
  deriving DecidableEq, Repr, Inhabited

structure JrSt where
  recs : List JRec
  next : Nat
  written : Nat
  /-- The block of numbers that the East half has reserved (14 R337). -/
  eastNext : Nat
  eastEnd : Nat
  host : Option Flush
  warn : Option Flush
  deriving DecidableEq, Repr, Inhabited

/-! ### Stream ports -/

/-- A 16-byte slot of the outbound stream (17 R410). -/
structure Slot where
  hdr : Bool
  bytes : List Byte
  deriving DecidableEq, Repr, Inhabited

structure StrSt where
  queue : List Slot
  /-- The slots that have left of a record whose last slots still wait. -/
  part : List Slot
  /-- Refusals of records that name no route with a stream of records, while the queue has no room (07 R164). -/
  stray : List (List Byte)
  last : List (List Slot)
  again : List (List Slot)
  inNak : Bool
  inDepth : BitVec 4
  deriving DecidableEq, Repr, Inhabited

/-! ### Level lines -/

/-- A member that the datum engine knows (15 R365). -/
structure Member where
  position : Nat
  serial : Nat
  pair : Nat
  inBarrier : Bool
  deriving DecidableEq, Repr, Inhabited

/-- A level message to send. -/
structure LmOut where
  pair : Pair
  code : Nat
  msg : LmMsg
  deriving DecidableEq, Repr, Inhabited

structure LvSt where
  strap : Bool
  checking : Bool
  acts : Bool
  refused : Bool
  member : Bool
  alone : Bool
  position : Nat
  count : Nat
  members : List Member
  /-- The pair towards each serial number heard from below. -/
  below : List (Nat × Nat)
  formed : Bool
  base : U64
  delay : Option Nat
  withdrawn : Bool
  ready : Bool
  echo : Nat
  out : List LmOut
  edges : Nat
  /-- Serving alone and asking for admission (15 R368). -/
  seeking : Bool
  /-- Members that are admitted, or that a datum engine back from a warm restart still knows, and that the next formation or release
takes into the barrier (15 R367, R368, R370). -/
  joining : List Nat
  deriving DecidableEq, Repr, Inhabited

/-! ### Test access (17 R427) -/

/-- Instructions of the test access port that every state knows; the others are by number. -/
inductive TapInstr where
  | idcode | bypass | sample
  | other (n : Nat)
  deriving DecidableEq, Repr, Inhabited

structure Tap where
  ir : TapInstr
  deriving DecidableEq, Repr, Inhabited

/-! ### The whole -/

structure State where
  pending : List Instr
  eng : EngSt
  half : Halves HalfSt
  safe : SafeSt
  mbx : MbxSt
  mi : List MiAcc
  lanes : Halves (List Lane)
  chains : Halves (List Chain)
  merid : Merid
  img : Tab Image
  bnd : Tab Binding
  bndGen : Tab Nat
  rt : Tab Route
  rtGen : Tab Nat
  bench : Tab BenchEnt
  benchGen : Tab Nat
  owed : List Owed
  jr : JrSt
  str : Halves StrSt
  level : LvSt
  tap : Tap
  time : U64
  timeLost : Bool
  free : Nat
  deriving DecidableEq, Repr, Inhabited

/-! ### Reset -/

def EngSt.reset : EngSt :=
  { state := .reset, limp := false, strict := false, pcapW := 0, pcapE := 0, tset := 0, serial := 0
    phase := .held, warm := false, coreRst := true, safeRst := true, fullTest := false, declared := 1, waitS := 1
    boot := [], restartDue := false, recovered := false, staged := none, fwRun := none, fwFall := none }

/-- A half after reset. RAIL_OK, VMEM and VCORE are measured (19 R455): the rails of 17 R428 in range but for
VDD_FUSE (log 2). -/
def HalfSt.reset : HalfSt :=
  { code := .inReset, fw := .booting, fwi := none, bootTries := 0, needsSurvey := false, phase := .held
    emptyPos := [], spare := 8, retired := 0, underTest := 0, suspects := []
    trays := List.replicate 24 .voc ++ List.replicate 8 .mask ++ List.replicate 4 .input
    stackMask := 0xFFFF, rebuild := []
    signature := 0, cal := 0, pendingRepairs := [], burnt := [], cut := [], left := 256, groups := []
    colErrs := [], retention := false
    conflicts := List.replicate 9 0, choices := List.replicate 4 0, faults := List.replicate 7 0
    finder := List.replicate 3 0, steps := List.replicate 4 0
    maskCache := [], maskFetch := [], vocCache := [], heads := [], fetches := [], clears := [], dirty := 0
    regions := [], unplaced := [], arbiter := 0, waiting := []
    railOk := 0x0FF, vcore := 750, vmem := 800, pwr := 0, tj := 0x80, tpeak := 0x80, hot := 0, stackHot := 0
    trip := false, hold := false, rate := 0, latchCtl := zeros 64, latchSb := zeros 64, sbOffset := 0
    safeUp := true, heartbeat := true, strapAddr := 0 }

def Keyslot.reset : Keyslot := { digest := 0, cls := 0, state := .empty }

def SafeSt.reset : SafeSt :=
  { bootPtr := 0, waiting := false, events := 0, warn := false, flush := 0, fuseV := false, target := none
    fuses := List.replicate 8 Keyslot.reset, cutKey := none, fuseJob := none, logs := ⟨[], []⟩, nextW := 0, nextE := 0
    logSel := 0, inband := ⟨0, 0⟩, rescueEast := false }

def MbxSt.reset : MbxSt :=
  { mem := [], last := [], done := 0, irqEn := 0, waits := [], jobs := [], taken := ⟨false, false⟩
    discarded := 0, busy := 0, takeovers := 0 }

def Lane.reset : Lane := { mode := .idle, kind := 0, chain := 0, id := 0, member := none }

def Chain.reset : Chain :=
  { kind := .none, partner := 0, expected := 0, seq := 0, acked := 0, replay := [], part := none, nakked := false
    ctl := [], sentCost := (0, 0, 0), limit := (0, 0, 0), granted := (0, 0, 0), got := (0, 0, 0), wait := [], quiet := false
    paused := false, cnt := [0, 0, 0, 0] }

def JrSt.reset : JrSt := { recs := [], next := 0, written := 0, eastNext := 0, eastEnd := 0, host := none, warn := none }

def StrSt.reset : StrSt := { queue := [], part := [], stray := [], last := [], again := [], inNak := false, inDepth := 0 }

def LvSt.reset : LvSt :=
  { strap := false, checking := false, acts := false, refused := false, member := false, alone := false
    position := 0, count := 1, members := [], below := [], formed := false, base := 0, delay := none
    withdrawn := false, ready := false, echo := 0, out := [], edges := 0, seeking := false, joining := [] }

/-- The port after its reset holds IDCODE, as IEEE 1149.1 has it. PRESUMED (log 101), unsafe. -/
def Tap.reset : Tap := { ir := .idcode }

/-- In OFF, RESET and HALT the port executes every instruction; elsewhere IDCODE, BYPASS and SAMPLE, and every other one acts as
BYPASS (17 R427). -/
def EState.tapExecutes (e : EState) (i : TapInstr) : TapInstr :=
  if e = .off ∨ e = .reset ∨ e = .halt then i
  else match i with
    | .other _ => .bypass
    | i => i

/-- IDCODE (17 R427). -/
def idcode : BitVec 32 := 0x2#4 ++ 0x0B59#16 ++ Config.jedecCode ++ 1#1

def Merid.reset : Merid := { toEast := 0, toWest := 0, trained := false, lost := false }

/-- The machine right after reset: RESET, both resets asserted, nothing stored (11 R255, 15 R348, 19 R445-R461). -/
def State.reset : State :=
  { pending := [], eng := .reset, half := ⟨.reset, .reset⟩, safe := .reset, mbx := .reset, mi := []
    lanes := ⟨List.replicate 16 .reset, List.replicate 16 .reset⟩
    chains := ⟨List.replicate 16 .reset, List.replicate 16 .reset⟩
    merid := .reset, img := [], bnd := [], bndGen := [], rt := [], rtGen := [], bench := [], benchGen := []
    owed := [], jr := .reset, str := ⟨.reset, .reset⟩, level := .reset, tap := .reset, time := 0, timeLost := false, free := 0 }

end Sys2Proof.Machine
end

