-- ==== Sys2Proof/Machine/Ops.lean ====
section
/-! DEFINITION. The named operations over the state: counters, free values, the error log (19 R457, R458), the
traverse journal (14 R336-R342), accesses of the memory initiator port (17 R416), frames to send (16 R389-R395) and
outbound stream slots (17 R410-R413). -/
namespace Sys2Proof.Machine

/-! ### Halves and counters -/

def State.hs (s : State) (h : Half) : HalfSt := s.half.get h

def State.onHalf (s : State) (h : Half) (f : HalfSt → HalfSt) : State := { s with half := s.half.modify h f }

/-- A counter saturates at 2^64 - 1 (09 R201). -/
def satAdd (a b : Nat) : Nat := min (a + b) (2 ^ 64 - 1)

def bump (l : List Nat) (i n : Nat) : List Nat := l.set i (satAdd (l.getD i 0) n)

/-- Counter set 2: parity errors 0, residues 1, proof prints 2, re-executions 3, retirements 4, refetches 5,
soft repairs 6 (12 R282). -/
def State.countFault (s : State) (h : Half) (i n : Nat) : State := s.onHalf h fun x => { x with faults := bump x.faults i n }

/-- Counter set 6: admitted 0, releases 1, duplicates 2, DRF frames discarded 3 (12 R282). -/
def State.countStep (s : State) (h : Half) (i n : Nat) : State := s.onHalf h fun x => { x with steps := bump x.steps i n }

/-- Counter set 1: dispatcher balancing 0, bank arbiters 1, meridian arbiter 2, stack schedulers 3 (14 R333). -/
def State.countChoice (s : State) (h : Half) (i n : Nat) : State := s.onHalf h fun x => { x with choices := bump x.choices i n }

/-- Take `n` free values: the number of the first one (log 9). -/
def State.takeFree (s : State) (n : Nat) : Nat × State := (s.free, { s with free := s.free + n })

/-- A free number of `k` bytes (log 9). -/
def freeNat (n k : Nat) : Nat := leNat ((List.range k).map fun i => Config.freeByte (n + i))

/-- A count that the manual leaves to timing: a fresh free byte (09 R198, R201; 14 R333; log 9). -/
def State.freeCount (s : State) : Nat × State := (freeNat s.free 1, (s.takeFree 1).2)

/-- Set 1 of the counters: choices whose number depends on timing (14 R333; log 9). -/
def State.timedChoices (s : State) (h : Half) (i : Nat) : State := s.freeCount.2.countChoice h i s.freeCount.1

/-- Conflicts of same-word accesses in one beat are counted for both masters (09 R199, R201). -/
def State.countConflict (s : State) (h : Half) (a b : Master) (n : Nat) : State :=
  s.onHalf h fun x => { x with conflicts := bump (bump x.conflicts a.code n) b.code n }

/-- A count of 32 bits that does not wrap (00 R14; log 102). -/
def inc32 (x : U32) : U32 := if x = 0xFFFFFFFF#32 then x else x + 1

/-- A number of a field of `n` values that does not wrap (00 R14; log 102). -/
def topOut (n v : Nat) : Nat := min v (n - 1)

/-- The half is part of the engine: it serves steps (12 R465). -/
def HalfSt.serves (x : HalfSt) : Bool := x.code == .up || x.code == .fwRestart

def State.bothServe (s : State) : Bool := s.half.w.serves && s.half.e.serves

/-- The half that serves alone, or West. -/
def State.survivor (s : State) : Half := if s.half.w.serves then .west else if s.half.e.serves then .east else .west

/-- The engine is in service: SERVICE, LIMP or DRAIN (11 R255). -/
def State.inService (s : State) : Bool := s.eng.state == .service || s.eng.state == .limp || s.eng.state == .drain

/-- The engine takes and releases steps: it is in service, and no supply warning stands (11 R255; 15 R378). -/
def State.serving (s : State) : Bool := s.inService && !s.safe.warn

/-! ### The error log -/

/-- The two controllers run and hear each other (11 R261, 19 R457). -/
def State.reach (s : State) : Bool :=
  s.half.w.safeUp && s.half.e.safeUp && s.half.w.heartbeat && s.half.e.heartbeat

def logRing : Nat := 4096

/-- Add an entry to an island's ring, the oldest overwritten first (19 R457). -/
def logPush (l : List LogEnt) (e : LogEnt) : List LogEnt := if l.length < logRing then l ++ [e] else l.tail ++ [e]

def maxNumber (src : Nat) (l : List LogEnt) : Option Nat :=
  ((l.filter fun e => e.src == src).map (·.number)).max?

/-- The controller that writes an entry: the half's own, or another that runs (19 R457). -/
def State.logger (s : State) (h : Half) : Option Half :=
  if s.reach then some .west
  else if (s.hs h).safeUp then some h
  else if (s.hs h.other).safeUp then some h.other
  else none

/-- Sides of the engine in a log entry (19 R458). -/
def engineSide : Nat := 0xFF

/-- Write an error-log entry for a half or the engine. Each entry is a safelight event (12 R286). -/
def State.log (s : State) (side : Nat) (sev code arg0 arg1 : Nat) (detail : List Byte) : State :=
  match s.logger (if side = 1 then .east else .west) with
  | none => s
  | some .west =>
    let e : LogEnt := ⟨s.safe.nextW, code, side, sev, s.time.toNat, s.eng.state.code, 0, arg0, arg1, fitTo 24 detail⟩
    let logs : Halves (List LogEnt) :=
      ⟨logPush s.safe.logs.w e, if s.reach then logPush s.safe.logs.e e else s.safe.logs.e⟩
    { s with safe := { s.safe with logs := logs, nextW := s.safe.nextW + 1, events := inc32 s.safe.events } }
  | some .east =>
    let n := max s.safe.nextE (((maxNumber 0 s.safe.logs.e).map (· + 1)).getD 0)
    let e : LogEnt := ⟨n, code, side, sev, s.time.toNat, s.eng.state.code, 1, arg0, arg1, fitTo 24 detail⟩
    { s with safe := { s.safe with logs := { s.safe.logs with e := logPush s.safe.logs.e e }, nextE := n + 1
                                   events := inc32 s.safe.events } }

def logLe (a b : LogEnt) : Bool := decide (a.number < b.number) || (a.number == b.number && decide (a.src ≤ b.src))

def logInsert (e : LogEnt) : List LogEnt → List LogEnt
  | [] => [e]
  | x :: t => if logLe e x then (if e = x then x :: t else e :: x :: t) else x :: logInsert e t

/-- Both controllers copy the entries they lack; the West series goes on above both (19 R457). -/
def State.mergeLogs (s : State) : State :=
  if s.reach then
    let all := s.safe.logs.e.foldl (fun l e => if l.contains e then l else logInsert e l) s.safe.logs.w
    let all := all.drop (all.length - logRing)
    let top := ((all.map (·.number)).max?.map (· + 1)).getD 0
    { s with safe := { s.safe with logs := ⟨all, all⟩, nextW := max s.safe.nextW top } }
  else s

/-- The 64 bytes of an entry (19 R458). -/
def LogEnt.bytes (e : LogEnt) : List Byte :=
  toLe 4 (topOut (2 ^ 32) e.number) ++ toLe 2 e.code ++ toLe 1 e.half ++ toLe 1 e.sev ++ toLe 8 e.time ++ toLe 1 e.estate ++
  toLe 1 e.src ++ zeros 6 ++ toLe 8 e.arg0 ++ toLe 8 e.arg1 ++ fitTo 24 e.detail

/-! ### The traverse journal -/

def JRec.size (r : JRec) : Nat := 32 + roundUp r.payload.length 32

/-- A record's bytes: header, payload, padding (14 R338). -/
def JRec.bytes (r : JRec) : List Byte :=
  let head := toLe 8 r.number ++ toLe 2 r.kind ++ toLe 2 (b2n r.east) ++ toLe 4 r.payload.length ++ toLe 8 r.time ++
    toLe 4 r.subject
  head ++ toLe 4 (crc32c (head ++ r.payload)).toNat ++ padTo 32 r.payload

/-- The journal ring of each half (14 R336). -/
def journalRing : Nat := 64 * 2 ^ 30

def jInsert (r : JRec) : List JRec → List JRec
  | [] => [r]
  | x :: t => if r.number < x.number then r :: x :: t else x :: jInsert r t

def jHeld (l : List JRec) : Nat := (l.map JRec.size).sum

/-- Records are overwritten in number order (14 R341). -/
def jTrim : List JRec → List JRec
  | [] => []
  | r :: t => if jHeld (r :: t) ≤ journalRing then r :: t else jTrim t

/-- The number the next record of a half takes, with the counter and the East block after it (14 R337). -/
def JrSt.number (j : JrSt) (east : Bool) : Nat × JrSt :=
  if east then
    if j.eastNext < j.eastEnd then (j.eastNext, { j with eastNext := j.eastNext + 1 })
    else (j.next, { j with eastNext := j.next + 1, eastEnd := j.next + 4096, next := j.next + 4096 })
  else (j.next, { j with next := j.next + 1 })

/-- The records of one route or slot stand in number order: the East half leaves a block whose numbers lie below the subject's
last one (14 R337). -/
def JrSt.after (j : JrSt) (east : Bool) (subject : Nat) : JrSt :=
  if east && j.recs.any fun r => r.subject == subject && decide (j.eastNext ≤ r.number) then { j with eastNext := 0, eastEnd := 0 } else j

/-- A journal exists while the stacks run (15 R381, 11 R256). -/
def State.journals (s : State) : Bool := !(s.eng.state == .off || s.eng.state == .reset)

def JrSt.add (j : JrSt) (east : Bool) (kind time subject : Nat) (payload : List Byte) : JrSt :=
  let n := (j.after east subject).number east
  let r : JRec := { number := n.1, kind := kind, east := east, payload := payload, time := time, subject := subject }
  { n.2 with recs := jTrim (jInsert r n.2.recs), written := n.2.written + r.size }

/-- FLUSHED: the lowest record number that has not been written to host memory (14 R342). -/
def JrSt.flushed (j : JrSt) : Nat := ((j.recs.find? fun r => !r.saved).map fun r => r.number).getD j.next

/-- The unflushed records (14 R342). -/
def JrSt.unflushed (j : JrSt) : List JRec := j.recs.filter fun r => decide (j.flushed ≤ r.number)

/-- Records have been written to host memory (14 R342). -/
def JrSt.save (j : JrSt) (numbers : List Nat) : JrSt :=
  { j with recs := j.recs.map fun r => if numbers.contains r.number then { r with saved := true } else r }

/-- Write a journal record by a half (14 R336). -/
def State.journal (s : State) (h : Half) (kind subject : Nat) (payload : List Byte) : State :=
  if s.journals then { s with jr := s.jr.add (h == .east) kind s.time.toNat subject payload } else s

/-- A JR_RECOVERY record (14 R340). -/
def State.recovery (s : State) (h : Half) (cause handle step : Nat) : State :=
  s.journal h 0x30 handle (toLe 2 cause ++ zeros 2 ++ toLe 4 handle ++ toLe 4 step)

/-- A JR_MARK record (14 R340). -/
def State.mark (s : State) (h : Half) (kind subject step binding : Nat) : State :=
  s.journal h 0x31 subject (toLe 2 kind ++ zeros 2 ++ toLe 4 step ++ toLe 4 binding)

/-! ### Memory initiator -/

/-- A tag of the half's port that no access uses. -/
def freeTag (l : List MiAcc) (h : Half) : Nat :=
  ((List.range 256).find? fun t => !(l.any fun a => a.half == h && a.tag == t)).getD 0

def State.miStart (s : State) (h : Half) (write : Bool) (addr len : Nat) (data : List Byte) (p : Purpose) : State :=
  { s with mi := s.mi ++ [⟨h, freeTag s.mi h, write, addr, len, data, p, false⟩] }

def State.miRead (s : State) (h : Half) (addr len : Nat) (p : Purpose) : State := s.miStart h false addr len [] p

def State.miWrite (s : State) (h : Half) (addr : Nat) (data : List Byte) (p : Purpose) : State :=
  s.miStart h true addr data.length data p

/-! ### Frames to send -/

def ftHid : Nat := 0x01
def ftLgt : Nat := 0x02
def ftDrf : Nat := 0x03
def ftTok : Nat := 0x10
def ftPrt : Nat := 0x20
def ftSyn : Nat := 0x30
def ftAck : Nat := 0x40
def ftCrd : Nat := 0x41

def chainAt (l : List Chain) (c : Nat) : Chain := l.getD c Chain.reset

def State.chain (s : State) (h : Half) (c : Nat) : Chain := chainAt (s.chains.get h) c

def State.onChain (s : State) (h : Half) (c : Nat) (f : Chain → Chain) : State :=
  { s with chains := s.chains.modify h fun l => l.set c (f (chainAt l c)) }

/-- A chain in service (16 R385, 12 R286). -/
def Chain.up (c : Chain) : Bool := c.kind != .none && !c.quiet

def Chain.isStep (c : Chain) : Bool := c.kind == .accel || c.kind == .switch

def Chain.stepUp (c : Chain) : Bool := c.isStep && !c.quiet

def Chain.peerUp (c : Chain) : Bool := c.kind == .peer && !c.quiet

/-- Payload flits (16 R389). -/
def Out.flits (o : Out) : Nat := (o.payload.length + 255) / 256

def Out.size (o : Out) : Nat := 32 + 256 * o.flits

/-- Credit class: 0 CC_STEP, 1 CC_PEER, 2 CC_SYN (16 R394). -/
def creditClass (typ : Nat) : Nat := if typ = ftPrt then 1 else if typ = ftSyn then 2 else 0

def trip (x : Nat × Nat × Nat) (c : Nat) : Nat := if c = 0 then x.1 else if c = 1 then x.2.1 else x.2.2

def tripSet (x : Nat × Nat × Nat) (c v : Nat) : Nat × Nat × Nat :=
  if c = 0 then (v, x.2.1, x.2.2) else if c = 1 then (x.1, v, x.2.2) else (x.1, x.2.1, v)

/-- A count is within LIMIT, modulo 2^32 with a difference below 2^31 (16 R394). -/
def within (count limit : Nat) : Bool := decide ((limit + 2 ^ 32 - count % 2 ^ 32) % 2 ^ 32 < 2 ^ 31)

def replayBytes (l : List Sent) : Nat := (l.map fun x => x.out.size).sum

def Chain.canSend (c : Chain) (o : Out) : Bool :=
  let k := creditClass o.typ
  c.up && !c.paused && within (trip c.sentCost k + o.flits + 1) (trip c.limit k) &&
    decide (replayBytes c.replay + o.size ≤ 65536)

def Chain.send (c : Chain) (o : Out) : Chain :=
  let k := creditClass o.typ
  { c with replay := c.replay ++ [⟨c.seq, o⟩], seq := c.seq + 1
           sentCost := tripSet c.sentCost k ((trip c.sentCost k + o.flits + 1) % 2 ^ 32) }

/-- The next frame to send: the first that waits, or the first SYN behind TOK frames that wait for credit (16 R405). -/
def Chain.nextOut (c : Chain) : List Out → Option (Out × List Out)
  | [] => none
  | o :: t =>
    if c.canSend o then some (o, t)
    else if o.typ = ftTok then (c.nextOut t).bind fun r => if r.1.typ = ftSyn then some (r.1, o :: r.2) else none
    else none

/-- Frames leave while credits and the replay buffer allow (16 R393, R394). -/
def Chain.pump (c : Chain) : Nat → Chain
  | 0 => c
  | fuel + 1 =>
    match c.nextOut c.wait with
    | some r => Chain.pump (({ c with wait := r.2 } : Chain).send r.1) fuel
    | none => c

def Chain.flow (c : Chain) : Chain := c.pump c.wait.length

/-- Queue a frame on a chain and let frames leave. -/
def State.sendOut (s : State) (h : Half) (c : Nat) (o : Out) : State :=
  s.onChain h c fun x => ({ x with wait := x.wait ++ [o] } : Chain).flow

/-- One TOK entry in one TOK frame. -/
def tokOut (handle : Nat) (entry : List Byte) : Out := ⟨ftTok, 0, 1, entry, handle⟩

def State.sendTok (s : State) (h : Half) (c : Option Nat) (t : TokEntry) : State :=
  match c with
  | some k => s.sendOut h k (tokOut t.handle t.bytes)
  | none => s

/-- The peer chains in service of a half, in ascending number (16 R388). -/
def State.peerChains (s : State) (h : Half) : List Nat :=
  (List.range 16).filter fun c => (s.chain h c).peerUp

/-- The lowest-numbered step chain in service of a half (13 R307). -/
def State.lowestStep (s : State) (h : Half) : Option Nat := (List.range 16).find? fun c => (s.chain h c).stepUp

/-- Bytes of a frame's payload: at most 64 flits (16 R389). -/
def maxPayload : Nat := 16384

/-- The frames of one peer entry, split where it is longer than a frame (16 R390). -/
def prtFrames : Nat → Bool → List Byte → List Out
  | 0, _, _ => []
  | fuel + 1, cont, b =>
    let more := decide (b.length > maxPayload)
    let part := b.take maxPayload
    ⟨ftPrt, b2n cont + 2 * b2n more, b2n (!cont) + 2 ^ 32 * (if cont then part.length else 0), part, 0⟩ ::
      (if more then prtFrames fuel true (b.drop maxPayload) else [])

/-- Send a peer entry to a member position on the chain R388 names. -/
def State.sendPrt (s : State) (h : Half) (dst : Nat) (entry : List Byte) : State :=
  let cs := s.peerChains h
  match cs[dst % max 1 cs.length]? with
  | some c => (prtFrames (entry.length / maxPayload + 1) false entry).foldl (fun t o => t.sendOut h c o) s
  | none => s

/-- Send a SYN body on a chain (16 R404). -/
def State.sendSyn (s : State) (h : Half) (c : Nat) (body : List Byte) : State :=
  s.sendOut h c ⟨ftSyn, 0, 0, body, 0⟩

/-- An ACK or NAK (16 R389, R392). -/
def ackOut (nak : Bool) (acked : U32) : Out := ⟨ftAck, 4 * b2n nak, acked.toNat, [], 0⟩

/-- A credit frame (16 R394). -/
def crdOut (cls limit : Nat) : Out := ⟨ftCrd, 0, cls + 2 ^ 32 * limit, [], 0⟩

/-! ### Stream slots -/

/-- The output queue of a half's stream port (17 R413). -/
def streamQueue : Nat := 16 * 2 ^ 20

def slotsOf (rec : List Byte) : List Slot :=
  (List.range ((rec.length + 15) / 16)).map fun i => ⟨i == 0, slice rec (16 * i) 16⟩

def StrSt.room (x : StrSt) (rec : List Byte) : Bool :=
  decide (16 * x.queue.length + roundUp rec.length 16 ≤ streamQueue)

/-- The slots from the last record header on. -/
def lastRecord (l : List Slot) : List Slot := l.foldl (fun acc x => if x.hdr then [x] else acc ++ [x]) []

/-- Up to eight slots leave as one beat, and a NAK pulse is over; the last 16 beats are kept (17 R410, R412). -/
def StrSt.beat (x : StrSt) : StrSt :=
  let x : StrSt := { x with inNak := false }
  match x.again with
  | b :: t => { x with again := t, last := (x.last ++ [b]).drop (x.last.length + 1 - 16) }
  | [] =>
    if x.queue.isEmpty then x
    else
      let b := x.queue.take 8
      let rest := x.queue.drop 8
      let open_ := match rest with
        | y :: _ => !y.hdr
        | [] => false
      { x with queue := rest, part := if open_ then lastRecord (x.part ++ b) else [], last := (x.last ++ [b]).drop (x.last.length + 1 - 16) }

/-- Put the records that wait of one route into the queue while there is room. -/
def StrSt.take (x : StrSt) : List (List Byte) → StrSt × List (List Byte)
  | [] => (x, [])
  | r :: t => if x.room r then StrSt.take { x with queue := x.queue ++ slotsOf r } t else (x, r :: t)

/-- Refusals that wait enter the queue as room allows. -/
def StrSt.strays (x : StrSt) : StrSt := let y := x.take x.stray; { y.1 with stray := y.2 }

/-! ### Routes and bindings by handle -/

def routeIndex (handle : Nat) : Nat := handle % 2 ^ 18
def bindingIndex (handle : Nat) : Nat := handle % 2 ^ 16

def State.route (s : State) (handle : Nat) : Option Route :=
  match s.rt.get? (routeIndex handle) with
  | some r => if r.handle = handle then some r else none
  | none => none

def State.setRoute (s : State) (r : Route) : State := { s with rt := s.rt.put (routeIndex r.handle) r }

def State.binding (s : State) (handle : Nat) : Option Binding :=
  match s.bnd.get? (bindingIndex handle) with
  | some b => if b.handle = handle then some b else none
  | none => none

def State.setBinding (s : State) (b : Binding) : State := { s with bnd := s.bnd.put (bindingIndex b.handle) b }

/-- The routes of a binding, in index order. -/
def State.routesOf (s : State) (binding : Nat) : List Route :=
  s.rt.vals.filter fun r => r.binding == binding

/-- Routes of the table that are not ENDED. -/
def liveRoute (r : Route) : Bool := r.state != .ended

/-- The image of a digest (10 R220). -/
def State.image (s : State) (d : Digest) : Option Image :=
  match s.img.get? d.toNat with
  | some i => if i.digest = d then some i else none
  | none => none
def State.setImage (s : State) (i : Image) : State := { s with img := s.img.put i.digest.toNat i }

/-- The bytes of an image, from the half's copy or the other's. -/
def Image.bytes (i : Image) : List Byte := if i.copies.w.isEmpty then i.copies.e else i.copies.w

/-! ### Stream output of a route -/

/-- Queue records of a route on its stream: those that wait go first (17 R413). -/
def State.queueRecs (s : State) (r : Route) (recs : List (List Byte)) : State :=
  let x := (s.str.get r.stream).take (r.waitRecs ++ recs)
  ({ s with str := s.str.set r.stream x.1 }).setRoute { r with waitRecs := x.2 }

/-- Give outbound records their SEQ (07 R163). -/
def numberRecs (handle seq : Nat) : List OutRec → List (List Byte)
  | [] => []
  | r :: t => streamRecord handle r.kind r.flags r.status (topOut (2 ^ 32) seq) r.payload :: numberRecs handle (seq + 1) t

/-- The route record of the half that serves it (09 R196). -/
def Route.recOf (r : Route) : RouteRec :=
  { seed := r.seed, salt := r.salt, limit := r.limit, promptN := r.promptN, promptDigest := r.promptDigest, outSeq := r.outSeq
    rel := r.rel }

/-- A route as a record has it. -/
def Route.ofRec (r : Route) (x : RouteRec) : Route :=
  { r with seed := x.seed, salt := x.salt, limit := x.limit, promptN := x.promptN, promptDigest := x.promptDigest
           outSeq := x.outSeq, rel := x.rel }

/-- The other half's copy takes the route's state (09 R196). -/
def Route.synced (r : Route) : Route := { r with mirror := r.recOf }

/-- While both halves serve, the other half's copy follows the serving half's (09 R196). -/
def State.twin (s : State) (r : Route) : Route := if s.bothServe then r.synced else r

/-- Send outbound records of a route; both copies of its record count them. -/
def State.emit (s : State) (r : Route) (recs : List OutRec) : State :=
  s.queueRecs (s.twin { r with outSeq := topOut (2 ^ 32) (r.outSeq + recs.length) }) (numberRecs r.handle r.outSeq recs)

/-- Every route's records that wait enter the queue of their stream as room allows. -/
def State.streamFlow (s : State) (h : Half) : State :=
  s.rt.vals.foldl (fun t r => if r.stream == h && !r.waitRecs.isEmpty then t.queueRecs r [] else t) s

/-- An idle tick: a nanosecond passes, one beat leaves each stream port, and the acknowledgements, credits and level
messages that were due have left (log 7). -/
def State.tick (s : State) : State :=
  let a : State :=
    { s with time := s.time + 1, str := s.str.map (fun x => x.beat.strays), level := { s.level with out := [] }
             chains := s.chains.map (·.map fun c => { c with ctl := [] }) }
  (a.streamFlow .west).streamFlow .east

end Sys2Proof.Machine
end

