-- ==== Sys2Proof/Machine/Mailbox.lean ====
section
/-! DEFINITION. The Yesum mailbox: slots, the seal handshake, the order of checks, waits under AFTER, replies
(11 R238-R254, R259-R261; 12 R262-R264). -/
namespace Sys2Proof.Machine

/-! ### The catalogue (12) -/

def cQuery : Nat := 0x0101
def cConfigure : Nat := 0x0102
def cDrain : Nat := 0x0103
def cServe : Nat := 0x0104
def cHalt : Nat := 0x0105
def cRestart : Nat := 0x0106
def cLoad : Nat := 0x0201
def cRelease : Nat := 0x0202
def cImgQuery : Nat := 0x0203
def cImgList : Nat := 0x0204
def cCreate : Nat := 0x0301
def cStart : Nat := 0x0302
def cStop : Nat := 0x0303
def cSwap : Nat := 0x0304
def cRetire : Nat := 0x0305
def cBndQuery : Nat := 0x0306
def cOpen : Nat := 0x0401
def cPause : Nat := 0x0402
def cSave : Nat := 0x0403
def cResume : Nat := 0x0404
def cEnd : Nat := 0x0405
def cRtQuery : Nat := 0x0406
def cDiscard : Nat := 0x0407
def cExport : Nat := 0x0408
def cCounters : Nat := 0x0501
def cCensus : Nat := 0x0502
def cResidency : Nat := 0x0503
def cBankRead : Nat := 0x0504
def cBankWrite : Nat := 0x0505
def cContact : Nat := 0x0506
def cJExport : Nat := 0x0507
def cSelftest : Nat := 0x0508
def cSnapshot : Nat := 0x0509
def cRescue : Nat := 0x0601
def cLogRead : Nat := 0x0602
def cFlush : Nat := 0x0603
def cQuiesce : Nat := 0x0604
def cWithdraw : Nat := 0x0605
def cHalfReset : Nat := 0x0606
def cFuseStatus : Nat := 0x0607
def cHalfDrain : Nat := 0x0610
def cHalfServe : Nat := 0x0611
def cSuspects : Nat := 0x0612
def cFuseBurn : Nat := 0x0613
def cStackRetire : Nat := 0x0614
def cStackRestore : Nat := 0x0615
def cRetrain : Nat := 0x0616
def cKeyProgram : Nat := 0x0617
def cKeyRevoke : Nat := 0x0618
def cFwStage : Nat := 0x0619
def cFwActivate : Nat := 0x061A
def cRejoin : Nat := 0x061B
def cFlushTarget : Nat := 0x061C

/-- The code of every command of the catalogue, whether it is of class E, and the engine states in which it is
valid, as bits of their codes (11 R255, 12). -/
def catalogue : List (Nat × Bool × Nat) :=
  [(cQuery, false, 0xFC), (cConfigure, true, 0x70), (cDrain, true, 0x30), (cServe, true, 0x40), (cHalt, true, 0x40),
   (cRestart, true, 0x80), (cLoad, true, 0x78), (cRelease, true, 0x78), (cImgQuery, false, 0x78),
   (cImgList, false, 0x78), (cCreate, true, 0x78), (cStart, true, 0x38), (cStop, true, 0x78), (cSwap, true, 0x78),
   (cRetire, true, 0x78), (cBndQuery, false, 0x78), (cOpen, true, 0x30), (cPause, true, 0x70), (cSave, true, 0x70),
   (cResume, true, 0x30), (cEnd, true, 0x70), (cRtQuery, false, 0x70), (cDiscard, true, 0x70), (cExport, true, 0x70),
   (cCounters, false, 0xFC), (cCensus, false, 0xFC), (cResidency, false, 0xFC), (cBankRead, false, 0xFC),
   (cBankWrite, true, 0xF0), (cContact, false, 0xFC), (cJExport, false, 0xFC), (cSelftest, false, 0xF0),
   (cSnapshot, false, 0xFC), (cRescue, false, 0xFF), (cLogRead, false, 0xFF), (cFlush, false, 0xFE),
   (cQuiesce, true, 0xFF), (cWithdraw, true, 0xFF), (cHalfReset, true, 0xFE), (cFuseStatus, false, 0xFF),
   (cHalfDrain, true, 0x10), (cHalfServe, true, 0x60), (cSuspects, true, 0xF0), (cFuseBurn, true, 0xF0),
   (cStackRetire, true, 0xF0), (cStackRestore, true, 0xF0), (cRetrain, true, 0xF0), (cKeyProgram, true, 0xF0),
   (cKeyRevoke, true, 0xF0), (cFwStage, true, 0xF0), (cFwActivate, true, 0x70), (cRejoin, true, 0x70),
   (cFlushTarget, true, 0xFE)]

def listed (code : Nat) : Bool := catalogue.any fun r => r.1 == code

def classE (code : Nat) : Bool := catalogue.any fun r => r.1 == code && r.2.1

/-- The command is valid in an engine state (row 4 of 11 R247). -/
def validIn (code : Nat) (e : EState) : Bool := catalogue.any fun r => r.1 == code && bitOf r.2.2 e.code

/-- Slot 255 accepts only the rescue commands (11 R261). -/
def rescueCode (code : Nat) : Bool := decide (cRescue ≤ code) && decide (code ≤ cFuseStatus)

/-! ### Slots (11 R238-R240) -/

def slotBase (slot : Nat) : Nat := slot * 0x1000

def State.reqBytes (s : State) (slot off n : Nat) : List Byte := s.mbx.mem.readN (slotBase slot + off) n

def State.reqNat (s : State) (slot off n : Nat) : Nat := leNat (s.reqBytes slot off n)

def State.sealCode (s : State) (slot : Nat) : Nat := s.reqNat slot 4 2
def State.sealSeq (s : State) (slot : Nat) : Nat := s.reqNat slot 0 4
def State.sealOwn (s : State) (slot : Nat) : Bool := bitOf (s.reqNat slot 7 1) 7
def State.reqPlen (s : State) (slot : Nat) : Nat := s.reqNat slot 0xA 2
def State.reqPayload (s : State) (slot : Nat) : List Byte := s.reqBytes slot 0x20 (s.reqPlen slot)
def State.afterValid (s : State) (slot : Nat) : Bool := bitOf (s.reqNat slot 9 1) 7
def State.afterSlot (s : State) (slot : Nat) : Nat := s.reqNat slot 8 1
def State.afterSeq (s : State) (slot : Nat) : Nat := s.reqNat slot 0xC 4

/-- LAST of a slot (11 R243). -/
def State.lastOf (s : State) (slot : Nat) : Nat := (s.mbx.last.get? slot).getD 0

/-- The safelight controller that serves slot 255 (11 R261). -/
def State.rescueServer (s : State) : Option Half :=
  if s.half.w.safeUp && !s.safe.rescueEast then some .west
  else if s.half.e.safeUp then some .east
  else if s.half.w.safeUp then some .west
  else none

/-- The firmware that serves a slot (11 R259, R260). -/
def State.slotServer (s : State) (slot : Nat) : Option Half :=
  if slot = 255 then s.rescueServer
  else if s.eng.state == .off || s.eng.state == .reset then none
  else
    let home : Half := if slot < 128 then .west else .east
    let h := if s.mbx.taken.get home then home.other else home
    if (s.hs h).fw == .running then some h else none

/-- The half that writes a slot's journal records. -/
def State.slotHalf (s : State) (slot : Nat) : Half := (s.slotServer slot).getD s.survivor

def State.jobOf (s : State) (slot : Nat) : Option Job := s.mbx.jobs.find? fun j => j.slot == slot

def State.setJob (s : State) (j : Job) : State :=
  { s with mbx := { s.mbx with jobs := j :: s.mbx.jobs.filter fun k => k.slot != j.slot } }

def State.waitOf (s : State) (slot : Nat) : Option MbxWait := s.mbx.waits.find? fun w => w.slot == slot

/-- A supply warning keeps a class E command from its commit point: it waits while the warning stands (15 R378; log 119). -/
def State.warned (s : State) (slot : Nat) : Bool := s.safe.warn && classE (s.sealCode slot)

/-- A sealed request that the engine has not noticed yet, and that it may take. -/
def State.unnoticed (s : State) (slot : Nat) : Bool :=
  s.sealOwn slot && (s.jobOf slot).isNone && (s.waitOf slot).isNone && (s.slotServer slot).isSome && !s.warned slot

/-! ### Replies -/

def engineObj (s : State) : ObjState := ⟨skEngine, s.eng.state.code⟩
def noObj (kind : Nat) : ObjState := ⟨kind, 0xFF⟩
def noImg : ObjState := noObj skImage
def noBnd : ObjState := noObj skBinding
def noRoute : ObjState := noObj skRoute
def imgObj (i : Image) : ObjState := ⟨skImage, i.state.code⟩
def bndObj (b : Binding) : ObjState := ⟨skBinding, b.state.code⟩
def routeObj (r : Route) : ObjState := ⟨skRoute, r.state.code⟩

/-- The state of a principal object now (11 R240). -/
def State.objOf (s : State) : ObjRef → ObjState
  | .engine => engineObj s
  | .image d => ((s.image d).map imgObj).getD noImg
  | .binding h => ((s.binding h).map bndObj).getD noBnd
  | .route h => ((s.route h).map routeObj).getD noRoute
  | .fixed o => o

/-- The object that a request names, by its code and payload (11 R240, 12). -/
def cmdObj (code : Nat) (p : List Byte) : ObjRef :=
  if code = cLoad then .fixed noImg
  else if code = cRelease ∨ code = cImgQuery then .image (digestAt p 0)
  else if code = cCreate ∨ code = cStart ∨ code = cStop ∨ code = cSwap ∨ code = cRetire ∨ code = cBndQuery then .binding (u32At p 0)
  else if code = cOpen then .fixed noRoute
  else if code = cPause ∨ code = cSave ∨ code = cEnd ∨ code = cRtQuery then .route (u32At p 0)
  else if code = cResume then (if bitOf (u32At p 4) 1 then .fixed noRoute else .route (u32At p 8))
  else .engine

/-- The state of the object that a sealed request names. -/
def State.slotObj (s : State) (slot : Nat) : ObjState := s.objOf (cmdObj (s.sealCode slot) (s.reqPayload slot))

/-- The 32-byte reply header (11 R240). -/
def replyHead (status code seq rlen : Nat) (o : ObjState) (jrec time : Nat) : List Byte :=
  toLe 4 seq ++ toLe 2 code ++ toLe 2 status ++ toLe 2 rlen ++ toLe 1 o.kind ++ toLe 1 o.state ++ toLe 4 jrec ++
  toLe 8 time ++ zeros 8

/-- The access is not one of the command in a slot. -/
def MiAcc.notOf (a : MiAcc) (slot : Nat) : Bool :=
  match a.purpose with
  | .job k _ => k != slot
  | _ => true

/-- Give the slot back with a reply: reply half, RSEAL, journal, OWN cleared, completion flag, LAST
(11 R240-R245, R254). Accesses that the command still had outstanding serve nothing any more. -/
def State.answer (s : State) (slot status : Nat) (o : ObjState) (payload : List Byte) (last : Bool) : State :=
  let code := s.sealCode slot
  let seq := s.sealSeq slot
  let h := s.slotHalf slot
  let jrec := if s.journals then ((s.jr.after (h == .east) slot).number (h == .east)).1 else 0
  let full := replyHead status code seq payload.length o jrec s.time.toNat ++ payload
  let base := slotBase slot
  let mem := (s.mbx.mem.clear (base + 0x800) (base + 0x1000)).writeAll (base + 0x800) full
  let mem := mem.write (base + 7) (mem.read (base + 7) &&& 0x7F#8)
  let t := s.journal h 3 slot full
  { t with mbx :=
      { t.mbx with mem := mem, done := t.mbx.done ||| (1#256 <<< slot)
                   last := if last then t.mbx.last.put slot seq else t.mbx.last
                   jobs := t.mbx.jobs.filter fun j => j.slot != slot
                   waits := t.mbx.waits.filter fun w => w.slot != slot }
           mi := t.mi.filter fun a => a.notOf slot }

/-- A completion. -/
def State.reply (s : State) (slot status : Nat) (o : ObjState) (payload : List Byte) : State :=
  s.answer slot status o payload true

/-- A refusal carries no payload (12 R262). -/
def State.refuse (s : State) (slot status : Nat) (o : ObjState) : State := s.reply slot status o []

/-- The journal record of a class E command's commit (11 R254, 14 R338). -/
def State.commit (s : State) (slot : Nat) : State :=
  let t := s.journal (s.slotHalf slot) 4 slot (toLe 2 (s.sealCode slot) ++ zeros 2 ++ toLe 4 (s.sealSeq slot))
  { t with mbx := { t.mbx with jobs := t.mbx.jobs.map fun j => if j.slot = slot then { j with committed := true } else j } }

/-- The commit record of a command that has none (11 R254). -/
def State.commitOnce (s : State) (slot : Nat) : State :=
  if ((s.jobOf slot).map fun j => j.committed).getD false then s else s.commit slot

/-- Commit and complete with ST_OK. -/
def State.commitOk (s : State) (slot : Nat) (o : ObjState) (payload : List Byte) : State :=
  (s.commit slot).reply slot stOk o payload

/-! ### Deciding a request (11 R247) -/

/-- Row 2 but for the catalogue: reserved fields, PLEN and AFTER. -/
def State.row2 (s : State) (slot : Nat) : Bool :=
  s.reqNat slot 6 2 % 2 ^ 15 == 0 && zeroAt (s.reqBytes slot 0 0x20) 0x10 16 && s.reqNat slot 9 1 % 128 == 0 &&
  decide (s.reqPlen slot ≤ 2016) &&
  (slot != 255 || rescueCode (s.sealCode slot)) &&
  !(s.afterValid slot && (s.afterSlot slot == slot || slot == 255))

/-- The dependency under AFTER is met (11 R249). -/
def State.afterMet (s : State) (slot : Nat) : Bool :=
  !s.afterValid slot ||
    decide ((s.lastOf (s.afterSlot slot) + 2 ^ 32 - s.afterSeq slot) % 2 ^ 32 < 2 ^ 31)

/-- The next sequence number a slot takes (11 R243). -/
def State.expectedSeq (s : State) (slot : Nat) : Nat := (s.lastOf slot + 1) % 2 ^ 32

/-- Notice a request: its journal copy. -/
def State.notice (s : State) (slot : Nat) : State :=
  s.journal (s.slotHalf slot) 2 slot (s.reqBytes slot 0 0x20 ++ (s.reqPayload slot).take 2016)

/-- Row 4 and then the command. -/
def State.start (s : State) (slot : Nat) (body : Nat → List Byte → State → State) : State :=
  if validIn (s.sealCode slot) s.eng.state then body slot (s.reqPayload slot) s
  else s.refuse slot stState (engineObj s)

/-- Rows 1 to 4 and then the command. -/
def State.consider (s : State) (slot : Nat) (body : Nat → List Byte → State → State) : State :=
  let t := s.notice slot
  if t.sealSeq slot ≠ t.expectedSeq slot then
    t.answer slot stArg (t.slotObj slot) (toLe 4 (t.expectedSeq slot)) false
  else if !(listed (t.sealCode slot) && t.row2 slot) then t.refuse slot stArg (t.slotObj slot)
  else if !t.afterMet slot then { t with mbx := { t.mbx with waits := ⟨slot, t.time.toNat⟩ :: t.mbx.waits } }
  else t.start slot body

/-- A row of the table acts on its own code, in a slot that is sealed, served and not yet noticed (log 11). -/
def runMailbox (code : Nat) (sel : List Byte → Bool) (body : Nat → List Byte → State → State) (slot : Byte)
    (s : State) : State :=
  if s.unnoticed slot.toNat && s.sealCode slot.toNat == code && sel (s.reqPayload slot.toNat) then
    s.consider slot.toNat body
  else s

/-- Every payload. -/
def anyPayload : List Byte → Bool := fun _ => true

/-! ### Descriptors (11 R251, R252) -/

structure Desc where
  addr : Nat
  len : Nat
  crc : U64
  dir : Nat
  nocrc : Bool
  fine : Bool
  deriving DecidableEq, Repr, Inhabited

def descOf (b : List Byte) : Desc :=
  let d := u8At b 0x18
  let dir := d % 4
  let nocrc := bitOf d 7
  { addr := u64At b 0, len := u64At b 8, crc := BitVec.ofNat 64 (u64At b 0x10), dir := dir, nocrc := nocrc
    fine := u64At b 0 % 64 == 0 && decide (1 ≤ u64At b 8) && decide (u64At b 8 ≤ 2 ^ 40) &&
      (dir == 1 || dir == 2) && d / 4 % 32 == 0 && zeroAt b 0x19 7 &&
      (!(dir == 2 || nocrc) || u64At b 0x10 == 0) }

def descAt (b : List Byte) (off : Nat) : Desc := descOf (slice b off 32)

def Desc.okIn (d : Desc) : Bool := d.fine && d.dir == 1
def Desc.okOut (d : Desc) : Bool := d.fine && d.dir == 2
def Desc.region (d : Desc) : Region := ⟨d.addr, d.len⟩

/-- An inbound region's bytes match its CRC (11 R252). -/
def Desc.crcOk (d : Desc) (bytes : List Byte) : Bool := d.nocrc || crc64 bytes == d.crc

/-! ### Jobs -/

/-- The half that a command's HALF field names (12 R286, R288). -/
def Job.target (j : Job) : Half := Half.ofCode (u8At j.body 0)

/-- The command of a code in execution on a half. -/
def State.jobOn (s : State) (code : Nat) (h : Half) : Option Job := s.mbx.jobs.find? fun j => j.code == code && j.target == h

/-- Begin a job: the command goes on in later rows. -/
def State.begin (s : State) (slot : Nat) (body : List Byte) (stage : Nat) : State :=
  s.setJob { slot := slot, code := s.sealCode slot, body := body, stage := stage, left := 0, parts := [], reply := []
             obj := .engine, arg := 0, digest := 0, half := s.slotHalf slot }

/-- A command has ended while no firmware serves its slot: its reply waits (11 R260). -/
def State.awaitServer (s : State) (slot status : Nat) (o : ObjRef) (reply : List Byte) : Option State :=
  match s.jobOf slot with
  | some j =>
    if (s.slotServer slot).isNone then
      some (s.setJob { j with due := true, done := true, reply := reply, obj := o, status := status })
    else none
  | none => none

/-- A command completes with ST_OK; one of class E that has not committed commits with it (11 R254, 12 R264). -/
def State.complete (s : State) (slot : Nat) (o : ObjRef) (reply : List Byte) : State :=
  match s.awaitServer slot stOk o reply with
  | some t => t
  | none =>
    let done := ((s.jobOf slot).map fun j => j.committed).getD false
    let t := if classE (s.sealCode slot) && !done then s.commit slot else s
    t.reply slot stOk (t.objOf o) reply

/-- A command that runs ends with another status (11 R247, R260). -/
def State.fail (s : State) (slot status : Nat) (o : ObjRef) : State :=
  match s.awaitServer slot status o [] with
  | some t => t
  | none => s.refuse slot status (s.objOf o)

/-- Begin a job whose reply waits for one write to host memory; nothing written means no access. -/
def State.writeThen (s : State) (slot : Nat) (body : List Byte) (region : Region) (data : List Byte) (o : ObjRef)
    (reply : List Byte) : State :=
  if data.isEmpty then s.complete slot o reply
  else
    let h := s.slotHalf slot
    let t := s.setJob { slot := slot, code := s.sealCode slot, body := body, stage := 1, left := 1, parts := []
                        reply := reply, obj := o, arg := 0, digest := 0, half := h
                        committed := ((s.jobOf slot).map fun j => j.committed).getD false }
    t.miWrite h region.addr data (.job slot 0)

/-- A command's access failed: ST_FAULT, no side effect, logged as HOST_IO (17 R417, 19 R459). -/
def State.jobFault (s : State) (slot addr : Nat) : State :=
  let t := s.log engineSide 0 0x0013 addr 0 []
  t.fail slot stFault (((t.jobOf slot).map fun j => j.obj).getD .engine)

/-- Accesses that a reset leaves: those of slot 255, which the safelight controllers serve (11 R261). -/
def State.rescueAccesses (s : State) : List MiAcc := s.mi.filter fun a => match a.purpose with
  | .job k _ => k == 255
  | _ => false

/-- A cold or warm start clears slots 0 to 254, their LAST and flags, what they were doing, and the engine's counters of set 3,
as it resets both halves (11 R243, R256; 19 R450, R461; log 15). -/
def State.clearMailbox (s : State) : State :=
  let keep := s.mbx.jobs.filter fun j => j.slot == 255
  { s with
    mbx := { s.mbx with mem := s.mbx.mem.clear 0 (slotBase 255), last := s.mbx.last.filter (fun p => p.1 == 255)
                        discarded := 0, busy := 0, takeovers := 0
                        done := s.mbx.done &&& (1#256 <<< 255), irqEn := 0, waits := [], jobs := keep }
    mi := s.mi.filter fun a => match a.purpose with
      | .job k _ => k == 255
      | .hostFlush => true
      | _ => false }

/-- On entering HALT, every pending command that HALT does not admit is answered ST_STATE (11 R256). -/
def State.haltPending (s : State) : State :=
  let bad := (s.mbx.waits.map (·.slot) ++ s.mbx.jobs.map (·.slot)).filter fun k => !validIn (s.sealCode k) .halt
  bad.foldl (fun t k => t.refuse k stState (engineObj t)) s

end Sys2Proof.Machine
end

