-- ==== Sys2Proof/Machine/Operands.lean ====
section
/-! DEFINITION. Operand forms of the commands: frames and the entries they carry (16 R389-R391, R396-R398, R402), and
the values that an entry's positions hold (02 R36, R37, R39, R46; 16 R397). -/
namespace Sys2Proof.Machine

/-! ### Frames -/

/-- The header and payload bytes that a frame's CRC-32C covers (16 R389). -/
def frameBytes (typ : Nat) (f : Frame) : List Byte :=
  toLe 1 typ ++ toLe 1 f.fflags.toNat ++ toLe 2 f.flits.toNat ++ toLe 4 f.seq.toNat ++ toLe 8 f.harg.toNat ++ f.payload

/-- The trailer's CRC matches, and the payload has FLITS flits (16 R391). -/
def frameCrcOk (typ : Nat) (f : Frame) : Bool :=
  f.crc == crc32c (frameBytes typ f) && f.payload.length == 256 * f.flits.toNat

def fCont (f : Frame) : Bool := f.fflags.getLsbD 0
def fSplit (f : Frame) : Bool := f.fflags.getLsbD 1
def fNak (f : Frame) : Bool := f.fflags.getLsbD 2
def fHello (f : Frame) : Bool := f.fflags.getLsbD 3

/-- ENTRIES and CONT_BYTES of HARG (16 R389). -/
def fEntries (f : Frame) : Nat := f.harg.toNat % 65536
def fContBytes (f : Frame) : Nat := f.harg.toNat / 2 ^ 32

/-- ACKED of an ACK, LIMIT and CLASS of a CRD, and the fields of a HELLO (16 R389). -/
def fAcked (f : Frame) : U32 := BitVec.ofNat 32 f.harg.toNat
def fCrdClass (f : Frame) : Nat := f.harg.toNat % 256
def fCrdLimit (f : Frame) : Nat := f.harg.toNat / 2 ^ 32
def fHelloKind (f : Frame) : Nat := f.harg.toNat % 256
def fHelloChain (f : Frame) : Nat := f.harg.toNat / 256 % 256
def fHelloId (f : Frame) : Nat := f.harg.toNat / 65536

/-- A frame costs its payload flits and one (16 R394). -/
def fCost (f : Frame) : Nat := f.flits.toNat + 1

/-! ### Cutting a payload into entries (16 R390) -/

/-- Bytes of an entry with a header of `hdr` bytes and LEN at `off`, once its header is there. -/
def lenSize (hdr off : Nat) (b : List Byte) : Option Nat :=
  if b.length < hdr then none else some (hdr + roundUp (u32At b off) 16)

/-- Bytes of a HID or LGT entry (16 R396). -/
def stepSize : List Byte → Option Nat := lenSize 32 0x10

/-- Bytes of a PRT entry (16 R402). -/
def prtSize : List Byte → Option Nat := lenSize 32 0x14

/-- Bytes of a DRF entry (16 R398). -/
def drfSize (b : List Byte) : Option Nat := if b.length < 16 then none else some (16 + roundUp (8 * u8At b 8) 16)

/-- Cut `n` entries; with `split` the last one goes on in the next frame. -/
def cutEntries (size : List Byte → Option Nat) (split : Bool) : Nat → List Byte → Option (List (List Byte) × Option (List Byte))
  | 0, _ => some ([], none)
  | n + 1, b =>
    let fits := match size b with
      | some k => decide (k ≤ b.length)
      | none => false
    if n = 0 ∧ split then (if fits then none else some ([], some b))
    else if fits then
      let k := (size b).getD 0
      (cutEntries size split n (b.drop k)).map fun r => (b.take k :: r.1, r.2)
    else none

/-- The entries that a frame completes, and the entry it leaves open; none when the entries do not parse
(16 R390, R391). `part` is the entry that is open before the frame. -/
def frameEntries (size : List Byte → Option Nat) (typ : Nat) (part : Option (Nat × List Byte)) (f : Frame) :
    Option (List (List Byte) × Option (Nat × List Byte)) :=
  let rest := f.payload.drop (fContBytes f)
  let more := (cutEntries size (fSplit f) (fEntries f) rest).map fun r => (r.1, r.2.map fun b => (typ, b))
  match part with
  | none => if (fCont f) || (fContBytes f) != 0 then none else more
  | some (t, b) =>
    if !fCont f || t != typ || (fContBytes f) = 0 || f.payload.length < (fContBytes f) then none
    else
      let b := b ++ f.payload.take (fContBytes f)
      match size b with
      | some k =>
        if k = b.length then more.map fun r => (b :: r.1, r.2)
        else if b.length < k ∧ (fSplit f) ∧ (fEntries f) = 0 then some ([], some (typ, b))
        else none
      | none => if (fSplit f) ∧ (fEntries f) = 0 then some ([], some (typ, b)) else none

/-! ### HID and LGT entries (16 R396, R397) -/

def eHandle (b : List Byte) : Nat := u32At b 0
def eStep (b : List Byte) : Nat := u32At b 4
def eK (b : List Byte) : Nat := u8At b 8
def eFmt (b : List Byte) : Nat := u8At b 9
def eWidth (b : List Byte) : Nat := u32At b 0xC
def eLen (b : List Byte) : Nat := u32At b 0x10
def eBody (b : List Byte) : List Byte := slice b 32 (eLen b)

def draftsOf (b : List Byte) (k : Nat) : List Draft :=
  (List.range k).map fun i => ⟨u32At b (8 * i), BitVec.ofNat 32 (u32At b (8 * i + 4))⟩

def eDrafts (b : List Byte) : List Draft := draftsOf (eBody b) (eK b)

/-- Bytes of a position before its padding: hidden elements, or the logits of a shard with their scales (16 R397). -/
def posBytes (hid : Bool) (fmt width : Nat) : Nat :=
  if hid then elemBytes fmt width
  else if isMxFmt fmt then elemBytes fmt (32 * ((width + 31) / 32)) + (width + 31) / 32
  else elemBytes fmt width

/-- LEN that K, FMT and WIDTH give. -/
def bodySize (hid : Bool) (fmt width k : Nat) : Nat :=
  roundUp (8 * k) 16 + (k + 1) * roundUp (posBytes hid fmt width) 16

/-- The bytes of position j, without padding. -/
def posAt (hid : Bool) (fmt width k : Nat) (body : List Byte) (j : Nat) : List Byte :=
  let n := posBytes hid fmt width
  slice body (roundUp (8 * k) 16 + j * roundUp n 16) n

/-- The hidden elements of a position are finite (02 R37). -/
def hiddenFinite (fmt width : Nat) (pos : List Byte) : Bool :=
  (elemCodes fmt width pos).all fun c => (decodeElem fmt c).isFinite

/-- The scale byte of element i of an MX position. -/
def mxScale (fmt width : Nat) (pos : List Byte) (i : Nat) : Nat :=
  if isMxFmt fmt then u8At pos (elemBytes fmt (32 * ((width + 31) / 32)) + i / 32) else 127

/-- The supplied logits are well formed: no NaN, no scale 0xFF (02 R39). -/
def intakeWellFormed (fmt width : Nat) (pos : List Byte) : Bool :=
  (List.range width).all fun i => !(decodeElem fmt (elemCode fmt pos i)).isNan && mxScale fmt width pos i != 0xFF

/-- Supplied logits of tokens, by their place in the shard's order (02 R46, 16 R397). -/
def intakeLogits (fmt : Nat) (shardTokens : List Nat) (pos : List Byte) (ts : List Nat) : List (Nat × U32 × Bool) :=
  ts.map fun t =>
    let i := indexIn shardTokens t
    (t, intakeToF32 fmt (elemCode fmt pos i) (mxScale fmt shardTokens.length pos i))

/-- q of a draft: above 0.0 and at most 1.0 (04 R93). -/
def qOk (q : U32) : Bool := unitRange q

/-! ### PRT entries (16 R402) -/

def pKind (b : List Byte) : Nat := u8At b 0
def pSrc (b : List Byte) : Nat := u8At b 1
def pDst (b : List Byte) : Nat := u8At b 2
def pFlags (b : List Byte) : Nat := u8At b 3
def pBinding (b : List Byte) : Nat := u32At b 4
def pSalt (b : List Byte) : Nat := u32At b 8
def pStep (b : List Byte) : Nat := u32At b 0xC
def pPos (b : List Byte) : Nat := u8At b 0x10
def pBody (b : List Byte) : List Byte := slice b 32 (u32At b 0x14)

def prtEntry (kind src dst flags binding salt step pos : Nat) (body : List Byte) : List Byte :=
  padTo 16 (toLe 1 kind ++ toLe 1 src ++ toLe 1 dst ++ toLe 1 flags ++ toLe 4 binding ++ toLe 4 salt ++ toLe 4 step ++
    toLe 1 pos ++ zeros 3 ++ toLe 4 body.length ++ zeros 8 ++ body)

def pkSummary : Nat := 1
def pkZmax : Nat := 2
def pkZret : Nat := 3
def pkCands : Nat := 4
def pkRelease : Nat := 5

/-- The body of PK_ZMAX and PK_ZRET. -/
def zBytes (z : Option U32) : List Byte := toLe 4 (z.getD 0).toNat ++ toLe 1 (b2n z.isSome) ++ zeros 11

def zOf (b : List Byte) : Option U32 := if bitOf (u8At b 4) 0 then some (BitVec.ofNat 32 (u32At b 0)) else none

/-- A candidate that arrives: its range bit follows from an infinite value of finite inputs (02 R45); the entry does not carry
the one of a supplied logit, which the member knows: a function of the route, the step and the value, the same at every
execution (04 R87; log 9, 22). -/
def candOf (intake : Bool) (k : NoiseKey) (b : List Byte) : Cand :=
  let z : U32 := BitVec.ofNat 32 (u32At b 4)
  { tok := u32At b 0, z := z, w := u64At b 8 % 2 ^ 49
    range := isInfBits z && (!intake || Config.peerRange k.seed k.salt k.step (u32At b 0) z) }

/-- A round-2 body: its candidates, its sum, and the draft's candidate (04 R87, R94). -/
def candsOf (intake : Bool) (key : NoiseKey) (flags : Nat) (b : List Byte) : List Cand × Nat × Option Cand :=
  let extra := if bitOf flags 0 then 16 else 0
  let k := (b.length - 16 - extra) / 16
  ((List.range k).map (fun i => candOf intake key (slice b (16 * i) 16)), leNat (slice b (16 * k) 10),
    if bitOf flags 0 then some (candOf intake key (slice b (16 * k + 16) 16)) else none)

/-! ### Environments -/

def biasList (b : List Byte) : BiasList := (records 8 b).map fun r => (u32At r 0, BitVec.ofNat 32 (u32At r 4))

/-- The stop set of a binding (12 R273). -/
def stopSetOf (b : Binding) : StopSet :=
  { strings := (records 264 b.stops).map fun r => slice r 8 (u16At r 0), include_ := bitOf b.stopFlags 0
    policy := b.endPolicy, specialText := bitOf b.stopFlags 1 }

/-- A half's stacks hold the image's bytes (13 R305). -/
def Image.readable (i : Image) (h : Half) : Bool := !(i.copies.get h).isEmpty && !i.lost.get h

/-- The bytes of an image that a half reads: its own copy, or the other half's when it has none (13 R303, R305). -/
def State.imageOn (s : State) (h : Half) (d : Digest) : List Byte :=
  match s.image d with
  | none => []
  | some i => if !i.readable h && s.bothServe && i.readable h.other then i.copies.get h.other else i.copies.get h

/-- The image's data are gone from the stacks that a half can read (13 R305). -/
def State.imageGone (s : State) (h : Half) (d : Digest) : Bool :=
  d != 0 && !(((s.image d).map fun i => i.readable h || (s.bothServe && i.readable h.other)).getD false)

/-- The bytes of an image that a serving half reads. -/
def State.imageBytes (s : State) (d : Digest) : List Byte := s.imageOn s.survivor d

/-- The head that is resident for a binding's rows on a half (03 R59). -/
def HalfSt.headFor (x : HalfSt) (b : Binding) (all : Bool) : Option HeadRes :=
  x.heads.find? fun y => y.digest == b.set.hdi && y.resident && y.share.shards == b.shards && y.share.shard == b.shard &&
    (y.share.all || !all)

/-- The rows that a half computes from: those it was filled with, or the image's with the cached ones in place
(03 R59, R63; 09 R211). -/
def State.rowsOn (s : State) (h : Half) (b : Binding) (all : Bool) : List Byte :=
  match (s.hs h).headFor b all with
  | some y => y.rows
  | none =>
    let c := s.imageOn h b.set.hdi
    ((s.hs h).vocCache.filter fun r => r.key.digest == b.set.hdi).foldl (fun c r =>
      match rowIndex c r.key.item with
      | some i => patch c (sectOff c kRows + i * (headOf c).stride) r.bytes
      | none => c) c

/-- What searches of an image's entries read on a half: the region that holds them, or the records that the image has
(06 R128, R146). -/
def State.finderView (s : State) (h : Half) (j : FJob) (d : Digest) (recs : FView) : FView :=
  ((s.hs h).regions.view j (.image d)).getD recs

/-- The halves split a head's rows for this binding and route (03 R57). -/
def splitsHead (b : Binding) (both : Bool) : Bool := b.set.hdi != 0 && !b.set.one && both

/-! ### Records that a diagnostic write changes (09 R211, 12 R284; log 9) -/

/-- The number that `k` bytes from `n` on spell, of what the written bytes mean. -/
def spells (kind : Nat) (bytes : List Byte) (n k : Nat) : Nat := leNat ((List.range k).map fun i => Config.recordValue kind bytes (n + i))

def spellBytes (kind : Nat) (bytes : List Byte) (n k : Nat) : List Byte :=
  (List.range k).map fun i => Config.recordValue kind bytes (n + i)

/-- The parameters of a binding as a half's record has them. Its layout is not given, so those that written bytes spell are free,
a function of the bytes. -/
def Binding.on (b : Binding) (h : Half) : Binding :=
  match b.record.get h with
  | none => b
  | some x =>
    { b with profile := spellBytes 3 x 0 64, classSel := spells 3 x 64 2 % 2048, stopFlags := spells 3 x 66 1 % 4
             endPolicy := spells 3 x 67 1 % 3, bias := spellBytes 3 x 128 (8 * (spells 3 x 68 2 % 4097))
             stops := spellBytes 3 x 65536 (264 * (spells 3 x 70 1 % 65)) }

/-- What a binding gives a step on a half; `both`: the two halves serve the route; absent images are named by 0. -/
def State.envOn (s : State) (h : Half) (both : Bool) (b : Binding) : Env :=
  let tki := tkiOf (s.imageOn h b.set.tki)
  let sli := sliOf (s.imageOn h b.set.sli)
  let split := splitsHead b both
  let head := s.rowsOn (if split then .west else h) b (!split)
  { tki := { tki with mergeView := s.finderView h .merges b.set.tki tki.mergeView
                      specView := s.finderView h .specials b.set.tki tki.specView }
    csi := if b.set.csi = 0 then none else some (csiOf (s.imageOn h b.set.csi))
    masks := ((s.hs h).maskCache.filter fun m => m.key.digest == b.set.csi).map fun m => m.ent
    sli := if b.set.sli = 0 then none else some sli
    list := s.finderView h (.lists false) b.set.sli (viewOf sli.width sli.recs)
    second := s.finderView h (.lists true) b.set.sli (viewOf sli.width sli.recs)
    head := if b.set.hdi = 0 then none else some head
    headE := if split then some (s.rowsOn .east b false) else none
    rows := if b.set.hdi = 0 then none else rowMapOf head
    classSel := (b.on h).classSel, prof := profileOf (b.on h).profile, bias := biasList (b.on h).bias, stops := stopSetOf (b.on h)
    infmt := b.set.infmt, shards := b.shards, shard := b.shard }

/-- The route pairs copies of two halves (01 R22, R464; 13 R312). -/
def State.paired (s : State) (r : Route) : Bool := r.chains.w.isSome && r.chains.e.isSome && s.bothServe

/-- The environment that a route's next step takes. -/
def State.envFor (s : State) (b : Binding) (r : Route) : Env := s.envOn r.half (s.paired r) b

/-- The tokens of a shard below the vocabulary size, or with a head row (03 R66, R67). -/
def shardTokens (e : Env) : List Nat :=
  let all := match e.head with
    | some c => rowTokens c
    | none => List.range e.tki.vocab
  all.filter fun t => shardOf e.shards t == e.shard

/-- FMT and WIDTH that an entry must carry (03 R56, 16 R396). -/
def Env.fmt (e : Env) : Nat :=
  match e.head with
  | some c => (headOf c).hfmt
  | none => e.infmt

def Env.width (e : Env) : Nat :=
  match e.head with
  | some c => (headOf c).hidden
  | none => (shardTokens e).length

/-- The format row of R23: an entry has the binding's form (01 R23; 02 R37, R39; 16 R397). -/
def entryFormOk (e : Env) (hid : Bool) (b : List Byte) : Bool :=
  let k := eK b
  hid == e.head.isSome && decide (k ≤ 15) && eFmt b == e.fmt && eWidth b == e.width &&
  eLen b == bodySize hid e.fmt e.width k &&
  (!e.prof.ratio || (eDrafts b).all fun d => qOk d.q) &&
  (List.range (k + 1)).all fun j =>
    let p := posAt hid e.fmt e.width k (eBody b) j
    if hid then hiddenFinite e.fmt e.width p else intakeWellFormed e.fmt e.width p

end Sys2Proof.Machine
end

