-- ==== Sys2Proof/Machine/Flags.lean ====
section
/-! DEFINITION. Flag and status computations: the status of a release and its TOK entry (01 R27, R30; 02 R45;
16 R400), the flags of a terminator (08 R183) and the deadline test (01 R31). -/
namespace Sys2Proof.Machine

/-- ST_RANGE in place of ST_OK when any token of the release carries its range bit (02 R45). -/
def Release.status (r : Release) : Nat := if r.grow.taken.any fun t => t.tk.range then stRange else stOk

def Release.toks (r : Release) : List Nat := r.grow.taken.map fun t => t.tk.tok
def Release.ranges (r : Release) : List Bool := r.grow.taken.map fun t => t.tk.range

/-- A stop cut the release inside its last token (08 R177). -/
def Release.cut (r : Release) : Bool := r.grow.ending == .stop

/-- The TOK entry of a release (16 R400). -/
def Release.tok (r : Release) (handle step : Nat) : TokEntry :=
  { handle := handle, step := step, status := r.status, toks := r.toks, ranges := r.ranges, nForced := r.nForced
    accepted := r.nAccepted, ending := r.grow.ending, prompt := false, last := false, cut := r.cut
    forcedOnly := r.forcedOnly, refused := false, consumed := if r.cut then r.grow.consumed else 0 }

/-- The journal's record of a release (14 R339). -/
def Release.record (r : Release) (salt step : Nat) : List Byte :=
  releasePayload salt step r.status r.grow.ending r.nAccepted r.toks r.ranges r.forcedOnly
    (if r.cut then r.grow.consumed else 0) r.cut r.grow.rel.bytes r.grow.rel.digest

/-- A deadline has passed when the appliance time is later; 0 is none (01 R31). -/
def passed (time deadline : Nat) : Bool := deadline != 0 && decide (deadline < time)

/-- The route's next step (01 R20). -/
def Route.next (r : Route) : Nat := r.startStep + r.rel.gen

/-- FLAGS of `route.open` (12 R277). -/
def Route.intakeFlag (r : Route) : Bool := bitOf r.oflags 0

/-- The last prompt token of a route with the intake flag is still to come: IN_END has not been taken, or what it closes has not been
released (07 R165, R167). -/
def Route.promptOpen (r : Route) : Bool := r.intakeFlag && !(r.intakeEnded && r.intake.isEmpty)

def Route.deliver (r : Route) : Bool := bitOf r.oflags 1
def Route.owner (r : Route) : Bool := bitOf r.oflags 2
def Route.capture (r : Route) : Bool := bitOf r.oflags 3
def Route.contact (r : Route) : Bool := bitOf r.oflags 4

end Sys2Proof.Machine
end

