-- ==== Sys2Proof/Machine/Restart.lean ====
section
/-! DEFINITION. Resets and restarts of the engine as a whole: what they keep and what they clear
(11 R256; 12 R267, R461; 15 R348-R350, R374; 17 R430; 14 R336). -/
namespace Sys2Proof.Machine

/-- Rails in the order of 17 R428, as bits of RAIL_OK. -/
def rSafe : Nat := 0
def rSio : Nat := 1
def rRet : Nat := 2
def rMem : Nat := 3
def rCore : Nat := 4
def rPhy : Nat := 5
def rHbm : Nat := 6
def rPort : Nat := 7
def rFuse : Nat := 8

def HalfSt.rail (x : HalfSt) (r : Nat) : Bool := x.railOk.getLsbD r

/-- Rails that keep the half's data path alive (17 R429). -/
def HalfSt.coreRails (x : HalfSt) : Bool := x.rail rCore && x.rail rPhy && x.rail rHbm && x.rail rPort

/-- Lanes at electrical idle: no chain of the half is in service (15 R376). Counters stay (19 R461), and a quiesced chain stays
quiesced (12 R465). -/
def Chain.idle (c : Chain) : Chain := { Chain.reset with cnt := c.cnt, quiet := c.quiet }

/-- A TOK entry with REFUSED set is never sent again (13 R292). -/
def refusedTok (b : List Byte) : Bool := bitOf (u8At b 0x10) 4

/-- Committed TOK entries of a chain that no ACK has covered, oldest first (13 R307). -/
def Chain.unacked (c : Chain) : List Out :=
  (c.replay.map (·.out) ++ c.wait).filter fun o => o.typ == ftTok && !refusedTok o.payload

/-- The lanes of a half go to electrical idle; committed TOK entries that no ACK has covered stay owed (13 R307). -/
def State.idleLanes (s : State) (h : Half) : State :=
  { s with owed := s.owed ++ (s.chains.get h).zipIdx.flatMap fun c => c.1.unacked.map fun o => ⟨h, c.2, o⟩
           lanes := s.lanes.set h (List.replicate 16 Lane.reset), chains := s.chains.modify h (·.map Chain.idle) }

/-- A half's banks hold nothing any more, and every one is cleared before anything else may have it (09 R208). -/
def HalfSt.emptied (x : HalfSt) : HalfSt :=
  { x with maskCache := [], maskFetch := [], vocCache := [], heads := []
           clears := [⟨.bank, 136 * (96 * 2 ^ 20) + 36 * (64 * 2 ^ 20)⟩]
           regions := [], unplaced := [], arbiter := 0, waiting := [], retention := false }

/-- A half reset: its counters and volatile banks are cleared (09 R201, R208; 19 R461); its census, repairs and measurements
stay. -/
def HalfSt.wiped (x : HalfSt) : HalfSt :=
  { x.emptied with conflicts := List.replicate 9 0, choices := List.replicate 4 0, faults := List.replicate 7 0
                   finder := List.replicate 3 0, steps := List.replicate 4 0, fetches := [] }

/-- A half is held in reset, or is without its core rails; one that was drained stays drained (12 R465). -/
def HalfSt.put (x : HalfSt) (code : HCode) (fw : FCode) : HalfSt :=
  if x.code == .drained then { x with fw := .stopped, phase := .held, needsSurvey := true }
  else { x with code := code, fw := fw, phase := .held }

def State.clearChainCounts (s : State) (h : Half) : State :=
  { s with chains := s.chains.modify h (·.map fun c => { c with cnt := [0, 0, 0, 0] }) }

/-- A half starts its boot: held until its firmware runs (12 R465). -/
def State.halfReset (s : State) (h : Half) : State :=
  ((s.onHalf h fun x => { x.wiped with code := .inReset, fw := .booting, bootTries := 0 }).idleLanes h).clearChainCounts h

/-- Uncommitted work is gone: admitted steps, waiting copies, prepared drafts (13 R296, 15 R378). -/
def Route.uncommitted (r : Route) : Route :=
  { r with adm := none, copies := ⟨[], []⟩, peers := [], skip := [], drafts := none, entries := [], stoppedSteps := [], saving := false
           tries := 0, tried := [] }

/-- A fuse command runs, or has ended (12 R289). -/
def State.fuseRuns (s : State) (j : FuseJob) : State := { s with safe := { s.safe with fuseJob := some j } }
def State.fuseEnds (s : State) : State := { s with safe := { s.safe with fuseJob := none } }

/-- Programming a keyslot anew makes its cut programming void (log 118). -/
def State.forgetCut (s : State) (n : Nat) : State := { s with safe := { s.safe with cutKey := s.safe.cutKey.filter fun c => c.1 != n } }

/-- A keyslot's fuses (10 R217). -/
def State.setKeyslot (s : State) (n : Nat) (k : Keyslot) : State := { s with safe := { s.safe with fuses := s.safe.fuses.set n k } }

/-- A burn under way is cut short: the columns stay soft-repaired and the burn counts; a keyslot being programmed
reads KS_EMPTY until the next survey (17 R430, 18 R444). -/
def State.cutFuse (s : State) : State :=
  match s.safe.fuseJob with
  | none => s
  | some (.burn _ h _) =>
    match (s.hs h).pendingRepairs with
    | [] => s.fuseEnds
    | c :: _ => ((s.onHalf h fun x => { x with left := x.left - 1, cut := c :: x.cut }).log h.code 0 0x0012 c.column 0 []).fuseEnds
  | some (.program slot key) =>
    let k := s.safe.fuses.getD key Keyslot.reset
    let b := ((s.jobOf slot).map (·.body)).getD []
    { s with safe := { s.safe with fuseJob := none, cutKey := some (key, ⟨digestAt b 8, u8At b 1, .active⟩)
                                   fuses := s.safe.fuses.set key { k with state := .empty } } }
  | some (.revoke _ _) => s.fuseEnds

/-- BURNED, PENDING and LEFT (12 R288). -/
def burnReply (x : HalfSt) (n : Nat) : List Byte := toLe 2 n ++ toLe 2 x.pendingRepairs.length ++ toLe 2 x.left

/-- The command of a burn that was cut short is answered: columns that are burnt stand, a keyslot is not programmed. -/
def State.cutReply (s : State) : FuseJob → State
  | .burn slot h n => if (s.jobOf slot).isSome then s.complete slot .engine (burnReply (s.hs h) n) else s
  | .program slot _ => if (s.jobOf slot).isSome then s.fail slot stFault .engine else s
  | .revoke slot _ => if (s.jobOf slot).isSome then s.fail slot stFault .engine else s

/-- A burn is cut short while firmware runs. -/
def State.cutBurn (s : State) : State :=
  match s.safe.fuseJob with
  | none => s
  | some f => s.cutFuse.cutReply f

/-- Read the boot list (15 R350, R352): a zero pointer leaves the engine in RESET with BOOT_LIST logged. -/
def State.readBootList (s : State) : State :=
  if s.safe.bootPtr.toNat / 64 * 64 = 0 then s.log engineSide 0 0x0001 0 0 []
  else s.miRead .west (s.safe.bootPtr.toNat / 64 * 64) 64 .bootHeader

/-- Every route loses its uncommitted work, and entries that wait to be decided go. -/
def State.dropUncommitted (s : State) : State :=
  { s with rt := s.rt.mapVals Route.uncommitted, half := s.half.map fun x => { x with waiting := [] } }

/-- A cold start begins (15 R354 after C1): stores, tables, journal, settings and mailbox are empty
(10 R224, 11 R256, 12 R267, 14 R336). -/
def State.coldStart (s : State) : State :=
  let a := (s.halfReset .west).halfReset .east
  let b := a.clearMailbox
  let c : State :=
    { b with
      eng := { b.eng with state := .reset, limp := false, strict := false, pcapW := 0, pcapE := 0, tset := 0
                          phase := .bootList, warm := false, coreRst := false, restartDue := false, recovered := false
                          boot := [], staged := none, fwRun := none, fwFall := none }
      mi := b.rescueAccesses
      chains := b.chains.map (·.map fun x => { x with quiet := false })
      merid := Merid.reset, img := [], bnd := [], bndGen := [], rt := [], rtGen := [], bench := [], benchGen := []
      owed := [], jr := JrSt.reset, str := ⟨StrSt.reset, StrSt.reset⟩
      safe := { b.safe with flush := 0, target := none, waiting := false }
      mbx := { b.mbx with taken := ⟨false, false⟩ } }
  let d := (c.onHalf .west fun x => { x with fwi := none, phase := .held, dirty := 0, rebuild := [] }).onHalf .east
    fun x => { x with fwi := none, phase := .held, dirty := 0, rebuild := [] }
  d.readBootList

/-- A stored image at a warm restart returns as IMG_STORED; one still being fetched is dropped (10 R224). -/
def warmImages (t : Tab Image) : Tab Image :=
  (t.filter fun p => p.2.state != .fetching).map fun p => (p.1, { p.2 with state := .stored, vstatus := stOk })

/-- A binding at a warm restart: a creation that ran is gone, a swap that ran has failed, a stop in its first phase has not
happened (10 R227; log 13). -/
def warmBindings (t : Tab Binding) : Tab Binding :=
  (t.filter fun p => p.2.state != .loading).map fun p =>
    (p.1, if p.2.state == .swapping then { p.2 with state := .stopped, newSet := none }
      else if p.2.fence == .phase1 then { p.2 with fence := .none } else p.2)

/-- A half that is out of the engine until `service.half_serve` returns it (13 R316, 12 R465, 17 R432). -/
def HalfSt.out (x : HalfSt) : Bool := x.code == .down || x.code == .drained || x.hold

/-- A half that is out stays out over a warm restart; what it had begun is over. -/
def State.keepOut (s : State) (h : Half) : State :=
  (s.idleLanes h).onHalf h fun x => { x with phase := .held, needsSurvey := true }

/-- A warm restart begins (15 R349, R374): rails, banks' census, stacks, journal and settings stay. A half that is
lost stays held. -/
def State.warmStart (s : State) : State :=
  let lostW := s.half.w.out
  let lostE := s.half.e.out
  let a := s.cutFuse.clearMailbox.dropUncommitted
  let b := if lostW then a.keepOut .west else a.halfReset .west
  let b := if lostE then b.keepOut .east else b.halfReset .east
  let c : State :=
    { b with
      eng := { b.eng with state := .reset, phase := .bootList, warm := true, restartDue := false, recovered := false }
      merid := Merid.reset, img := warmImages b.img, bnd := warmBindings b.bnd
      safe := { b.safe with flush := 0, waiting := false }
      level := { b.level with
        member := false, alone := false, delay := none, ready := false, formed := false
        joining := (b.level.members.filter fun x => x.inBarrier || b.level.joining.contains x.position).map (·.position)
        members := b.level.members.map fun x => { x with inBarrier := false } }
      mbx := { b.mbx with taken := ⟨lostW, lostE⟩ } }
  c.readBootList

/-- The message's bytes before its CRC (15 R363). -/
def lmBytes (code : Nat) (m : LmMsg) : List Byte :=
  toLe 1 code ++ toLe 1 m.position.toNat ++ toLe 1 m.iflevel.toNat ++ toLe 1 m.alevel.toNat ++ toLe 8 m.serial.toNat ++
  toLe 2 m.arg.toNat

/-- The CRC a level message must carry (15 R363). -/
def lmCrc (code : Nat) (m : LmMsg) : U16 := crc16 (lmBytes code m)

def lmAnnounceCode : Nat := 1
def lmAdmitCode : Nat := 2
def lmRefuseCode : Nat := 3
def lmBaseCode : Nat := 4
def lmEchoCode : Nat := 5
def lmWithdrawCode : Nat := 6

/-- Send a level message on a pair. -/
def State.lmSend (s : State) (p : Pair) (code position iflevel alevel : Nat) (serial : U64) (arg : Nat) : State :=
  let m : LmMsg := ⟨BitVec.ofNat 8 position, BitVec.ofNat 8 iflevel, BitVec.ofNat 8 alevel, serial, BitVec.ofNat 16 arg, 0⟩
  { s with level := { s.level with out := s.level.out ++ [⟨p, code, { m with crc := lmCrc code m }⟩] } }

/-- Withdrawal from the level barrier: a member sends LM_WITHDRAW and drives NOT READY (15 R369, 12 R286). -/
def State.withdraw (s : State) : State :=
  let a : State := { s with level := { s.level with withdrawn := true, ready := false } }
  if s.level.member && !s.level.acts then a.lmSend .up lmWithdrawCode s.level.position 0 0 s.eng.serial 0 else a

/-- The engine enters HALT: lanes to electrical idle, withdrawal from the barrier, pending commands refused
(11 R256, 12 R268). -/
def State.enterHalt (s : State) : State :=
  let a : State := { s with eng := { s.eng with state := .halt } }
  let b := (a.idleLanes .west).idleLanes .east
  b.withdraw.haltPending

end Sys2Proof.Machine
end

