-- ==== Sys2Proof/Machine/Residency.lean ====
section
/-! DEFINITION. Heads in the head regions, caches, finder regions, clears before a change of owner, and plates leaving service
(03 R57-R63; 05 R120, R121; 06 R128, R146, R147; 09 R190, R191, R203-R210; 13 R302). -/
namespace Sys2Proof.Machine

/-! ### Clears (09 R208, R209) -/

/-- Clears of at most 64 KiB go ahead of larger ones (09 R209). -/
def smallClear : Nat := 65536

/-- Put a clear into the zero engine's queue (09 R208, R209). -/
def HalfSt.clear (x : HalfSt) (w : ClearFor) (bytes : Nat) : HalfSt :=
  let c : Clear := ⟨w, bytes⟩
  { x with clears := if bytes ≤ smallClear
      then (x.clears.takeWhile fun y => decide (y.bytes ≤ smallClear)) ++ c :: x.clears.dropWhile fun y => decide (y.bytes ≤ smallClear)
      else x.clears ++ [c] }

/-- Bytes of the bank regions that change owner (09 R194, R195). -/
def homeBank : Nat := 96 * 2 ^ 20
def trayBank : Nat := 64 * 2 ^ 20
def routeRecord : Nat := 512
def latentSlot : Nat := 1024

/-- Latent slots go back to the pool and are zeroed (04 R100, 09 R208). -/
def HalfSt.freeSlots (x : HalfSt) (n : Nat) : HalfSt := if n = 0 then x else x.clear (.slots n) (n * latentSlot)

/-- Space under a clear has no owner yet. -/
def HalfSt.slotsClearing (x : HalfSt) : Nat := (x.clears.map fun c => match c.what with | .slots n => n | _ => 0).sum
def HalfSt.inputClearing (x : HalfSt) : Nat := (x.clears.map fun c => match c.what with | .input n => n | _ => 0).sum
def HalfSt.fixClearing (x : HalfSt) : Nat := (x.clears.map fun c => match c.what with | .fixing n => n | _ => 0).sum

/-! ### Tray banks (09 R197, R206) -/

/-- Tray banks of a function; one that is still being cleared for it does not count (09 R208). -/
def HalfSt.trayCount (x : HalfSt) (f : TrayFn) : Nat :=
  (x.trays.zipIdx.filter fun p => p.1 == f && !(x.clears.any fun c => c.what == .tray p.2)).length

def HalfSt.vocBanks (x : HalfSt) : Nat := x.trayCount .voc
def HalfSt.maskBanks (x : HalfSt) : Nat := x.trayCount .mask
def HalfSt.inBanks (x : HalfSt) : Nat := x.trayCount .input
def HalfSt.trayRetired (x : HalfSt) : Nat := x.trays.count .retired

/-- A tray bank leaves service: its function loses it, and an input store without a bank takes one of the vocabulary cache,
once it is cleared (09 R206, R208). -/
def HalfSt.loseTray (x : HalfSt) (bank : Nat) : HalfSt :=
  let y := ({ x with trays := x.trays.set bank .retired } : HalfSt).clear (.tray bank) trayBank
  if y.trays.contains .input then y
  else
    match y.trays.findIdx? fun f => f == .voc with
    | some b => ({ y with trays := y.trays.set b .input } : HalfSt).clear (.tray b) trayBank
    | none => y

/-- The tray banks that a census finds retired have left their functions (09 R206, 15 R356). -/
def traysWithout (retired : List Nat) : List TrayFn :=
  retired.foldl (fun l b =>
    let m := l.set b .retired
    if m.contains .input then m
    else match m.findIdx? fun f => f == .voc with
      | some v => m.set v .input
      | none => m) (List.replicate 24 .voc ++ List.replicate 8 .mask ++ List.replicate 4 .input)

/-- A tray bank is in retention while its function has no live entries, a spare plate's home bank always, and every bank of
a drained half (09 R207; log 103). -/
def HalfSt.trayRetains (x : HalfSt) (bank : Nat) : Bool :=
  x.retention || (match x.trays[bank]? with
    | some .voc => x.vocCache.isEmpty
    | some .mask => x.maskCache.isEmpty
    | _ => false)

/-- Banks in retention: spare home banks, and idle tray banks (09 R207). -/
def HalfSt.retained (x : HalfSt) : Nat := x.spare + ((List.range 36).filter fun b => x.trayRetains b).length

/-- A request to a bank in retention wakes it (09 R207). -/
def HalfSt.wake (x : HalfSt) : HalfSt := { x with retention := false }

/-! ### Heads -/

/-- The rows of a binding's shard, and whether the half holds all of them (03 R57, R59). -/
def HeadShare.of (b : Binding) (all : Bool) : HeadShare := ⟨b.shards, b.shard, all⟩

/-- Bytes of the rows that a share names on a half (03 R57, R59). -/
def shareBytes (c : List Byte) (x : HeadShare) (h : Half) : Nat :=
  let ts := (rowTokens c).filter fun t => shardOf x.shards t == x.shard
  (if x.all then ts.length else (ts.filter fun t => rowHalf ts t == h).length) * (headOf c).stride

/-- The head region of a half: 94 MiB for each filled position (03 R59, 09 R190). -/
def HalfSt.headRegion (x : HalfSt) : Nat := (128 - x.emptyPos.length) * (94 * 2 ^ 20)

def headsUsed (l : List HeadRes) : Nat := (l.map (·.used)).sum

/-- A region that holds every row that a share names. -/
def HeadRes.holds (e : HeadRes) (d : Digest) (x : HeadShare) : Bool :=
  e.digest == d && e.share.shards == x.shards && e.share.shard == x.shard && (e.share.all || !x.all)

/-- A binding that pins a head and has not been retired (03 R60). -/
def State.pins (s : State) (d : Digest) : Nat :=
  (s.bnd.vals.filter fun b => b.set.pin && b.set.hdi == d && b.state != .retired && b.state != .loading).length

/-- A head under an admitted step is not evicted (03 R61). -/
def State.headBusy (s : State) (d : Digest) : Bool :=
  s.rt.vals.any fun r => r.adm.isSome && (match s.binding r.binding with
    | some b => b.set.hdi == d
    | none => false)

/-- Evict unpinned heads, the one whose step is oldest first, until `need` bytes are free (03 R61). -/
def State.evict (s : State) (x : HalfSt) (need : Nat) : List HeadRes → List HeadRes
  | [] => []
  | e :: t =>
    if headsUsed (e :: t) + need ≤ x.headRegion then e :: t
    else if s.pins e.digest = 0 ∧ !s.headBusy e.digest then s.evict x need t
    else
      let rest := s.evict x (need + e.used) t
      e :: rest

/-- Begin to fill a head on a half, after a clear of its region (03 R62, 09 R208). A region with fewer rows of the shard goes
first. A head that has had no step since its fill counts as the most recent. DESIGN CHOICE (log 104), unsafe. -/
def State.fillHead (s : State) (h : Half) (d : Digest) (share : HeadShare) (bytes : Nat) : State :=
  let x := s.hs h
  if bytes = 0 || x.heads.any (fun e => e.holds d share) then s
  else
    let others := x.heads.filter fun e => !(e.digest == d && e.share.shards == share.shards && e.share.shard == share.shard)
    let kept := s.evict x bytes others
    if headsUsed kept + bytes ≤ x.headRegion then
      s.onHalf h fun x => ({ x with heads := kept ++ [⟨d, share, false, false, bytes, []⟩] } : HalfSt).clear
        (.head d share.shards share.shard) bytes
    else s

/-- The halves that hold rows of a binding's head: both, the reported one, or in LIMP the survivor (03 R57). -/
def State.headHalves (s : State) (b : Binding) : List Half :=
  if s.bothServe then (if b.set.one then [b.set.half] else [.west, .east]) else [s.survivor]

/-- The share of a binding's head that a half has to hold now. -/
def State.shareNow (s : State) (b : Binding) : HeadShare := HeadShare.of b (b.set.one || !s.bothServe)

/-- Bytes of a binding's head that a half has to hold now. -/
def State.shareOn (s : State) (b : Binding) (h : Half) : Nat :=
  match s.image b.set.hdi with
  | none => 0
  | some i => shareBytes i.bytes (s.shareNow b) h

/-- A head region of a half has all the rows that the binding needs there. -/
def State.headOn (s : State) (b : Binding) (h : Half) : Bool :=
  (s.hs h).heads.any fun e => e.holds b.set.hdi (s.shareNow b) && e.resident

/-- The head is resident on every half that holds rows of it (03 R59). -/
def State.headResident (s : State) (b : Binding) : Bool :=
  (s.headHalves b).all fun h => s.shareOn b h == 0 || s.headOn b h

/-- Fill a binding's head wherever it belongs. -/
def State.fillFor (s : State) (b : Binding) : State :=
  if b.set.hdi = 0 then s
  else (s.headHalves b).foldl (fun t h => t.fillHead h b.set.hdi (t.shareNow b) (t.shareOn b h)) s

/-- A step of a head makes it the most recent (03 R61). -/
def touchHead (d : Digest) (x : HeadShare) (l : List HeadRes) : List HeadRes :=
  (l.filter fun e => !e.holds d x) ++ l.filter fun e => e.holds d x

/-- The heads of a list that fit, earlier ones first. -/
def fitting (room : Nat) : Nat → List HeadRes → List HeadRes
  | _, [] => []
  | used, e :: t => if used + e.used ≤ room then e :: fitting room (used + e.used) t else fitting room used t

/-- What stays in a head region that has shrunk: pinned heads and heads under an admitted step, then the most recent ones
(03 R61, 09 R190). -/
def State.keepHeads (s : State) (x : HalfSt) : List HeadRes :=
  let must := fun (e : HeadRes) => decide (s.pins e.digest ≠ 0) || s.headBusy e.digest
  let kept := fitting x.headRegion 0 ((x.heads.filter must) ++ (x.heads.filter fun e => !must e).reverse)
  x.heads.filter fun e => kept.contains e

/-- After a position is left empty: the heads that still fit are filled again under the new deal, after a clear; a
pinned head that no longer fits runs paged and is logged PIN_PAGED (09 R190, R191). -/
def State.refitHeads (s : State) (h : Half) : State :=
  let x := s.hs h
  let kept := s.keepHeads x
  let lost := x.heads.filter fun e => decide (s.pins e.digest ≠ 0) && !kept.contains e
  let t := s.onHalf h fun x => kept.foldl (fun y e => y.clear (.head e.digest e.share.shards e.share.shard) e.used)
    { x with heads := kept.map fun e => { e with cleared := false, resident := false, rows := [] } }
  lost.foldl (fun t _ => t.log h.code 0 0x0005 0 0 []) t

/-! ### Caches -/

/-- The most recent entry goes last. -/
def touchRow (e : RowEnt) (l : List RowEnt) : List RowEnt := (l.filter fun x => x.key != e.key) ++ [e]
def touchMask (e : MaskCell) (l : List MaskCell) : List MaskCell := (l.filter fun x => x.key != e.key) ++ [e]

/-- An entry that is read becomes the most recent. -/
def readMask (k : CacheKey) (l : List MaskCell) : List MaskCell :=
  (l.filter fun x => x.key != k) ++ l.filter fun x => x.key == k

/-- Keep at most `n` entries, the least recently used dropped (03 R63). -/
def keepLast {α : Type} (n : Nat) (l : List α) : List α := l.drop (l.length - n)

/-- Keep at most `n` entries, the least recently used ones that nothing pins dropped (05 R121). -/
def keepUnpinned {α : Type} (pinned : α → Bool) (n : Nat) : List α → List α
  | [] => []
  | e :: t => if (e :: t).length ≤ n then e :: t else if pinned e then e :: keepUnpinned pinned (n - 1) t else keepUnpinned pinned n t

def HalfSt.hasMask (x : HalfSt) (k : CacheKey) : Bool := x.maskCache.any fun m => m.key == k
def HalfSt.hasRow (x : HalfSt) (k : CacheKey) : Bool := x.vocCache.any fun m => m.key == k

def addFetch (d : Digest) (n : Nat) : List FetchCount → List FetchCount
  | [] => [⟨d, satAdd 0 n⟩]
  | x :: t => if x.digest = d then { x with n := satAdd x.n n } :: t else x :: addFetch d n t

/-- An image's entries leave the caches, and their places are cleared (05 R121, 03 R63, 09 R208). -/
def HalfSt.dropCached (x : HalfSt) (d : Digest) : HalfSt :=
  let y := { x with maskCache := x.maskCache.filter (fun m => m.key.digest != d)
                    vocCache := x.vocCache.filter (fun m => m.key.digest != d) }
  if y.maskCache.length = x.maskCache.length ∧ y.vocCache.length = x.vocCache.length then y else y.clear .cache 0

/-- An owner's finder entries leave, and their ranges are zeroed before anything else may have them (06 R128, R134). -/
def HalfSt.dropFinder (x : HalfSt) (o : FOwner) : HalfSt :=
  let y := { x with unplaced := x.unplaced.filter fun u => u.owner != o }
  if x.regions.any fun r => r.has o then ({ y with regions := y.regions.drop o } : HalfSt).clear .finder 0 else y

/-- An image leaves the store: caches, finder ranges, head, and stack regions in the background (10 R222). -/
def HalfSt.forget (x : HalfSt) (d : Digest) (bytes : Nat) : HalfSt :=
  let y := (x.dropCached d).dropFinder (.image d)
  { y with heads := y.heads.filter (fun e => e.digest != d), dirty := y.dirty + bytes }

/-! ### The store (10 R220, 17 R419, R420) -/

/-- Bits set among the lowest `n`. -/
def countBits (n : Nat) (v : Nat) : Nat := ((List.range n).filter fun i => bitOf v i).length

/-- Bytes of a stack at the reference capacity (17 R419; log 30). -/
def stackBytes : Nat := 48 * 10 ^ 9

/-- The halves that keep copies of images. -/
def State.copyHalves (s : State) : List Half := [Half.west, .east].filter fun h => (s.hs h).serves

/-- Store bytes that each half holds: images, benchmarks, and the journal ring (10 R220; log 30). -/
def State.storeUsed (s : State) : Nat :=
  (s.img.vals.map fun i => i.total).sum + (s.bench.vals.map fun b => b.bytes.length).sum + journalRing

def State.storeSize (s : State) (h : Half) : Nat := countBits 16 (s.hs h).stackMask.toNat * stackBytes

/-- The store takes `n` more bytes. -/
def State.storeRoom (s : State) (n : Nat) : Bool := s.copyHalves.all fun h => decide (s.storeUsed + n ≤ s.storeSize h)

/-- An allocation finds cleared space (17 R420). -/
def State.cleared (s : State) : Bool := s.copyHalves.all fun h => decide (s.storeUsed + (s.hs h).dirty ≤ s.storeSize h)

/-! ### References of images (10 R222) -/

/-- The images of a set, absent ones left out. -/
def ImgSet.digests (x : ImgSet) : List Digest := [x.tki, x.hdi, x.csi, x.sli].filter fun d => d != 0

/-- The references of a binding to an image: one for each of its sets that names it. -/
def Binding.refs (b : Binding) (d : Digest) : Nat :=
  if b.state = .retired then 0
  else b2n (b.set.digests.contains d) + (match b.newSet with
    | some n => b2n (n.1.digests.contains d)
    | none => 0)

def State.bindRefs (s : State) (d : Digest) : Nat := (s.bnd.vals.map fun b => b.refs d).sum

/-- The firmware references: the running FWI and the fallback. -/
def State.fwRefs (s : State) (d : Digest) : Nat := b2n (s.eng.fwRun == some d) + b2n (s.eng.fwFall == some d)

/-- A load that has not completed keeps its image. -/
def State.loading (s : State) (d : Digest) : Bool := s.mbx.jobs.any fun j => j.code == cLoad && j.stage == 3 && j.digest == d

/-- The last binding that names an image is gone: its finder entries leave, and a constraint set's or a head's cached entries
(06 R128, 05 R121). -/
def State.dropUnnamed (s : State) (d : Digest) : State :=
  if s.bindRefs d = 0 then { s with half := s.half.map fun x => x.dropFinder (.image d) } else s

/-- An image without a reference leaves the store (10 R222). -/
def State.dropIfFree (s0 : State) (d : Digest) : State :=
  let s := s0.dropUnnamed d
  match s.image d with
  | none => s
  | some i =>
    if i.hostRef || s.bindRefs d != 0 || s.fwRefs d != 0 || s.loading d then s
    else
      { s with
        img := s.img.del d.toNat
        half := ⟨s.half.w.forget d i.copies.w.length, s.half.e.forget d i.copies.e.length⟩
        mi := s.mi.filter fun a => match a.purpose with
          | .fetch g _ => g != d
          | _ => true }

/-- Drop every image of a list that has lost its last reference. -/
def State.dropFree (s : State) (ds : List Digest) : State := ds.foldl (fun t d => t.dropIfFree d) s

/-- A stored image that something needs begins its verification (10 R221, R224). -/
def State.wantVerified (s : State) (d : Digest) : State :=
  match s.image d with
  | some i => if i.state = .stored then s.setImage { i with state := .verifying } else s
  | none => s

/-- Every image of a set has passed verification since the last start (10 R224). -/
def State.imagesReady (s : State) (x : ImgSet) : Bool :=
  x.digests.all fun d => match s.image d with
    | some i => i.state != .stored && i.state != .verifying && i.state != .fetching
    | none => true

/-! ### Finder regions (06 R128, R146; 07 R151, R152; 08 R172; 09 R191) -/

/-- The finder record of a stop string: its last 28 bytes (08, figures of the stop bath). -/
def stopRecs (ss : List (List Byte)) : List FRec :=
  ss.zipIdx.map fun p => ⟨textKey (p.1.drop (p.1.length - 28)), 0, p.2⟩

/-- What an owner's entries are on a half: job, width and records. -/
structure Placing where
  job : FJob
  width : Nat
  recs : List FRec
  deriving DecidableEq, Repr, Inhabited

/-- The entries of an image: merges of width 2, text specials of width 4, sequence lists of their own width and twice
(06 R146, 07 R151, R152). -/
def imagePlacings (typ : IType) (c : List Byte) : List Placing :=
  match typ with
  | .tki =>
    let k := tkiOf c
    [⟨.merges, 2, mergeRecs k.merges⟩, ⟨.specials, 4, specRecs k.textSpecials⟩]
  | .sli =>
    let l := sliOf c
    [⟨.lists false, l.width, l.recs⟩, ⟨.lists true, l.width, l.recs⟩]
  | _ => []

/-- The entries of an owner, read from the half's stacks or the mirror's (06 R147, 13 R303). -/
def State.placings (s : State) (h : Half) : FOwner → List Placing
  | .image d => ((s.image d).map fun i => imagePlacings i.typ (s.imageOn h d)).getD []
  | .stopsOf b => ((s.binding b).map fun b => [⟨FJob.stops, 4, stopRecs (stopSetOf b).strings⟩]).getD []

/-- Place an owner's entries; none when they cannot all be placed. -/
def placeAll (f : Finder) (empty : List Nat) (keep : Nat) (o : FOwner) (ps : List Placing) : Option Finder :=
  ps.foldl (fun f p => f.bind fun g => g.place empty keep p.job p.width o p.recs) (some f)

/-- The owners of a binding's entries. -/
def Binding.owners (b : Binding) (x : ImgSet) : List FOwner := (x.digests.map FOwner.image) ++ [.stopsOf b.handle]

/-- Place the entries of a binding's images and of its stop strings in a half's finder. -/
def State.placeFor (s : State) (h : Half) (b : Binding) (x : ImgSet) : Option Finder :=
  (b.owners x).foldl (fun f o => f.bind fun g => placeAll g (s.hs h).emptyPos keptFree o
    (match o with
     | .stopsOf _ => [⟨FJob.stops, 4, stopRecs (stopSetOf b).strings⟩]
     | o => s.placings h o)) (some (s.hs h).regions)

/-- The halves that form a binding's allowed sets and tokenise for it (06 R146, 07 R151). -/
def State.finderHalves (s : State) (b : Binding) (x : ImgSet) : List Half :=
  if x.one && decide (b.shards ≤ 1) && s.bothServe then [x.half] else s.copyHalves

/-- The entries of a binding can be placed where it needs them (06 R128). -/
def State.finderRoom (s : State) (b : Binding) (x : ImgSet) : Bool :=
  (s.finderHalves b x).all fun h => (s.placeFor h b x).isSome

/-- Place the entries of a binding on a half. -/
def State.loadFinder (s : State) (h : Half) (b : Binding) (x : ImgSet) : State :=
  match s.placeFor h b x with
  | some f => s.onHalf h fun y => { y with regions := f }
  | none => s

/-- Place the entries of a binding wherever it needs them. -/
def State.loadFinders (s : State) (b : Binding) (x : ImgSet) : State :=
  (s.finderHalves b x).foldl (fun t h => t.loadFinder h b x) s

/-- Place the entries of every binding's images on a half that has lost them. -/
def State.reloadFinder (s : State) (h : Half) : State :=
  (s.bnd.vals.filter fun b => b.state != .retired && b.state != .loading).foldl
    (fun t b => if (t.finderHalves b b.set).contains h then t.loadFinder h b b.set else t) s

/-- Entries that found no bank are placed once banks are free, the kept ones among them (09 R191). -/
def State.placeAgain (s : State) (h : Half) : State :=
  (s.hs h).unplaced.foldl (fun t u =>
    match placeAll (t.hs h).regions (t.hs h).emptyPos 0 u.owner (t.placings h u.owner) with
    | some f => t.onHalf h fun x => { x with regions := f, unplaced := x.unplaced.filter fun v => v.owner != u.owner }
    | none => t) s

/-- A binding whose entries cannot be placed on a half is held (09 R191). -/
def State.finderHeld (s : State) (h : Half) (b : Binding) : Bool :=
  (s.hs h).unplaced.any fun u => (b.owners b.set).contains u.owner

/-- A region with a bad byte is invalidated and loaded again from the stacks, the half's own or the mirror's (06 R147). -/
def State.reloadRegion (s : State) (h : Half) (o : FOwner) (second : Bool) : State :=
  s.onHalf h fun x =>
    { x with regions := x.regions.map fun r =>
        if r.has o && !(r.job == .lists (!second)) then
          r.reload fun p => ((s.placings h p).filter fun y => y.job == r.job && y.width == r.width).flatMap fun y => y.recs
        else r }

/-- Banks of the image entries of a half (12 R283). -/
def HalfSt.finderBanks (x : HalfSt) : Nat := x.regions.used.length

/-! ### Columns and plates -/

/-- A plate leaves service: a spare takes its position with its finder entries, after its home bank is cleared, or the
position stays empty (09 R190, R191, R208, 13 R302). ARG0 of POSITION_EMPTY is the position. DESIGN CHOICE (log 105), unsafe. -/
def State.retirePlate (s : State) (h : Half) (pos : Nat) : State :=
  let a := (s.countFault h 4 1).onHalf h fun x =>
    { x with retired := x.retired + 1, suspects := x.suspects.filter fun y => y.pos != pos }
  let b := (a.log h.code 1 0x0003 pos 0 []).recovery h 0x0003 0 0
  if (s.hs h).spare = 0 then
    if (s.hs h).emptyPos.contains pos then b
    else
      let f := (b.hs h).regions.losePlate (pos :: (b.hs h).emptyPos) pos
      let c := b.onHalf h fun x =>
        ({ x with emptyPos := pos :: x.emptyPos, regions := f.1
                  unplaced := x.unplaced ++ f.2.map fun u => ⟨u.1, u.2⟩ } : HalfSt).clear .bank homeBank
      (c.log h.code 0 0x0004 pos (f.2.map (·.2)).sum []).refitHeads h
  else b.onHalf h fun x => (({ x with spare := x.spare - 1 } : HalfSt).clear (.spare pos) homeBank).clear .bank homeBank

/-- The redundant columns that are free in the group of a column (09 R203, R205). -/
def HalfSt.groupLeft (x : HalfSt) (e : ColErr) : Nat :=
  ((x.groups.find? fun g => g.tray == e.tray && g.bank == e.bank.toNat && g.group == e.column.toNat / 512).map (·.left)).getD
    (min e.free.toNat 4)

/-- Groups with no free redundant column (09 R205). -/
def HalfSt.fullGroups (x : HalfSt) : Nat := (x.groups.filter fun g => g.left == 0).length

def HalfSt.setGroup (x : HalfSt) (e : ColErr) (left : Nat) : HalfSt :=
  let g : ColGroup := ⟨e.tray, e.bank.toNat, e.column.toNat / 512, left⟩
  { x with groups := (x.groups.filter fun y => !(y.tray == g.tray && y.bank == g.bank && y.group == g.group)) ++ [g] }

def columnOf (e : ColErr) : Column := ⟨e.tray, e.bank.toNat, e.column.toNat⟩

/-- A failing column: a soft repair into a free redundant column of its group; a group without one retires the plate or
the tray bank (09 R204, R206). -/
def State.softRepair (s : State) (h : Half) (e : ColErr) : State :=
  let n := (s.hs h).groupLeft e
  if n = 0 then
    let a := s.onHalf h fun x => x.setGroup e 0
    if e.tray then a.onHalf h fun x => x.loseTray e.bank.toNat else a.retirePlate h e.bank.toNat
  else if (s.hs h).pendingRepairs.contains (columnOf e) || (s.hs h).burnt.contains (columnOf e) then s
  else (s.countFault h 6 1).onHalf h fun x =>
    ({ x with pendingRepairs := x.pendingRepairs ++ [columnOf e] } : HalfSt).setGroup e (n - 1)

/-- `service.retire_suspects` counts a plate that has been retired while it runs (18 R444). -/
def State.countRetired (s : State) (h : Half) : State :=
  { s with mbx := { s.mbx with jobs := s.mbx.jobs.map fun j =>
      if j.code == cSuspects && j.target == h then { j with arg := j.arg + 1 } else j } }

/-- A failed check is charged to a plate: suspect, or retired when it was charged within 7 days before (13 R302). -/
def State.charge (s : State) (h : Half) (pos : Nat) : State :=
  if (s.hs h).suspects.any fun y => y.pos == pos then (s.retirePlate h pos).countRetired h
  else s.onHalf h fun x => { x with suspects := ⟨pos, s.time.toNat⟩ :: x.suspects }

/-- The clear of a region is complete: the allocation that waited gives it its new owner (09 R208). -/
def State.clearedFor (s : State) (h : Half) : ClearFor → State
  | .head d n k => s.onHalf h fun x => { x with heads := x.heads.map fun e =>
      if e.digest = d ∧ e.share.shards = n ∧ e.share.shard = k then { e with cleared := true } else e }
  | .finder => (s.onHalf h fun x => { x with regions := x.regions.cleared }).placeAgain h
  | _ => s

/-- The zero engine's first clear is complete (09 R208, R209). -/
def State.clearDone (s : State) (h : Half) : State :=
  match (s.hs h).clears with
  | [] => s
  | c :: t => (s.onHalf h fun x => { x with clears := t }).clearedFor h c.what

end Sys2Proof.Machine
end

