-- ==== Sys2Proof/Machine/RouteOps.lean ====
section
/-! DEFINITION. What releases and ends of routes do: outputs, journal records, checkpoints, ends, and the commands
that wait for a route to come to rest (01 R30-R32, 08 R178-R184, 13 R296-R298, R318, 14 R328, R339-R343, 12 R281). -/
namespace Sys2Proof.Machine

/-! ### Groups -/

/-- The engine selects and releases for the route: it is unsharded, or the owner (03 R68). -/
def owns (b : Binding) (r : Route) : Bool := decide (b.shards ≤ 1) || r.owner

/-- The other members' shard indices. -/
def memberShards (b : Binding) : List Nat := (List.range b.shards).filter fun i => i != b.shard

/-- The half whose peer chains carry a frame: the route's, or the other one when it has none (16 R388, R403). -/
def State.peerHalf (s : State) (h : Half) : Half := if (s.peerChains h).isEmpty then h.other else h

/-- Send one PRT entry of a route to a member of its group (16 R402). -/
def State.toMember (s : State) (b : Binding) (r : Route) (member kind flags step pos : Nat) (body : List Byte) : State :=
  let dst := Config.memberPosition b.handle member
  s.sendPrt (s.peerHalf r.half) dst (prtEntry kind s.level.position dst flags b.handle r.salt step pos body)

/-- Send one PRT entry to every other member. -/
def State.toMembers (s : State) (b : Binding) (r : Route) (kind flags step pos : Nat) (body : List Byte) : State :=
  (memberShards b).foldl (fun t i => t.toMember b r i kind flags step pos body) s

/-- Send one PRT entry to the route's owner. -/
def State.toOwner (s : State) (b : Binding) (r : Route) (kind flags step pos : Nat) (body : List Byte) : State :=
  s.toMember b r (Config.ownerShard b.handle r.salt) kind flags step pos body

/-! ### What a step waits for, and the space it takes -/

/-- The halves that form a route's steps. -/
def State.routeHalves (s : State) (r : Route) : List Half := if s.paired r then [.west, .east] else [r.half]

def State.eachHalf (s : State) (hs : List Half) (f : HalfSt → HalfSt) : State := hs.foldl (fun t h => t.onHalf h f) s

/-- Latent slots of prepared drafts go back to the pool (04 R102). -/
def State.freeDrafts (s : State) (r : Route) : State :=
  match r.drafts with
  | some p => if p.held then s.onHalf p.half fun x => x.freeSlots p.drafts.length else s
  | none => s

/-- Latent slots of an admitted step go back to the pool (04 R100). -/
def State.freeStep (s : State) (r : Route) : State :=
  match r.adm with
  | some a => if a.phase = .waitSlots then s else s.eachHalf (s.routeHalves r) fun x => x.freeSlots a.drafts.length
  | none => s

/-- The outputs of a route have left: its TOK frames are in a replay buffer and its records in the output queue
(13 R296, R299). -/
def State.outputsLeft (s : State) (r : Route) : Bool :=
  r.waitRecs.isEmpty && [Half.west, .east].all fun h =>
    (s.chains.get h).all fun c => c.wait.all fun o => !(o.typ == ftTok && o.handle == r.handle)

/-- A step whose outputs cannot leave blocks its route (13 R299). -/
def State.blocked (s : State) (r : Route) : Bool := r.outBytes != 0 && !s.outputsLeft r

/-- Space of outputs that have left is cleared and free (09 R208, 13 R299). -/
def State.freeSpent (s : State) (r : Route) : State :=
  if r.outBytes = 0 || !s.outputsLeft r then s
  else
    (s.eachHalf (s.routeHalves r) fun x =>
      let y := if r.spent = 0 then x else x.clear (.input r.spent) r.spent
      y.clear (.fixing r.outBytes) r.outBytes).setRoute { r with spent := 0, outBytes := 0 }

/-- A search that a step of the route needs has to wait: a finder has stopped, or the binding is held for want of banks
(06 R136, 09 R191). -/
def State.searchWaits (s : State) (b : Binding) (r : Route) : Bool :=
  (s.routeHalves r).any fun h => s.finderHeld h b || (b.set.sli != 0 && (s.hs h).rate == 3)

/-- Tokenising has to wait (06 R136, 09 R191). -/
def State.tokeniserWaits (s : State) (b : Binding) (r : Route) : Bool :=
  s.finderHeld r.half b || (s.hs r.half).rate == 3

/-- A step that goes on to grammar states `gs` needs data that the stacks have lost (13 R305): the tokeniser image, a list
that stands in no region, or a state that stands in no cache. -/
def State.dataGone (s : State) (b : Binding) (r : Route) (gs : List Nat) : Bool :=
  s.imageGone r.half b.set.tki ||
    (s.imageGone r.half b.set.sli && !(s.hs r.half).regions.has (.lists false) (.image b.set.sli)) ||
    (s.imageGone r.half b.set.csi && gs.any fun g => !(s.hs r.half).hasMask ⟨b.set.csi, g⟩)

/-- A step needs rows of a head that the stacks have lost and that is not resident (13 R305). -/
def State.headGone (s : State) (b : Binding) (r : Route) : Bool :=
  (s.routeHalves r).any fun h => s.imageGone h b.set.hdi && !s.headOn b h

/-! ### Benchmarks (14 R325, R328) -/

def bytesLt : List Byte → List Byte → Bool
  | [], [] => false
  | [], _ :: _ => true
  | _ :: _, [] => false
  | a :: s, b :: t => decide (a.toNat < b.toNat) || (a == b && bytesLt s t)

def sortInsert (lt : List Byte → List Byte → Bool) (x : List Byte) : List (List Byte) → List (List Byte)
  | [] => [x]
  | y :: t => if lt x y then x :: y :: t else y :: sortInsert lt x t

def sortBytes (lt : List Byte → List Byte → Bool) (l : List (List Byte)) : List (List Byte) :=
  l.foldl (fun acc x => sortInsert lt x acc) []

/-- The parameter digest of a binding (14 R325). -/
def paramDigest (b : Binding) : Digest :=
  sha384 (b.profile ++ (sortBytes (fun x y => decide (u32At x 0 < u32At y 0)) (records 8 b.bias)).flatten ++
    (sortBytes bytesLt (records 264 b.stops)).flatten ++ toLe 1 b.stopFlags ++ toLe 1 b.endPolicy ++ toLe 2 b.classSel)

/-- The route's released state as a benchmark; RSTATE is the state it resumes into (14 R328). -/
def routeBench (b : Binding) (r : Route) : List Byte :=
  benchBytes
    { seed := r.seed, salt := r.salt, startStep := r.startStep, next := r.next, limit := r.limit, oflags := r.oflags
      rstate := if r.state = .ended then .ended else if r.ran then .running else .open
      ending := r.ending, rebasedAt := r.rebasedAt, gstate := if b.set.csi = 0 then 0 else r.rel.pos.g
      promptN := r.promptN, outSeq := r.outSeq, promptDigest := r.promptDigest, bytes := r.rel.bytes
      printDigest := r.rel.digest, sw := r.rel.pos.sw, held := r.rel.dev.held ++ r.rel.dev.pend
      u8n := r.rel.dev.pend.length, pen := r.rel.pos.pen
      digests := [b.set.tki, b.set.hdi, b.set.csi, b.set.sli], pdigest := paramDigest b }

/-- A checkpoint when 65,536 tokens or 16 GiB of records have gone by (14 R342). -/
def State.checkpoint (s : State) (b : Binding) (r : Route) : State :=
  if 65536 ≤ r.sinceCheck ∨ 2 ^ 34 ≤ s.jr.written - r.checkBytes then
    let t := s.journal r.half 0x23 r.handle (routeBench b r)
    t.setRoute { r with sinceCheck := 0, checkAt := s.jr.next, checkBytes := t.jr.written }
  else s

/-- The checkpoint of a route that may be due, from what it is now. -/
def State.checkpointOf (s : State) (r : Route) : State :=
  match s.route r.handle with
  | some q => if liveRoute q then (match s.binding q.binding with
      | some b => s.checkpoint b q
      | none => s) else s
  | none => s

/-- Records of one route count towards the 16 GiB of every other one: each live route's checkpoint that is due is written
(14 R342). -/
def State.checkpoints (s : State) : State := s.rt.vals.foldl State.checkpointOf s

/-! ### Outputs -/

/-- Send a TOK entry and stream records of a route; `more` adds them to the last release's outputs
(13 R296 step 7, R310). -/
def State.output (s : State) (r : Route) (tok : Option TokEntry) (recs : List OutRec) (more : Bool) : State :=
  let toks := (tok.map fun t => t.bytes).toList
  let bytes := numberRecs r.handle r.outSeq recs
  let a := match tok with
    | some t => s.sendTok r.half (r.chains.get r.half) t
    | none => s
  let t := a.emit { r with lastToks := (if more then r.lastToks else []) ++ toks
                           lastRecs := (if more then r.lastRecs else []) ++ bytes
                           outBytes := r.outBytes + (toks ++ bytes).flatten.length } recs
  match t.route r.handle with
  | some q => t.freeSpent q
  | none => t

/-- Count copies that are discarded as duplicate positions (01 R23, R464). -/
def State.countCopies (s : State) (gone : Halves (List Copy)) : State :=
  let t := if gone.w.isEmpty then s else s.countStep .west 2 gone.w.length
  if gone.e.isEmpty then t else t.countStep .east 2 gone.e.length

/-- A route ends (01 R32, 08 R178, R183; 13 R318). `tok`: a TOK entry with no tokens tells it; `more`: it follows a
release of the same commit. `set` is the image set that the terminator describes (05 R115). -/
def State.endRoute (s : State) (b : Binding) (r : Route) (set : ImgSet) (c : EndCause) (tok more : Bool) : State :=
  let mine := owns b r
  let ps := if c = .stop then [] else devFlush (stopSetOf b) r.rel.dev
  let rel := r.rel.printed ps
  let csi := if set.csi = 0 then [] else ((s.image set.csi).map Image.bytes).getD []
  let acc := set.csi != 0 && ((csiOf csi).state rel.pos.g).accepting
  let fin := endPayload r.next c (set.csi != 0) acc rel.gen rel.bytes rel.digest
  let t := emptyTok r.handle r.next c.status c false
  let r1 : Route :=
    { r with state := .ended, ending := c, rel := { rel with dev := ⟨[], []⟩ }, adm := none, copies := ⟨[], []⟩
             peers := [], skip := [], drafts := none, forcedMore := false, openDue := false, pauseDue := false, saving := false
             intake := [], intakeEnded := true, stoppedSteps := []
             spent := r.spent + ((r.adm.map fun a => a.body.length).getD 0) }
  let a := (((s.freeDrafts r).freeStep r).countCopies r.copies).journal r.half 0x22 r.handle (toLe 4 r.salt ++ fin)
  if mine then
    let x := a.output r1 (if tok then some t else none) (printRecords r.next true ps ++ [⟨0x9F, 0, c.status, fin⟩]) more
    if tok && decide (1 < b.shards) && c != .host && c != .swapped then
      x.toMembers b r pkRelease 0 r.next 0 t.bytes
    else x
  else a.setRoute (a.twin r1)

/-- A route ends for a fault: its last committed state stands (13 R318). -/
def State.faultRoute (s : State) (r : Route) : State :=
  match s.binding r.binding with
  | some b => (s.log engineSide 2 0x000B r.handle r.next []).endRoute b r b.set .fault true false
  | none => s

/-! ### Indices and room for benchmarks (11 R258, 12 R279) -/

/-- The generation that follows a route or benchmark index's last one (11 R258, 12 R279). -/
def nextGen (last : Nat) : Nat := last % 0x3FFF + 1

/-- Indices of routes and of benchmarks. -/
def indexCount : Nat := 2 ^ 18

/-- The lowest free index of a table with fewer entries than indices. -/
def freeIndex {α : Type} (t : Tab α) : Option Nat :=
  match t.freeFrom 0 (t.length + 1) with
  | some i => if i < indexCount then some i else none
  | none => none

/-- The stacks hold one more benchmark (12 R279). -/
def State.benchRoom (s : State) (b : Binding) (r : Route) : Bool :=
  (freeIndex s.bench).isSome && s.storeRoom (routeBench b r).length

/-! ### Commands that wait for a route to come to rest -/

/-- A command that waits for a route. -/
def routeJob (handle : Nat) (j : Job) : Bool :=
  j.arg == handle && j.stage == 0 && (j.code == cPause || j.code == cSave || j.code == cEnd || j.code == cBankWrite)

/-- The benchmark of a SAVED route that ends records the end (10 R228, R234; 12 R279). -/
def State.endBench (s : State) (r : Route) (c : EndCause) : State :=
  match r.bench with
  | none => s
  | some h =>
    match s.bench.get? (h % indexCount) with
    | some e => if e.handle = h ∧ r.state = .saved then { s with bench := s.bench.put (h % indexCount) { e with bytes := benchEnded e.bytes c } } else s
    | none => s

/-- A benchmark leaves the stacks, and its regions are cleared in the background (09 R210, 12 R279). -/
def State.dropBench (s : State) (i : Nat) : State :=
  match s.bench.get? i with
  | none => s
  | some e =>
    s.copyHalves.foldl (fun t h => t.onHalf h fun x => { x with dirty := x.dirty + e.bytes.length })
      { s with bench := s.bench.del i }

/-- KEEP keeps the benchmark of a SAVED route, with its end; without KEEP it goes (12 R279, R281). -/
def State.keepBench (s : State) (r : Route) (keep : Bool) : State :=
  if r.state ≠ .saved then s
  else if keep then s.endBench r .host
  else s.dropBench (r.bench.getD 0 % indexCount)

/-- `route.end` on a route that rests (12 R281, 10 R228): END_HOST, or the end that its step has met. -/
def State.endByHost (s : State) (slot handle : Nat) (keep : Bool) : State :=
  match s.route handle with
  | none => s
  | some r =>
    if r.state = .ended ∧ r.ending = .host then s.refuse slot stState (routeObj r)
    else
      let a := if r.state = .ended then s else
        match s.binding r.binding with
        | some b => (s.keepBench r keep).endRoute b r b.set .host true false
        | none => s
      match a.route handle with
      | none => a
      | some q =>
        a.commitOk slot (routeObj q)
          (toLe 4 q.next ++ toLe 4 q.rel.gen ++ toLe 4 (if r.state = .saved ∧ keep then r.bench.getD 0 else 0))

/-- Pause a route at its last release (11 R257). Prepared latent slots return (04 R102). -/
def State.holdPaused (s : State) (r : Route) : State :=
  (s.freeDrafts r).setRoute { r with state := .paused, drafts := none, pauseDue := false }

/-- `route.save` takes effect when there is room for the benchmark, and its region takes it (12 R279, R281). -/
def State.saveDue (s : State) (j : Job) (r : Route) : State :=
  match s.binding r.binding with
  | none => s.refuse j.slot stState (routeObj r)
  | some b =>
    if bitOf (u32At j.body 4) 0 ∧ (descAt j.body 0x10).len < (routeBench b r).length then s.refuse j.slot stArg (routeObj r)
    else if !s.benchRoom b r then s.refuse j.slot stNoSpace (routeObj r)
    else ((s.freeDrafts r).setRoute { r with saving := true, drafts := none }).setJob { j with stage := 1 }

/-! ### Records that a diagnostic write changes (09 R211, 12 R284; log 9) -/

/-- A penalty history that written bytes spell. -/
def spelledPen (b : List Byte) (h : Pen) : Pen :=
  let ts := (List.range (spells 2 b 1024 2)).map fun i => (spells 2 b (1026 + 6 * i) 4, spells 2 b (1030 + 6 * i) 2)
  match h with
  | .counts _ => .counts (ts.foldl (fun (t : Tab Nat) p => t.put p.1 p.2) [])
  | .window _ => .window (ts.map fun p => p.1)

/-- The released state that the bytes of a route record spell: the layout is not given, so each of its items is free, a
function of the bytes. -/
def RouteRec.spelled (b : List Byte) (r : RouteRec) : RouteRec :=
  { seed := BitVec.ofNat 64 (spells 2 b 0 8), salt := spells 2 b 8 4, limit := spells 2 b 12 4
    promptN := spells 2 b 16 4, promptDigest := BitVec.ofNat 64 (spells 2 b 20 8), outSeq := spells 2 b 28 4
    rel :=
      { pos := { g := spells 2 b 32 4, sw := (words32 (spellBytes 2 b 36 28)).filter (fun t => t != 0xFFFFFFFF)
                 pen := spelledPen b r.rel.pos.pen }
        dev := { pend := spellBytes 2 b 64 (spells 2 b 68 1 % 4), held := spellBytes 2 b 72 (spells 2 b 70 2 % 259) }
        bytes := spells 2 b 400 8, digest := BitVec.ofNat 64 (spells 2 b 408 8), gen := spells 2 b 416 4 } }

/-- The 512 bytes of a route record on a half: those last written, or a function of what the record holds. -/
def Route.recordBytes (b : Binding) (r : Route) (h : Half) : List Byte :=
  match r.record.get h with
  | some x => x
  | none =>
    let q := if h = r.half then r else r.ofRec r.mirror
    (List.range routeRecord).map fun i => Config.recordByte 2 (routeBench b q) i

/-- A diagnostic write changes the record that the half holds: the released state on the half that serves the route, the
other half's copy elsewhere. -/
def Route.writeRecord (r : Route) (h : Half) (bytes : List Byte) : Route :=
  let q := { r with record := r.record.set h (some bytes) }
  if h = r.half then q.ofRec (r.recOf.spelled bytes) else { q with mirror := r.mirror.spelled bytes }

/-- A write to a route record takes effect between two releases (12 R284, R290). -/
def State.recordDue (s : State) (j : Job) (r : Route) : State :=
  let a := s.commit j.slot
  let b := if r.state = .ended then a else
    match a.binding r.binding with
    | none => a
    | some bd =>
      let h := Half.ofCode (u8At j.body 1)
      let q := r.writeRecord h (patch (r.recordBytes bd h) (u64At j.body 8) j.parts.flatten)
      (a.setRoute q).mark r.half 0x0001 r.handle q.next r.binding
  b.reply j.slot stOk ((b.route r.handle).elim (engineObj b) routeObj) []

/-- A mark that was due is written with the first step admitted after the write (14 R340). -/
def State.markDue (s : State) (r : Route) : State :=
  if r.markDue then (s.setRoute { r with markDue := false }).mark r.half 0x0001 r.handle r.next r.binding else s

/-- A waiting command takes effect. -/
def State.routeJobDue (s : State) (j : Job) : State :=
  match (s.route j.arg).filter fun _ => (s.slotServer j.slot).isSome with
  | none => s
  | some r =>
    if r.saving then s
    else if j.code = cBankWrite then s.recordDue j r
    else if j.code = cEnd then s.endByHost j.slot j.arg (bitOf (u32At j.body 4) 0)
    else if r.state = .ended ∨ r.state = .saved then s.refuse j.slot stState (routeObj r)
    else if j.code = cPause then
      if r.state = .paused then s.refuse j.slot stState (routeObj r)
      else
        let a := s.holdPaused r
        a.commitOk j.slot ⟨skRoute, RState.paused.code⟩ (toLe 4 r.next)
    else s.saveDue j r

/-- The binding's routes are all at rest behind its fence (10 R231, R232). -/
def State.heldDone (s : State) (b : Binding) : Bool :=
  (s.routesOf b.handle).all fun (r : Route) => r.state == .ended || r.state == .saved

/-- A held-route entry (12 R276). -/
def heldEntry (r : Route) : List Byte := toLe 4 r.handle ++ toLe 4 (r.bench.getD 0) ++ toLe 4 r.next ++ zeros 4

/-- The held routes of a binding, in index order (12 R276). -/
def State.heldRoutes (s : State) (b : Binding) : List Route := (s.routesOf b.handle).filter fun r => r.state == .saved

/-- Complete `binding.stop`: the held-route entries are written first (12 R275, R276). -/
def State.stopReply (s : State) (j : Job) (b : Binding) : State :=
  let held := s.heldRoutes b
  let d := descAt j.body 0x10
  let list := bitOf (u32At j.body 4) 0
  let n := if list then min held.length (d.len / 16) else 0
  s.writeThen j.slot j.body ⟨d.addr, 16 * n⟩ ((held.take n).flatMap heldEntry) (.binding b.handle)
    (toLe 4 held.length ++ toLe 4 n)

/-- A STOPPING binding whose held routes are all saved becomes STOPPED (10 R232). -/
def State.finishStop (s : State) (binding : Nat) : State :=
  match s.binding binding with
  | none => s
  | some b =>
    if b.state == .stopping && b.fence == .set && s.heldDone b then
      let c := { b with state := .stopped }
      let a := s.setBinding c
      match a.mbx.jobs.find? fun j => j.code == cStop && j.arg == binding with
      | some j => a.stopReply j c
      | none => a
    else s

/-- A halt that saves every route completes once all are SAVED (12 R268). -/
def State.finishHalt (s : State) : State :=
  match s.mbx.jobs.find? fun j => j.code == cHalt with
  | none => s
  | some j =>
    if s.rt.vals.all fun (r : Route) => r.state == .ended || r.state == .saved then
      let n := (s.rt.vals.filter fun r => r.state == .saved).length
      let a := s.commit j.slot
      let b : State := { a with eng := { a.eng with state := .halt } }
      (b.reply j.slot stOk (engineObj b) (toLe 4 n)).enterHalt
    else s

/-- A route is held behind a fence, or by a halt that saves every route. -/
def State.held (s : State) (r : Route) : Bool :=
  (match s.binding r.binding with
   | some b => b.state == .stopping && b.fence == .set
   | none => false) || s.mbx.jobs.any fun j => j.code == cHalt

/-- The step and the forced-only releases of a route are over: what waited for that happens, the oldest command
first (10 R231, 11 R257, 12 R281, R290). -/
def State.settle (s : State) (handle : Nat) : State :=
  match s.route handle with
  | none => s
  | some r =>
    if r.adm.isSome || r.forcedMore || r.saving then s
    else
      let b := ((s.mbx.jobs.filter (routeJob handle)).reverse).foldl (fun t j => t.routeJobDue j) (s.markDue r)
      let c := match b.route handle with
        | some q => if b.held q && q.state != RState.ended && q.state != RState.saved then
            (b.freeDrafts q).setRoute { q with saving := true, drafts := none, intake := [] }
          else if q.pauseDue && (q.state == RState.open || q.state == RState.running) then b.holdPaused q else b
        | none => b
      (c.finishStop r.binding).finishHalt

/-! ### Commit of a release -/

/-- Latent slots of a step that has passed go back (04 R100, R102). -/
def keepDrafts (next : Nat) (p : Option Prepared) : Option Prepared :=
  match p with
  | some q => if q.step = next then some q else none
  | none => none

/-- Copies of steps that the route's next step has passed (01 R464). -/
def passedCopies (next : Nat) (l : List Copy) : List Copy := l.filter fun c => decide (c.step < next)

/-- The record of a release and its contact sheets (14 R339, R343). -/
def State.journalRelease (s : State) (b : Binding) (r : Route) (x : Release) (cs : List Contact) : State :=
  let a := s.journal r.half 0x21 r.handle (x.record r.salt r.next)
  ((x.grow.taken.zip cs).foldl (fun (p : State × Nat) tc =>
    (p.1.journal r.half 0x24 r.handle
      (contactPayload (profileOf b.profile) (b.set.csi != 0) r.salt p.2 b.shard b.shards tc.1 tc.2), p.2 + 1)) (a, r.next)).1

/-- The route after a release's tokens: the released state moves on, and what belonged to passed steps goes. -/
def Route.released (r : Route) (x : Release) (next : Nat) : Route :=
  { r with rel := x.grow.rel, adm := none, sinceCheck := r.sinceCheck + x.grow.taken.length
           spent := r.spent + ((r.adm.map fun a => a.body.length).getD 0)
           forcedMore := x.after == .forcedMore
           copies := r.copies.map (fun l => l.filter fun c => decide (next ≤ c.step))
           peers := r.peers.filter (fun p => decide (next ≤ p.step)), skip := []
           stoppedSteps := r.stoppedSteps.filter (fun p => decide (next ≤ p.2))
           drafts := keepDrafts next r.drafts, record := ⟨none, none⟩ }

/-- Slots of a step and of drafts that a release has passed go back (04 R100, R102). -/
def State.freePassed (s : State) (r : Route) (next : Nat) : State :=
  let t := s.freeStep r
  if keepDrafts next r.drafts = none then t.freeDrafts r else t

/-- What follows a committed release: the end that it has met, or the end that its next position or its deadline brings
(01 R31, R32; 04 R98). -/
def State.afterCommit (s : State) (b : Binding) (r : Route) (x : Release) (now : Nat) : State :=
  let mine := owns b r
  match x.after with
  | .ends k => s.endRoute b r b.set k false true
  | .dead => if mine then s.endRoute b r b.set .noToken true true else s
  | _ => if mine && !x.forcedOnly && passed now r.deadline then s.endRoute b r b.set .deadline true true else s

/-- A release commits: the route advances, its outputs are queued, and the end that it leads to follows
(13 R296 steps 6 and 7, 01 R30-R32, 04 R98). The developer's output and the TOK entry are the owner's alone
(03 R68). An allowed set that is empty at the first position gives no release: the route ends (01 R32). -/
def State.commitRelease (s : State) (b : Binding) (r : Route) (x : Release) (cs : List Contact) : State :=
  let step := r.next
  let next := step + x.grow.taken.length
  let mine := owns b r
  if x.grow.taken.isEmpty then
    if mine then s.endRoute b r b.set .noToken true false else s
  else
    let drop : Halves (List Copy) := r.copies.map (passedCopies next)
    let r1 := r.released x next
    let a := (((s.freePassed r next).journalRelease b r x cs).countStep r.half 1 1).countCopies drop
    let r2 := s.twin r1
    let tok := x.tok r.handle step
    let c := if mine then a.output r2 (some tok) (printRecords step false x.grow.prints) false else a.setRoute r2
    let d := if mine && decide (1 < b.shards) then c.toMembers b r pkRelease 0 step 0 tok.bytes else c
    let e := d.checkpoints
    match e.route r.handle with
    | none => e
    | some q => e.afterCommit b q x s.time.toNat

/-! ### Forced-only releases -/

/-- D_MASK, COUNT and the state of a token that no position of an entry formed (14 R343; log 32). -/
def forcedContact (e : Env) (p : Pos) : Contact :=
  let a := (allowed e p).filter fun t => shardOf e.shards t == e.shard
  { count := a.length, forced := true, input := 0, mask := dMask a, logit := 0, score := 0 }

/-- Contact sheets of the tokens of a forced run. -/
def forcedContacts (e : Env) (r : Route) (ts : List Taken) : List Contact :=
  if r.contact then ts.map fun t => forcedContact e t.before.pos else []

/-- The two sequence units that develop a release agree (08 R187): the second unit's result is that of the same tokens from the
same state. -/
def unitsAgree (e : Env) (limit : Nat) (r : Rel) (x : Release) : Bool :=
  let again := (Grow.start r).takeAll e limit (x.grow.taken.map fun t => t.tk)
  again.prints == x.grow.prints && again.consumed == x.grow.consumed && again.rel.dev == x.grow.rel.dev

/-- One forced-only release, or the route's end when its deadline has passed (04 R98), or when it needs data that are lost
(13 R305, R318). -/
def State.forcedOnly (s : State) (b : Binding) (r : Route) : State :=
  if passed s.time.toNat r.deadline then s.endRoute b { r with forcedMore := false } b.set .deadline true false
  else
    let e := s.envFor b r
    let x := forcedRelease e r.limit r.rel
    if s.dataGone b r (x.grow.taken.map fun t => t.before.pos.g) then s.faultRoute { r with forcedMore := false }
    else s.commitRelease b r x (forcedContacts e r x.grow.taken)

/-- OPENING_RELEASE: the engine acts on the allowed set of the starting step (01 R19; 07 R166), once the searches that it needs
can run (06 R136): the set that holds one token begins a forced run, which FORCED_ONLY_RELEASE goes on with, and a member waits
for its owner's notice of it (04 R98). -/
def State.opening (s : State) (handle : Nat) : State :=
  match s.route handle with
  | none => s
  | some r =>
    match s.binding r.binding with
    | none => s
    | some b =>
      if s.searchWaits b r || s.safe.warn then s.setRoute { r with openDue := true }
      else
        let q := { r with openDue := false }
        let set := allowed (s.envFor b r) r.rel.pos
        if s.dataGone b r [r.rel.pos.g] then s.faultRoute q
        else if owns b r && set.isEmpty then s.endRoute b q b.set .noToken true false
        else s.setRoute { q with forcedMore := set.length == 1 }

/-! ### Masks and caches -/

/-- Entries of a mask-cache bank: 64 KiB each (05 R119, R120; log 27). -/
def maskPerBank : Nat := 1024

/-- A fetch of each state that a half's mask cache does not hold starts; one for each key (05 R117, R121). -/
def HalfSt.wantMasks (x : HalfSt) (keys : List CacheKey) : HalfSt :=
  { x with maskFetch := x.maskFetch ++ (keys.eraseDups.filter fun k => !x.hasMask k && !x.maskFetch.contains k)
           maskCache := keys.eraseDups.foldl (fun l k => readMask k l) x.maskCache }

/-- The keys of a binding's states. -/
def maskKeys (b : Binding) (gs : List Nat) : List CacheKey := if b.set.csi = 0 then [] else gs.map fun g => ⟨b.set.csi, g⟩

/-- Start forming the masks of states on the halves that will need them. -/
def State.wantMasks (s : State) (b : Binding) (r : Route) (gs : List Nat) : State :=
  s.eachHalf (s.routeHalves r) fun x => x.wantMasks (maskKeys b gs)

/-- The masks of states stand in the caches of the halves that need them (05 R118). -/
def State.masksHeld (s : State) (b : Binding) (r : Route) (gs : List Nat) : Bool :=
  (s.routeHalves r).all fun h => (maskKeys b gs).all fun k => (s.hs h).hasMask k

/-- The states that a route's admitted step and its latent slots refer to (05 R121). -/
def Route.states (r : Route) : List Nat :=
  (match r.adm with
   | some a => (positions a.env r.rel.pos (a.drafts.map fun d => d.tok)).map (fun p => p.1.g) ++ a.slots.map fun x => x.pos.g
   | none => []) ++
  (match r.drafts with
   | some p => r.rel.pos.g :: p.slots.map fun x => x.pos.g
   | none => [])

/-- The entries of a half's mask cache that are pinned (05 R121). -/
def State.pinnedMasks (s : State) (h : Half) : List CacheKey :=
  s.rt.vals.flatMap fun r =>
    match s.binding r.binding with
    | some b => if (s.routeHalves r).contains h then maskKeys b r.states else []
    | none => []

end Sys2Proof.Machine
end

