-- ==== Sys2Proof/Machine/Admission.lean ====
section
/-! DEFINITION. Admission of route entries (01 R22-R24, R464; 03 R68, R70; 04 R98; 09 R197; 10 R229; 16 R399), and the
drafts that DRF frames prepare (04 R93, R99, R102). -/
namespace Sys2Proof.Machine

/-! ### Room -/

/-- The half holds the inputs of the route's admitted entry (01 R22, R24). -/
def State.holds (s : State) (h : Half) (r : Route) : Bool := (s.routeHalves r).contains h

/-- Input-store bytes in use on a half: admitted entries, those whose outputs have not left, and those under a clear
(09 R197, R208; 13 R299). -/
def State.inputUsed (s : State) (h : Half) : Nat :=
  ((s.rt.vals.filter fun r => s.holds h r).map fun r => ((r.adm.map fun a => a.body.length).getD 0) + r.spent).sum +
    (s.hs h).inputClearing

/-- Fixing-buffer bytes that an admitted step takes before its outputs are known. DESIGN CHOICE (log 28), unsafe. -/
def stepReserve : Nat := 256

/-- Fixing-buffer bytes in use on a half: each step from its admission until its outputs have left, and what is under a
clear (09 R195, R208; 13 R299; log 28). -/
def State.fixUsed (s : State) (h : Half) : Nat :=
  ((s.rt.vals.filter fun r => r.half == h).map fun r => (if r.adm.isSome then stepReserve else 0) + r.outBytes).sum +
    (s.hs h).fixClearing

/-- The fixing buffer of a half: 0.5 MiB for each filled position (09 R195). -/
def HalfSt.fixBuffer (x : HalfSt) : Nat := (128 - x.emptyPos.length) * 2 ^ 19

/-- Room on a half for an entry's body (09 R195, R197). -/
def State.hasRoom (s : State) (h : Half) (n : Nat) : Bool :=
  decide (s.inputUsed h + n ≤ (s.hs h).inBanks * trayBank) && decide (s.fixUsed h + stepReserve ≤ (s.hs h).fixBuffer)

/-- Latent slots in use on a half, those under a clear among them (04 R99, 09 R208). -/
def State.slotsUsed (s : State) (h : Half) : Nat :=
  ((s.rt.vals).map fun r =>
    (match r.adm with
     | some a => if s.holds h r && a.phase != .waitSlots then a.drafts.length else 0
     | none => 0) +
    (match r.drafts with
     | some p => if p.half == h && p.held then p.drafts.length else 0
     | none => 0)).sum + (s.hs h).slotsClearing

/-- The pool of latent slots of a half: 512 for each filled position (04 R99, 09 R195). -/
def HalfSt.slotPool (x : HalfSt) : Nat := (128 - x.emptyPos.length) * 512

def State.slotRoom (s : State) (h : Half) (n : Nat) : Bool := decide (s.slotsUsed h + n ≤ (s.hs h).slotPool)

/-! ### Refusals -/

/-- A refusal entry on a chain (01 R23). -/
def State.sendRefusal (s : State) (h : Half) (c handle step status : Nat) : State :=
  s.sendOut h c (tokOut handle (refusalTok handle step status).bytes)

/-- A part with nothing in it. -/
def noPart : Part := ⟨0, none, [], 0, none⟩

/-- STATUS of a summary record (03 R73). -/
def summaryStatus (p : PeerRec) : Nat := u16At p.body 0x1C

/-- A refusal summary of a member for a step. -/
def PeerRec.refuses (p : PeerRec) (step : Nat) : Bool := p.kind == pkSummary && p.step == step && summaryStatus p != stOk

/-- The owner's own refusal takes precedence: what members answer to the same entry is dropped, now or when it comes
(03 R70). -/
def Route.dropAnswers (b : Binding) (r : Route) (step k : Nat) : Route :=
  let srcs := (memberShards b).map fun i => Config.memberPosition b.handle i
  { r with peers := r.peers.filter fun p => !p.refuses step
           skip := srcs.filterMap fun x =>
             let got := (r.peers.filter fun p => p.src == x && p.refuses step).length
             if got < k + 1 then some (x, k + 1 - got) else none }

/-- Refuse an entry of a route: a refusal entry on the route's chain, or on the chain of arrival; a member answers its
owner with one summary for each position (03 R70, 16 R399). -/
def State.refuseEntry (s : State) (h : Half) (c : Nat) (r : Route) (here : Bool) (bytes : List Byte) (status : Nat) : State :=
  let step := eStep bytes
  match s.binding r.binding with
  | none => s.sendRefusal h c (eHandle bytes) step status
  | some b =>
    if owns b r then
      let t := if 1 < b.shards ∧ step = r.next then s.setRoute (r.dropAnswers b step (min (eK bytes) 15)) else s
      match (if here then none else r.chains.get r.half) with
      | some k => t.sendRefusal r.half k r.handle step status
      | none => t.sendRefusal h c r.handle step status
    else
      (List.range (min (eK bytes) 15 + 1)).foldl (fun t j =>
        t.toOwner b r pkSummary 0 (step + j) j
          (summaryBytes (profileOf b.profile) (step + j) j b.shard b.shards r.salt status false noPart)) s

/-! ### Admission -/

/-- The binding refuses entries after its fence (01 R23). -/
def stoppedBinding (b : Binding) : Bool := b.state == .stopping || b.state == .stopped || b.state == .swapping

/-- An entry waits at admission on a half (09 R197, 10 R229). -/
def State.waitAt (s : State) (w : WaitEntry) : State := s.onHalf w.half fun x => { x with waiting := x.waiting ++ [w] }

/-- The journal records of an admitted entry, or of a refusal that ended the route (14 R338, R341). -/
def State.journalEntry (s : State) (r : Route) (hid : Bool) (bytes : List Byte) (status : Nat) (capture : Bool) : State :=
  let a := s.journal r.half 0x10 r.handle
    (toLe 4 r.salt ++ toLe 4 (eStep bytes) ++ toLe 1 (eK bytes) ++ toLe 1 (if hid then ftHid else ftLgt) ++ toLe 2 status ++
      toLe 8 (crc64 (eBody bytes)).toNat)
  if capture then a.journal r.half 0x11 r.handle (toLe 4 r.salt ++ toLe 4 (eStep bytes) ++ eBody bytes) else a

/-- Intake that an early entry ends (07 R167): held text is discarded. -/
def State.endIntake (s : State) (r : Route) : State :=
  if r.promptOpen then
    s.journal r.half 0x20 r.handle (toLe 4 r.salt ++ toLe 4 r.promptN ++ toLe 4 0 ++ toLe 4 2)
  else s

/-- The latent slots of drafts from the route's released state (04 R99). -/
def latentOf (e : Env) (r : Route) (ds : List Draft) : List LSlot := latentSlots e r.rel.pos r.rel.dev (ds.map fun d => d.tok)

/-- The states of the positions that a step computes (05 R117). -/
def statesOf (e : Env) (r : Route) (ds : List Draft) : List Nat :=
  (positions e r.rel.pos (ds.map fun d => d.tok)).map fun p => p.1.g

/-- Row 9 of R23: the entry is admitted with what its binding gives it now, and its masks start to form (01 R23, R24;
04 R93, R99). -/
def State.admitNow (s : State) (b : Binding) (e : Env) (r : Route) (hid : Bool) (bytes : List Byte) : State :=
  let ds := eDrafts bytes
  let step := eStep bytes
  let r0 : Route := { r with drafts := none }
  let s0 := s.freeDrafts r
  let room := (s0.routeHalves r).all fun h => (s0.setRoute r0).slotRoom h ds.length
  let ready := ds.isEmpty || room
  let a : Adm :=
    { hid := hid, step := step, drafts := ds, body := eBody bytes, env := e, slots := if ready then latentOf e r ds else []
      strict := s.eng.strict, execs := 1, phase := if ready then .waitMask else .waitSlots, formed := none, charges := []
      places := [] }
  let t := ((s0.journalEntry r hid bytes stOk r.capture).endIntake r).countStep r.half 0 1
  let q : Route :=
    { r0 with adm := some a, state := .running, ran := true, intakeEnded := true, intake := [], openDue := false
              copies := r.copies.map (fun l => l.filter fun c => c.step != step) }
  if ready then (t.setRoute q).wantMasks b q (statesOf e r ds) else t.setRoute q

/-- Rows 3 to 9 of R23 for a whole entry. `wrong`: it came on a chain that its route does not name for the half;
`differ`: its two copies differ (01 R22). -/
def State.decideEntry (s : State) (w : WaitEntry) (r : Route) (b : Binding) (wrong differ : Bool) : State :=
  let step := eStep w.bytes
  let no := fun (st : Nat) => s.refuseEntry w.half w.chain r wrong w.bytes st
  let e := s.envFor b r
  if stoppedBinding b then no stStopped
  else if r.state == .paused || r.state == .saved || r.saving then no stPaused
  else if step < r.next || (match r.adm with
      | some a => a.step == step
      | none => false) then s.countStep w.half 2 1
  else if r.next < step then
    if owns b r then no stState else s.setRoute { r with entries := r.entries ++ [w] }
  else if wrong || differ || !entryFormOk e w.hid w.bytes then no stArg
  else if owns b r && passed s.time.toNat r.deadline then
    (s.journalEntry r w.hid w.bytes stDeadline false).endRoute b r b.set .deadline true false
  else if (s.routeHalves r).all fun h => s.hasRoom h (eLen w.bytes) then s.admitNow b e r w.hid w.bytes
  else s.waitAt w

/-- A copy of an entry under HP_BOTH (01 R464). A member keeps both copies of an entry above its next step until its notice
has come (03 R68). -/
def State.admitCopy (s : State) (w : WaitEntry) (r : Route) (b : Binding) : State :=
  let step := eStep w.bytes
  let dup := s.countStep w.half 2 1
  let stored := s.setRoute { r with copies := r.copies.modify w.half fun l => l ++ [⟨step, w.bytes, w.hid⟩] }
  if r.stoppedSteps.contains (w.half, step) then
    dup.setRoute { r with stoppedSteps := r.stoppedSteps.filter fun p => p != (w.half, step) }
  else if step < r.next || (match r.adm with
      | some a => a.step == step
      | none => false) || (r.copies.get w.half).any (fun c => c.step == step) then dup
  else
    match (r.copies.get w.half.other).find? fun c => c.step == step with
    | none => stored
    | some p =>
      let stops := stoppedBinding b || r.state == .paused || r.state == .saved || r.saving
      if !stops && decide (r.next < step) && !owns b r then stored
      else
        let kept : Route := { r with copies := r.copies.modify w.half.other fun l => l.filter fun c => c.step != step }
        let room := stops || decide (r.next < step) || (s.routeHalves r).all fun h => s.hasRoom h (eLen w.bytes)
        if room then
          (s.setRoute kept).decideEntry w kept b false (p.hid != w.hid || crc64 (eBody p.bytes) != crc64 (eBody w.bytes))
        else s.waitAt w

/-- `service.half_drain` empties a half: it admits nothing more (12 R288). -/
def State.drains (s : State) (h : Half) : Bool := (s.jobOn cHalfDrain h).isSome

/-- An entry that nothing holds back is decided, whole or with its other copy (01 R22, R23, R464). -/
def State.judge (s : State) (w : WaitEntry) (r : Route) (b : Binding) : State :=
  let wrong := r.chains.get w.half != some w.chain
  if s.paired r then
    if wrong then s.refuseEntry w.half w.chain r true w.bytes stArg else s.admitCopy w r b
  else s.decideEntry w r b wrong false

/-- ENTRY_ADMISSION (01 R23, R464; 16 R399). Before SERVICE every entry is refused (15 R376), with ST_STATE for a route that a warm
restart has kept and not resumed yet: DEDUCED (log 115), safe. While a forced run goes on, or the route's outputs cannot leave, entries wait
(04 R98, 13 R299). -/
def State.admitEntry (s : State) (w : WaitEntry) : State :=
  match s.route (eHandle w.bytes) with
  | none => s.sendRefusal w.half w.chain (eHandle w.bytes) (eStep w.bytes) stState
  | some r =>
    let wrong := r.chains.get w.half != some w.chain
    if r.state == .ended then s.refuseEntry w.half w.chain r (wrong || s.paired r) w.bytes stState
    else
      match s.binding r.binding with
      | none => s.refuseEntry w.half w.chain r true w.bytes stState
      | some b =>
        if !s.serving then s.refuseEntry w.half w.chain r (wrong || s.paired r) w.bytes stState
        else if r.forcedMore || s.blocked r then s.setRoute { r with entries := r.entries ++ [w] }
        else if b.fence == .phase1 || s.drains w.half then s.waitAt w
        else s.judge w r b

/-- An entry arrives: it is decided, and what waited for an end that it brings happens. -/
def State.takeEntry (s : State) (w : WaitEntry) : State := (s.admitEntry w).settle (eHandle w.bytes)

/-- The two copies of a route's next step, which both halves hold, are decided (01 R464). -/
def State.pairDue (s : State) (handle : Nat) : State :=
  match s.route handle with
  | none => s
  | some r =>
    match r.copies.w.find? fun c => c.step == r.next, r.chains.w with
    | some c, some k =>
      if r.adm.isNone && r.copies.e.any fun d => d.step == r.next then
        (s.setRoute { r with copies := { r.copies with w := r.copies.w.filter fun d => d.step != r.next } }).admitEntry
          ⟨.west, k, c.hid, c.bytes⟩
      else s
    | _, _ => s

/-- Entries that waited for a route are decided (04 R98, 03 R68). -/
def State.readmit (s : State) (handle : Nat) : State :=
  match s.route handle with
  | none => s
  | some r =>
    if r.forcedMore || s.blocked r then s
    else if r.entries.isEmpty then s.pairDue handle
    else
      ((r.entries.foldl (fun t w => t.admitEntry w) (s.setRoute { r with entries := [] })).pairDue handle).settle handle

/-- Entries that wait on a half are decided again. -/
def State.readmitHalf (s : State) (h : Half) : State :=
  (s.hs h).waiting.foldl (fun t w => t.takeEntry w) (s.onHalf h fun x => { x with waiting := [] })

/-- Pinned heads that a start waits for are filled as room allows (03 R60, R61). -/
def State.refill (s : State) : State :=
  (s.bnd.vals.filter fun b => b.starting).foldl (fun t b => t.fillFor b) s

/-- After a release or an end: what waited for the route, and the masks of its next position (05 R117). -/
def State.afterRelease (s : State) (handle : Nat) : State :=
  let a := ((s.settle handle).readmit handle).refill
  match a.route handle with
  | none => a
  | some r =>
    match a.binding r.binding with
    | some b => if liveRoute r then a.wantMasks b r [r.rel.pos.g] else a
    | none => a

/-! ### Drafts ahead of their entry (04 R93) -/

/-- Prepare slots and masks of drafts on a half. -/
def State.prepareNow (s : State) (b : Binding) (r : Route) (p : Prepared) : State :=
  let e := s.envFor b r
  let q : Route := { r with drafts := some { p with held := true, slots := latentOf e r p.drafts } }
  (s.setRoute q).wantMasks b q (statesOf e r p.drafts)

/-- A DRF entry prepares slots and masks for the route's next step, or is discarded and counted; without a free slot the
preparation waits (04 R99). A frame that comes when nothing can be prepared for the route is discarded and counted too: a step
is admitted, the route or its binding does not run, the chain is not the route's, or K is 0 or above 15. Slots come from the
half whose chain brought the frame, all together. DESIGN CHOICE (log 106), unsafe. -/
def State.prepare (s : State) (h : Half) (c : Nat) (bytes : List Byte) : State :=
  let no := s.countStep h 3 1
  let k := u8At bytes 8
  match s.route (u32At bytes 0) with
  | none => no
  | some r =>
    match s.binding r.binding with
    | none => no
    | some b =>
      let open_ := (r.state == .open || r.state == .running) && !r.saving && r.adm.isNone && b.state == .active && b.fence == .none
      if !open_ || u32At bytes 4 != r.next || k = 0 || 15 < k || r.chains.get h != some c then no
      else
        let t := s.freeDrafts r
        let r0 : Route := { r with drafts := none }
        let p : Prepared := ⟨h, r.next, draftsOf (bytes.drop 16) k, false, []⟩
        if (t.setRoute r0).slotRoom h k then t.prepareNow b r0 p else t.setRoute { r0 with drafts := some p }

/-- Prepared drafts go, and their slots return. -/
def State.dropDrafts (s : State) (handle : Nat) : State :=
  match s.route handle with
  | some r => (s.freeDrafts r).setRoute { r with drafts := none }
  | none => s

/-- LATENT_SLOT_TIMEOUT: 1 ms after the DRF frame its slots go back (04 R102). -/
def execLatentSlotTimeout (handle : U32) (s : State) : Host.Outcome State Fault Refusal := .next (s.dropDrafts handle.toNat)

/-- A step that waited for its latent slots has them (04 R99). -/
def State.slotsGiven (s : State) (b : Binding) (r : Route) (a : Adm) : State :=
  let q : Route := { r with adm := some { a with phase := .waitMask, slots := latentOf a.env r a.drafts } }
  (s.setRoute q).wantMasks b q (statesOf a.env r a.drafts)

/-- Give slots to what waits on a half, while there is room (04 R99). -/
def State.giveSlots (s : State) (h : Half) : State :=
  s.rt.vals.foldl (fun t r =>
    match t.binding r.binding with
    | none => t
    | some b =>
      match r.adm, r.drafts with
      | some a, _ =>
        if a.phase == .waitSlots && (t.routeHalves r).all (fun g => t.slotRoom g a.drafts.length) then t.slotsGiven b r a else t
      | none, some p =>
        if !p.held && p.half == h && t.slotRoom h p.drafts.length then t.prepareNow b r p else t
      | none, none => t) s

/-- LATENT_SLOT_FREED (04 R99). -/
def execLatentSlotFreed (h : Half) (s : State) : Host.Outcome State Fault Refusal := .next (s.giveSlots h)

/-! ### Credits -/

/-- Credit that the engine keeps open towards a sender (16 R395; log 29). -/
def stepWindow : Nat := 512
def peerWindow : Nat := 64

/-- LIMIT that a receiver names: the cost received, and its window (16 R394). -/
def Chain.limitOf (c : Chain) (k : Nat) : Nat := (trip c.got k + if k = 1 then peerWindow else stepWindow) % 2 ^ 32

/-- Grant credit in a class: a CRD frame when the limit rises (16 R394). -/
def Chain.grant (c : Chain) (k : Nat) : Chain :=
  if c.limitOf k = trip c.granted k then c
  else { c with granted := tripSet c.granted k (c.limitOf k), ctl := c.ctl ++ [crdOut k (c.limitOf k)] }

/-- Credits for the frames that a chain has brought: CC_STEP is withheld while entries wait for room (16 R395). -/
def State.grantChain (s : State) (h : Half) (c : Nat) : State :=
  s.onChain h c fun x =>
    if x.kind == .peer then x.grant 1
    else if x.isStep && (s.hs h).waiting.isEmpty then x.grant 0
    else x

/-- The routes of a half whose outputs have left give their space back, and what waited for that is decided (13 R299). -/
def State.unblock (s : State) (h : Half) : State :=
  (s.rt.vals.filter fun r => s.holds h r).foldl (fun t r =>
    match t.route r.handle with
    | some q => (t.freeSpent q).readmit r.handle
    | none => t) s

/-- ADMISSION_ROOM_FREED: waiting entries are decided and credits granted (09 R197, 13 R299, 16 R395). -/
def execAdmissionRoomFreed (h : Half) (s : State) : Host.Outcome State Fault Refusal :=
  .next ((List.range 16).foldl (fun t c => t.grantChain h c) ((s.unblock h).readmitHalf h))

end Sys2Proof.Machine
end

