-- ==== Sys2Proof/Machine/Residue.lean ====
section
/-! DEFINITION. The residue checks of the arithmetic path: products, buckets, the accumulator, the rounding, the sign, and the
binary32 operations of the adjustment chain (02 R42, R49, R51). -/
namespace Sys2Proof.Machine

/-- The residue of a signed integer, from 0 to 254 (02 R51). -/
def residue (v : Int) : Nat := (v % 255).toNat

/-- The residue that a shift by k bits multiplies by (02 R51). -/
def shiftResidue (k : Nat) : Nat := 2 ^ (k % 8)

/-- A residue negated modulo 255. -/
def negResidue (r : Nat) : Nat := (255 - r % 255) % 255

/-- A product of a row as it enters the accumulator: sign, significands, and shift e + 288 (02 R42). -/
structure RowProduct where
  neg : Bool
  mh : Nat
  mw : Nat
  sh : Nat
  deriving DecidableEq, Repr, Inhabited

/-- The products of a row, from its operands. -/
def rowProducts (h w : List Fp) : List RowProduct :=
  (h.zip w).filterMap fun p =>
    match p.1, p.2 with
    | .fin s1 m1 e1, .fin s2 m2 e2 => some ⟨s1 != s2, m1, m2, (e1 + e2 + 288).toNat⟩
    | _, _ => none

/-- A significand with its sign, moved by `k` bits. -/
def RowProduct.value (p : RowProduct) (k : Nat) : Int :=
  let v : Int := ((p.mh * p.mw * 2 ^ k : Nat) : Int)
  if p.neg then -v else v

/-- The residue of a product, from its operands on a path of their own (02 R51). -/
def RowProduct.residue (p : RowProduct) : Nat :=
  let r := (p.mh % 255) * (p.mw % 255) * shiftResidue p.sh % 255
  if p.neg then negResidue r else r

/-- The products of exponent bucket b, and what the bucket holds (02 R42). -/
def bucketOf (ps : List RowProduct) (b : Nat) : List RowProduct := ps.filter fun p => p.sh / 9 == b

def bucketSum (ps : List RowProduct) (b : Nat) : Int := ((bucketOf ps b).map fun p => p.value (p.sh % 9)).sum

/-- The 64 buckets merge (02 R42). -/
def mergeBuckets (ps : List RowProduct) : Int := ((List.range 64).map fun b => bucketSum ps b * 2 ^ (9 * b)).sum

/-- Sum of the residues of products. -/
def residueSum (ps : List RowProduct) : Nat := (ps.map RowProduct.residue).sum % 255

/-- First equality of R51: every bucket against its products. -/
def bucketsAgree (ps : List RowProduct) : Bool :=
  (List.range 64).all fun b => residue (bucketSum ps b) * shiftResidue (9 * b) % 255 == residueSum (bucketOf ps b)

/-- Second equality: the accumulator after the merge. -/
def accAgrees (ps : List RowProduct) : Bool := residue (mergeBuckets ps) == residueSum ps

/-- Third equality: what a rounding keeps and what it discards. -/
def roundAgrees (u m : Nat) : Bool :=
  let sh := roundShift u m
  (residue ((m / 2 ^ sh * 2 ^ sh : Nat) : Int) + residue ((m % 2 ^ sh : Nat) : Int)) % 255 == residue (m : Int)

/-- Fourth equality: the sign of a rounded value. An exact zero is +0. -/
def signAgrees (a : Int) (x : U32) : Bool := x.toNat / 2 ^ 31 == b2n (decide (a < 0))

/-- The checks of one row (02 R51). -/
def rowChecked (h w : List Fp) : Bool :=
  let ps := rowProducts h w
  bucketsAgree ps && accAgrees ps && roundAgrees 288 (mergeBuckets ps).natAbs &&
    signAgrees (mergeBuckets ps) (rneFp32 (mergeBuckets ps)).1

/-- A significand aligned to the unit of the binary32 operations, with its sign. -/
def aligned : Fp → Int
  | .fin s m e => let v : Int := ((m * 2 ^ (e + 400).toNat : Nat) : Int); if s then -v else v
  | _ => 0

/-- The residue of an aligned significand, from the operand. -/
def alignedResidue : Fp → Nat
  | .fin s m e =>
    let r := (m % 255) * shiftResidue (e + 400).toNat % 255
    if s then negResidue r else r
  | _ => 0

/-- The checks of a binary32 product: the product of the significands, and its rounding (02 R51). -/
def mulChecked (x y : U32) : Bool :=
  match decodeF32 x, decodeF32 y with
  | .fin _ m e, .fin _ n f =>
    residue ((m * n : Nat) : Int) == (m % 255) * (n % 255) % 255 && roundAgrees opUnit (m * n * 2 ^ (e + f + 400).toNat)
  | _, _ => true

/-- The checks of a binary32 sum: the aligned sum of the significands, and its rounding (02 R51). -/
def addChecked (x y : U32) : Bool :=
  let a := decodeF32 x
  let b := decodeF32 y
  !(a.isFinite && b.isFinite) ||
    (residue (aligned a + aligned b) == (alignedResidue a + alignedResidue b) % 255 &&
      roundAgrees opUnit (aligned a + aligned b).natAbs)

/-- The checks of the adjustment chain on one token's logit (02 R49, R51). -/
def adjustChecked (p : AdjParams) (z : U32) (c : Nat) (b : U32) : Bool :=
  let first : U32 × Bool :=
    if c = 0 then (z, true)
    else
      let r1 : U32 × Bool :=
        if fpKey z > 0 then ((mul32 z p.repInv).1, mulChecked z p.repInv)
        else if fpKey z < 0 then ((mul32 z p.rep).1, mulChecked z p.rep)
        else (z, true)
      let f := (mul32 (u16ToF32 c) p.freq).1
      let z2 := (sub32 r1.1 f).1
      ((sub32 z2 p.pres).1, r1.2 && mulChecked (u16ToF32 c) p.freq && addChecked r1.1 (neg32 f) && addChecked z2 (neg32 p.pres))
  let z3 := (add32 first.1 b).1
  first.2 && addChecked first.1 b && (isZeroBits p.temp || mulChecked z3 p.tempInv)

/-- The checks of the head rows of tokens at a position (02 R51). -/
def rowsChecked (c : List Byte) (pos : List Byte) (ts : List Nat) : Bool :=
  let h := headOf c
  let rows := sectOf c kRows
  let hid := hiddenElems h pos
  ts.all fun t =>
    match rowIndex c t with
    | none => true
    | some i => rowChecked hid (rowElems h (slice rows (i * h.stride) h.stride))

end Sys2Proof.Machine
end

