-- ==== Sys2Proof/Machine/Recovery.lean ====
section
/-! DEFINITION. What failed checks lead to: the recovery of stored data, suspect columns, re-execution and charges
(05 R122; 06 R147; 09 R203, R204; 13 R294, R300-R304; 14 R332). -/
namespace Sys2Proof.Machine

/-! ### Stored data -/

def dayNs : Nat := 86400 * 10 ^ 9

/-- The errors seen at a column within 24 hours, with a new one. -/
def seeColumn (now : Nat) (c : Column) : List ColSeen → List ColSeen
  | [] => [⟨c, [now]⟩]
  | x :: t => if x.col = c then ⟨c, now :: x.times.filter fun u => decide (now ≤ u + dayNs)⟩ :: t else x :: seeColumn now c t

def timesSeen (c : Column) (l : List ColSeen) : Nat := ((l.find? fun x => x.col == c).map (·.times.length)).getD 0

/-- A parity error at a column, found by any read or refresh: three in 24 hours, or one that persists, make a soft repair
(09 R203, R204). -/
def State.columnSeen (s : State) (h : Half) (e : ColErr) : State :=
  let a := (s.countFault h 0 1).onHalf h fun x => { x with colErrs := seeColumn s.time.toNat (columnOf e) x.colErrs }
  if e.persists || decide (3 ≤ timesSeen (columnOf e) (a.hs h).colErrs) then
    (a.softRepair h e).onHalf h fun x => { x with colErrs := x.colErrs.filter fun y => y.col != columnOf e }
  else a

/-- Stored data are fetched again, from the half's own stacks or the mirror's; the word is zeroed first (09 R203, 13 R303). -/
def State.refetched (s : State) (h : Half) : State :=
  ((s.onHalf h fun x => x.clear .bank 8).countFault h 5 1).recovery h 0x0004 0 0

/-- A head's rows are copied again from the stacks (13 R303). -/
def State.refetchHead (s : State) (h : Half) (d : Digest) : State :=
  s.onHalf h fun x => { x with heads := x.heads.map fun e => if e.digest = d ∧ e.resident then { e with rows := s.imageOn h d } else e }

/-- A row leaves the vocabulary cache; a step that needs it fetches it again (13 R303). -/
def HalfSt.dropRow (x : HalfSt) (d : Digest) (t : Nat) : HalfSt :=
  { x with vocCache := x.vocCache.filter fun r => r.key != ⟨d, t⟩ }

/-- An entry leaves the mask cache, and its fetch begins again (05 R122). -/
def HalfSt.dropMask (x : HalfSt) (d : Digest) (q : Nat) : HalfSt :=
  if x.hasMask ⟨d, q⟩ then ({ x with maskCache := x.maskCache.filter fun m => m.key != ⟨d, q⟩ } : HalfSt).wantMasks [⟨d, q⟩] else x

/-- A route record that fails its parity check on a half: the other half's copy, or the state recomputed from the journal, which
ends the route when a record has left the ring (13 R304). -/
def State.recordBad (s : State) (h : Half) (handle : Nat) : State :=
  match s.route handle with
  | none => s
  | some r =>
    let q := { r with record := r.record.set h none }
    if s.bothServe then
      s.setRoute (if h = r.half then (q.ofRec r.mirror).synced else q.synced)
    else if r.checkAt < ((s.jr.recs.head?.map fun x => x.number).getD s.jr.next) then (s.faultRoute q).afterRelease handle
    else (s.setRoute q).recovery h 0x0006 handle r.next

/-- The owner of a bad word is recovered; what a step formed is formed again (09 R203; 13 R303, R304). -/
def State.recoverOwner (s : State) (h : Half) : WordOwner → State
  | .head d => (s.refetchHead h d).refetched h
  | .row d t => (s.onHalf h fun x => x.dropRow d t.toNat).refetched h
  | .mask d q => (s.onHalf h fun x => x.dropMask d q.toNat).refetched h
  | .record handle => (s.onHalf h fun x => x.clear .bank 8).recordBad h handle.toNat
  | .formed => s

/-! ### Checks -/

/-- The counter of a failed check (12 R282). A bank word's parity error counts where its column is seen. -/
def State.countCheck (s : State) (h : Half) : CheckKind → State
  | .path => s.countFault h 0 1
  | .maskRead _ => s.countFault h 0 1
  | .residue => s.countFault h 1 1
  | .proofPrint _ => s.countFault h 2 1
  | .parity _ => s
  | .unitPair _ => s
  | .finderRecord _ _ => s

/-- What a failed check drops and fetches again, for a step of a binding (05 R122; 06 R147; 09 R203). -/
def State.recoverCheck (s : State) (b : Binding) (h : Half) : CheckKind → State
  | .parity e => (s.columnSeen h e).recoverOwner h e.owner
  | .maskRead q => s.recoverOwner h (.mask b.set.csi q)
  | .finderRecord d second => (s.reloadRegion h (.image d) second).refetched h
  | .path => s
  | .residue => s
  | .proofPrint _ => s
  | .unitPair _ => s

/-- The plates that a failed check is charged to: the one that formed the value, or of two that differ those which a third
execution contradicts (13 R302), a free choice (log 9). -/
def chargesOf (free : Nat) (h : Half) (pos : Nat) : CheckKind → List (Half × Nat)
  | .residue => [(h, pos)]
  | .path => [(h, pos)]
  | .proofPrint q | .unitPair q =>
    match freeNat free 1 % 3 with
    | 0 => [(h, pos)]
    | 1 => [(h, q.toNat)]
    | _ => [(h, pos), (h, q.toNat)]
  | .parity _ => []
  | .maskRead _ => []
  | .finderRecord _ _ => []

/-- Count a failed check and recover its data; the charges that it leads to. -/
def State.checkFailed (s : State) (b : Binding) (h : Half) (pos : Nat) (k : CheckKind) : List (Half × Nat) × State :=
  (chargesOf s.free h pos k, ((s.takeFree 1).2.countCheck h k).recoverCheck b h k)

/-- Charges of failed executions stand once a later one passes (13 R302). -/
def State.chargeAll (s : State) (l : List (Half × Nat)) : State := l.foldl (fun t c => t.charge c.1 c.2) s

/-! ### Re-execution -/

/-- Before the third re-execution the engine fetches every row, mask and list entry that the step read again (13 R301). -/
def State.refetchStep (s : State) (b : Binding) (r : Route) (a : Adm) : State :=
  let gs := statesOf a.env r a.drafts
  (s.routeHalves r).foldl (fun t h =>
    let u := (t.onHalf h fun x =>
      (maskKeys b gs).foldl (fun y k => y.dropMask k.digest k.item)
        { x with vocCache := x.vocCache.filter fun e => e.key.digest != b.set.hdi }).refetchHead h b.set.hdi
    let v := if b.set.sli = 0 then u else (u.reloadRegion h (.image b.set.sli) false).reloadRegion h (.image b.set.sli) true
    (v.countFault h 5 1).recovery h 0x0004 r.handle a.step) s

/-- The half whose plates run the next execution: the second re-execution of an HP_BOTH route runs on the other half
(13 R301). -/
def State.nextHalf (s : State) (b : Binding) (r : Route) (a : Adm) : Half :=
  if a.execs = 2 ∧ !b.set.one ∧ s.bothServe then r.half.other else r.half

/-- RE_EXECUTION: the step's results are discarded and it is executed again from its retained inputs, at most four times in all
(13 R300, R301). -/
def State.executeAgain (s : State) (b : Binding) (r : Route) (a : Adm) (charges : List (Half × Nat)) : State :=
  if 4 ≤ a.execs then (s.faultRoute r).afterRelease r.handle
  else
    let g := s.nextHalf b r a
    let u := (s.countFault g 3 1).recovery g 0x0001 r.handle a.step
    let v := if a.execs = 3 then u.refetchStep b r a else u
    v.setRoute { r with adm := some { a with execs := a.execs + 1, phase := .waitMask, formed := none
                                             charges := a.charges ++ charges } }

/-- A step has read what its binding names: it is past its masks. -/
def Adm.hasRead (a : Adm) : Bool := a.phase != .waitSlots && a.phase != .waitMask

/-- Every step that read a bad copy is executed again (06 R147, 13 R303). -/
def State.formAgain (s : State) (h : Half) (d : Digest) : State :=
  s.rt.vals.foldl (fun t r0 =>
    match t.route r0.handle with
    | none => t
    | some r =>
      match t.binding r.binding, r.adm with
      | some b, some a =>
        if a.hasRead && (t.routeHalves r).contains h && b.set.digests.contains d then t.executeAgain b r a [] else t
      | _, _ => t) s

/-- The image that a word belongs to. -/
def ownerImage : WordOwner → Option Digest
  | .head d => some d
  | .row d _ => some d
  | .mask d _ => some d
  | .record _ => none
  | .formed => none

/-- One parity error that no step has met: the column is seen, the owner is recovered, and the steps that read it are executed
again (09 R202-R204; 13 R303, R304). -/
def State.columnError (s : State) (h : Half) (e : ColErr) : State :=
  let a := (s.columnSeen h e).recoverOwner h e.owner
  match ownerImage e.owner with
  | some d => a.formAgain h d
  | none => a

/-! ### Placement of work (09 R193, 14 R332) -/

/-- The position that DP_STRICT gives work of a step, positions without a plate and excluded ones passed over (14 R332). -/
def strictPlace (salt step j : Nat) (out : List Nat) : Nat :=
  let p := (salt + 0x9E3779B9 * step + 0x85EBCA6B * j) % 2 ^ 32 / 2 ^ 25
  (((List.range 128).map fun i => (p + i) % 128).find? fun x => !out.contains x).getD p

/-- The next position that is not excluded, from a place on. -/
def nextPlace (p : Nat) (out : List Nat) : Nat := (((List.range 128).map fun i => (p + i) % 128).find? fun x => !out.contains x).getD p

/-- The positions that select and that print the proof of position j: under DP_STRICT by R332, under DP_FAST the least loaded, a
free choice (log 9). -/
def placeOf (strict : Bool) (salt step j free : Nat) (out : List Nat) : Nat × Nat :=
  let p := if strict then strictPlace salt step j out else nextPlace (freeNat free 1 % 128) out
  (p, if strict then strictPlace salt step j (p :: out) else nextPlace p (p :: out))

/-- What a step's accesses do to the units that choose by timing: the arbiter of a port B serves one of the masters that ask, the
meridian arbiter and the stack schedulers choose, and changes of one word by the home master and another meet (09 R198-R201;
14 R333). Who asks and how often is a free choice (log 9). -/
def State.bankTraffic (s : State) (h : Half) : State :=
  let asks := (List.range 8).filterMap fun i => if (freeNat s.free 1).testBit i then some (i + 1) else none
  let served := arbitrate (s.hs h).arbiter asks
  let t := ((s.takeFree 1).2.onHalf h fun x => { x with arbiter := (served.map fun p => p.1).getD x.arbiter }).countChoice h 1
    (((served.map fun p => b2n p.2)).getD 0)
  let u := (t.timedChoices h 2).timedChoices h 3
  (u.takeFree 2).2.countConflict h .home (Master.ofCode (1 + freeNat u.free 1 % 8)) (freeNat (u.free + 1) 1)

/-- Place the work of a step's positions. Each choice that load makes is counted: for every position
its rows and its proof print, and for the release its two sequence units (09 R193; 14 R332, R333; log 9). -/
def State.placed (s : State) (r : Route) (a : Adm) (n : Nat) : Adm × State :=
  let out := (s.hs r.half).emptyPos ++ (a.charges.filter fun c => c.1 == r.half).map fun c => c.2
  let places := (List.range n).map fun j => placeOf a.strict r.salt a.step j (s.free + j) out
  let t := (s.takeFree n).2
  let u := if a.strict then t else (s.routeHalves r).foldl (fun t h => t.countChoice h 0 (2 * n + 2)) t
  ({ a with places := places }, (s.routeHalves r).foldl (fun t h => t.bankTraffic h) u)

/-- The proof of a position is printed on a plate other than the one that selected (13 R295). -/
def Adm.printsApart (a : Adm) : Bool := a.places.all fun p => p.1 != p.2

end Sys2Proof.Machine
end

