-- ==== Sys2Proof/Machine/Stepping.lean ====
section
/-! DEFINITION. An admitted step from its masks to its formed results (01 R24-R31; 03 R57-R74; 04 R82-R100; 14 R343, R344),
alone or in a shard group. -/
namespace Sys2Proof.Machine

/-! ### Positions of a step -/

/-- One computed position: the state before it, its allowed set, the values that this engine covers, and the digest of its
input (14 R343). A forced or empty position has no values (04 R88). -/
structure Spot where
  pos : Pos
  set : List Nat
  vals : List Val
  input : U64
  deriving DecidableEq, Repr, Inhabited

/-- The tokens of a set that this engine covers (03 R67). -/
def covered (e : Env) (a : List Nat) : List Nat := a.filter fun t => shardOf e.shards t == e.shard

/-- The tokens of a list whose rows a half computes, when the halves split the head (03 R57). -/
def onRowHalf (e : Env) (h : Half) (ts : List Nat) : List Nat := ts.filter fun t => rowHalf (shardTokens e) t == h

/-- The logits of covered tokens at a position: each half's rows from its own copy (03 R57, R58), or the supplied ones
(02 R46). -/
def logitsAt (e : Env) (input : List Byte) (ts : List Nat) : List (Nat × U32 × Bool) :=
  match e.head, e.headE with
  | some c, some d => rowLogits c input (onRowHalf e .west ts) ++ rowLogits d input (onRowHalf e .east ts)
  | some c, none => rowLogits c input ts
  | none, _ => intakeLogits e.infmt (shardTokens e) input ts

/-- Adjusted values of the covered tokens at a position (02 R41, R46, R49). -/
def valsAt (e : Env) (p : Pos) (input : List Byte) (ts : List Nat) : List Val :=
  (logitsAt e input ts).map (valOf e.prof e.bias p.pen)

/-- The retained input of position j (01 R24). -/
def inputAt (a : Adm) (j : Nat) : List Byte := posAt a.hid a.env.fmt a.env.width a.drafts.length a.body j

/-- The positions that a step computes (04 R91). -/
def spotsOf (e : Env) (r : Route) (a : Adm) : List Spot :=
  (positions e r.rel.pos (a.drafts.map fun d => d.tok)).zipIdx.map fun x =>
    { pos := x.1.1, set := x.1.2
      vals := if x.1.2.length ≤ 1 then [] else valsAt e x.1.1 (inputAt a x.2) (covered e x.1.2)
      input := if e.head.isSome then crc64 (inputAt a x.2) else 0 }

def Spot.open_ (x : Spot) : Bool := decide (1 < x.set.length)

def keyAt (r : Route) (a : Adm) (j : Nat) : NoiseKey := ⟨r.seed, r.salt, a.step + j⟩

/-- The draft that position j judges. -/
def draftAt (a : Adm) (j : Nat) : Option Draft := a.drafts[j]?

/-! ### Summary records -/

/-- A record whose one allowed token is the draft under SPEC_RATIO carries no candidate of its own, and its list says so
(03 R74, 04 R94). -/
def Part.loneDraft (p : Profile) (x : Part) : Part :=
  if p.ratio && !p.filtered && x.count == 1 && x.draft.isSome then { x with best := none } else x

/-- The part that the summary record of a holder carries, with its lists beside it (03 R73, 04 R86). -/
def carried (p : Profile) (record : List Byte) (x : Part) : Part :=
  ({ partOfSummary p record with cands := x.cands, sum := x.sum, draft := x.draft } : Part).loneDraft p

/-- The summary record of a position of the route's step, by a half or by the engine (03 R73). -/
def summaryAt (e : Env) (r : Route) (a : Adm) (j : Nat) (half : Bool) (x : Part) : List Byte :=
  summaryBytes e.prof (a.step + j) j e.shard e.shards r.salt stOk half x

/-- A half's own part of position j. -/
def halfPart (e : Env) (r : Route) (a : Adm) (h : Half) (zmax : Option U32) (j : Nat) (vals : List Val) : Part :=
  partOf e.prof (keyAt r a j) zmax ((draftAt a j).map fun d => d.tok) (vals.filter fun v => rowHalf (shardTokens e) v.tok == h)

/-- The record that the half which does not serve the route sends across the meridian, HALF set (03 R58, R73). -/
def halfRecord (e : Env) (r : Route) (a : Adm) (zmax : Option U32) (j : Nat) (vals : List Val) : List Byte :=
  summaryAt e r a j true (halfPart e r a r.half.other zmax j vals)

/-- The engine's part of a position: one holder, or the serving half's part combined with the record of the other half
(03 R58, R74). -/
def enginePart (e : Env) (r : Route) (a : Adm) (zmax : Option U32) (j : Nat) (vals : List Val) : Part :=
  if e.headE.isSome then
    combinePart e.prof (halfPart e r a r.half zmax j vals)
      (carried e.prof (halfRecord e r a zmax j vals) (halfPart e r a r.half.other zmax j vals))
  else partOf e.prof (keyAt r a j) zmax ((draftAt a j).map fun d => d.tok) vals

/-- The greatest scaled logit that this engine covers (04 R86, round 1). -/
def zOwn (e : Env) (x : Spot) : Option U32 := if e.prof.weighted then zMaxOf (x.vals.map fun v => v.z) else none

/-! ### Peers -/

/-- The record of a kind that a member sent for position j of the route's step. -/
def peerAt (b : Binding) (r : Route) (kind member j : Nat) : Option PeerRec :=
  r.peers.find? fun p => p.kind == kind && p.src == Config.memberPosition b.handle member && p.step == r.next && p.pos == j

/-- A member refuses the step (03 R70). -/
def refusing (b : Binding) (r : Route) (member : Nat) : Option Nat :=
  match peerAt b r pkSummary member 0 with
  | some p => if summaryStatus p = stOk then none else some (summaryStatus p)
  | none => none

/-- z_max of a group at position j. -/
def zGroup (e : Env) (b : Binding) (r : Route) (x : Spot) (j : Nat) : Option U32 :=
  zMaxOf ((zOwn e x).toList ++
    (memberShards b).flatMap fun i => ((peerAt b r pkZmax i j).bind fun p => zOf p.body).toList)

/-- The list that a member sent for position j (04 R87). -/
def memberList (e : Env) (b : Binding) (r : Route) (k : NoiseKey) (member j : Nat) : Part :=
  match peerAt b r pkCands member j with
  | some p =>
    let c := candsOf e.head.isNone k p.flags p.body
    { noPart with cands := c.1, sum := c.2.1, draft := c.2.2 }
  | none => noPart

/-- A member's part of position j, from its summary and its list (03 R74, 04 R86). -/
def memberPart (e : Env) (b : Binding) (r : Route) (a : Adm) (member j : Nat) : Part :=
  match peerAt b r pkSummary member j with
  | some p => carried e.prof p.body (memberList e b r (keyAt r a j) member j)
  | none => noPart

/-- z_max that the position's weights take. -/
def zOfStep (e : Env) (b : Binding) (r : Route) (x : Spot) (j : Nat) : Option U32 :=
  if !e.prof.weighted then none else if b.shards ≤ 1 then zOwn e x else zGroup e b r x j

/-- The whole part of position j: the engine's own, and the members' (03 R74). -/
def wholePart (e : Env) (b : Binding) (r : Route) (a : Adm) (x : Spot) (j : Nat) : Part :=
  (memberShards b).foldl (fun acc i => combinePart e.prof acc (memberPart e b r a i j))
    (enginePart e r a (zOfStep e b r x j) j x.vals)

/-- The positions of a step with their whole parts. -/
def wholesOf (e : Env) (b : Binding) (r : Route) (a : Adm) : List (Spot × Part) :=
  (spotsOf e r a).zipIdx.map fun x => (x.1, wholePart e b r a x.1 x.2)

/-! ### Contact sheets -/

def scoreBytes (n : Int) : List Byte := intToLe 40 n

/-- D_SCORE of a position (14 R344): a filtered profile's is the owner's alone. -/
def dScore (e : Env) (k : NoiseKey) (mine : Bool) (x : Spot) (whole : Part) : U64 :=
  if e.prof.greedy then xorCrc (x.vals.map fun v => toLe 4 v.tok ++ toLe 4 v.z.toNat)
  else if e.prof.filtered then
    if mine then xorCrc ((samplingList e.prof whole).map fun c => toLe 4 c.tok ++ scoreBytes (scoreOf k c.tok c.z)) else 0
  else xorCrc (x.vals.map fun v => toLe 4 v.tok ++ scoreBytes (scoreOf k v.tok v.z))

def spotContact (e : Env) (k : NoiseKey) (mine : Bool) (x : Spot) (whole : Part) : Contact :=
  { count := (covered e x.set).length, forced := x.set.length == 1, input := x.input
    mask := dMask (covered e x.set), logit := dLogit x.vals
    score := if x.open_ then dScore e k mine x whole else 0 }

/-- The contact sheets of a release's tokens (14 R343). -/
def contactsOf (e : Env) (r : Route) (a : Adm) (mine : Bool) (xs : List (Spot × Part)) (ts : List Taken) : List Contact :=
  if r.contact then
    ts.map fun t =>
      match t.tk.pos.bind fun j => (xs[j]?).map fun x => (j, x) with
      | some (j, x) => spotContact e (keyAt r a j) mine x.1 x.2
      | none => forcedContact e t.before.pos
  else []

/-! ### Forming a release -/

/-- What a position gives (04 R82, R83, R88, R90, R94). -/
def selAt (e : Env) (r : Route) (a : Adm) (x : Spot) (whole : Part) (j : Nat) : PosSel :=
  match x.set with
  | [] => .empty
  | [t] => .forced t
  | _ => match select e.prof (keyAt r a j) whole (draftAt a j) with
    | some s => .chosen s
    | none => .empty

/-- The release of a step from its positions and their whole parts (01 R27, 04 R90-R97). -/
def formStep (e : Env) (r : Route) (a : Adm) (xs : List (Spot × Part)) : Formed :=
  let sels := xs.zipIdx.map fun x => selAt e r a x.1.1 x.1.2 x.2
  let rel := stepRelease e r.limit r.rel (verify sels (a.drafts.map fun d => d.tok) 0)
  { release := rel, contacts := contactsOf e r a true xs rel.grow.taken }

/-- The owner, or an engine alone, forms the step's release. -/
def State.form (s : State) (b : Binding) (e : Env) (r : Route) (a : Adm) : State :=
  s.setRoute { r with adm := some { a with phase := .formed, formed := some (formStep e r a (wholesOf e b r a)) } }

/-- The positions of a step with their numbers, those that are neither forced nor empty. -/
def openSpots (e : Env) (r : Route) (a : Adm) : List (Spot × Nat) := (spotsOf e r a).zipIdx.filter fun x => x.1.open_

/-- The step is refused and stays at its step; what the others sent stands for the entry that comes again. -/
def State.ownerRefuses (s : State) (b : Binding) (r : Route) (a : Adm) (status : Nat) : State :=
  let bad := (memberShards b).filter fun i => (refusing b r i).isSome
  let q : Route :=
    { r with adm := none, peers := r.peers.filter fun p => !(bad.any fun i => p.src == Config.memberPosition b.handle i) }
  let t := s.setRoute q
  match r.chains.get r.half with
  | some k => t.sendRefusal r.half k r.handle a.step status
  | none => t

/-- The owner waits in round 1 for the members' z_max, and then for their summaries and lists (03 R72, 04 R86). When any
member refuses, the owner refuses with the status of the lowest shard (03 R70). -/
def State.ownerStep (s : State) (b : Binding) (e : Env) (r : Route) (a : Adm) : State :=
  let ms := memberShards b
  let opens := (openSpots e r a).map fun x => x.2
  let zs := ms.all fun i => (refusing b r i).isSome || opens.all fun j => (peerAt b r pkZmax i j).isSome
  let sums := ms.all fun i => (refusing b r i).isSome || ((peerAt b r pkSummary i 0).isSome &&
    opens.all fun j => (peerAt b r pkSummary i j).isSome && (!e.prof.listed || (peerAt b r pkCands i j).isSome))
  match a.phase with
  | .waitPeers =>
    if !zs then s
    else match ms.findSome? (refusing b r) with
      | some st => s.ownerRefuses b r a st
      | none =>
        let t := (openSpots e r a).foldl (fun t x => t.toMembers b r pkZret 0 (a.step + x.2) x.2 (zBytes (zGroup e b r x.1 x.2))) s
        t.setRoute { r with adm := some { a with phase := .waitRelease } }
  | .waitRelease =>
    if !sums then s
    else match ms.findSome? (refusing b r) with
      | some st => s.ownerRefuses b r a st
      | none => s.form b e r a
  | _ => s

/-- A member sends z_max of each open position and waits for the returned values, when its profile weighs
(04 R86). -/
def State.memberStep (s : State) (b : Binding) (e : Env) (r : Route) (a : Adm) : State :=
  if e.prof.weighted && !(openSpots e r a).isEmpty then
    let t := (openSpots e r a).foldl (fun t x => t.toOwner b r pkZmax 0 (a.step + x.2) x.2 (zBytes (zOwn e x.1))) s
    t.setRoute { r with adm := some { a with phase := .waitPeers } }
  else s.setRoute { r with adm := some { a with phase := .formed } }

/-- The value that the owner returned for position j. -/
def zReturned (r : Route) (j : Nat) : Option PeerRec :=
  r.peers.find? fun p => p.kind == pkZret && p.step == r.next && p.pos == j

/-- The engine's own part of the step is formed: the next exchange, or the release. -/
def State.join (s : State) (b : Binding) (e : Env) (r : Route) (a : Adm) : State :=
  if b.shards ≤ 1 then s.form b e r a
  else if owns b r then
    let q : Route := { r with adm := some { a with phase := if e.prof.weighted then .waitPeers else .waitRelease } }
    match q.adm with
    | some a1 => (s.setRoute q).ownerStep b e q a1
    | none => s
  else s.memberStep b e r a

/-! ### Head rows of a step -/

/-- The masked-row path is taken (03 R64). -/
def maskedPath (e : Env) (xs : List Spot) : Bool :=
  match e.head with
  | some c => xs.all fun x => decide ((covered e x.set).length ≤ rowsHeld c e.shards e.shard / 8)
  | none => false

/-- The rows that a half computes for a step on the masked-row path. -/
def stepRows (e : Env) (xs : List Spot) (h : Half) : List Nat :=
  let ts := (xs.flatMap fun x => x.vals.map fun v => v.tok).eraseDups
  if e.headE.isSome then onRowHalf e h ts else ts

/-- Rows that the vocabulary cache of a half holds at a STRIDE (03 R63, 09 R197). -/
def HalfSt.vocRows (x : HalfSt) (stride : Nat) : Nat := x.vocBanks * trayBank / max 1 stride

/-- A row enters the vocabulary cache, or becomes its most recent (03 R63). -/
def HalfSt.fetchRow (x : HalfSt) (d : Digest) (c : List Byte) (t : Nat) : HalfSt :=
  let stride := (headOf c).stride
  let bytes := match x.vocCache.find? fun e => e.key == ⟨d, t⟩ with
    | some e => e.bytes
    | none => slice (sectOf c kRows) ((rowIndex c t).getD 0 * stride) stride
  { x with vocCache := keepLast (x.vocRows stride) (touchRow ⟨⟨d, t⟩, bytes⟩ x.vocCache) }

/-- What a step touches on a half: the head is its most recent; a paged step takes its rows from the stacks, and on the
masked-row path into the vocabulary cache (03 R61, R63). -/
def State.touchHalf (s : State) (b : Binding) (e : Env) (xs : List Spot) (h : Half) : State :=
  let resident := s.headOn b h
  let d := b.set.hdi
  s.onHalf h fun x =>
    let y := { x with heads := touchHead d (s.shareNow b) x.heads }
    if resident then y
    else
      let z := { y with fetches := addFetch d 1 y.fetches }
      if maskedPath e xs then (stepRows e xs h).foldl (fun y t => y.fetchRow d (s.imageOn h d) t) z else z

/-- Residency that a step touches; a head that is not resident is filled while later steps run (03 R61-R63). -/
def State.touchStep (s : State) (b : Binding) (e : Env) (r : Route) (a : Adm) : State :=
  if b.set.hdi = 0 then s
  else
    let t := (s.routeHalves r).foldl (fun t h => t.touchHalf b e (spotsOf e r a) h) s
    if t.headResident b then t else t.fillFor b

/-- The route, its binding and its admitted step, if it has one. -/
def State.admitted (s : State) (handle : Nat) : Option (Route × Binding × Adm) :=
  match s.route handle with
  | none => none
  | some r =>
    match s.binding r.binding, r.adm with
    | some b, some a => some (r, b, a)
    | _, _ => none

/-- With every allowed set formed the step runs. The halves that split its head wait for each other's records (03 R58). -/
def State.runStep (s : State) (b : Binding) (r : Route) (a : Adm) : State :=
  let p := (s.touchStep b a.env r a).placed r a (statesOf a.env r a.drafts).length
  if a.env.headE.isSome then p.2.setRoute { r with adm := some { p.1 with phase := .waitHalf } } else p.2.join b a.env r p.1

/-- MASK_READY: the step runs once its masks stand in the caches and its searches can run (05 R118, 06 R136, 09 R191). A mask
that has gone is fetched again (05 R121). Data that the stacks have lost end the route (13 R305, R318). -/
def State.maskReady (s : State) (handle : Nat) : State :=
  match s.admitted handle with
  | none => s
  | some (r, b, a) =>
    if a.phase != .waitMask || !s.serving || !s.imagesReady b.set || s.searchWaits b r then s
    else
      let gs := statesOf a.env r a.drafts
      if s.dataGone b r gs || s.headGone b r then (s.faultRoute r).afterRelease handle
      else if !s.masksHeld b r gs then s.wantMasks b r gs
      else s.runStep b r a

/-- HALF_SUMMARY: the other half's records are combined (03 R58, R74; 04 R86). -/
def State.halfSummary (s : State) (handle : Nat) : State :=
  match s.admitted handle with
  | none => s
  | some (r, b, a) => if a.phase != .waitHalf then s else s.join b a.env r a

end Sys2Proof.Machine
end

