-- ==== Sys2Proof/Machine/Checks.lean ====
section
/-! DEFINITION. The checks of a formed step and what follows them: residues, the proof print, the second sequence unit,
re-execution, the mirror record, the commit, and forced-only releases (02 R51, R52; 03 R70; 04 R98; 05 R122; 06 R146;
08 R187; 13 R294-R302). -/
namespace Sys2Proof.Machine

/-! ### What the second computation finds -/

/-- The residues of a position's rows and of its adjustment chains hold (02 R51). -/
def residuesHold (e : Env) (a : Adm) (x : Spot) (j : Nat) : Bool :=
  let ts := x.vals.map fun v => v.tok
  (match e.head, e.headE with
   | some c, some d => rowsChecked c (inputAt a j) (onRowHalf e .west ts) && rowsChecked d (inputAt a j) (onRowHalf e .east ts)
   | some c, none => rowsChecked c (inputAt a j) ts
   | none, _ => true) &&
  x.vals.all fun v => adjustChecked e.prof.adj v.raw (x.pos.pen.count v.tok) (biasOf e.bias v.tok)

/-- The value of a token that the proof print computes again from the retained input; none when another engine holds it
(13 R295 item 1). -/
def printed (e : Env) (a : Adm) (x : Spot) (j t : Nat) : Option Val := (valsAt e x.pos (inputAt a j) (covered e [t])).head?

/-- The runner-up among what this engine covers. -/
def runnerUp (e : Env) (k : NoiseKey) (x : Spot) (out : List Nat) : Option Best :=
  bestOf e.prof.greedy ((x.vals.filter fun v => !out.contains v.tok).map fun v => toBest e.prof k v.tok v.z v.range)

/-- The token lies in the G-set and in the S-set that the list's second region gives (05 R122, 06 R146, 13 R295 item 4). -/
def inSets (e : Env) (p : Pos) (t : Nat) : Bool := (gSet e p.g).contains t && (sSetAgain e p.sw).inter [t] == [t]

/-- The proof print of a token at an open position (13 R295): its value, the comparison with the runner-up unless the draft's own
test chose it, the sampling set, the two sets and the range bit. -/
def proofHolds (e : Env) (r : Route) (a : Adm) (x : Spot) (whole : Part) (j : Nat) (tok : Nat) (range tested : Bool) : Bool :=
  let k := keyAt r a j
  let own := x.vals.find? fun v => v.tok == tok
  let again := printed e a x j tok
  let rejected := if e.prof.ratio && !tested then ((draftAt a j).map fun d => d.tok).toList else []
  again == own &&
  (match again with
   | none => true
   | some v =>
     v.range == range &&
     (tested || e.prof.filtered || ((runnerUp e k x (tok :: rejected)).map fun y =>
       beats e.prof.greedy (toBest e.prof k v.tok v.z v.range) y).getD true)) &&
  (!e.prof.filtered || (samplingList e.prof whole).any fun c => c.tok == tok) &&
  inSets e x.pos tok

/-- The second read of the allowed set of a forced token: a singleton again (13 R295). -/
def forcedHolds (e : Env) (p : Pos) (tok : Nat) : Bool :=
  (sSetAgain e p.sw).inter (keepRows e (gSet e p.g)) == [tok]

/-- The proof prints of a release's tokens: every selected one, and the confirmation of every forced one. -/
def printsHold (e : Env) (r : Route) (a : Adm) (xs : List (Spot × Part)) (x : Release) : Bool :=
  x.grow.taken.zipIdx.all fun t =>
    if t.1.tk.forced then forcedHolds e t.1.before.pos t.1.tk.tok
    else match t.1.tk.pos.bind fun j => (xs[j]?).map fun y => (j, y) with
      | some (j, y) => proofHolds e r a y.1 y.2 j t.1.tk.tok t.1.tk.range (e.prof.ratio && decide (t.2 < x.nAccepted))
      | none => true

/-- Every check of an owner's formed step that is a function of its inputs holds (13 R294). -/
def stepSound (b : Binding) (r : Route) (a : Adm) (f : Formed) : Bool :=
  let e := a.env
  let xs := wholesOf e b r a
  (xs.zipIdx.all fun x => residuesHold e a x.1.1 x.2) && printsHold e r a xs f.release && unitsAgree e r.limit r.rel f.release

/-- The candidate that a member sends for a position, with its range bit. -/
def sentCandidate (x : Part) : Option (Nat × Bool) :=
  (x.best.map fun y => (y.tok, y.range)).or (x.cands.head?.map fun c => (c.tok, c.range))

/-- A member's part of position j. -/
def memberOwn (e : Env) (r : Route) (a : Adm) (x : Spot) (j : Nat) : Part :=
  { enginePart e r a ((zReturned r j).bind fun p => zOf p.body) j x.vals with count := (covered e x.set).length }

/-- The checks of a member's step: residues, and the proof print of what it sends (03 R70, 13 R295). -/
def memberSound (r : Route) (a : Adm) : Bool :=
  let e := a.env
  (spotsOf e r a).zipIdx.all fun x =>
    let own := memberOwn e r a x.1 x.2
    residuesHold e a x.1 x.2 &&
    (!x.1.open_ || (match sentCandidate own with
      | none => true
      | some c => printed e a x.1 x.2 c.1 == (x.1.vals.find? fun v => v.tok == c.1) && inSets e x.1.pos c.1))

/-! ### After the checks -/

/-- A member's summary and lists leave once its checks have passed (03 R70, R72; 04 R86). -/
def State.sendSummaries (s : State) (b : Binding) (r : Route) (a : Adm) : State :=
  let e := a.env
  let t := (spotsOf e r a).zipIdx.foldl (fun t x =>
    let j := x.2
    let part := memberOwn e r a x.1 j
    let u := t.toOwner b r pkSummary 0 (a.step + j) j (summaryAt e r a j false part)
    if e.prof.listed && x.1.open_ then
      u.toOwner b r pkCands (b2n part.draft.isSome) (a.step + j) j (candsBytes (a.step + j) part)
    else u) s
  t.setRoute { r with adm := some { a with phase := .waitRelease } }

/-- Commit a formed step. -/
def State.commitStep (s : State) (b : Binding) (r : Route) (f : Formed) : State :=
  (s.commitRelease b r f.release f.contacts).afterRelease r.handle

/-- A check of the step has failed on a plate (13 R300-R302). -/
def State.stepFailed (s : State) (handle : Nat) (h : Half) (pos : Nat) (k : CheckKind) : State :=
  match s.admitted handle with
  | none => s
  | some (_, b, _) =>
    let x := s.checkFailed b h pos k
    match x.2.admitted handle with
    | some (r, b, a) => x.2.executeAgain b r a x.1
    | none => x.2

/-- STEP_CHECKED: on a pass the serving half writes the route's state and sends its mirror record; in LIMP that commits
(13 R296, R297). A member of a group sends its summaries instead (03 R70). -/
def State.stepChecked (s : State) (handle : Nat) (res : CheckResult) : State :=
  match s.admitted handle with
  | none => s
  | some (r, b, a) =>
    if a.phase != .formed then s
    else
      match res with
      | .fail h pos kind => s.stepFailed handle h pos.toNat kind
      | .pass =>
        let done := { a with charges := [] }
        if owns b r then
          match a.formed with
          | none => s
          | some f =>
            if !stepSound b r a f then s.executeAgain b r a []
            else
              let t := s.chargeAll a.charges
              if t.bothServe then t.setRoute { r with adm := some { done with phase := .written } }
              else t.commitStep b { r with adm := some done } f
        else if !memberSound r a then s.executeAgain b r a []
        else (s.chargeAll a.charges).sendSummaries b r done

/-- The route record that a formed step's mirror record brings (13 R296 step 4). -/
def Route.recordAfter (r : Route) (f : Formed) : RouteRec :=
  { r.recOf with rel := f.release.grow.rel }

/-- MIRROR_RECORD: the other half writes its copy of the route record, and acknowledges (09 R196, 13 R296 steps 4 and 5). -/
def State.mirrorRecord (s : State) (handle : Nat) : State :=
  match s.admitted handle with
  | none => s
  | some (r, _, a) =>
    match a.formed with
    | none => s
    | some f =>
      if a.phase == .written && s.bothServe then
        s.setRoute { r with mirror := r.recordAfter f, record := r.record.set r.half.other none
                            adm := some { a with phase := .acked } }
      else s

def execMirrorRecord (handle : U32) (s : State) : Host.Outcome State Fault Refusal := .next (s.mirrorRecord handle.toNat)

/-- RELEASE_COMMIT (13 R296 steps 6 and 7). -/
def State.releaseCommit (s : State) (handle : Nat) : State :=
  match s.admitted handle with
  | none => s
  | some (r, b, a) =>
    if a.phase != .acked then s
    else
      match a.formed with
      | none => s
      | some f => s.commitStep b r f

/-! ### Forced-only releases -/

/-- A result that no admitted step made is formed again, at most four times in all, and the last failure ends the route
(13 R300-R302, R318). -/
def State.formedAgain (s : State) (handle : Nat) (charges : List (Half × Nat)) : State :=
  match s.route handle with
  | none => s
  | some q =>
    if 3 ≤ q.tries then (s.faultRoute { q with forcedMore := false }).afterRelease handle
    else
      let t := (s.countFault q.half 3 1).recovery q.half 0x0001 handle q.next
      t.setRoute { q with tries := q.tries + 1, tried := q.tried ++ charges }

/-- A check of such a result has failed. -/
def State.tryAgain (s : State) (b : Binding) (handle : Nat) (h : Half) (pos : Nat) (k : CheckKind) : State :=
  let x := s.checkFailed b h pos k
  x.2.formedAgain handle x.1

/-- The checks of a forced-only release that are functions of its inputs: the confirmation of each singleton, and the second
sequence unit (08 R187, 13 R295). -/
def forcedSound (e : Env) (r : Route) : Bool :=
  let x := forcedRelease e r.limit r.rel
  (x.grow.taken.all fun t => forcedHolds e t.before.pos t.tk.tok) && unitsAgree e r.limit r.rel x

/-- FORCED_ONLY_RELEASE (01 R19, R27; 04 R98): the owner releases the forced run once its checks have passed; it waits for its
outputs and for searches. -/
def State.forcedOnlyRelease (s : State) (handle : Nat) (res : CheckResult) : State :=
  match s.route handle with
  | none => s
  | some r =>
    match s.binding r.binding with
    | none => s
    | some b =>
      let due := r.forcedMore && owns b r && (r.state == .open || r.state == .running) && s.serving && r.adm.isNone &&
        !s.blocked r && !s.searchWaits b r
      if !due then s
      else
        match res with
        | .fail h pos k => s.tryAgain b handle h pos.toNat k
        | .pass =>
          if !forcedSound (s.envFor b r) r then s.formedAgain handle []
          else ((s.chargeAll r.tried).forcedOnly b { r with tries := 0, tried := [] }).afterRelease handle

end Sys2Proof.Machine
end

