-- ==== Sys2Proof/Machine/Peers.lean ====
section
/-! DEFINITION. PRT entries between the members of a shard group (03 R68, R70-R72; 04 R86, R98; 16 R401-R405), and the loss of
a member (03 R71, 11 R257). -/
namespace Sys2Proof.Machine

/-! ### Peer entries -/

/-- The route that a PRT entry names (16 R401). -/
def State.routeBySalt (s : State) (binding salt : Nat) : Option Route :=
  s.rt.vals.find? fun r => r.binding == binding && r.salt == salt && r.state != .ended

/-- A member advances over tokens that the owner released; it does not develop (03 R68, 08 R186). -/
def memberGrow (e : Env) (g : Grow) (k : Tk) : Grow :=
  { g with rel := { g.rel with pos := g.rel.pos.advance e k.tok, gen := g.rel.gen + 1 }, taken := g.taken ++ [⟨k, g.rel⟩] }

/-- The tokens of a release notice with their positions (16 R400, R402). -/
def noticeTks (t : TokEntry) : List (Nat × Bool × Option Nat) :=
  (t.toks.zip t.ranges).zipIdx.map fun x =>
    (x.1.1, x.1.2, if !t.forcedOnly && decide (x.2 < t.toks.length - t.nForced) then some x.2 else none)

/-- The release that a member takes from a notice. It sees the forced run that follows, and waits for the notice of it
(04 R98). -/
def noticeRelease (e : Env) (r : Route) (t : TokEntry) : Release :=
  let g := (noticeTks t).foldl (fun g x =>
    memberGrow e g ⟨x.1, x.2.1, decide ((allowed e g.rel.pos).length = 1), x.2.2⟩) (Grow.start r.rel)
  { grow := { g with ending := t.ending, consumed := t.consumed }, nAccepted := t.accepted, nForced := t.nForced
    forcedOnly := t.forcedOnly
    after := if t.ending ≠ .none then .ends t.ending
      else if (allowed e g.rel.pos).length = 1 then .forcedMore else .goes }

/-- PK_RELEASE at a member (03 R68): it advances its copy of the route, or the route ends. -/
def State.takeNotice (s : State) (b : Binding) (r : Route) (t : TokEntry) : State :=
  if t.step ≠ r.next then s
  else if t.toks.isEmpty then
    if t.ending = .none then s else (s.endRoute b r b.set t.ending false false).afterRelease r.handle
  else
    let e := (r.adm.map fun a => a.env).getD (s.envFor b r)
    let x := noticeRelease e r t
    let cs := match r.adm with
      | some a => contactsOf e r a false ((spotsOf e r a).map fun y => (y, noPart)) x.grow.taken
      | none => forcedContacts e r x.grow.taken
    (s.commitRelease b r x cs).afterRelease r.handle

/-- A summary, a list or z_max reaches the owner. -/
def State.ownerTakes (s : State) (b : Binding) (r : Route) : State :=
  match r.adm with
  | none => s
  | some a => (s.ownerStep b a.env r a).afterRelease r.handle

/-- z_max comes back to a member: with every position's value its lists can be formed (04 R86). -/
def State.memberTakes (s : State) (r : Route) : State :=
  match r.adm with
  | none => s
  | some a =>
    if a.phase == .waitPeers && (openSpots a.env r a).all fun x => (zReturned r x.2).isSome then
      s.setRoute { r with adm := some { a with phase := .formed } }
    else s

/-- A PRT entry that is not for this engine, or names a salt that it does not hold, is discarded and recorded
(16 R402, R405). -/
def State.badEntry (s : State) (c : Nat) : State := s.log engineSide 0 0x000A c ftPrt []

/-- The next refusal summary of a member answers an entry that the owner has refused itself (03 R70). -/
def Route.skips (r : Route) (src : Nat) : Bool := r.skip.any fun p => p.1 == src && p.2 != 0

def Route.skipped (r : Route) (src : Nat) : Route :=
  { r with skip := r.skip.map fun p => if p.1 = src then (p.1, p.2 - 1) else p }

/-- One whole PRT entry (16 R402). -/
def State.takePeer (s : State) (c : Nat) (bytes : List Byte) : State :=
  if pDst bytes ≠ s.level.position then s.badEntry c
  else
    match s.routeBySalt (pBinding bytes) (pSalt bytes) with
    | none => s.badEntry c
    | some r =>
      match s.binding r.binding with
      | none => s.badEntry c
      | some b =>
        let k := pKind bytes
        let p : PeerRec := ⟨k, pSrc bytes, pStep bytes - pPos bytes, pPos bytes, pFlags bytes, pBody bytes⟩
        let q : Route := { r with peers := (r.peers.filter fun x =>
          !(x.kind == p.kind && x.src == p.src && x.step == p.step && x.pos == p.pos)) ++ [p] }
        if owns b r then
          if k = pkSummary ∨ k = pkZmax ∨ k = pkCands then
            if p.step < r.next then s
            else if p.refuses r.next && r.skips p.src then s.setRoute (r.skipped p.src)
            else (s.setRoute q).ownerTakes b q
          else s.badEntry c
        else if k = pkZret then
          if p.step < r.next then s else (s.setRoute q).memberTakes q
        else if k = pkRelease then s.takeNotice b r (tokOfBytes (pBody bytes))
        else s.badEntry c

/-- The results of a step have passed their checks: its release is on its way (13 R296). -/
def Adm.leaving (a : Adm) : Bool := a.phase == .formed || a.phase == .written || a.phase == .acked

/-- The owner holds a route of a group that has lost a member: a step that still needs the members goes, one that is formed and
the forced-only releases are released first, and then the route is PAUSED at its last release (03 R71, 11 R257). DEDUCED
(log 49), unsafe. -/
def State.holdGroup (s : State) (r : Route) : State :=
  let keep := r.forcedMore || ((r.adm.map Adm.leaving).getD false)
  let t := if keep then s else s.freeStep r
  (t.setRoute { r with adm := if keep then r.adm else none, pauseDue := true }).afterRelease r.handle

/-- A member holds its copy of a route: its step in progress goes, and the owner's notices still move it on (03 R68, R71; log 49). -/
def State.holdMember (s : State) (r : Route) : State :=
  (((s.freeStep r).freeDrafts r).setRoute { r with state := .paused, adm := none, drafts := none, forcedMore := false
                                                   openDue := false }).afterRelease r.handle

/-- The engine has left the barrier: its shard groups pause until it rejoins (12 R465). -/
def State.groupHeld (s : State) (b : Binding) : Bool := s.level.withdrawn && decide (1 < b.shards)

/-- A route of a group that this engine has left pauses (03 R71, 12 R465). -/
def State.holdIfLeft (s : State) (handle : Nat) : State :=
  match s.route handle with
  | none => s
  | some r =>
    match s.binding r.binding with
    | none => s
    | some b =>
      if s.groupHeld b && (r.state == .open || r.state == .running) then (if owns b r then s.holdGroup r else s.holdMember r) else s

/-- The owner's live routes that have a member at a position. -/
def State.groupRoutes (s : State) (positions : List Nat) : List Route :=
  s.rt.vals.filter fun r =>
    match s.binding r.binding with
    | none => false
    | some b => owns b r && (r.state == .open || r.state == .running) &&
        (memberShards b).any fun i => positions.contains (Config.memberPosition b.handle i)

/-- A member has left or cannot be reached: the owner holds the routes of its groups (03 R71). -/
def State.memberGone (s : State) (position : Nat) : State :=
  (s.groupRoutes [position]).foldl (fun t r =>
    match t.route r.handle with
    | some q => t.holdGroup q
    | none => t) s

/-! ### Searches that can run again (06 R136, 09 R191) -/

/-- Opening releases that waited for searches happen where these can run. -/
def State.retryOpenings (s : State) : State :=
  (s.rt.vals.filter fun r => r.openDue && (r.state == .open || r.state == .running)).foldl (fun t r => (t.opening r.handle).afterRelease r.handle) s

end Sys2Proof.Machine
end

