-- ==== Sys2Proof/Machine/Takeover.lean ====
section
/-! DEFINITION. Losing chains, halves and stacks, and resuming routes (13 R305, R307, R309-R318; 16 R404). -/
namespace Sys2Proof.Machine

/-! ### Resume SYN frames -/

/-- Records of one SYN body (16 R404). -/
def synMax : Nat := 1023

def synBodies : Nat → List SynRec → List (List Byte)
  | 0, _ => []
  | fuel + 1, rs => if rs.isEmpty then [] else synResume (rs.take synMax) :: synBodies fuel (rs.drop synMax)

/-- Send resume records, each on the chain it names (16 R404). -/
def State.sendResume (s : State) (h : Half) (rs : List SynRec) : State :=
  (List.range 16).foldl (fun t c =>
    let mine := rs.filter fun r => r.chain == c && r.half == h
    (synBodies (mine.length / synMax + 1) mine).foldl (fun t b => t.sendSyn h c b) t) s

def synOf (r : Route) (h : Half) (c : Nat) : SynRec := ⟨r.handle, r.next, r.salt, c, h⟩

/-- Resend TOK entries of a route on its chain (13 R292, R307, R310). -/
def State.resend (s : State) (r : Route) (toks : List (List Byte)) : State :=
  match r.chains.get r.half with
  | some c => toks.foldl (fun t b => t.sendOut r.half c (tokOut r.handle b)) s
  | none => s

/-- What a chain or a half owes of a route's handle. -/
def owedOf (l : List Owed) (handle : Nat) : List (List Byte) := (l.filter fun o => o.out.handle == handle).map fun o => o.out.payload

/-- Committed entries of a route in the order of their release: those owed, and then the last release's where it is later
(13 R291). -/
def inOrder (owed last : List (List Byte)) : List (List Byte) := (owed.filter fun b => !last.contains b) ++ last

/-- The step chain of a half that a moved route takes (13 R312). -/
def State.newChain (s : State) (h : Half) (old : Option Nat) : Option Nat :=
  match old with
  | some c => if (s.chain h c).stepUp then some c else s.lowestStep h
  | none => s.lowestStep h

/-- The state in which a route has chains that carry entries. -/
def Route.moves (r : Route) : Bool := r.state == .open || r.state == .running || r.state == .paused

/-! ### Stacks -/

/-- What a half stores (13 R305, 14 R336). -/
def State.storedBytes (s : State) (h : Half) : Nat :=
  (s.img.vals.map fun i => (i.copies.get h).length).sum + (s.bench.vals.map fun b => b.bytes.length).sum + journalRing

/-- A stack is retired (13 R305): its contents are rebuilt from the mirror where they fit; a survivor's have none. -/
def State.retireStack (s : State) (h : Half) (i : Nat) : State :=
  if !(s.hs h).stackMask.getLsbD i then s
  else
    let a := (s.onHalf h fun x => { x with stackMask := x.stackMask &&& ~~~(1#16 <<< i), rebuild := x.rebuild.filter fun p => p.1 != i }).log
      h.code 1 0x0006 i 0 []
    let b := a.recovery h 0x0005 0 0
    if (s.hs h.other).serves then
      let left := ((List.range 16).filter fun k => (b.hs h).stackMask.getLsbD k).length
      if b.storedBytes h ≤ left * stackBytes then
        b.onHalf h fun x => { x with rebuild := x.rebuild ++ [(i, b.storedBytes h / 16)] }
      else b.log h.code 1 0x0008 i 0 []
    else
      { b with img := b.img.mapVals fun g =>
          if (g.copies.get h).isEmpty then g else { g with state := .failed, lost := g.lost.set h true } }

/-! ### Losing a half -/

/-- A half's slots are served by the other half (11 R260). -/
def State.markTaken (s : State) (h : Half) : State := { s with mbx := { s.mbx with taken := s.mbx.taken.set h true } }

/-- HALT, and a warm restart after it (11 R256, 13 R321). -/
def State.commonCause (s : State) : State :=
  let a := s.enterHalt
  { a with eng := { a.eng with restartDue := true } }

/-- Neither half serves: at start-up the engine halts, later it waits for a warm restart (11 R256; log 31). -/
def State.bothLost (s : State) : State :=
  if s.eng.state == .survey || s.eng.state == .ready then s.enterHalt
  else if s.eng.state == .off || s.eng.state == .reset then s
  else s.commonCause

/-- The entry that the survivor executes alone: it reads every row from its own copy (13 R310). -/
def Adm.alone (a : Adm) (head : List Byte) : Adm :=
  { a with env := { a.env with head := a.env.head.map fun _ => head, headE := none }
           phase := if a.phase == .waitSlots then .waitSlots else .waitMask, formed := none }

/-- What becomes of an admitted step when a half is lost: the survivor holds it, or it is sent again (13 R310, R311). -/
def State.moveAdm (s : State) (lost : Half) (r : Route) : Option Adm :=
  let both := r.chains.w.isSome && r.chains.e.isSome
  let head := ((s.binding r.binding).map fun b => s.rowsOn lost.other b true).getD []
  match r.adm with
  | none => none
  | some a =>
    if r.half == lost && !both then none
    else if both && (r.half == lost || a.env.headE.isSome) then some (a.alone head)
    else if a.phase == .written then some { a with phase := .formed }
    else some a

/-- The survivor goes on from its own copy of the route record; one that brings a release which has not committed does not count
(13 R296, R310). -/
def Route.fromMirror (r : Route) : Route :=
  if (r.adm.map fun a => a.phase) = some .acked then r else r.ofRec r.mirror

/-- An entry that waits at the survivor waits on the route's chain there (13 R312). -/
def WaitEntry.rename (w : WaitEntry) (half : Half) (old new : Option Nat) : WaitEntry :=
  if w.half = half ∧ some w.chain = old then { w with chain := new.getD w.chain } else w

/-- The chain of a route on the survivor (13 R312). -/
def State.chainAfter (s : State) (lost : Half) (r : Route) : Option Nat :=
  if r.half == lost then s.newChain lost.other (r.chains.get lost) else r.chains.get lost.other

/-- What a route loses with a half, and the half that serves it now (13 R310-R312). -/
def State.moveRoute (s : State) (lost : Half) (r : Route) : Route :=
  let dst := lost.other
  let chain := s.chainAfter lost r
  let open_ := r.promptOpen && r.stream == lost
  let q := if r.half == lost then r.fromMirror else r
  { q with chains := (r.chains.set lost none).set dst chain, half := dst, stream := dst, adm := s.moveAdm lost r
           copies := ⟨[], []⟩, entries := (r.entries.filter fun w => w.half == dst).map fun w => w.rename dst (r.chains.get dst) chain
           drafts := r.drafts.filter fun p => p.half == dst
           inSeq := if open_ then 0 else r.inSeq, intake := if open_ then [] else r.intake, intakeEnded := r.intakeEnded && !open_ }

/-- Entries that wait at the survivor follow their routes' chains (13 R310, R312). -/
def State.renameEntry (s : State) (lost : Half) (olds : List Route) (w : WaitEntry) : WaitEntry :=
  match olds.find? (fun r => r.handle == eHandle w.bytes) with
  | some r => w.rename lost.other (r.chains.get lost.other) (s.chainAfter lost r)
  | none => w

def State.renameWaiting (s : State) (lost : Half) (olds : List Route) : State :=
  s.onHalf lost.other fun x => { x with waiting := x.waiting.map (s.renameEntry lost olds) }

/-! Streams -/

/-- The records whose slots stand in a queue. -/
def recordsOf (l : List Slot) : List (List Byte) :=
  l.foldl (fun acc x =>
    if x.hdr then acc ++ [x.bytes]
    else match acc.getLast? with
      | some y => acc.dropLast ++ [y ++ x.bytes]
      | none => acc) []

def recHandle (b : List Byte) : Nat := u32At b 0
def recSeq (b : List Byte) : Nat := u32At b 0xC

/-- Put a record into a list that is in SEQ order; the second copy of a SEQ goes (13 R291, R292). -/
def addBySeq (x : List Byte) : List (List Byte) → List (List Byte)
  | [] => [x]
  | y :: t => if recSeq x < recSeq y then x :: y :: t else if recSeq x = recSeq y then y :: t else y :: addBySeq x t

/-- Records that a half's stream port had not sent whole (13 R312). -/
def State.unsentRecs (s : State) (h : Half) : List (List Byte) := recordsOf ((s.str.get h).part ++ (s.str.get h).queue)

/-- The records that a route sends on the survivor's port, in SEQ order: what the lost port had not sent, the last release's, and
what waited (13 R291, R310, R312). -/
def moveRecs (unsent : List (List Byte)) (r : Route) : List (List Byte) :=
  ((unsent.filter fun b => recHandle b == r.handle) ++ r.lastRecs ++ r.waitRecs).foldl (fun acc b => addBySeq b acc) []

/-- Accesses of a lost half's port go on through the survivor's, each under a tag of its own, but for fetches of its own copies
(17 R416). -/
def moveAccesses (lost : Half) (l : List MiAcc) : List MiAcc :=
  (l.filter fun a => a.half == lost && (match a.purpose with
      | .fetch _ _ => false
      | .bootImage _ _ => false
      | _ => true)).foldl (fun acc a => acc ++ [{ a with half := lost.other, tag := freeTag acc lost.other }])
    (l.filter fun a => a.half != lost)

/-- The survivor's head region holds whole heads (03 R57, R61; 13 R310). -/
def State.refillHeads (s : State) (dst : Half) : State :=
  let bs := s.bnd.vals.filter fun b => b.set.hdi != 0 && (b.state == .active || b.state == .verified || b.state == .stopped)
  bs.foldl (fun t b =>
    let need := t.shareOn b dst
    (t.onHalf dst fun x => { x with heads := x.heads.filter fun e => !(e.digest == b.set.hdi && e.used != need) }).fillFor b) s

/-- An ended route whose last outputs a lost half had to send (13 R298). -/
def State.moveEnded (s : State) (lost : Half) (r : Route) : Route :=
  { r with half := if r.half = lost then lost.other else r.half, stream := if r.stream = lost then lost.other else r.stream
           chains := (r.chains.set lost none).set lost.other (s.chainAfter lost r) }

/-- The committed outputs of a route that a lost half had to send go out again: TOK entries, and stream records (13 R310). -/
def State.resendRoute (s : State) (lost : Half) (owed : List Owed) (unsent : List (List Byte)) (old : Route) : State :=
  match s.route old.handle with
  | none => s
  | some r =>
    let a := if old.half = lost then s.resend r (inOrder (owedOf owed r.handle) r.lastToks) else s
    if old.stream = lost then a.queueRecs { r with waitRecs := [] } (moveRecs unsent r) else a

/-- Committed TOK entries of routes that are in the table no more (13 R307). -/
def State.resendOrphans (s : State) (lost : Half) (owed : List Owed) (olds : List Route) : State :=
  (owed.filter fun o => !(olds.any fun r => r.handle == o.out.handle && r.half == lost)).foldl (fun t o =>
    match t.newChain lost.other (some o.chain) with
    | some c => t.sendOut lost.other c o.out
    | none => t) s

/-- What the survivor holds of a route's entries is decided, and its masks form (13 R310). -/
def State.takeRoute (s : State) (old : Route) (lost : Half) : State :=
  match s.route old.handle with
  | none => s
  | some r =>
    let c := match r.chains.get r.half with
      | some k => (old.copies.get lost.other).foldl (fun (t : State) (e : Copy) => t.takeEntry ⟨lost.other, k, e.hid, e.bytes⟩) s
      | none => s
    match c.route old.handle with
    | some q => (match c.binding q.binding, q.adm with
      | some bd, some a => c.wantMasks bd q (statesOf a.env q a.drafts)
      | _, _ => c).settle old.handle
    | none => c

/-- TAKEOVER: the survivor goes on with every route of the lost half (13 R309-R312). -/
def State.takeOver (s : State) (lost : Half) : State :=
  let dst := lost.other
  let olds := s.rt.vals
  let live := olds.filter liveRoute
  let owed := s.owed.filter fun o => o.half == lost
  let unsent := s.unsentRecs lost
  let a : State :=
    { s with rt := s.rt.mapVals fun r => if liveRoute r then s.moveRoute lost r else s.moveEnded lost r
             owed := s.owed.filter (fun o => o.half != lost), str := s.str.set lost StrSt.reset }
  let b := a.renameWaiting lost live
  let strays := unsent.filter fun x => !(olds.any fun r => r.handle == recHandle x)
  let c : State := { b with str := b.str.modify dst fun x => ({ x with stray := x.stray ++ strays ++ (s.str.get lost).stray } : StrSt).strays }
  let moved := live.filter fun r => r.moves && r.half == lost
  let syns := moved.filterMap fun r => (c.route r.handle).bind fun q => (q.chains.get dst).map fun k => synOf q dst k
  let d := olds.foldl (fun t r => t.resendRoute lost owed unsent r) (c.sendResume dst syns)
  let e := live.foldl (fun t r => t.takeRoute r lost) (d.resendOrphans lost owed olds)
  ((e.refillHeads dst).recovery dst 0x0002 0 0).readmitHalf dst

/-! Commands (11 R260) -/

/-- The half whose firmware serves a slot by itself. -/
def homeHalf (slot : Nat) : Half := if slot < 128 then .west else .east

/-- A fuse command goes on by itself. -/
def State.fuseSlot (s : State) : Option Nat := s.safe.fuseJob.map fun f => match f with
  | .burn k _ _ => k
  | .program k _ => k
  | .revoke k _ => k

/-- What a command that has not committed has begun is undone (11 R254): a fence in its first phase, a benchmark for a save, a
start that waits for a head. -/
def State.undoJob (s : State) (j : Job) : State :=
  if j.code = cStop then
    match s.binding j.arg with
    | some b => if b.fence = .phase1 then s.setBinding { b with fence := .none } else s
    | none => s
  else if j.code = cSave then
    match s.route j.arg with
    | some r => if s.held r then s else s.setRoute { r with saving := false }
    | none => s
  else if j.code = cStart then
    match s.binding j.arg with
    | some b => s.setBinding { b with starting := false }
    | none => s
  else s

/-- A command without a commit record is executed from the start: its slot is as it was before it was noticed (11 R260). -/
def State.restartJob (s : State) (j : Job) : State :=
  let t := s.undoJob j
  { t with mbx := { t.mbx with jobs := t.mbx.jobs.filter fun k => k.slot != j.slot }
           mi := t.mi.filter fun a => a.notOf j.slot }

/-- Class E commands that have not reached their commit point are not committed (15 R378). -/
def State.holdCommands (s : State) : State :=
  (s.mbx.jobs.filter fun j => classE j.code && !j.committed).foldl (fun t j => t.restartJob j) s

/-- A new server takes a half's slots: commands without a commit record start again, the others stand (11 R260). -/
def State.restartJobs (s : State) (home : Half) : State :=
  (s.mbx.jobs.filter fun j => homeHalf j.slot == home && j.slot != 255 && !j.committed && s.fuseSlot != some j.slot).foldl
    (fun t j => t.restartJob j) s

/-- A half's firmware stops: the commands without a commit record in the slots that it serves start again with their next server
(11 R260). -/
def State.firmwareStops (s : State) (h : Half) : State :=
  let t := if s.mbx.taken.get h then s else s.restartJobs h
  if s.mbx.taken.get h.other then t.restartJobs h.other else t

/-- Commands at work on a half that has gone: one that has not committed starts again, and its checks decide; a committed one
receives its reply (11 R260, 13 R309, 18 R444). -/
def State.halfJobs (s : State) (h : Half) : State :=
  (s.mbx.jobs.filter fun j =>
      (j.code == cHalfDrain || j.code == cFwActivate || j.code == cRetrain || j.code == cSuspects) && j.target == h).foldl
    (fun t j => if j.committed then t.complete j.slot .engine j.reply else t.restartJob j) s

/-- A half goes: its lanes are idle, its commands go on at the other half, and numbers of the journal go on above those that it
could have used (13 R309, 14 R337). -/
def State.halfGone (s : State) (h : Half) (cause : Nat) (code : HCode) : State :=
  let a := (s.log h.code 3 0x000C cause 0 []).idleLanes h
  let b := (a.firmwareStops h).onHalf h fun x =>
    { x with code := code, fw := if x.fw == .failed || code == .drained then x.fw else .stopped, phase := .held
             needsSurvey := x.needsSurvey || code != .drained, waiting := [], maskFetch := [] }
  { b with jr := if h == .west then { b.jr with eastNext := 0, eastEnd := 0 } else b.jr
           mi := moveAccesses h b.mi
           mbx := { b.mbx with jobs := b.mbx.jobs.map fun j => if j.half == h then { j with half := h.other } else j } }

/-- SERVICE becomes LIMP (11 R256). -/
def EState.limped (e : EState) : EState := if e == .service then .limp else e

/-- The engine goes on with one half. -/
def State.toLimp (s : State) : State := { s with eng := { s.eng with limp := true, state := s.eng.state.limped } }

/-- A half is lost (13 R309): the other one serves on in LIMP. -/
def State.loseHalf (s : State) (h : Half) (cause : Nat) (code : HCode) : State :=
  if !(s.hs h).serves then s
  else
    let c := s.halfGone h cause code
    if !(c.hs h.other).serves then c.bothLost
    else if c.inService then (c.toLimp.takeOver h).halfJobs h
    else c.halfJobs h

/-- The West die is dead and the East half holds itself in reset: nothing serves until the appliance confirms
(13 R314, R315). -/
def State.loseBoth (s : State) : State :=
  let a := (s.loseHalf .west 6 .down)
  let b := a.onHalf .east fun x => { x with code := .inReset, fw := .stopped, phase := .held, needsSurvey := true }
  let c := (b.log 1 3 0x000C 6 0 []).idleLanes .east
  if c.eng.state == .off || c.eng.state == .reset then c else c.enterHalt

/-! ### Losing a chain -/

/-- Frames of a lost peer chain travel on the chains that remain (13 R307, 16 R388). -/
def State.requeuePeer (s : State) (h : Half) (outs : List Out) : State :=
  let cs := s.peerChains h
  (outs.foldl (fun (p : State × Option Nat) o =>
    let c := if bitOf o.fflags 0 then p.2 else cs[u8At o.payload 2 % max 1 cs.length]?
    match c with
    | some k => (p.1.sendOut h k o, some k)
    | none => (p.1, none)) (s, none)).1

/-- A chain is taken out of service; its routes move to the lowest step chain of the half, or the half is lost
(13 R307, R309). -/
def State.loseChain (s : State) (h : Half) (c : Nat) : State :=
  let old := s.chain h c
  let outs := old.unacked
  let t := s.onChain h c fun x => x.idle
  let gone := fun (n : Lane) => if n.member == some c then { n with member := none, mode := .dropped } else n
  let t : State := { t with lanes := t.lanes.modify h (·.map gone) }
  if old.kind == .peer then t.requeuePeer h (old.replay.map (·.out) ++ old.wait)
  else if !old.isStep then t
  else
    match t.lowestStep h with
    | none => ({ t with owed := t.owed ++ outs.map fun o => ⟨h, c, o⟩ } : State).loseHalf h 2 .down
    | some k =>
      let named := t.rt.vals.filter fun r => r.chains.get h == some c
      let follow := fun (w : WaitEntry) => w.rename h (some c) (some k)
      let renamed := fun (r : Route) => if r.chains.get h = some c then
        { r with chains := r.chains.set h (some k), entries := r.entries.map follow } else r
      let a : State := ({ t with rt := t.rt.mapVals renamed } : State).onHalf h fun x => { x with waiting := x.waiting.map follow }
      let moving := named.filter Route.moves
      let b := a.sendResume h (moving.map fun r => synOf r h k)
      let d := outs.foldl (fun t o => t.sendOut h k o) b
      if named.isEmpty then d else d.recovery h 0x0007 0 0

/-! ### After a warm restart -/

/-- The chain that a route takes on a half after its lanes have trained again. -/
def State.rechain (s : State) (h : Half) (c : Option Nat) : Option Nat :=
  match c with
  | some k => s.newChain h (some k)
  | none => none

/-- A committed TOK entry that a lost chain had not brought to an acknowledgement goes out, on its route's chain (13 R292,
R307). -/
def State.payOwed (s : State) (o : Owed) : State :=
  let dest : Option (Half × Nat) := match s.route o.out.handle with
    | some r => (r.chains.get r.half).map fun c => (r.half, c)
    | none => let h := if (s.hs o.half).serves then o.half else s.survivor; (s.newChain h (some o.chain)).map fun c => (h, c)
  match dest with
  | some (h, c) => s.sendOut h c o.out
  | none => s

/-- Every route that was not ENDED resumes at its last committed release (13 R317); only TOK entries that had not been
acknowledged are sent again (13 R292). -/
def State.resumeRoutes (s : State) : State :=
  let place := fun (r : Route) =>
    if !r.moves then r
    else if s.bothServe then { r with chains := ⟨s.rechain .west r.chains.w, s.rechain .east r.chains.e⟩ }
    else
      let dst := s.survivor
      let lost := dst.other
      { r with chains := (r.chains.set lost none).set dst (s.newChain dst (r.chains.get r.half)), half := dst, stream := dst }
  let a : State := { s with rt := s.rt.mapVals place }
  let rs := a.rt.vals.filter Route.moves
  let syn := fun (h : Half) => rs.filterMap fun r => (r.chains.get h).map fun c => synOf r h c
  let b := (a.sendResume .west (syn .west)).sendResume .east (syn .east)
  let c := b.owed.foldl (fun t o => t.payOwed o) { b with owed := [] }
  rs.foldl (fun t r =>
    match t.binding r.binding with
    | some bd => t.wantMasks bd r [r.rel.pos.g]
    | none => t) c

end Sys2Proof.Machine
end

