-- ==== Sys2Proof/Machine/Drain.lean ====
section
/-! DEFINITION. What waits for the end of admitted steps: the drain of a half and the replacement of suspect plates
(12 R288; 18 R439, R444), and the rows that carry a step forward (01 R24-R31; 05 R118; 13 R294-R301). -/
namespace Sys2Proof.Machine

/-! ### `service.half_drain` -/

/-- The other half serves a half's slots (11 R260). -/
def State.takeSlots (s : State) (h : Half) : State :=
  if s.mbx.taken.get h then s
  else { s with mbx := { s.mbx with taken := s.mbx.taken.set h true, takeovers := satAdd s.mbx.takeovers 1 } }

/-- An entry that waited at the other half is decided here, on the route's own chain. -/
def State.reenter (s : State) (h : Half) (w : WaitEntry) : State :=
  match (s.route (eHandle w.bytes)).bind fun r => r.chains.get h with
  | some k => s.takeEntry ⟨h, k, w.hid, w.bytes⟩
  | none => s

/-- A half has completed its admitted steps: the other half takes every route and the half's slots, and the entries that
waited at it go on there without retransmission (12 R288, 09 R207, 11 R260). -/
def State.drained (s : State) (j : Job) : State :=
  let h := j.target
  let held := (s.hs h).waiting
  let a : State := { s with mbx := { s.mbx with jobs := s.mbx.jobs.filter fun k => k.slot != j.slot } }
  let b := (a.loseHalf h 4 .drained).onHalf h fun x => { x with retention := true }
  let d := held.foldl (fun t w => t.reenter h.other w) (b.takeSlots h)
  d.commitOk j.slot (engineObj d) []

/-- A drain goes on to its end once no admitted step is left on the half. -/
def State.drainGo (s : State) : State :=
  match s.mbx.jobs.find? fun j => j.code == cHalfDrain with
  | none => s
  | some j => if s.rt.vals.any fun r => r.adm.isSome && s.holds j.target r then s else s.drained j

/-! ### `service.retire_suspects` -/

/-- A step is being executed again because of the plate (18 R444). -/
def State.busySuspect (s : State) (h : Half) (pos : Nat) : Bool :=
  s.rt.vals.any fun r => ((r.adm.map fun a => a.charges).getD []).contains (h, pos)

/-- Suspects give way to spares, one after the other (18 R439). -/
def State.replaceSuspects (s : State) (h : Half) : List Suspect → State
  | [] => s
  | x :: t =>
    if (s.hs h).spare = 0 ∨ s.busySuspect h x.pos then s.replaceSuspects h t
    else State.replaceSuspects ((s.retirePlate h x.pos).countRetired h) h t

/-- The command completes when no suspect is left, or no spare (18 R439). -/
def State.suspectsGo (s : State) : State :=
  match s.mbx.jobs.find? fun j => j.code == cSuspects with
  | none => s
  | some j =>
    let h := j.target
    let go := decide ((s.hs h).spare ≠ 0) && (s.hs h).suspects.any fun x => !s.busySuspect h x.pos
    let t := (if go then s.commitOnce j.slot else s).replaceSuspects h (s.hs h).suspects.reverse
    if (t.hs h).spare = 0 ∨ (t.hs h).suspects.isEmpty then
      t.complete j.slot .engine (toLe 2 (((t.jobOf j.slot).map fun k => k.arg).getD 0) ++ toLe 2 (t.hs h).spare)
    else t

/-- A step may have ended: what waited for that goes on. -/
def State.stepEnded (s : State) : State := s.suspectsGo.drainGo

/-! ### Rows of a step -/

/-- MASK_READY (05 R118). -/
def execMaskReady (handle : U32) (s : State) : Host.Outcome State Fault Refusal := .next (s.maskReady handle.toNat).stepEnded

/-- HALF_SUMMARY (03 R58, R74; 04 R86). -/
def execHalfSummary (handle : U32) (s : State) : Host.Outcome State Fault Refusal := .next (s.halfSummary handle.toNat).stepEnded

/-- STEP_CHECKED (13 R294-R301). -/
def execStepChecked (handle : U32) (r : CheckResult) (s : State) : Host.Outcome State Fault Refusal :=
  .next (s.stepChecked handle.toNat r).stepEnded

/-- RELEASE_COMMIT (13 R296). -/
def execReleaseCommit (handle : U32) (s : State) : Host.Outcome State Fault Refusal :=
  .next (s.releaseCommit handle.toNat).stepEnded

/-- FORCED_ONLY_RELEASE (01 R27, 04 R98, 08 R187). -/
def execForcedOnlyRelease (c : Checked) (s : State) : Host.Outcome State Fault Refusal :=
  .next (s.forcedOnlyRelease c.handle.toNat c.result).stepEnded

/-- PEER_UNREACHABLE (16 R403, 03 R71). -/
def execPeerUnreachable (position : Byte) (s : State) : Host.Outcome State Fault Refusal :=
  .next (s.memberGone position.toNat).stepEnded

end Sys2Proof.Machine
end

