-- ==== Sys2Proof/Machine/Startup.lean ====
section
/-! DEFINITION. Start-up: resets, boot list, firmware boot, survey, training, READY and SERVICE, warm restarts, and
the supply warning (15 R348-R361, R374-R381; 11 R256; 13 R317, R321; 17 R426, R429, R430). -/
namespace Sys2Proof.Machine

/-! ### Identity and census bytes (12 R266, R283) -/

/-- The first 48 bytes of the `engine.query` reply (12 R266). -/
def State.identity (s : State) : List Byte :=
  let f := b2n s.half.w.serves + 2 * b2n s.half.e.serves + 4 * b2n s.eng.limp + 8 * b2n s.eng.strict +
    16 * b2n s.level.member + 32 * b2n s.level.acts
  toLe 2 0x0B59 ++ toLe 1 1 ++ toLe 1 1 ++ toLe 1 0xB2 ++ toLe 1 ifLevel ++ toLe 1 aLevel ++ toLe 1 f ++
  toLe 1 (if s.level.member then s.level.position else 0) ++ toLe 1 (if s.level.member then s.level.count else 1) ++
  zeros 2 ++ toLe 2 s.half.w.vcore.toNat ++ toLe 2 s.half.e.vcore.toNat ++ toLe 2 s.eng.pcapW.toNat ++
  toLe 2 s.eng.pcapE.toNat ++ toLe 1 s.eng.tset.toNat ++ zeros 3 ++ toLe 8 s.eng.serial.toNat ++
  toLe 4 (s.rt.vals.filter liveRoute).length ++ toLe 4 (s.bnd.vals.filter fun b => b.state != .retired).length ++
  toLe 8 s.jr.next

def State.lanesUp (s : State) (h : Half) : Nat := ((s.lanes.get h).filter fun l => l.mode == .up && l.member.isSome).length

/-- The census record of a half (12 R283). -/
def State.censusBytes (s : State) (h : Half) : List Byte :=
  let x := s.hs h
  toLe 2 (128 - x.emptyPos.length) ++ toLe 2 x.spare ++ toLe 2 x.retired ++ toLe 2 x.underTest ++
  toLe 2 x.emptyPos.length ++ toLe 2 x.trayRetired ++ toLe 2 (countBits 16 x.stackMask.toNat) ++
  toLe 2 (s.lanesUp h) ++ toLe 8 x.signature.toNat ++ toLe 4 x.cal.toNat ++ toLe 2 x.suspects.length ++ zeros 2

/-! ### Resets -/

/-- SAFE_RST_N_RELEASE: the straps are sampled, the safelight controllers start, and the boot pointer is 0
(15 R348, R366; 17 R423; 19 R453). -/
def execSafeRstNRelease (datum : Bool) (addrW addrE : BitVec 2) (s : State) : Host.Outcome State Fault Refusal :=
  .next
    { s with
      eng := { s.eng with safeRst := false }
      safe := { s.safe with bootPtr := 0 }
      level := { s.level with strap := datum, checking := datum, acts := false, refused := false }
      half := ⟨{ s.half.w with strapAddr := addrW, safeUp := true, heartbeat := true },
               { s.half.e with strapAddr := addrE, safeUp := true, heartbeat := true }⟩ }

/-- CORE_RST_N_ASSERT: RESET, whatever the engine was doing; a burn is cut short (11 R256, 17 R430). -/
def execCoreRstNAssert (s : State) : Host.Outcome State Fault Refusal :=
  let a := s.cutFuse.dropUncommitted
  let b := (a.idleLanes .west).idleLanes .east
  .next
    { b with
      eng := { b.eng with state := .reset, coreRst := true, phase := .held, restartDue := false }
      half := b.half.map fun x => x.put .inReset .booting
      mi := b.rescueAccesses
      level := { b.level with ready := false, member := false, alone := false, formed := false, members := []
                              delay := none, joining := [] } }

/-- CORE_RST_N_RELEASE: a cold start begins (15 R348, R354). -/
def execCoreRstNRelease (s : State) : Host.Outcome State Fault Refusal :=
  .next (if s.eng.coreRst && !s.eng.safeRst then s.coldStart else s)

/-- CORE_RAILS_REMOVED: OFF; the banks and stacks lose their contents (11 R256). -/
def execCoreRailsRemoved (s : State) : Host.Outcome State Fault Refusal :=
  let a := s.cutFuse
  let b := (a.idleLanes .west).idleLanes .east
  .next
    { b with
      eng := { b.eng with state := .off, coreRst := true, phase := .held, restartDue := false }
      half := b.half.map fun x =>
        { (x.wiped.put .down .stopped) with tj := 0x80, railOk := x.railOk &&& 0x10F#9, vcore := 0 }
      mi := b.rescueAccesses, owed := [], rt := [], bnd := [], img := [], bench := [], jr := JrSt.reset, str := ⟨StrSt.reset, StrSt.reset⟩
      merid := Merid.reset
      level := { b.level with ready := false, member := false, alone := false, formed := false, members := []
                              delay := none, joining := [] } }

/-! ### The boot list (15 R350-R353) -/

/-- The header's checks of 15 R351, R352. -/
def bootHeaderOk (b : List Byte) : Bool :=
  slice b 0 4 == [0x42#8, 0x4F#8, 0x4F#8, 0x54#8] && u16At b 4 == 1 && decide (1 ≤ u16At b 6) && decide (u16At b 6 ≤ 66) &&
  u32At b 8 / 2 == 0 && decide (1 ≤ u8At b 0xC) && decide (u8At b 0xC ≤ 64) && decide (1 ≤ u8At b 0xD) &&
  decide (u8At b 0xD ≤ 120) && zeroAt b 0xE 2 && u32At b 0x18 == 64 + 80 * u16At b 6 && zeroAt b 0x1C 36

def bootEntryOf (b : List Byte) : BootEntry :=
  { addr := u64At b 0, len := u64At b 8, typ := u8At b 0x10, role := u8At b 0x11, digest := digestAt b 0x18 }

def bootEntryOk (b : List Byte) : Bool :=
  let e := bootEntryOf b
  e.addr % 64 == 0 && (IType.ofCode e.typ).isSome && decide (e.role ≤ 2) && (e.role == 0 || e.typ == 0x10) &&
  zeroAt b 0x12 6 && zeroAt b 0x48 8

/-- The whole list: its CRC over the bytes with the CRC field zero, and its entries (15 R351, R352). -/
def bootListOk (b : List Byte) : Bool :=
  let n := u16At b 6
  let es := records 80 (slice b 64 (80 * n))
  let roles := es.map fun e => (bootEntryOf e).role
  bootHeaderOk b && u64At b 0x10 == (crc64 (b.take 0x10 ++ zeros 8 ++ (b.drop 0x18).take (64 + 80 * n - 0x18))).toNat &&
  es.all bootEntryOk && roles.count 1 == 1 && decide (roles.count 2 ≤ 1) && decide (roles.count 0 ≤ 64)

/-- A refused boot list: the engine stays in RESET (15 R352). -/
def State.bootRefused (s : State) : State :=
  { (s.log engineSide 0 0x0001 s.safe.bootPtr.toNat 0 []) with eng := { s.eng with phase := .held } }

/-- Ask both halves to fetch a container the list names (15 R350). -/
def State.bootFetch (s : State) (e : BootEntry) : State :=
  let t := (IType.ofCode e.typ).getD .fwi
  let i : Image := { digest := e.digest, typ := t, state := .fetching, vstatus := stOk, hostRef := true, total := e.len
                     copies := ⟨[], []⟩, src := [⟨e.addr, e.len⟩], refetch := ⟨false, false⟩ }
  let hs : List Half := if s.half.w.out then [.east] else if s.half.e.out then [.west] else [.west, .east]
  hs.foldl (fun s h => s.miRead h e.addr e.len (.bootImage e.digest e.role)) (s.setImage i)

/-- Fetch the entries of some roles whose image is not stored; stored ones are verified again (15 R374, 10 R224). -/
def State.bootFetchAll (s : State) (fw : Bool) : State :=
  s.eng.boot.foldl (fun s e =>
    if (e.role == 0) == fw then s
    else match s.image e.digest with
      | none => s.bootFetch e
      | some i => (s.setImage { i with hostRef := true }).wantVerified e.digest) s

/-- The list has been read: the firmware images are fetched; a warm restart has them (15 R353, R374). -/
def State.bootRead (s : State) (b : List Byte) : State :=
  if bootListOk b then
    let es := (records 80 (slice b 64 (80 * u16At b 6))).map bootEntryOf
    let run := (es.find? fun e => e.role == 1).map (·.digest)
    let fall := (es.find? fun e => e.role == 2).map (·.digest)
    let a : State :=
      { s with eng := { s.eng with boot := es, fullTest := bitOf (u32At b 8) 0, declared := u8At b 0xC, waitS := u8At b 0xD
                                   phase := .firmware
                                   fwRun := if s.eng.warm && s.eng.fwRun.isSome then s.eng.fwRun else run
                                   fwFall := if s.eng.warm && s.eng.fwRun.isSome then s.eng.fwFall else fall } }
    a.bootFetchAll true
  else s.bootRefused

/-- The bytes of the list's header have arrived. -/
def State.bootHeaderRead (s : State) (b : List Byte) : State :=
  if bootHeaderOk b then
    s.miRead .west (s.safe.bootPtr.toNat / 64 * 64) (64 + 80 * u16At b 6) (.bootEntries (u16At b 6))
  else s.bootRefused

/-- A fetched container of the boot set: an image whose manifest digest is not its entry's fails with ST_ARG
(15 R352). -/
def State.bootImageRead (s : State) (h : Half) (d : Digest) (b : List Byte) : State :=
  match s.image d with
  | none => s
  | some i =>
    let i := { i with copies := i.copies.set h b }
    let waiting := s.mi.any fun a => match a.purpose with
      | .bootImage e _ => e == d
      | _ => false
    let bad := !(loadChecks b i.total && manifestDigest b == d)
    s.setImage { i with state := if bad || i.state == .failed then .failed else if waiting then .fetching else .verifying
                        vstatus := if bad || i.state == .failed then stArg else i.vstatus }

/-! ### Firmware -/

/-- An image is verified. -/
def State.verified (s : State) (d : Option Digest) : Bool :=
  match d with
  | some d => (match s.image d with
    | some i => i.state == .verified
    | none => false)
  | none => false

/-- The firmware that a half boots: the running one, else the fallback (15 R353). -/
def State.bootChoice (s : State) (h : Half) : Option Digest :=
  match (s.hs h).fwi with
  | some d => if s.verified (some d) then some d else if s.verified s.eng.fwRun then s.eng.fwRun
      else if s.verified s.eng.fwFall then s.eng.fwFall else none
  | none => if s.verified s.eng.fwRun then s.eng.fwRun else if s.verified s.eng.fwFall then s.eng.fwFall else none

def digestPrefix (d : Option Digest) : List Byte := (d.map fun d => (digestBytes d).take 24).getD []

/-- Both halves run the staged image: it holds the running reference and the image before it the fallback
(12 R288, 10 R222). -/
def State.moveFwRefs (s : State) : State :=
  match s.eng.staged with
  | some d =>
    if s.half.w.fwi = some d ∧ s.half.e.fwi = some d ∧ s.eng.fwRun ≠ some d then
      ({ s with eng := { s.eng with fwFall := s.eng.fwRun, fwRun := some d } } : State).dropFree s.eng.fwFall.toList
    else s
  | none => s

/-- The jobs of `service.fw_activate` on a half. -/
def State.activation (s : State) (h : Half) : Option Job :=
  s.jobOn cFwActivate h

/-- The engine's start needs this half's firmware: it is not lost. -/
def HalfSt.starts (x : HalfSt) : Bool := x.code == .up || (x.code == .inReset && x.fw != .failed && !x.hold)

/-- FIRMWARE_BOOTED: a half's firmware runs. With both halves' firmware running the engine enters SURVEY
(11 R256, 15 R354); a half that returns goes on to its survey (18 R436); a restarted firmware completes its
activation (18 R437). -/
def State.firmwareBooted (s : State) (h : Half) : State :=
  let x := s.hs h
  if s.eng.state == .reset then
    if s.eng.phase == .firmware && x.code == .inReset && x.fw == .booting && (s.bootChoice h).isSome then
      let fb := decide (s.bootChoice h ≠ s.eng.fwRun)
      let a := s.onHalf h fun x => { x with code := .up, fw := .running, fwi := s.bootChoice h }
      let a := if fb then a.log h.code 1 0x0002 0 0 (digestPrefix (s.bootChoice h)) else a
      let other := a.hs h.other
      if other.code == .up || other.out then
        { a with eng := { a.eng with state := .survey, phase := .census } }
      else a
    else s
  else if x.phase == .firmware && (s.bootChoice h).isSome then
    s.onHalf h fun x => { x with code := if x.code == .drained then .drained else .down, fw := .running, phase := .census
                                 fwi := if x.code == .drained && s.verified s.eng.staged then s.eng.staged
                                   else s.bootChoice h }
  else if x.code == .fwRestart then
    let a := s.onHalf h fun x => { x with code := .up, fw := .running, bootTries := 0 }
    match a.activation h with
    | some j => a.moveFwRefs.complete j.slot .engine []
    | none => a
  else s

/-- A half that `service.half_serve` was to return cannot serve: the engine stays in LIMP (18 R436). -/
def State.returnFails (s : State) (h : Half) : State :=
  match s.jobOn cHalfServe h with
  | some j => s.fail j.slot stFault .engine
  | none => s

/-- FW_BOOT_TIMEOUT: retried twice, then the fallback, then the half is held in reset; a staged image that does not
run gives way to the half's previous firmware (15 R353, 18 R437). -/
def State.fwBootTimeout (s : State) (h : Half) : State :=
  let x := s.hs h
  if x.code == .fwRestart then
    match s.activation h with
    | some j =>
      let a := s.onHalf h fun x => { x with fwi := some j.digest }
      let b := a.log h.code 1 0x0002 0 0 (digestPrefix s.eng.staged)
      (b.setJob { j with code := 0 }).fail j.slot stFault .engine
    | none => s.onHalf h fun x => { x with bootTries := x.bootTries + 1 }
  else if (s.eng.state == .reset && s.eng.phase == .firmware && x.code == .inReset && x.fw == .booting) ||
      (s.eng.state != .reset && x.phase == .firmware) then
    if x.bootTries < 2 then s.onHalf h fun x => { x with bootTries := x.bootTries + 1 }
    else if decide (s.bootChoice h ≠ s.eng.fwFall) && s.verified s.eng.fwFall then
      (s.onHalf h fun x => { x with bootTries := 0, fwi := s.eng.fwFall }).log h.code 1 0x0002 0 0 (digestPrefix s.eng.fwFall)
    else
      (s.onHalf h fun x => { x with fw := .failed, code := if x.code == .drained then .drained else .inReset, phase := .held }).returnFails h
  else s

def execFwBootTimeout (h : Half) (s : State) : Host.Outcome State Fault Refusal := .next (s.fwBootTimeout h)

/-! ### Survey and training -/

/-- A half that cannot serve is held in reset, and the other half's firmware serves its slots (15 R357, 11 R259). -/
def State.holdHalf (s : State) (h : Half) : State :=
  let a := (s.onHalf h fun x => { x with code := .inReset, fw := .stopped, needsSurvey := true, phase := .held }).idleLanes h
  let b := a.log h.code 3 0x000C 0x9 0 []
  let c := b.markTaken h
  if (c.hs h.other).serves then c else c.enterHalt

/-- At least 96 positions, 12 stacks and one chain (15 R357). -/
def State.fit (s : State) (h : Half) (chains : Bool) : Bool :=
  let x := s.hs h
  decide (96 ≤ 128 - x.emptyPos.length) && decide (12 ≤ countBits 16 x.stackMask.toNat) &&
  (!chains || (s.lowestStep h).isSome || !(s.peerChains h).isEmpty)

/-- A keyslot whose programming was cut short is programmed when its fuses read correctly (18 R444). -/
def State.readCut (s : State) (ok : Bool) : State :=
  match s.safe.cutKey with
  | some c => { s with safe := { s.safe with cutKey := none, fuses := if ok then s.safe.fuses.set c.1 c.2 else s.safe.fuses } }
  | none => s

/-- Census results of one half (15 R356, 17 R430, 18 R444, 14 R335). -/
def State.applyCensus (s : State) (h : Half) (c : Census) : State :=
  let p := s.takeFree 1
  let a := p.2.onHalf h fun x =>
    { x with emptyPos := c.empty.map (·.toNat), spare := c.spare.toNat, retired := c.retired.toNat, underTest := 0
             trays := traysWithout (c.trayRetired.map (·.toNat))
             signature := Config.selftestSignature p.1, cal := Config.calCode p.1
             burnt := if c.cutReadsOk then x.burnt ++ x.cut else x.burnt
             pendingRepairs := if c.cutReadsOk then x.pendingRepairs.filter (fun r => !x.cut.contains r) else x.pendingRepairs
             cut := [] }
  (c.failed.foldl (fun s e => s.softRepair h e) a).readCut c.cutReadsOk

/-- The census of the engine's own survey; after a warm restart the one before stands (15 R349, R356, R357). -/
def State.surveyed (s : State) (h : Half) (c : Census) : State := if s.eng.warm then s else s.applyCensus h c

/-- A half that is not fit for service is held (15 R357). -/
def State.holdUnfit (s : State) (h : Half) : State :=
  if s.fit h false || decide (96 ≤ 128 - (s.hs h).emptyPos.length) then s else s.holdHalf h

/-- A census that is due: the engine's own, or that of a half that returns by itself. -/
def State.censusHalf (s : State) (h : Half) (c : Option Census) : State :=
  match c with
  | none => s
  | some c =>
    if s.eng.phase == .census then (if (s.hs h).code == .up then (s.surveyed h c).holdUnfit h else s)
    else if (s.hs h).phase == .census then
      (s.applyCensus h c).onHalf h fun x => { x with phase := .meridian }
    else s

/-- CENSUS_DONE (15 R354 C3, R374 W2). -/
def execCensusDone (w e : Option Census) (s : State) : Host.Outcome State Fault Refusal :=
  let a := (s.censusHalf .west w).censusHalf .east e
  .next (if s.eng.phase == .census && a.eng.state == .survey then { a with eng := { a.eng with phase := .meridian } } else a)

/-- The meridian link has trained for a half that returns by itself. -/
def State.meridianFor (s : State) (h : Half) (m : Merid) : State :=
  let a := ({ s with merid := m } : State).onHalf h fun x => { x with phase := if m.trained then .stackTrain else .held }
  if m.trained then a else a.returnFails h

/-- MERIDIAN_TRAINED: lanes that fail are dropped; with fewer than 4 in a direction the East half is held in reset
(15 R358). -/
def execMeridianTrained (toEast toWest : U16) (s : State) : Host.Outcome State Fault Refusal :=
  let good := decide (4 ≤ countBits 16 toEast.toNat) && decide (4 ≤ countBits 16 toWest.toNat)
  let m : Merid := ⟨toEast, toWest, good, !good⟩
  .next (if s.eng.phase == .meridian then
      let a : State := { s with merid := m, eng := { s.eng with phase := .stackTrain } }
      if good || !(a.half.e.code == .up && a.half.w.code == .up) then a else a.holdHalf .east
    else if s.half.w.phase == .meridian then s.meridianFor .west m
    else if s.half.e.phase == .meridian then s.meridianFor .east m
    else s)

/-- JR_START: kind, identity, both census records (14 R338). -/
def State.journalStart (s : State) : State :=
  s.journal s.survivor 0x0001 0
    (toLe 1 (b2n s.eng.warm) ++ s.identity ++ s.censusBytes .west ++ s.censusBytes .east)

/-- Stacks that fail their training on a half: retired, and rebuilt where the contents were kept (15 R359,
13 R305). -/
def State.trainStacks (s : State) (h : Half) (failed : U16) (warm : Bool) : State :=
  let newly := (List.range 16).filter fun i => failed.getLsbD i && (!warm || (s.hs h).stackMask.getLsbD i)
  if warm then newly.foldl (fun t i => t.retireStack h i) s
  else newly.foldl (fun t i => t.log h.code 1 0x0006 i 0 [])
    (s.onHalf h fun x => { x with stackMask := ~~~failed, rebuild := [] })

/-- A stack that `service.stack_restore` returns has been trained and tested: it fails, or is cleared next
(18 R441). -/
def State.restoreTrained (s : State) (h : Half) (failed : U16) : State :=
  match s.jobOn cStackRestore h with
  | some j =>
    if j.stage ≠ 0 then s
    else if failed.getLsbD (u8At j.body 1) then s.fail j.slot stFault .engine
    else s.setJob { j with stage := 1 }
  | none => s

/-- The stacks of both halves at a start, with a new journal at a cold one (15 R359, R374). -/
def State.startStacks (s : State) (w e : U16) : State :=
  let a := if s.half.w.code == .up then s.trainStacks .west w s.eng.warm else s
  let b := if s.half.e.code == .up then a.trainStacks .east e s.eng.warm else a
  let c := if s.eng.warm then b
    else { b with jr := { b.jr with recs := [] } }
  c.journalStart

/-- A half whose stacks leave it unfit is held in reset (15 R357). -/
def State.holdUntrained (s : State) (h : Half) : State :=
  if (s.hs h).code == .up && !s.fit h false then s.holdHalf h else s

/-- STACKS_TRAINED: at a cold start the ring is cleared and JR_START written (15 R359, R374). -/
def execStacksTrained (w e : U16) (s : State) : Host.Outcome State Fault Refusal :=
  .next (if s.eng.phase == .stackTrain then
      let g := ((s.startStacks w e).holdUntrained .west).holdUntrained .east
      if g.eng.state == .survey then { g with eng := { g.eng with phase := .chains } } else g
    else
      let a := if s.half.w.phase == .stackTrain then
        (s.trainStacks .west w false).onHalf .west fun x => { x with phase := .chains } else s.restoreTrained .west w
      if a.half.e.phase == .stackTrain then
        (a.trainStacks .east e false).onHalf .east fun x => { x with phase := .chains } else a.restoreTrained .east e)

/-! ### Verification (10 R219) -/

/-- The sections of a firmware image have kinds that begin with "F" (10 R213). -/
def fwiOk (c : List Byte) : Bool := (sections (manifest c)).all fun x => x.kind % 256 == 0x46

/-- Step 4: what the image's type requires. -/
def typeOk (c : List Byte) : Bool :=
  match IType.ofCode (hdrType c) with
  | some .tki => tkiOk c
  | some .hdi => hdiOk c
  | some .csi => csiOk c
  | some .sli => sliOk c
  | some .fwi => fwiOk c
  | none => false

/-- The outcome of verifying a container: the first failing step (10 R219). -/
def verifyStatus (slots : List Keyslot) (c : List Byte) : Nat :=
  if !structureOk c then stArg
  else if !signatureOk slots c then stSignature
  else if !digestsOk c then stArg
  else if !typeOk c then stArg
  else stOk

/-- A returning half verifies its copy of an image again, and takes the survivor's where its own fails or is absent; an image that
is still being fetched is fetched for the half, too (13 R303, R316; 10 R237). -/
def State.checkCopy (s : State) (h : Half) (i : Image) : State :=
  let own := i.copies.get h
  let other := i.copies.get h.other
  if i.state = .fetching then
    let t := s.setImage { i with copies := i.copies.set h [] }
    match i.src.head? with
    | some g => t.miRead h g.addr g.len (.fetch i.digest 0)
    | none => t
  else if own.isEmpty || i.lost.get h then s.setImage { i with copies := i.copies.set h other, lost := i.lost.set h false }
  else if i.state = .verified ∧ verifyStatus s.safe.fuses own ≠ stOk then
    (s.countFault h 5 1).setImage { i with copies := i.copies.set h other }
  else s

/-- A returning half copies every route's record from the survivor, and what its banks hold of bindings follows the engine's
(13 R316, 12 R288). -/
def State.copyRecords (s : State) (h : Half) : State :=
  { s with rt := s.rt.mapVals fun r => { r.synced with record := r.record.set h none }
           bnd := s.bnd.mapVals fun b => { b with record := b.record.set h none } }

/-- LIMP becomes SERVICE (11 R256). -/
def EState.healed (e : EState) : EState := if e == .limp then .service else e

/-- The engine goes on with both halves. -/
def State.fromLimp (s : State) : State := { s with eng := { s.eng with limp := false, state := s.eng.state.healed } }

/-- `service.half_serve` ends: the half serves again, or cannot (13 R316; 18 R436; 11 R256). -/
def State.returnHalf (s : State) (h : Half) : State :=
  match s.jobOn cHalfServe h with
  | none => s
  | some j =>
    if (s.hs h).phase != .up then s
    else if !s.fit h true then
      (s.onHalf h fun x => { x with phase := .held, needsSurvey := true }).fail j.slot stFault .engine
    else
      let a := s.onHalf h fun x =>
        { x with code := .up, fw := .running, needsSurvey := false, retention := false, bootTries := 0, hot := 0, hold := false }
      let b := (a.img.vals.foldl (fun t i => t.checkCopy h i) a).copyRecords h
      let d := ((b.fromLimp.reloadFinder h).refillHeads h).moveFwRefs
      d.complete j.slot .engine []

/-- `service.chain_retrain` ends: LANES is the width that the chain has now (18 R442). -/
def State.retrainDone (s : State) : State :=
  (s.mbx.jobs.filter fun j => j.code == cRetrain).foldl (fun t j =>
    t.complete j.slot .engine
      (toLe 1 ((t.lanes.get j.target).filter fun l => l.member == some (u8At j.body 1)).length)) s

/-- CHAINS_TRAINED: a half without a chain cannot serve; the boot set's other images are fetched (15 R357, R360,
R361). A half that returns has finished its own start (18 R436), and chains that were retrained are complete (18 R442). -/
def execChainsTrained (s : State) : Host.Outcome State Fault Refusal :=
  .next (if s.eng.phase == .chains then
      let a := if s.half.w.code == .up && !s.fit .west true then s.holdHalf .west else s
      let b := if a.half.e.code == .up && !a.fit .east true then a.holdHalf .east else a
      if b.eng.state == .survey then ({ b with eng := { b.eng with phase := .bootSet } } : State).bootFetchAll false else b
    else
      let a := if s.half.w.phase == .chains then s.onHalf .west fun x => { x with phase := .up } else s
      let b := if a.half.e.phase == .chains then a.onHalf .east fun x => { x with phase := .up } else a
      ((b.returnHalf .west).returnHalf .east).retrainDone)

/-- A half's temperature lets survey end: a reading of at least 0 degrees, or none (17 R432). -/
def HalfSt.warmEnough (x : HalfSt) : Bool := x.tj == 0x80#8 || decide (0 ≤ x.tj.toInt)

/-- Every image of the boot set has been verified or has failed (10 R224). -/
def State.bootSetDone (s : State) : Bool :=
  s.eng.boot.all fun e => match s.image e.digest with
    | some i => i.state == .verified || i.state == .failed || i.state == .revoked
    | none => true

/-- BOOT_SET_VERIFIED: the engine enters READY (15 R361). After a warm restart the images of ACTIVE bindings are verified
again before their first use (10 R224). -/
def execBootSetVerified (s : State) : Host.Outcome State Fault Refusal :=
  .next (if s.eng.phase == .bootSet && s.eng.state == .survey && s.bootSetDone && s.half.w.warmEnough && s.half.e.warmEnough
    then
      let a : State := { s with eng := { s.eng with state := .ready, phase := .ready } }
      if s.eng.warm then
        (s.bnd.vals.filter fun b => b.state == .active).foldl (fun t b => b.set.digests.foldl State.wantVerified t) a
      else a
    else s)

/-! ### Warm restarts -/

/-- A warm restart drops what creations and swaps that ran had named (10 R222, R227). -/
def State.warmAgain (s : State) : State :=
  s.warmStart.dropFree (s.bnd.vals.flatMap fun b =>
    (if b.state = .loading then b.set.digests else []) ++ (b.newSet.map fun n => n.1.digests).getD [])

/-- WARM_RESTART: the restart that was decided begins; after a thermal hold of both halves only below 100 degrees
(15 R349, R374; 17 R432). -/
def execWarmRestart (s : State) : Host.Outcome State Fault Refusal :=
  let cool := fun (x : HalfSt) => !x.hold || x.tj == 0x80#8 || decide (x.tj.toInt < 100)
  .next (if s.eng.restartDue && cool s.half.w && cool s.half.e then
    let a : State := { s with half := s.half.map fun x => { x with hold := false, hot := 0, code := if x.hold then .inReset else x.code } }
    a.warmAgain else s)

/-- COMMON_CAUSE_FAULT: HALT, then a warm restart (11 R256, 13 R321). -/
def execCommonCauseFault (s : State) : Host.Outcome State Fault Refusal :=
  .next (if s.eng.state == .off || s.eng.state == .reset then s else s.commonCause)

/-- ROUTE_STATES_RECOVERED: records that fail on both halves are recomputed from the journal; a route whose journal
has gone ends ST_FAULT (15 R375, 13 R304, R317, R318). -/
def State.recoverRoute (s : State) (bad : List U32) (r : Route) : State :=
  if !liveRoute r || !(bad.any fun b => b.toNat == r.handle) then s
  else if ((s.jr.recs.head?.map (·.number)).getD s.jr.next) ≤ r.checkAt then s.recovery s.survivor 0x0006 r.handle (r.startStep + r.rel.gen)
  else s.faultRoute r

def execRouteStatesRecovered (bad : List U32) (s : State) : Host.Outcome State Fault Refusal :=
  .next (if s.eng.warm && !s.eng.recovered && !(s.eng.state == .off || s.eng.state == .reset) then
    let a := s.rt.vals.foldl (fun t r => t.recoverRoute bad r) s
    let b : State := { a with eng := { a.eng with recovered := true }, rt := a.rt.mapVals a.twin }
    if b.inService then b.resumeRoutes else b
  else s)

/-! ### Supply -/

/-- VDD_FUSE_REMOVED (17 R430). -/
def execVddFuseRemoved (s : State) : Host.Outcome State Fault Refusal :=
  let a := s.cutBurn
  .next { a with safe := { a.safe with fuseV := false }
                 half := a.half.map fun x => { x with railOk := x.railOk &&& 0x0FF#9 } }

/-- The journal bytes of records from a number on. -/
def JrSt.from (j : JrSt) (n : Nat) : List JRec := j.recs.filter fun r => decide (n ≤ r.number)

/-- The newest records within 24 MiB (15 R379). -/
def newest : List JRec → List JRec
  | [] => []
  | r :: t => if jHeld (r :: t) ≤ 24 * 2 ^ 20 then r :: t else newest t

def flushMagic : List Byte := [0x4A#8, 0x46#8, 0x4C#8, 0x55#8]

/-- The flush header with DONE as given (15 R379). -/
def flushHeader (done : Bool) (f : Flush) (serial : U64) : List Byte :=
  flushMagic ++ toLe 2 1 ++ toLe 1 0 ++ toLe 1 (b2n done) ++ toLe 8 f.first ++ toLe 8 f.records ++ toLe 8 f.bytes ++
  toLe 8 serial.toNat ++ zeros 24

/-- A flush of records to a region. -/
def Flush.of (g : Region) (recs : List JRec) (next : Nat) : Flush :=
  { region := g, numbers := recs.map fun r => r.number, first := (recs.head?.map fun r => r.number).getD next
    records := recs.length, bytes := (recs.flatMap JRec.bytes).length, done := false }

/-- A journal ring is held: at a cold start from C5 on, and all through a warm restart (15 R374, R381). -/
def State.ringHeld (s : State) : Bool :=
  if s.eng.state == .reset then s.eng.warm && !s.eng.coreRst
  else s.journals && !(s.eng.state == .survey && !s.eng.warm && s.eng.phase != .chains && s.eng.phase != .bootSet)

/-- SUPPLY_WARN_N: admission and commits stop, the journal is flushed to the target, lanes go idle and the engine
withdraws (15 R378, R379; 17 R430). -/
def execSupplyWarnN (s : State) : Host.Outcome State Fault Refusal :=
  .next (if s.safe.warn then s else
    let a := s.cutBurn.holdCommands.dropUncommitted
    let b : State := { a with safe := { a.safe with warn := true } }
    let recs := newest b.jr.unflushed
    let held := b.ringHeld
    let c : State :=
      match b.safe.target with
      | some g =>
        if held then
          let bytes := recs.flatMap JRec.bytes
          let f := Flush.of g recs b.jr.next
          let t : State := { b with jr := { b.jr with warn := some f }, safe := { b.safe with flush := 1 } }
          t.miWrite t.survivor g.addr (flushHeader false f b.eng.serial ++ bytes) .warnFlush
        else b
      | none =>
        if held then
          let t := b.log engineSide 0 0x000E 0 0 []
          { t with safe := { t.safe with flush := 3 } }
        else b
    ((c.idleLanes .west).idleLanes .east).withdraw)

/-- A purpose whose accesses are still outstanding. -/
def State.writes (s : State) (p : Purpose) : Bool := s.mi.any fun a => a.purpose == p

/-- The flush of a supply warning has written its records: its header is written with DONE last (15 R379). -/
def State.warnFlushed (s : State) (f : Flush) : State :=
  let t : State := { s with jr := { s.jr.save f.numbers with warn := some { f with done := true } }
                            safe := { s.safe with flush := 2 } }
  t.miWrite t.survivor f.region.addr (flushHeader true f s.eng.serial) .warnFlush

/-- A host's flush has written its records: its next poll reads DONE (12 R287). -/
def State.hostFlushed (s : State) (f : Flush) : State :=
  { s with jr := { s.jr.save f.numbers with host := some { f with done := true } } }

/-- A flush that runs and whose accesses have ended. -/
def State.flushEnds (s : State) (f : Option Flush) (p : Purpose) : Option Flush := f.filter fun g => !g.done && !s.writes p

/-- JOURNAL_FLUSH_DONE: the flush of a supply warning, or a host's, is complete (12 R287, R290; 15 R379). Its records leave the
unflushed ones (14 R342). -/
def execJournalFlushDone (s : State) : Host.Outcome State Fault Refusal :=
  .next (match (s.flushEnds s.jr.warn .warnFlush).filter fun _ => s.safe.flush == 1 with
    | some f => s.warnFlushed f
    | none =>
      match s.flushEnds s.jr.host .hostFlush with
      | some f => s.hostFlushed f
      | none => s)

/-- SUPPLY_WARN_N_RELEASE: 10 ms after the release, with the rails in range, a warm restart begins (15 R380). -/
def execSupplyWarnNRelease (railsOk : Bool) (s : State) : Host.Outcome State Fault Refusal :=
  .next (if s.safe.warn then
    let a : State := { s with safe := { s.safe with warn := false }, jr := { s.jr with warn := none } }
    if railsOk && !(s.eng.state == .off || s.eng.state == .reset) then a.warmAgain else a
  else s)

end Sys2Proof.Machine
end

