-- ==== Sys2Proof/Machine/Level.lean ====
section
/-! DEFINITION. The level tree: announcements, admission, formation, releases, calibration (15 R362-R373, R381). -/
namespace Sys2Proof.Machine

/-! ### Entering SERVICE -/

/-- After a warm restart the routes of a binding that was STOPPING are held again (10 R231; log 13). -/
def State.goOnStopping (s : State) : State :=
  (s.bnd.vals.filter fun b => b.state == .stopping && b.fence == .set).foldl (fun t b =>
    (((t.routesOf b.handle).filter liveRoute).foldl (fun u r => u.settle r.handle) t).finishStop b.handle) s

/-- SERVICE, or LIMP when a half is held (15 R357, 11 R256). -/
def State.openService (s : State) : State :=
  { s with eng := { s.eng with state := if s.bothServe then .service else .limp, limp := !s.bothServe, phase := .up }
           level := { s.level with ready := true, withdrawn := false } }

/-- The engine enters SERVICE, and LIMP at once when a half is held (15 R357, R374; 11 R256). After a warm restart
it waits for the routes' states, and then sends their resume SYN frames (13 R317). -/
def State.enterService (s : State) : State :=
  if s.eng.state != .ready || (s.eng.warm && !s.eng.recovered) then s
  else if s.eng.warm then ((s.openService.reloadFinder .west).reloadFinder .east).resumeRoutes.goOnStopping
  else s.openService

/-- SERVICE as a constellation of one (15 R365, R366, R370). -/
def State.serveAlone (s : State) : State :=
  ({ s with level := { s.level with member := false, alone := true, position := 0, count := 1 } } : State).enterService

/-! ### Messages -/

def dnPairs : List Pair := (List.range 4).map fun i => .dn (BitVec.ofNat 2 i)

def pairNo : Pair → Nat
  | .up => 4
  | .dn i => i.toNat

def pairOf (n : Nat) : Pair := if n < 4 then .dn (BitVec.ofNat 2 n) else .up

/-- A relayed message leaves as it came (15 R364). -/
def State.relay (s : State) (p : Pair) (code : Nat) (m : LmMsg) : State :=
  { s with level := { s.level with out := s.level.out ++ [⟨p, code, m⟩] } }

/-- Relay a message downward towards the subtree that holds its addressee. -/
def State.relayDown (s : State) (code : Nat) (m : LmMsg) : State :=
  match s.level.below.find? fun b => b.1 == m.serial.toNat with
  | some b => s.relay (pairOf b.2) code m
  | none => s

/-- Remember through which pair a serial number is reached. -/
def State.learn (s : State) (p : Pair) (serial : U64) : State :=
  { s with level := { s.level with below := (serial.toNat, pairNo p) :: s.level.below.filter fun b => b.1 != serial.toNat } }

/-- A safelight controller runs, so messages are taken and relayed (15 R364, 17 R423). -/
def State.levelUp (s : State) : Bool := s.half.w.safeUp

/-- An engine that serves alone announces itself when it hears a datum engine (15 R368). -/
def State.hear (s : State) : State :=
  if s.level.alone && s.serving && !s.level.refused && !s.level.seeking then
    ({ s with level := { s.level with seeking := true } } : State).lmSend .up lmAnnounceCode 0xFF ifLevel aLevel s.eng.serial 0
  else s

/-- The lowest free position from 1 to 63, or the former one when it is free (15 R365). -/
def freePosition (ms : List Member) (former : Nat) : Option Nat :=
  let free := fun p => !(ms.any fun m => m.position == p)
  if 1 ≤ former ∧ former ≤ 63 ∧ free former then some former
  else (List.range 64).find? fun p => decide (1 ≤ p) && free p

/-- The datum engine enumerates from READY on (15 R365). -/
def State.enumerates (s : State) : Bool := s.level.acts && (s.eng.state == .ready || s.inService)

/-- The datum engine admits a sender. -/
def State.admitMember (s : State) (p : Pair) (m : LmMsg) : State :=
  let others := s.level.members.filter fun x => x.serial != m.serial.toNat
  let known := s.level.members.find? fun x => x.serial == m.serial.toNat
  match (match known with
    | some x => some x.position
    | none => freePosition others m.position.toNat) with
  | none => s.lmSend p lmRefuseCode 0xFF 0 0 m.serial 2
  | some pos =>
    let ms := others ++ [⟨pos, m.serial.toNat, pairNo p, false⟩]
    let a : State := { s with level := { s.level with members := ms, count := ms.length + 1
                                                      joining := (s.level.joining.filter fun q => q != pos) ++ [pos] } }
    a.lmSend p lmAdmitCode pos 0 0 m.serial (ms.length + 1)

/-- LM_ANNOUNCE (15 R365, R366). -/
def execLmAnnounce (p : Pair) (m : LmMsg) (s : State) : Host.Outcome State Fault Refusal :=
  .next (if !s.levelUp || m.crc != lmCrc lmAnnounceCode m || p == .up then s
  else
    let a := s.learn p m.serial
    if m.arg.getLsbD 0 && s.level.strap then a.lmSend p lmRefuseCode 0xFF 0 0 m.serial 3
    else if a.enumerates then
      if m.arg.getLsbD 0 then a.lmSend p lmRefuseCode 0xFF 0 0 m.serial 3
      else if m.iflevel.toNat ≠ ifLevel ∨ m.alevel.toNat ≠ aLevel then a.lmSend p lmRefuseCode 0xFF 0 0 m.serial 1
      else if 63 ≤ (a.level.members.filter fun x => x.serial != m.serial.toNat).length then
        a.lmSend p lmRefuseCode 0xFF 0 0 m.serial 2
      else a.admitMember p m
    else if a.level.acts then a
    else a.relay .up lmAnnounceCode m)

/-- LM_ADMIT (15 R365): the addressee records its position; others relay. -/
def execLmAdmit (p : Pair) (m : LmMsg) (s : State) : Host.Outcome State Fault Refusal :=
  .next (if !s.levelUp || m.crc != lmCrc lmAdmitCode m || p != .up then s
  else if m.serial != s.eng.serial then s.hear.relayDown lmAdmitCode m
  else
    let a : State :=
      { s with level := { s.level with member := true, alone := false, refused := false, seeking := false, withdrawn := false
                                       ready := s.serving, position := m.position.toNat, count := m.arg.toNat } }
    match a.mbx.jobs.find? fun j => j.code == cRejoin with
    | some j => a.complete j.slot .engine (toLe 1 m.position.toNat)
    | none => a)

/-- LM_REFUSE (15 R365, R366). -/
def execLmRefuse (p : Pair) (m : LmMsg) (s : State) : Host.Outcome State Fault Refusal :=
  .next (if !s.levelUp || m.crc != lmCrc lmRefuseCode m || p != .up then s
  else if m.serial != s.eng.serial then s.relayDown lmRefuseCode m
  else
    let a := ({ s with level := { s.level with refused := true, checking := false, acts := false, seeking := false } } : State).log
      engineSide 0 0x0010 m.arg.toNat 0 []
    let b := match a.mbx.jobs.find? fun j => j.code == cRejoin with
      | some j => a.fail j.slot stState .engine
      | none => a
    b.serveAlone)

/-- The base is recorded in a JR_MARK (14 R340, 15 R367). -/
def State.recordBase (s : State) (base : U64) : State :=
  ({ s with level := { s.level with base := base } } : State).mark s.survivor 0x0005 0 (base.toNat % 2 ^ 32) (base.toNat / 2 ^ 32)

/-- LM_BASE (15 R367). -/
def execLmBase (p : Pair) (m : LmMsg) (s : State) : Host.Outcome State Fault Refusal :=
  .next (if !s.levelUp || m.crc != lmCrc lmBaseCode m || p != .up then s
  else
    let a := dnPairs.foldl (fun t q => t.relay q lmBaseCode m) s.hear
    if a.level.member then a.recordBase m.serial else a)

/-- LM_ECHO: a probe from above is returned at once; an answer from below ends its round (15 R372). -/
def execLmEcho (p : Pair) (m : LmMsg) (s : State) : Host.Outcome State Fault Refusal :=
  .next (if !s.levelUp || m.crc != lmCrc lmEchoCode m then s
  else if p == .up || m.arg.toNat != s.level.echo then s.hear.relay p lmEchoCode m
  else s)

/-- A member leaves the barrier: the datum engine masks its pair, and the engine holds the routes of the shard groups that it owns
with that member (15 R369, 03 R71). -/
def State.maskMember (s : State) (pos : Nat) : State :=
  let a : State := if s.level.acts then
    { s with level := { s.level with
        members := s.level.members.map fun x => if x.position = pos then { x with inBarrier := false } else x
        joining := s.level.joining.filter fun q => q != pos } } else s
  (a.memberGone pos).stepEnded

/-- LM_WITHDRAW (15 R369, 03 R71). -/
def execLmWithdraw (p : Pair) (m : LmMsg) (s : State) : Host.Outcome State Fault Refusal :=
  .next (if !s.levelUp || m.crc != lmCrc lmWithdrawCode m || p == .up then s
  else
    let a := s.maskMember m.position.toNat
    if s.level.acts then a else a.relay .up lmWithdrawCode m)

/-! ### Timers -/

/-- ANNOUNCE_TIMER (15 R365, R366, R368). A refused engine in READY serves alone. -/
def execAnnounceTimer (s : State) : Host.Outcome State Fault Refusal :=
  .next (if !s.levelUp then s
  else if s.level.checking then s.lmSend .up lmAnnounceCode 0xFF ifLevel aLevel s.eng.serial 1
  else if s.level.acts || s.level.member then s
  else if s.level.refused then s.serveAlone
  else if s.eng.state == .ready || s.level.seeking then
    s.lmSend .up lmAnnounceCode (if s.level.position = 0 then 0xFF else s.level.position) ifLevel aLevel s.eng.serial 0
  else s)

/-- DATUM_CHECK_DONE (15 R366). -/
def execDatumCheckDone (s : State) : Host.Outcome State Fault Refusal :=
  .next (if s.level.strap && s.level.checking then
    { s with level := { s.level with checking := false, acts := true } } else s)

/-- The release edge goes down the tree and acts here (15 R371). -/
def State.edge (s : State) : State := { s with level := { s.level with edges := s.level.edges + 1 } }

/-- Every member that is not masked, and every late joiner that has been calibrated, is in the barrier. -/
def State.release (s : State) (joiners : List Nat) : State :=
  let a : State := { s with level := { s.level with
      members := s.level.members.map fun x => if joiners.contains x.position then { x with inBarrier := true } else x
      joining := s.level.joining.filter fun q => !joiners.contains q } }
  a.edge

/-- The LM_ECHO round that a release carries (15 R369, R372). -/
def State.echoRound (s : State) : State :=
  let a : State := { s with level := { s.level with echo := topOut (2 ^ 16) (s.level.echo + 1) } }
  (dnPairs.filter fun q => s.level.members.any fun x => x.pair == pairNo q).foldl
    (fun t q => t.lmSend q lmEchoCode 0xFF 0 0 0 t.level.echo) a

/-- FORMATION: base, calibration, one release with an LM_ECHO round; the datum engine enters SERVICE at it, after a warm restart
once the routes' states are recovered. Members that are masked stay out (15 R367, R369, R370, R374; log 120). -/
def execFormation (s : State) : Host.Outcome State Fault Refusal :=
  .next (if s.level.acts && s.eng.state == .ready && !s.level.formed && (!s.eng.warm || s.eng.recovered) then
    let base := if s.level.base = 0xFFFFFFFFFFFFFFFF#64 then s.level.base else s.level.base + 1
    let a := (dnPairs.filter fun q => s.level.members.any fun x => x.pair == pairNo q).foldl
      (fun t q => t.lmSend q lmBaseCode 0xFF 0 0 base 0) s
    let b := a.recordBase base
    let c : State := { b with level := { b.level with formed := true, member := true, alone := false, position := 0
                                                      count := b.level.members.length + 1, delay := some 1000 } }
    (c.echoRound.release c.level.joining).enterService
  else s)

/-- BARRIER_RELEASE_TIMER: a release every second, with an echo round (15 R369). -/
def execBarrierReleaseTimer (s : State) : Host.Outcome State Fault Refusal :=
  .next (if s.level.acts && s.level.formed && s.serving && !s.level.withdrawn then
    let ready := s.level.joining
    s.echoRound.release ready
  else s)

/-- LEVEL_RELEASE: an engine forwards the edge and acts on it, entering SERVICE if it waits (15 R367, R371). -/
def execLevelRelease (s : State) : Host.Outcome State Fault Refusal :=
  .next (if !s.levelUp || s.level.acts then s
  else
    let a := s.edge
    if a.level.member && a.level.delay.isSome then a.enterService else a)

/-- MEMBER_SILENT (15 R369, 03 R71). -/
def execMemberSilent (position : Byte) (s : State) : Host.Outcome State Fault Refusal := .next (s.maskMember position.toNat)

/-- DATUM_ABSENT: no datum engine for WAIT_S and 10 s: a constellation of one (15 R370). -/
def execDatumAbsent (s : State) : Host.Outcome State Fault Refusal :=
  .next (if s.eng.state == .ready && !s.level.acts then s.serveAlone
    else match s.mbx.jobs.find? fun j => j.code == cRejoin with
      | some j => ({ s with level := { s.level with seeking := false } } : State).fail j.slot stState .engine
      | none => s)

/-- CALIBRATION_DONE: the engine's own release delay, or a member's link at the datum engine (15 R372, R381). An engine whose own
calibration fails records it and acts on releases with a skew that nothing promises (log 114, DEDUCED). -/
def execCalibrationDone (position : Byte) (pathNs : U16) (ok : Bool) (s : State) : Host.Outcome State Fault Refusal :=
  .next (if s.level.acts && position.toNat ≠ 0 then
    if ok && pathNs.toNat ≤ 1000 then s
    else (s.maskMember position.toNat).log engineSide 0 0x0011 position.toNat 0 []
  else if position.toNat = s.level.position then
    let a : State := { s with level := { s.level with delay := some (1000 - pathNs.toNat) } }
    if ok && pathNs.toNat ≤ 1000 then a else a.log engineSide 0 0x0011 position.toNat 0 []
  else s)

end Sys2Proof.Machine
end

