-- ==== Sys2Proof/Machine/Halves.lean ====
section
/-! DEFINITION. Halves, links, firmware and safelight islands that fail and return
(11 R260, R261; 13 R308-R315; 17 R429; 19 R454, R457; 18 R437). -/
namespace Sys2Proof.Machine

/-- Causes of a lost half (19 R460). -/
def hlReported : Nat := 1
def hlNoChain : Nat := 2
def hlFinder : Nat := 3
def hlDrained : Nat := 4
def hlMainband : Nat := 5
def hlSilent : Nat := 6
def hlThermal : Nat := 7
def hlRail : Nat := 8
def hlSurvey : Nat := 9

/-- HALF_DOWN_REPORT (13 R309). -/
def execHalfDownReport (h : Half) (s : State) : Host.Outcome State Fault Refusal :=
  .next (s.loseHalf h hlReported .down)

/-- The mainband is lost and both sidebands are alive: the East half resets itself (13 R313). -/
def State.mainbandLost (s : State) : State :=
  let a : State := { s with merid := { s.merid with lost := true, trained := false } }
  if a.bothServe then a.loseHalf .east hlMainband .down else a

def execMainbandLost (s : State) : Host.Outcome State Fault Refusal :=
  .next (if s.merid.trained && s.half.w.heartbeat && s.half.e.heartbeat then s.mainbandLost else s)

/-- MERIDIAN_LANE_DROP: fewer than 4 lanes in a direction lose the mainband (13 R308). -/
def execMeridianLaneDrop (toEast : Bool) (lane : BitVec 4) (s : State) : Host.Outcome State Fault Refusal :=
  let bit : U16 := 1#16 <<< lane.toNat
  let m : Merid := if toEast then { s.merid with toEast := s.merid.toEast &&& ~~~bit }
    else { s.merid with toWest := s.merid.toWest &&& ~~~bit }
  .next (if !s.merid.trained then s
  else
    let a : State := { s with merid := m }
    if countBits 16 m.toEast.toNat < 4 ∨ countBits 16 m.toWest.toNat < 4 then a.mainbandLost else a)

/-- LINK_SILENT: mainband and sidebands silent: West takes over when its core is alive, East resets (13 R314). -/
def execLinkSilent (westAlive : Bool) (s : State) : Host.Outcome State Fault Refusal :=
  let a : State := { s with merid := { s.merid with lost := true, trained := false }
                            half := s.half.map fun x => { x with heartbeat := false } }
  .next (if !s.half.e.serves then a
  else if westAlive && s.half.w.serves then a.loseHalf .east hlSilent .inReset
  else a.loseBoth)

/-- PARTNER_SILENT: the East controller waits for the appliance (13 R314, R315). -/
def execPartnerSilent (s : State) : Host.Outcome State Fault Refusal :=
  .next (if s.half.e.code == .inReset && !s.half.w.heartbeat && s.half.e.safeUp && !s.safe.waiting then
    ({ s with safe := { s.safe with waiting := true, inband := s.safe.inband.modify .east (· + 1) } } : State).log 1 3 0x0014 0 0 []
  else s)

/-- HEARTBEAT_RESUMED: a West heartbeat is heard again (13 R315, 19 R454, R457). -/
def execHeartbeatResumed (s : State) : Host.Outcome State Fault Refusal :=
  .next (if s.half.w.safeUp then
    ({ s with half := s.half.map (fun x => { x with heartbeat := true })
              safe := { s.safe with waiting := false, rescueEast := false } } : State).mergeLogs
  else s)

/-- A West heartbeat is missed: the East controller serves slot 255; the level pairs fall to NOT READY (11 R261, 17 R423). -/
def State.heartbeatMissed (s : State) : State :=
  if s.half.e.safeUp then
    { s with half := s.half.modify .west (fun x => { x with heartbeat := false })
             safe := { s.safe with rescueEast := true }
             level := { s.level with ready := false } }
  else s

/-- A half whose safelight island comes up (17 R429, R432; 19 R458). -/
def HalfSt.islandUp (x : HalfSt) : HalfSt :=
  { x with safeUp := true, heartbeat := true, railOk := x.railOk ||| 1#9, tpeak := 0x80, trip := false, hot := 0
           latchCtl := zeros 64, latchSb := zeros 64 }

/-- Slot 255 and the log start afresh (11 R261, 19 R457). -/
def State.islandFresh (s : State) (h : Half) : State :=
  { s with
    safe := { s.safe with events := 0, logs := ⟨[], []⟩, nextW := 0, nextE := 0, logSel := 0, rescueEast := h == .east }
    mbx := { s.mbx with last := s.mbx.last.put 255 0
                        mem := s.mbx.mem.clear (slotBase 255) (slotBase 256)
                        done := s.mbx.done &&& ~~~(1#256 <<< 255)
                        jobs := s.mbx.jobs.filter fun j => j.slot != 255 } }

/-- The West controller serves slot 255 again (11 R261). -/
def State.islandJoins (s : State) (h : Half) : State :=
  ({ s with safe := { s.safe with rescueEast := if h == .west then false else s.safe.rescueEast } } : State).mergeLogs

/-- An island powers up: it resynchronises with the other one, or starts afresh when the other is unpowered (11 R261, 19 R457,
17 R429, R432). -/
def State.islandPowers (s : State) (h : Half) : State :=
  if (s.hs h).safeUp then s
  else if (s.hs h.other).safeUp then (s.onHalf h HalfSt.islandUp).islandJoins h
  else (s.onHalf h HalfSt.islandUp).islandFresh h

/-- The other half's firmware takes a half's slots: commands without a commit record start again (11 R260). -/
def State.slotTakeover (s : State) (h : Half) : State :=
  if (s.hs h).fw != .running && (s.hs h.other).fw == .running && (s.hs h.other).serves && !s.mbx.taken.get h then
    (s.takeSlots h).restartJobs h
  else s

/-- SLOT_TAKEBACK: between commands, never during one (11 R260). -/
def execSlotTakeback (h : Half) (s : State) : Host.Outcome State Fault Refusal :=
  .next (if (s.hs h).fw == .running && (s.hs h).serves && s.mbx.taken.get h &&
      !(s.mbx.jobs.any fun j => j.slot != 255 && homeHalf j.slot == h) then
    ({ s with mbx := { s.mbx with taken := s.mbx.taken.set h false } } : State).moveFwRefs
  else s)

/-- FIRMWARE_FAULT: the watchdog restarts the half's firmware; steps continue (13 R321, 12 R465). -/
def execFirmwareFault (h : Half) (s : State) : Host.Outcome State Fault Refusal :=
  .next (if (s.hs h).fw == .running && (s.hs h).code == .up then
    (s.firmwareStops h).onHalf h fun x => { x with code := .fwRestart, fw := .booting, bootTries := 0 }
  else s)

/-- A half without a rail: RAIL_OK, and the supply it measured (17 R429, 19 R455). -/
def HalfSt.withoutRail (x : HalfSt) (r : Nat) : HalfSt :=
  { x with railOk := x.railOk &&& ~~~(1#9 <<< r), vcore := if r = rCore then 0 else x.vcore, vmem := if r = rMem then 0 else x.vmem }

/-- A half's safelight island is down: the other controller serves slot 255 (17 R429, 11 R261). -/
def State.islandDown (s : State) (h : Half) : State :=
  let a := s.onHalf h fun x => { x with safeUp := false, heartbeat := false }
  { a with safe := { a.safe with rescueEast := h == .west && a.half.e.safeUp }
           level := { a.level with ready := a.level.ready && h == .east } }

/-- VDD_FUSE has gone from a half: a burn is cut short (17 R430). -/
def State.fuseGone (s : State) (h : Half) : State :=
  let a := s.cutBurn
  { a with safe := { a.safe with fuseV := (a.hs h.other).rail rFuse } }

/-- A rail of the half's data path is out of range: the half is lost, its cores do not run, and it returns through
`service.half_serve` (17 R429, 19 R455, 12 R465). -/
def State.railLost (s : State) (h : Half) (r : Nat) : State :=
  let a := s.onHalf h fun x =>
    { x with tj := if r = rCore then 0x80 else x.tj, needsSurvey := true }
  (a.loseHalf h hlRail .down).onHalf h fun x => { x with fw := if x.fw == .failed then x.fw else .stopped, phase := .held }

/-- What the loss of a rail of 17 R428 brings (17 R429, R430). -/
def State.railOut (s : State) (h : Half) (r : Nat) : State :=
  let a := s.onHalf h fun x => x.withoutRail r
  if r = rSafe then a.islandDown h
  else if r = rSio then a
  else if r = rFuse then a.fuseGone h
  else a.railLost h r

/-- RAIL_OUT_OF_RANGE (17 R429, R430). -/
def execRailOutOfRange (h : Half) (rail : BitVec 4) (s : State) : Host.Outcome State Fault Refusal :=
  .next (if rail.toNat ≤ rFuse then s.railOut h rail.toNat else s)

end Sys2Proof.Machine
end

