-- ==== Sys2Proof/Machine/Registers.lean ====
section
/-! DEFINITION. The registers of the control port and the safelight sideband: what a write does, and what every
register reads (19 R445-R463, 17 R414, R415, R425). -/
namespace Sys2Proof.Machine

/-! ### Availability (19 R447) -/

/-- The half's island answers the control port for the identification registers and slot 255. -/
def State.portUp (s : State) (h : Half) : Bool := (s.hs h).safeUp && (s.hs h).rail rSafe && (s.hs h).rail rPort

/-- The sideband target answers (17 R425). -/
def State.sideUp (s : State) (h : Half) : Bool := (s.hs h).safeUp && (s.hs h).rail rSafe && (s.hs h).rail rSio

/-- The half is neither lost, held in reset nor unpowered. -/
def HalfSt.answers (x : HalfSt) : Bool :=
  x.serves || (x.code == .drained && !x.needsSurvey && x.rail rCore)

/-- The half's control port answers for MBX_, SAFE_, CNT_ registers and slots 0 to 254. -/
def State.ctlUp (s : State) (h : Half) : Bool :=
  s.portUp h && !(s.eng.state == .off || s.eng.state == .reset) && (s.hs h).answers

def State.pathUp (s : State) : Path → Bool
  | .control h => s.ctlUp h
  | .sideband h => s.sideUp h

/-! ### Byte enables -/

/-- A 64-bit mask of the enabled bytes. -/
def beMask (be : Byte) : U64 :=
  BitVec.ofNat 64 (((List.range 8).map fun i => if be.getLsbD i then 255 * 256 ^ i else 0).sum)

/-- Write only the enabled bytes (19 R446). -/
def merge (old new : U64) (be : Byte) : U64 := (old &&& ~~~(beMask be)) ||| (new &&& beMask be)

def doneWord (d : BitVec 256) (k : Nat) : U64 := (d >>> (64 * k)).setWidth 64

def setDoneWord (d : BitVec 256) (k : Nat) (v : U64) : BitVec 256 :=
  (d &&& ~~~((0xFFFFFFFFFFFFFFFF#256) <<< (64 * k))) ||| ((v.setWidth 256) <<< (64 * k))

/-- W1C of MBX_DONE_k, where a flag that is being set at the same moment stays set (19 R451). -/
def State.doneClear (s : State) (k : Nat) (be : Byte) (data setting : U64) : State :=
  let old := doneWord s.mbx.done k
  let new := old &&& ~~~(data &&& beMask be &&& ~~~setting)
  { s with mbx := { s.mbx with done := setDoneWord s.mbx.done k new } }

/-- MBX_PEND bit g (19 R450). -/
def pendBit (d : BitVec 256) (g : Nat) : Bool := (d >>> (16 * g)).setWidth 16 != 0#16

def pendWord (d : BitVec 256) : U64 :=
  BitVec.ofNat 64 (((List.range 16).map fun g => if pendBit d g then 2 ^ g else 0).sum)

/-- MBX_IRQ[15:0] (19 R450, 15 R376): deasserted while no half answers, group 15 only in RESET. -/
def State.mbxIrq (s : State) : U16 :=
  let all := (pendWord s.mbx.done).setWidth 16 &&& s.mbx.irqEn
  if s.eng.state == .off || s.eng.coreRst then 0
  else if s.eng.state == .reset then all &&& 0x8000 else all

/-! ### Writes -/

/-- The code that confirms that the West half cannot serve (19 R454). -/
def confirmCode : Nat := 0x0C0F

/-- SAFE_TAKEOVER: the confirmation through the East target while WAITING is set starts a warm restart in LIMP on
the East half (13 R315, 19 R454). -/
def State.takeoverWrite (s : State) (p : Path) (be : Byte) (data : U64) : State :=
  if p == .sideband .east && s.sideUp .east && s.safe.waiting && be.toNat % 4 == 3 && data.toNat % 2 ^ 16 == confirmCode
  then
    let a := s.onHalf .west fun x => x.put .down .stopped
    let b := a.onHalf .east fun x => { x with code := .inReset, hold := false }
    b.warmStart
  else s

/-- The larger of two signed temperatures. -/
def hotter (a b : Byte) : Byte := if a.toInt ≤ b.toInt then b else a

/-- PEAK_CLR: TPEAK takes the present reading; with a reading that arrives at the same moment, the larger of the
two (19 R455, R463). -/
def State.peakWrite (s : State) (h : Half) (be : Byte) (data : U64) (arriving : Option Byte) : State :=
  if be.getLsbD 7 && data.getLsbD 63 then
    match arriving with
    | none => s.onHalf h fun x => { x with tpeak := x.tj }
    | some r => s.onHalf h fun x => { x with tpeak := hotter x.tj r, tj := r }
  else s

/-- The bytes of a mailbox write. -/
def writeBytes (m : Mem) (a : Nat) (be : Byte) (data : U64) : Mem :=
  (List.range 8).foldl (fun m i => if be.getLsbD i then m.write (a + i) ((data >>> (8 * i)).setWidth 8) else m) m

def State.discardWrite (s : State) : State :=
  { s with mbx := { s.mbx with discarded := satAdd s.mbx.discarded 1 } }

/-- A write to the mailbox window at window offset `o` (11 R242, 17 R415). -/
def State.windowWrite (s : State) (o : Nat) (be : Byte) (data : U64) (parityOk : Bool) : State :=
  let slot := o / 0x1000
  let w := o % 0x1000 / 8 * 8
  if !parityOk then s.discardWrite
  else if w ≥ 0x800 then s
  else if s.sealOwn slot then s.discardWrite
  else if w = 0 ∧ be ≠ 0xFF#8 then s.discardWrite
  else { s with mbx := { s.mbx with mem := writeBytes s.mbx.mem (slotBase slot + w) be data } }

def mbxWindow : Nat := 0x100000

/-- SAFE_LOG_SEL keeps 33 bits (19 R457). -/
def State.logSelWrite (s : State) (be : Byte) (data : U64) : State :=
  { s with safe := { s.safe with logSel := (merge (s.safe.logSel.setWidth 64) data be).setWidth 33 } }

/-- A write to a register through the control port of a half. -/
def State.ctlWrite (s : State) (h : Half) (off : Nat) (be : Byte) (data : U64) (parityOk : Bool) : State :=
  if mbxWindow ≤ off ∧ off < 0x200000 then
    let o := off - mbxWindow
    if (if o / 0x1000 = 255 then s.portUp h else s.ctlUp h) then s.windowWrite o be data parityOk else s
  else if !s.ctlUp h then s
  else if !parityOk then s.discardWrite
  else if off = 0x0108 then
    { s with mbx := { s.mbx with irqEn := (merge (s.mbx.irqEn.setWidth 64) data be).setWidth 16 } }
  else if 0x0120 ≤ off ∧ off < 0x0140 then s.doneClear ((off - 0x0120) / 8) be data 0
  else if off = 0x1020 then s.peakWrite .west be data none
  else if off = 0x1028 then s.peakWrite .east be data none
  else if off = 0x1048 then s.logSelWrite be data
  else s

/-- A write of eight bytes through a half's sideband target (19 R462). -/
def State.sideWrite (s : State) (h : Half) (off : Nat) (data : U64) : State :=
  if !s.sideUp h then s
  else if off = 0x1008 then
    { s with safe := { s.safe with bootPtr := data &&& 0xFFFFFFFFFFFFFFC0#64 } }
  else if off = 0x1020 then s.peakWrite .west 0xFF data none
  else if off = 0x1028 then s.peakWrite .east 0xFF data none
  else if off = 0x1030 then s.takeoverWrite (.sideband h) 0xFF data
  else if off = 0x1048 then s.logSelWrite 0xFF data
  else s

/-- REGISTER_WRITE (19 R446). -/
def execRegisterWrite (path : Path) (off : BitVec 24) (be : Byte) (data : U64) (parityOk : Bool) (s : State) :
    Host.Outcome State Fault Refusal :=
  .next (match path with
    | .control h => s.ctlWrite h off.toNat be data parityOk
    | .sideband h => s.sideWrite h off.toNat data)

/-- MBX_DONE_CLEAR (19 R451). -/
def execMbxDoneClear (h : Half) (k : BitVec 2) (be : Byte) (data setting : U64) (s : State) :
    Host.Outcome State Fault Refusal :=
  .next (if s.ctlUp h then s.doneClear k.toNat be data setting else s)

/-- SAFE_TAKEOVER_CONFIRM (19 R454). -/
def execSafeTakeoverConfirm (path : Path) (be : Byte) (data : U64) (s : State) : Host.Outcome State Fault Refusal :=
  .next (s.takeoverWrite path be data)

/-- PEAK_CLR (19 R455). -/
def execPeakClr (path : Path) (h : Half) (be : Byte) (data : U64) (arriving : Option Byte) (s : State) :
    Host.Outcome State Fault Refusal :=
  .next (if s.pathUp path then s.peakWrite h be data arriving else s)

/-- The 64 bytes of the entry that SAFE_LOG_SEL selects, as a controller holds it; zero when it is not held
(19 R458). -/
def State.selectedEntry (s : State) (h : Half) : List Byte :=
  let n := s.safe.logSel.toNat % 2 ^ 32
  let src := s.safe.logSel.toNat / 2 ^ 32
  match (s.safe.logs.get h).find? fun e => e.number == n && e.src == src with
  | some e => e.bytes
  | none => zeros 64

/-- SAFE_LOG_LATCH: a read of SAFE_LOG_DATA_0 latches the selected entry for that path (19 R458). -/
def execSafeLogLatch (path : Path) (s : State) : Host.Outcome State Fault Refusal :=
  .next (if s.pathUp path then
    match path with
    | .control h => s.onHalf h fun x => { x with latchCtl := s.selectedEntry h }
    | .sideband h => s.onHalf h fun x => { x with latchSb := s.selectedEntry h }
    else s)

/-- SIDEBAND_SET_OFFSET: a private write of two bytes (19 R462). -/
def execSidebandSetOffset (h : Half) (off : U16) (s : State) : Host.Outcome State Fault Refusal :=
  .next (if s.sideUp h then s.onHalf h fun x => { x with sbOffset := off } else s)

/-! ### Reads -/

/-- What an absent half's control port answers (19 R447). -/
def notPresent : U64 := 0x0B59FFFFFFFFFFFF

def idBlock (h : Half) (sideband : Bool) : U64 :=
  BitVec.ofNat 64 (0x0B590101B2030200 + (if sideband then 0 else h.code))

def State.safeStatus (s : State) : U64 :=
  BitVec.ofNat 64 (s.eng.state.code + s.half.w.code.code * 2 ^ 8 + s.half.e.code.code * 2 ^ 12 +
    s.half.w.fw.code * 2 ^ 16 + s.half.e.fw.code * 2 ^ 18 + b2n s.safe.fuseV * 2 ^ 20 + b2n s.safe.warn * 2 ^ 21 +
    s.safe.flush % 4 * 2 ^ 22 + b2n s.safe.target.isSome * 2 ^ 24 + s.safe.events.toNat * 2 ^ 32)

def HalfSt.supplyWord (x : HalfSt) : U64 :=
  BitVec.ofNat 64 (x.vcore.toNat + x.vmem.toNat * 2 ^ 16 + x.railOk.toNat * 2 ^ 32 + x.pwr.toNat * 2 ^ 48)

/-- SAFE_THERM_h; TPEAK reads 0x80, too, while there is no reading (19 R455). -/
def HalfSt.thermWord (x : HalfSt) : U64 :=
  BitVec.ofNat 64 (x.tj.toNat + (if x.tj == 0x80#8 then 0x80 else x.tpeak.toNat) * 2 ^ 8 + x.rate % 4 * 2 ^ 20 + b2n x.hold * 2 ^ 22 + b2n x.trip * 2 ^ 23 +
    x.stackHot.toNat * 2 ^ 32)

/-- The 64-byte keyslot record of `engine.query` (12 R266, 19 R456). -/
def keyslotBytes (k : Keyslot) : List Byte := digestBytes k.digest ++ toLe 1 k.cls ++ toLe 1 k.state.code ++ zeros 14

def State.keyslot (s : State) (n : Nat) : Keyslot := s.safe.fuses.getD n Keyslot.reset

/-- SAFE_LOG: the oldest West entry that a controller holds, and the number after the last one: West's own, or the last one that East
has a copy of (19 R457). -/
def State.logWord (s : State) (h : Half) : U64 :=
  let held := (s.safe.logs.get h).filter fun e => e.src == 0
  let next := if h = .west then s.safe.nextW else (held.getLast?.map (·.number + 1)).getD s.safe.nextW
  BitVec.ofNat 64 (topOut (2 ^ 32) ((held.head?.map (·.number)).getD next) + topOut (2 ^ 32) next * 2 ^ 32)

/-- The `n` counters of a list. -/
def counts (n : Nat) (l : List Nat) : List Nat := (List.range n).map fun i => l.getD i 0

/-- The counters of a set, in the order of `diag.counters` (12 R282). -/
def State.counterSet (s : State) (set : Nat) : List Nat :=
  let w := s.half.w
  let e := s.half.e
  if set = 0 then counts 9 w.conflicts ++ counts 9 e.conflicts
  else if set = 1 then counts 4 w.choices ++ counts 4 e.choices
  else if set = 2 then counts 7 w.faults ++ counts 7 e.faults
  else if set = 3 then [s.mbx.discarded, s.mbx.busy, s.mbx.takeovers]
  else if set = 4 then [Half.west, .east].flatMap fun h => (List.range 16).flatMap fun c => counts 4 (s.chain h c).cnt
  else if set = 5 then counts 3 w.finder ++ counts 3 e.finder
  else if set = 6 then counts 4 w.steps ++ counts 4 e.steps
  else []

/-- What a path's latch of the error log reads: zero once its entry is no longer held (19 R458, R463). -/
def State.latched (s : State) (h : Half) (sideband : Bool) : List Byte :=
  let l := if sideband then (s.hs h).latchSb else (s.hs h).latchCtl
  if (s.safe.logs.get h).any fun e => e.bytes == l then l else zeros 64

/-- What a SAFE_ register or an identification register reads through a path of half `h`. -/
def State.safeRead (s : State) (h : Half) (sideband : Bool) (off : Nat) : U64 :=
  if off = 0x0000 then idBlock h sideband
  else if off = 0x0008 then s.eng.serial
  else if off = 0x1000 then s.safeStatus
  else if off = 0x1008 then s.safe.bootPtr
  else if off = 0x1010 then s.half.w.supplyWord
  else if off = 0x1018 then s.half.e.supplyWord
  else if off = 0x1020 then s.half.w.thermWord
  else if off = 0x1028 then s.half.e.thermWord
  else if off = 0x1030 then BitVec.ofNat 64 (b2n s.safe.waiting * 2 ^ 16)
  else if off = 0x1040 then s.logWord h
  else if off = 0x1048 then s.safe.logSel.setWidth 64
  else if 0x1080 ≤ off ∧ off < 0x10C0 then
    BitVec.ofNat 64 (u64At (s.latched h sideband) ((off - 0x1080) / 8 * 8))
  else if 0x1200 ≤ off ∧ off < 0x1400 then
    BitVec.ofNat 64 (u64At (keyslotBytes (s.keyslot ((off - 0x1200) / 0x40))) ((off - 0x1200) % 0x40 / 8 * 8))
  else 0

/-- A read of an aligned word through a half's control port (19 R445-R461). A read of SAFE_LOG_DATA_0 answers the
entry that SAFE_LOG_LATCH has latched. -/
def State.ctlRead (s : State) (h : Half) (off : Nat) : U64 :=
  if off = 0x0000 ∨ off = 0x0008 then (if s.portUp h then s.safeRead h false off else notPresent)
  else if mbxWindow ≤ off ∧ off < 0x200000 then
    let o := off - mbxWindow
    if (if o / 0x1000 = 255 then s.portUp h else s.ctlUp h) then BitVec.ofNat 64 (leNat (s.mbx.mem.readN (o / 8 * 8) 8))
    else notPresent
  else if !s.ctlUp h then notPresent
  else if off = 0x0100 then BitVec.ofNat 64 mbxWindow
  else if off = 0x0108 then s.mbx.irqEn.setWidth 64
  else if off = 0x0110 then pendWord s.mbx.done
  else if 0x0120 ≤ off ∧ off < 0x0140 then doneWord s.mbx.done ((off - 0x0120) / 8)
  else if 0x2000 ≤ off ∧ off < 0x3C00 then
    BitVec.ofNat 64 ((s.counterSet ((off - 0x2000) / 0x400)).getD ((off - 0x2000) % 0x400 / 8) 0)
  else s.safeRead h false off

/-- The I3C static address of a half's sideband target: 0b101_0AAH (17 R425). -/
def State.i3cAddress (s : State) (h : Half) : BitVec 7 := 0b1010#4 ++ (s.hs h).strapAddr ++ BitVec.ofNat 1 h.code

/-- A read of an aligned word through a half's sideband target; none where the target gives no answer. -/
def State.sideRead (s : State) (h : Half) (off : Nat) : Option U64 :=
  if s.sideUp h then some (s.safeRead h true off) else none

end Sys2Proof.Machine
end

