-- ==== Sys2Proof/Machine/Upkeep.lean ====
section
/-! DEFINITION. Time, temperature, refresh, scrub, suspects, stacks (17 R424, R432; 06 R134-R136; 09 R202-R206; 13 R302,
R303, R305; 17 R420). -/
namespace Sys2Proof.Machine

/-- TIME_FRAME: a good frame sets the time; a step of more than 1 ms is logged (17 R424). -/
def execTimeFrame (h : Half) (time : U64) (crc : Byte) (s : State) : Host.Outcome State Fault Refusal :=
  .next (if !(s.hs h).safeUp || crc8Bits time.toNat ≠ crc.toNat then s
  else
    let step := time.toInt - s.time.toInt
    let a : State := { s with time := time, timeLost := false }
    if 1000000 < step.natAbs then a.log h.code 0 0x000F (step % 2 ^ 64).toNat 0 [] else a)

/-- TIME_INPUT_TIMEOUT: the engine keeps extrapolating, and logs it (17 R424). -/
def execTimeInputTimeout (h : Half) (s : State) : Host.Outcome State Fault Refusal :=
  .next (({ s with timeLost := true } : State).log h.code 0 0x000F 0 0 [])

/-! ### Temperature -/

/-- Finder rate by reading: 0 full, 1 half, 2 quarter, 3 stopped (06 R135). -/
def rateOf (t : Int) : Nat := if t < 95 then 0 else if t < 105 then 1 else if t < 115 then 2 else 3

/-- A faster rate returns 3 degrees below the boundary (06 R135). -/
def nextRate (cur : Nat) (t : Int) : Nat := max (rateOf t) (min cur (rateOf (t + 2)))

/-- The band of 17 R432 a reading lies in. -/
def band (t : Int) : Nat := ([0, 85, 105, 115, 120, 125].filter fun b => decide (b ≤ t)).length

/-- Readings 100 µs apart that make up 1 ms (17 R432, 19 R455). -/
def hotReadings : Nat := 10

/-- The junction temperature that a reading gives; none while the core rail is down (19 R455). -/
def junctionOf (r : Reading) : Byte := if r.railOk.getLsbD rCore then r.tj else 0x80

/-- Readings of 120 degrees or more without a break (17 R432). -/
def hotCount (n : Nat) (tj : Byte) : Nat := if tj == 0x80#8 then 0 else if 120 ≤ tj.toInt then n + 1 else 0

/-- The finder rate after a reading (06 R135); the last one stands while there is no reading. DESIGN CHOICE (log 107), unsafe. -/
def rateAfter (cur : Nat) (tj : Byte) : Nat := if tj == 0x80#8 then cur else nextRate cur tj.toInt

/-- A half after a reading: SAFE_SUPPLY, SAFE_THERM, finder rate, trip, and the end of a thermal hold below 100 degrees
(19 R455, 06 R135, 17 R432). -/
def HalfSt.measured (x : HalfSt) (r : Reading) : HalfSt :=
  let tj := (junctionOf r)
  let rate := rateAfter x.rate tj
  { x with tj := tj, tpeak := hotter x.tpeak tj, stackHot := r.stackHot
           railOk := r.railOk, vcore := r.vcore, vmem := r.vmem, pwr := r.pwr, rate := rate, hot := hotCount x.hot tj
           trip := x.trip || (tj != 0x80#8 && decide (125 ≤ tj.toInt))
           hold := x.hold && !(tj != 0x80#8 && decide (tj.toInt < 100))
           finder := if rate ≠ x.rate ∧ 1 ≤ rate then bump x.finder (rate - 1) 1 else x.finder }

/-- A reading has changed the finder rate or the band (06 R135, 17 R432). -/
def HalfSt.crossed (x y : HalfSt) : Bool :=
  y.tj != 0x80#8 && (decide (y.rate ≠ x.rate) || (x.tj != 0x80#8 && decide (band x.tj.toInt ≠ band y.tj.toInt)))

/-- VDD_FUSE is present on either half (17 R430). -/
def State.noteFuseRail (s : State) : State := { s with safe := { s.safe with fuseV := s.half.w.rail rFuse || s.half.e.rail rFuse } }

/-- Thermal hold: the half is lost, or both are held and the engine halts (17 R432). -/
def State.holdHot (s : State) (h : Half) : State :=
  let d := s.onHalf h fun x => { x with hold := true }
  if (d.hs h.other).hold then d.commonCause
  else if (d.hs h).serves then d.loseHalf h hlThermal .inReset else d

/-- THERMAL_READING (19 R455, 06 R135, 17 R432). -/
def State.thermal (s : State) (h : Half) (r : Reading) : State :=
  let x := s.hs h
  let b := (s.onHalf h fun x => x.measured r).noteFuseRail
  let c := if x.crossed (b.hs h) then b.log h.code 0 0x000D (junctionOf r).toNat 0 [] else b
  let d := if hotReadings ≤ (b.hs h).hot ∧ !x.hold then c.holdHot h else c
  if x.rate = 3 ∧ (b.hs h).rate ≠ 3 then d.retryOpenings.stepEnded else d

def execThermalReading (h : Half) (r : Reading) (s : State) : Host.Outcome State Fault Refusal :=
  .next (if (s.hs h).safeUp then s.thermal h r else s)

/-- FINDER_STOP_TIMEOUT: the half is lost, unless both finders are stopped (06 R136). -/
def execFinderStopTimeout (h : Half) (s : State) : Host.Outcome State Fault Refusal :=
  .next (if (s.hs h).rate == 3 && (s.hs h.other).rate != 3 then s.loseHalf h hlFinder .down else s)

/-! ### Refresh and scrub -/

/-- REFRESH (09 R202). A refresh changes no word. -/
def execRefresh (h : Half) (errs : List ColErr) (s : State) : Host.Outcome State Fault Refusal :=
  .next (errs.foldl (fun t e => t.columnError h e) s).stepEnded

/-- A region with a bad byte is loaded again, and the steps that searched it are executed again (06 R134, R147). -/
def State.scrubbed (s : State) (h : Half) (b : BadRegion) : State :=
  if (s.hs h).regions.any fun r => r.has (.image b.digest) then
    (((s.countFault h 0 1).reloadRegion h (.image b.digest) b.second).refetched h).formAgain h b.digest
  else s

/-- FINDER_SCRUB (06 R134, R147). -/
def execFinderScrub (h : Half) (bad : List BadRegion) (s : State) : Host.Outcome State Fault Refusal :=
  .next (bad.foldl (fun t b => t.scrubbed h b) s).stepEnded

/-- CLEAR_DONE: the zero engine's first clear is complete (09 R208, R209). Openings that waited for finder banks go on
(09 R191). -/
def execClearDone (h : Half) (s : State) : Host.Outcome State Fault Refusal := .next (s.clearDone h).retryOpenings.stepEnded

/-- SUSPECT_EXPIRY: 7 days without a charge (13 R302). -/
def execSuspectExpiry (h : Half) (pos : BitVec 7) (s : State) : Host.Outcome State Fault Refusal :=
  .next (s.onHalf h fun x =>
    { x with suspects := x.suspects.filter fun y => !(y.pos == pos.toNat && decide (y.time + 7 * dayNs ≤ s.time.toNat)) })

/-! ### Stacks -/

/-- STACK_FAULT (13 R305). -/
def execStackFault (h : Half) (stack : BitVec 4) (s : State) : Host.Outcome State Fault Refusal :=
  .next (s.retireStack h stack.toNat)

/-- STACK_REBUILT (13 R305). -/
def execStackRebuilt (h : Half) (stack : BitVec 4) (s : State) : Host.Outcome State Fault Refusal :=
  .next (if (s.hs h).rebuild.any fun p => p.1 == stack.toNat then
    (s.onHalf h fun x => { x with rebuild := x.rebuild.filter fun p => p.1 != stack.toNat }).log h.code 1 0x0007 stack.toNat 0 []
  else s)

/-- A stack that has passed its test is clear: it returns to service (18 R441). -/
def State.restoreCleared (s : State) (h : Half) : State :=
  match s.jobOn cStackRestore h with
  | some j =>
    if j.stage = 1 then
      let a := s.onHalf h fun x => { x with stackMask := x.stackMask ||| (1#16 <<< u8At j.body 1) }
      a.complete j.slot .engine []
    else s
  | none => s

/-- STACK_CLEAR_DONE: the freed regions are clear (17 R420). -/
def execStackClearDone (h : Half) (s : State) : Host.Outcome State Fault Refusal :=
  .next ((s.onHalf h fun x => { x with dirty := 0 }).restoreCleared h)

end Sys2Proof.Machine
end

