-- ==== Sys2Proof/Machine/Links.lean ====
section
/-! DEFINITION. Stadia lanes and frames: sequence numbers, replay, credits, training and drop-out (16 R384-R395), and the
entries that frames bring (16 R396-R403). -/
namespace Sys2Proof.Machine

/-! ### Sequenced frames (16 R391, R392) -/

/-- What the link layer makes of a sequenced frame. -/
inductive Verdict16 where
  | bad | duplicate | accepted
  deriving DecidableEq, Repr, Inhabited

/-- A frame's verdict: its CRC, then SEQ against EXPECTED (16 R392). -/
def Chain.judge (x : Chain) (typ : Nat) (f : Frame) : Verdict16 :=
  if !frameCrcOk typ f then .bad
  else if f.seq = x.expected then .accepted
  else if (x.expected - f.seq).toNat ≤ 2 ^ 31 then .duplicate
  else .bad

/-- Counters of a chain: accepted frames 0, replays 1, CRC failures 2, lane drop-outs 3 (12 R282, counter set 4). -/
def Chain.count (x : Chain) (i : Nat) : Chain := { x with cnt := bump x.cnt i 1 }

/-- A frame that is neither expected nor a duplicate: one NAK, then silence until SEQ is right (16 R392). -/
def Chain.discard (x : Chain) (crcBad : Bool) : Chain :=
  let y := if crcBad then x.count 2 else x
  if y.nakked then y else { y with nakked := true, ctl := y.ctl ++ [ackOut true (y.expected - 1)] }

/-- A duplicate is answered with an ACK. -/
def Chain.ackAgain (x : Chain) : Chain := { x with ctl := x.ctl ++ [ackOut false (x.expected - 1)] }

/-- An accepted frame: EXPECTED advances, an ACK names it, and its cost is received (16 R392, R394). -/
def Chain.accept (x : Chain) (typ : Nat) (f : Frame) : Chain :=
  let k := creditClass typ
  { x.count 0 with
    expected := x.expected + 1, nakked := false, ctl := x.ctl ++ [ackOut false x.expected]
    got := tripSet x.got k ((trip x.got k + fCost f) % 2 ^ 32) }

/-- A type that this kind of chain brings to the engine (16 R389). -/
def Chain.carries (x : Chain) (typ : Nat) : Bool :=
  if x.kind == .peer then typ == ftPrt else typ == ftHid || typ == ftLgt || typ == ftDrf

def entrySize (typ : Nat) : List Byte → Option Nat := if typ = ftPrt then prtSize else if typ = ftDrf then drfSize else stepSize

/-- The entries that a frame completes on a chain, and what it leaves open; none when it does not parse, and a DRF frame
is never split (16 R389-R391). -/
def Chain.entries (x : Chain) (typ : Nat) (f : Frame) : Option (List (List Byte) × Option (Nat × List Byte)) :=
  if !x.carries typ || (typ == ftDrf && (fSplit f || fCont f)) then none else frameEntries (entrySize typ) typ x.part f

/-- A frame that is accepted and holds nothing that can be taken: discarded whole and recorded (16 R391). -/
def State.badFrame (s : State) (h : Half) (c typ : Nat) : State :=
  (s.onChain h c fun x => { x with part := none }).log h.code 0 0x000A c typ []

/-- A sequenced frame arrives; `use` says what its whole entries do. -/
def State.takeFrame (s : State) (h : Half) (c typ : Nat) (f : Frame) (use : List Byte → State → State) : State :=
  let x := s.chain h c
  if !x.up then s
  else
    match x.judge typ f with
    | .bad => s.onChain h c fun y => y.discard (!frameCrcOk typ f)
    | .duplicate => s.onChain h c Chain.ackAgain
    | .accepted =>
      let a := s.onChain h c fun y => y.accept typ f
      (match x.entries typ f with
       | none => a.badFrame h c typ
       | some es => es.1.foldl (fun t b => use b t) (a.onChain h c fun y => { y with part := es.2 })).grantChain h c

/-- HID (01 R23, 16 R396). -/
def execHid (h : Half) (chain : BitVec 4) (f : Frame) (s : State) : Host.Outcome State Fault Refusal :=
  .next (s.takeFrame h chain.toNat ftHid f fun b t => t.takeEntry ⟨h, chain.toNat, true, b⟩)

/-- LGT (01 R23, 16 R396). -/
def execLgt (h : Half) (chain : BitVec 4) (f : Frame) (s : State) : Host.Outcome State Fault Refusal :=
  .next (s.takeFrame h chain.toNat ftLgt f fun b t => t.takeEntry ⟨h, chain.toNat, false, b⟩)

/-- DRF (04 R93, 16 R398). -/
def execDrf (h : Half) (chain : BitVec 4) (f : Frame) (s : State) : Host.Outcome State Fault Refusal :=
  .next (s.takeFrame h chain.toNat ftDrf f fun b t => t.prepare h chain.toNat b)

/-- A PRT frame whose first whole entry is of a row's kind. A frame that completes no entry, or one of a reserved kind,
belongs to every row. -/
def State.prtRow (s : State) (kind : Nat) (h : Half) (c : Nat) (f : Frame) : State :=
  let own := match (s.chain h c).entries ftPrt f with
    | some (b :: _, _) => pKind b == kind || pKind b == 0 || decide (5 < pKind b)
    | _ => true
  if own then (s.takeFrame h c ftPrt f fun b t => t.takePeer c b).stepEnded else s

/-- PK_SUMMARY (03 R72-R74). -/
def execPkSummary (h : Half) (chain : BitVec 4) (f : Frame) (s : State) : Host.Outcome State Fault Refusal :=
  .next (s.prtRow pkSummary h chain.toNat f)

/-- PK_ZMAX (04 R86, round 1). -/
def execPkZmax (h : Half) (chain : BitVec 4) (f : Frame) (s : State) : Host.Outcome State Fault Refusal :=
  .next (s.prtRow pkZmax h chain.toNat f)

/-- PK_ZRET (04 R86, round 1). -/
def execPkZret (h : Half) (chain : BitVec 4) (f : Frame) (s : State) : Host.Outcome State Fault Refusal :=
  .next (s.prtRow pkZret h chain.toNat f)

/-- PK_CANDS (04 R86, R87, round 2). -/
def execPkCands (h : Half) (chain : BitVec 4) (f : Frame) (s : State) : Host.Outcome State Fault Refusal :=
  .next (s.prtRow pkCands h chain.toNat f)

/-- PK_RELEASE (03 R68). -/
def execPkRelease (h : Half) (chain : BitVec 4) (f : Frame) (s : State) : Host.Outcome State Fault Refusal :=
  .next (s.prtRow pkRelease h chain.toNat f)

/-- FRAME_DISCARDED: a frame that fails its CRC, comes out of order or again, or carries a type that is reserved or not
sent to the engine on this chain (16 R391, R392). Every type but ACK and CRD has a sequence number (16 R389). -/
def execFrameDiscarded (h : Half) (chain : BitVec 4) (ftype : Byte) (f : Frame) (s : State) :
    Host.Outcome State Fault Refusal :=
  let c := chain.toNat
  let t := ftype.toNat
  let x := s.chain h c
  .next (if t = ftAck ∨ t = ftCrd then
      if x.up && !frameCrcOk t f then s.onChain h c fun y => y.discard true else s
    else if x.judge t f = .accepted ∧ (x.entries t f).isSome then s
    else s.takeFrame h c t f fun _ u => u)

/-! ### Acknowledgements and credits (16 R393, R394) -/

/-- A frame that an ACK covers. -/
def covered16 (acked seq : U32) : Bool := decide ((acked - seq).toNat < 2 ^ 31)

/-- The frames that an ACK covers leave the replay buffer. -/
def Chain.acknowledge (x : Chain) (acked : U32) : Chain :=
  { x with acked := if covered16 acked x.acked then acked else x.acked
           replay := x.replay.filter fun r => !covered16 acked r.seq }

/-- Every frame after ACKED is sent again; one replay is counted. -/
def Chain.resend (x : Chain) : Chain :=
  if x.replay.isEmpty then x else { x.count 1 with ctl := x.ctl ++ x.replay.map fun r => r.out }

/-- An ACK or CRD frame that is whole and has no payload. -/
def ctlFrameOk (typ : Nat) (f : Frame) : Bool := frameCrcOk typ f && f.flits == 0

/-- ACK (16 R393). -/
def execAck (h : Half) (chain : BitVec 4) (f : Frame) (s : State) : Host.Outcome State Fault Refusal :=
  .next (if (s.chain h chain.toNat).up && ctlFrameOk ftAck f && !fNak f && !fHello f then
    s.onChain h chain.toNat fun x => (x.acknowledge (fAcked f)).flow else s)

/-- NAK: an ACK with NAK set (16 R393). -/
def execNak (h : Half) (chain : BitVec 4) (f : Frame) (s : State) : Host.Outcome State Fault Refusal :=
  .next (if (s.chain h chain.toNat).up && ctlFrameOk ftAck f && fNak f && !fHello f then
    s.onChain h chain.toNat fun x => (x.acknowledge (fAcked f)).resend.flow else s)

/-- A limit rises; one that does not lie ahead is old (16 R394). -/
def Chain.raise (x : Chain) (k limit : Nat) : Chain :=
  if (limit + 2 ^ 32 - trip x.limit k) % 2 ^ 32 < 2 ^ 31 then { x with limit := tripSet x.limit k limit } else x

/-- CRD (16 R394). -/
def execCrd (h : Half) (chain : BitVec 4) (f : Frame) (s : State) : Host.Outcome State Fault Refusal :=
  .next (if (s.chain h chain.toNat).up && ctlFrameOk ftCrd f && decide (fCrdClass f ≤ 2) then
    s.onChain h chain.toNat fun x => (x.raise (fCrdClass f) (fCrdLimit f)).flow else s)

/-- REPLAY_TIMEOUT: 2 µs without an ACK (16 R393). -/
def execReplayTimeout (h : Half) (chain : BitVec 4) (s : State) : Host.Outcome State Fault Refusal :=
  .next (if (s.chain h chain.toNat).up && !(s.chain h chain.toNat).paused then s.onChain h chain.toNat Chain.resend else s)

/-- CHAIN_REPLAY_TIMEOUT: replay has not advanced for 10 ms: the chain is lost (13 R307, 16 R393). -/
def execChainReplayTimeout (h : Half) (chain : BitVec 4) (s : State) : Host.Outcome State Fault Refusal :=
  .next (if (s.chain h chain.toNat).up && !(s.chain h chain.toNat).replay.isEmpty then s.loseChain h chain.toNat else s)

/-! ### Lanes (16 R384-R387) -/

/-- LANE_DROP_OUT: the chain goes on at the lower width with a replay, or is lost with its last lane (16 R387,
13 R307). -/
def execLaneDropOut (h : Half) (lane : BitVec 4) (s : State) : Host.Outcome State Fault Refusal :=
  let ls := s.lanes.get h
  let l := ls.getD lane.toNat Lane.reset
  .next (match l.member with
    | none => s
    | some c =>
      let rest := ls.set lane.toNat { l with mode := .dropped, member := none }
      let a : State := ({ s with lanes := s.lanes.set h rest } : State).onChain h c fun x => x.count 3
      if rest.any fun m => m.member == some c then a.onChain h c Chain.resend else a.loseChain h c)

/-- The partner leads to peer engines (16 R385). -/
def Lane.toPeers (l : Lane) : Bool := l.kind == 2 || (l.kind == 3 && l.chain == 0xFF)

/-- The partner as a chain knows it. -/
def Lane.partner (l : Lane) : Nat := l.kind * 2 ^ 48 + l.id

def Lane.trained (l : Lane) : Bool := l.mode == .up

/-- The kind of chain that a lane's partner makes. -/
def Lane.chainKind (l : Lane) : ChainKind := if l.toPeers then .peer else if l.kind = 1 then .accel else .switch

/-- The step number that each trained lane claims goes to the lowest lane's partner (16 R385). -/
def stepOwner (ls : List Lane) (c : Nat) : Option Lane := ls.find? fun l => l.trained && !l.toPeers && l.chain == c

/-- Partners of peer chains, in ascending order of their lowest lane. -/
def peerPartners (ls : List Lane) : List Nat := ((ls.filter fun l => l.trained && l.toPeers).map Lane.partner).eraseDups

/-- Numbers that peer chains may take: from 15 downward (16 R385). -/
def freeNumbers (used : Nat → Bool) : List Nat := ((List.range 16).reverse).filter fun c => !used c

/-- The chain that a lane bonds into when all lanes of a half train together. -/
def memberOf (ls : List Lane) (l : Lane) : Option Nat :=
  if !l.trained then none
  else if l.toPeers then (freeNumbers fun c => (stepOwner ls c).isSome)[(peerPartners ls).idxOf l.partner]?
  else
    match stepOwner ls l.chain with
    | some o => if o.partner = l.partner then some l.chain else none
    | none => none

/-- A chain that has just been trained, with its first grants (16 R392, R395). -/
def Chain.fresh (old : Chain) (l : Lane) : Chain :=
  let k := if l.toPeers then 1 else 0
  ({ Chain.reset with kind := l.chainKind, partner := l.partner, cnt := old.cnt } : Chain).grant k

/-- Frames that a quiesced chain has not brought across are sent after it trains again (12 R286). -/
def Chain.retrained (old : Chain) (l : Lane) : Chain :=
  ({ old.fresh l with wait := old.replay.map (fun r => r.out) ++ old.wait } : Chain).flow

/-- A quiesced chain stays at electrical idle until `service.chain_retrain` names it (12 R465). -/
def State.staysIdle (s : State) (h : Half) (c : Nat) : Bool :=
  (s.chain h c).quiet && !(s.mbx.jobs.any fun j => j.code == cRetrain && j.target == h && u8At j.body 1 == c)

/-- All lanes of a half train together: every chain is made anew. -/
def State.bondAll (s : State) (h : Half) : State :=
  let ls := s.lanes.get h
  let ls := ls.map fun l => { l with member := (memberOf ls l).filter fun c => !s.staysIdle h c }
  let cs := (s.chains.get h).zipIdx.map fun x =>
    if s.staysIdle h x.2 then x.1
    else match ls.find? fun l => l.member == some x.2 with
      | some l => x.1.fresh l
      | none => x.1.idle
  { s with lanes := s.lanes.set h ls, chains := s.chains.set h cs }

/-- The chain of a half that a later lane joins or makes; a number that another partner holds stays with it. -/
def State.joins (s : State) (h : Half) (l : Lane) : Option Nat :=
  let held := (List.range 16).find? fun c => (s.chain h c).kind != .none && (s.chain h c).partner == l.partner &&
    (l.toPeers || c == l.chain)
  match held with
  | some c => some c
  | none =>
    if l.toPeers then (freeNumbers fun c => (s.chain h c).kind != .none).head?
    else if (s.chain h l.chain).kind = .none then some l.chain else none

/-- A lane joins its chain: a new or quiesced chain is trained afresh; one in service changes its width and replays
(16 R387, 18 R442). -/
def State.bondOne (s : State) (h : Half) (lane : Nat) (l : Lane) : State :=
  match s.joins h l with
  | none => { s with lanes := s.lanes.modify h fun ls => ls.set lane { l with member := none } }
  | some c =>
    let a : State := { s with lanes := s.lanes.modify h fun ls => ls.set lane { l with member := some c } }
    a.onChain h c fun x =>
      if x.kind = .none then x.fresh l else if x.quiet then x.retrained l else x.resend

/-- The half's lanes train for the first time in its start. -/
def State.training (s : State) (h : Half) : Bool :=
  (s.eng.state == .survey && s.eng.phase == .chains && (s.hs h).code == .up) || (s.hs h).phase == .chains

/-- The half's lanes may train (15 R360, 16 R384). -/
def State.mayTrain (s : State) (h : Half) : Bool :=
  s.training h ||
    ((s.hs h).serves && !s.safe.warn && (s.serving || s.eng.state == .ready || (s.eng.state == .survey && s.eng.phase == .bootSet)))

/-- The header of the HELLO that a lane in training sends, all that it holds before its trailer: KIND 2, an engine; neither CHAIN, which its partner ignores, nor the derivation of
its ID is given (16 R384, R389; log 121). -/
def State.helloSent (s : State) (h : Half) (lane : Nat) : Option (List Byte) :=
  if s.mayTrain h && ((s.lanes.get h).getD lane Lane.reset).mode != .up then
    some (frameBytes ftAck ⟨8, 0, 0, Config.deviceId s.eng.serial ++ Config.helloChain ++ 2#8, [], 0⟩)
  else none

/-- A HELLO's KIND and CHAIN name a partner (16 R384, R389). -/
def helloOk (f : Frame) : Bool :=
  ctlFrameOk ftAck f && fHello f &&
  ((fHelloKind f == 1 && decide (fHelloChain f ≤ 15)) || fHelloKind f == 2 ||
    (fHelloKind f == 3 && (decide (fHelloChain f ≤ 15) || fHelloChain f == 0xFF)))

/-- The lanes whose claim on a number has just failed: the lane that trains, or lanes that it takes the number from, one for each
partner (16 R385). -/
def losers (before after : List Lane) (lane : Nat) : List Lane :=
  let out := after.zipIdx.filter fun x =>
    x.1.trained && x.1.member.isNone && !x.1.toPeers && (x.2 == lane || ((before.getD x.2 Lane.reset).member).isSome)
  ((out.map fun x => (x.1.partner, x.1.chain)).eraseDups).filterMap fun k =>
    (out.find? fun x => x.1.partner == k.1 && x.1.chain == k.2).map (·.1)

/-- HELLO: a lane trains and bonds (16 R384, R385). One that has dropped out waits for `service.chain_retrain` (16 R387), but
for a lane towards a peer whose chain is not in service (15 R360). -/
def State.takeHello (s : State) (h : Half) (lane : Nat) (f : Frame) : State :=
  let old := (s.lanes.get h).getD lane Lane.reset
  let new : Lane := { mode := .up, kind := fHelloKind f, chain := if fHelloKind f = 2 then 0 else fHelloChain f
                      id := fHelloId f, member := none }
  let same := old.kind == new.kind && old.chain == new.chain && old.id == new.id
  let held := old.mode == .dropped &&
    (!old.toPeers || (s.chains.get h).any fun x => x.kind != .none && x.partner == old.partner)
  let goal := if s.training h then memberOf ((s.lanes.get h).set lane new) new else s.joins h new
  if !helloOk f || !s.mayTrain h || held || (old.mode == .up && same) || (goal.map fun c => s.staysIdle h c).getD false then s
  else
    let a : State := { s with lanes := s.lanes.modify h fun ls => ls.set lane { new with member := none } }
    let b := match old.member with
      | some c =>
        if s.training h || (a.lanes.get h).any (fun m => m.member == some c) then a else a.loseChain h c
      | none => a
    let d := if s.training h then b.bondAll h else b.bondOne h lane new
    (losers (a.lanes.get h) (d.lanes.get h) lane).foldl (fun t l => t.log h.code 0 0x0009 l.chain l.id []) d

def execHello (h : Half) (lane : BitVec 4) (f : Frame) (s : State) : Host.Outcome State Fault Refusal :=
  .next (s.takeHello h lane.toNat f)

end Sys2Proof.Machine
end

