-- ==== Sys2Proof/Machine/Stream.lean ====
section
/-! DEFINITION. Prompt intake and the stream ports (01 R18, R19; 07 R162-R169; 14 R338, R341; 17 R410-R413). -/
namespace Sys2Proof.Machine

/-- The half's stream port takes beats (15 R376, 17 R413). -/
def State.streamUp (s : State) (h : Half) : Bool := s.serving && (s.hs h).serves && !s.safe.warn

/-- In READY the stream port takes beats, and every record is refused (15 R376). -/
def State.streamRefuses (s : State) (h : Half) : Bool := s.eng.state == .ready && (s.hs h).serves && !s.safe.warn

/-- OUT_REFUSE of a record whose handle has no sequence of outbound records, or none any more after its OUT_END (07 R164, R183):
SEQ is 0. DESIGN CHOICE (log 60), unsafe. -/
def State.strayRefusal (s : State) (h : Half) (handle seq expected : Nat) : State :=
  let rec_ := streamRecord handle 0x82 0 stState 0 (toLe 4 seq ++ toLe 4 expected)
  { s with str := s.str.modify h fun x => ({ x with stray := x.stray ++ [rec_] } : StrSt).strays }

/-- OUT_REFUSE on the route's stream (07 R164). -/
def State.refuseRecord (s : State) (r : Route) (seq status : Nat) : State :=
  if r.state = .ended then s.strayRefusal r.stream r.handle seq r.inSeq
  else s.emit r [⟨0x82, 0, status, toLe 4 seq ++ toLe 4 r.inSeq⟩]

/-- The payload of an inbound record. -/
def recPayload (x : InRec) : List Byte := fitTo (min x.len.toNat 65536) x.payload

def intakeText (l : List Intake) : Nat := (l.map fun i => match i with
  | .text _ b => b.length
  | .toks _ => 0).sum

def intakeToks (l : List Intake) : Nat := (l.map fun i => match i with
  | .text _ _ => 0
  | .toks t => t.length).sum

def kText : Nat := 1
def kTokens : Nat := 2
def kEnd : Nat := 3

/-- The form of an inbound record (row 6 of 07 R164). -/
def recFormOk (kind : Nat) (x : InRec) : Bool :=
  x.status == 0 && decide (x.len.toNat ≤ 65536) &&
  (if kind = kText then decide (x.flags.toNat ≤ 1)
   else if kind = kTokens then x.flags == 0 && x.len.toNat % 4 == 0
   else if kind = kEnd then x.flags == 0 && x.len == 0
   else false)

/-- The rows of the refusal table from the route's state on, in its order (07 R164). -/
def recRefusal (h : Half) (kind vocab : Nat) (x : InRec) (r : Route) (b : Binding) : Option Nat :=
  let p := recPayload x
  if !r.intakeFlag || r.state != .open || r.intakeEnded || r.adm.isSome then some stState
  else if stoppedBinding b && b.fence != .phase1 then some stStopped
  else if r.saving then some stState
  else if r.stream != h then some stArg
  else if x.seq.toNat ≠ r.inSeq then some stArg
  else if !recFormOk kind x then some stArg
  else if kind = kTokens && (words32 p).any fun t => decide (vocab ≤ t) then some stArg
  else if kind = kText && decide (2 ^ 26 < intakeText r.intake + p.length) then some stArg
  else if kind = kTokens && decide (2 ^ 20 < intakeToks r.intake + p.length / 4) then some stArg
  else none

/-- What a record adds to the intake. -/
def recItems (kind : Nat) (x : InRec) : List Intake :=
  if kind = kText then [.text (x.flags.getLsbD 0) (recPayload x)]
  else if kind = kTokens then [.toks (words32 (recPayload x))]
  else []

/-- The tokens that intake gives agree with the released ones (07 R168). -/
def intakeAgrees (k : Tki) (ended : Bool) (items : List Intake) (n : Nat) (digest : U64) : Bool :=
  n == 0 ||
    (let ts := k.prompt ended items
     if ts.length < n then !ended else crc64 (u32s (ts.take n)) == digest)

/-- JR_INTAKE (14 R338, R341). -/
def State.journalIntake (s : State) (r : Route) (kind : Nat) (x : InRec) : State :=
  let p := recPayload x
  s.journal r.stream 0x12 r.handle
    (toLe 4 x.handle.toNat ++ toLe 1 kind ++ toLe 1 x.flags.toNat ++ toLe 2 x.status.toNat ++ toLe 4 x.len.toNat ++
      toLe 4 x.seq.toNat ++ (if r.capture then p else toLe 8 (crc64 p).toNat))

/-- Tokens of one prompt TOK entry, and of one OUT_TOKENS record (16 R400, 07 R162). -/
def promptEntry : Nat := 256
def promptRecord : Nat := 16384

/-- Pieces of at most `n` tokens with their positions; no token at all makes one empty piece when `last`. -/
def promptPieces (n : Nat) (last : Bool) : Nat → Nat → List Nat → List (Nat × List Nat × Bool)
  | 0, _, _ => []
  | fuel + 1, first, ts =>
    if ts.isEmpty then (if last then [(first, [], true)] else [])
    else
      let rest := ts.drop n
      (first, ts.take n, last && rest.isEmpty) ::
        (if rest.isEmpty then [] else promptPieces n last fuel (first + n) rest)

def promptTok (handle : Nat) (x : Nat × List Nat × Bool) : TokEntry :=
  { handle := handle, step := x.1, status := stOk, toks := x.2.1, ranges := x.2.1.map fun _ => false, nForced := 0
    accepted := 0, ending := .none, prompt := true, last := x.2.2, cut := false, forcedOnly := false, refused := false
    consumed := 0 }

/-- Release prompt tokens: journal, penalty history, and the owner's delivery (01 R18; 02 R48; 03 R68; 07 R165, R168; 14 R338;
log 46). -/
def State.releasePrompt (s : State) (b : Binding) (r : Route) (ts : List Nat) (last : Bool) : State :=
  let p := profileOf b.profile
  let pen := if p.penPrompt then ts.foldl (fun h t => h.add p.penWindow t) r.rel.pos.pen else r.rel.pos.pen
  let q : Route :=
    { r with promptN := r.promptN + ts.length, promptDigest := crc64From r.promptDigest (u32s ts), tries := 0, tried := []
             rel := { r.rel with pos := { r.rel.pos with pen := pen } } }
  let a := s.journal r.stream 0x20 r.handle
    (toLe 4 r.salt ++ toLe 4 r.promptN ++ toLe 4 ts.length ++ toLe 4 (b2n last) ++ u32s ts)
  if !owns b r then a.setRoute (a.twin q)
  else if r.deliver then
    let es := promptPieces promptEntry last (ts.length + 1) r.promptN ts
    let outs := es.map fun x => (promptTok r.handle x).bytes
    (es.foldl (fun t x => t.sendTok r.half (r.chains.get r.half) (promptTok r.handle x)) a).setRoute
      (a.twin { q with lastToks := outs, lastRecs := [] })
  else
    a.output (a.twin q) none ((promptPieces promptRecord last (ts.length + 1) r.promptN ts).map fun x =>
      ⟨0x81, b2n x.2.2, stOk, u32s x.2.1⟩) false

/-- The last prompt tokens are released, and the opening release follows (07 R165, R166; 01 R19). -/
def State.promptEnds (s : State) (b : Binding) (r : Route) (ts : List Nat) : State :=
  ((s.releasePrompt b { r with intakeEnded := true, intake := [] } ts true).opening r.handle).afterRelease r.handle

/-- The intake so far gives no token beyond the released ones. -/
def promptDone (k : Tki) (r : Route) : Bool := decide ((k.prompt true r.intake).length ≤ r.promptN)

/-- Intake begins again: the expected SEQ is 0 (07 R168). -/
def Route.restarted (r : Route) : Route := { r with inSeq := 0, intake := [], intakeEnded := false }

/-- A record that comes in READY, where no route is OPEN (15 R376). ST_STATE also for a route that a warm restart has kept and not
resumed yet. DEDUCED (log 115), safe. -/
def State.refuseEarly (s : State) (h : Half) (x : InRec) : State :=
  match s.route x.handle.toNat with
  | none => s.strayRefusal h x.handle.toNat x.seq.toNat 0
  | some r => s.refuseRecord r x.seq.toNat stState

/-- A record that the table admits: it joins the intake, or its difference from the released tokens restarts it
(07 R164, R168). What IN_END closes is released once its checks have passed (07 R169). -/
def State.takeRecord (s : State) (h : Half) (kind : Nat) (x : InRec) : State :=
  if !s.streamUp h then (if s.streamRefuses h then s.refuseEarly h x else s)
  else
    match s.route x.handle.toNat with
    | none => s.strayRefusal h x.handle.toNat x.seq.toNat 0
    | some r =>
      match s.binding r.binding with
      | none => s.refuseRecord r x.seq.toNat stState
      | some b =>
        let k := tkiOf (s.imageOn r.half b.set.tki)
        match recRefusal h kind k.vocab x r b with
        | some st => s.refuseRecord r x.seq.toNat st
        | none =>
          let ended := kind == kEnd
          let waits := s.tokeniserWaits b r || s.imageGone r.half b.set.tki
          let q : Route := { r with inSeq := topOut (2 ^ 32) (r.inSeq + 1), intake := r.intake ++ recItems kind x, intakeEnded := ended }
          if !waits && !intakeAgrees k ended q.intake r.promptN r.promptDigest then s.refuseRecord r.restarted x.seq.toNat stArg
          else
            let a := s.journalIntake r kind x
            if ended && (q.intake.isEmpty || (!waits && promptDone k q)) then a.promptEnds b q [] else a.setRoute q

/-- IN_TEXT (07 R162, R164). -/
def execInText (h : Half) (r : InRec) (s : State) : Host.Outcome State Fault Refusal := .next (s.takeRecord h kText r)

/-- IN_TOKENS (07 R162, R164). -/
def execInTokens (h : Half) (r : InRec) (s : State) : Host.Outcome State Fault Refusal := .next (s.takeRecord h kTokens r)

/-- IN_END (07 R165, R166; 01 R19). -/
def execInEnd (h : Half) (r : InRec) (s : State) : Host.Outcome State Fault Refusal := .next (s.takeRecord h kEnd r)

/-- An inbound record of a reserved kind (07 R164). -/
def execReservedKindRecord (h : Half) (kind : Byte) (r : InRec) (s : State) : Host.Outcome State Fault Refusal :=
  .next (if kind.toNat = kText ∨ kind.toNat = kTokens ∨ kind.toNat = kEnd then s else s.takeRecord h kind.toNat r)

/-- A group of prompt tokens has passed its checks (07 R165, R168, R169). -/
def State.pretokenPassed (s : State) (b : Binding) (r : Route) (k : Tki) : State :=
  if !intakeAgrees k r.intakeEnded r.intake r.promptN r.promptDigest then
    s.refuseRecord r.restarted (r.inSeq - 1) stArg
  else
    match nextGroup (k.groupsFrom r.intakeEnded r.intake []) r.promptN with
    | none => if r.intakeEnded then s.promptEnds b r [] else s
    | some g =>
      if !k.spells g.1 then s.formedAgain r.handle []
      else
        let a := s.chargeAll r.tried
        let q : Route := { r with tries := 0, tried := [] }
        if r.intakeEnded && promptDone k { r with promptN := r.promptN + g.2.length } then a.promptEnds b q g.2
        else a.releasePrompt b q g.2 false

/-- PRETOKEN_TOKENISED: the next final group of prompt tokens has been formed by two sequence units. It is released when its checks
have passed; otherwise the segment is processed again on other units, four times in all (07 R165, R169; 13 R301). -/
def State.pretoken (s : State) (handle : Nat) (res : CheckResult) : State :=
  match s.route handle with
  | none => s
  | some r =>
    match s.binding r.binding with
    | none => s
    | some b =>
      if r.state != .open || r.saving || !r.promptOpen || r.adm.isSome || r.intake.isEmpty || s.tokeniserWaits b r || s.safe.warn then s
      else if s.imageGone r.half b.set.tki then (s.faultRoute r).afterRelease handle
      else
        match res with
        | .fail h pos k => s.tryAgain b handle h pos.toNat k
        | .pass => s.pretokenPassed b r (tkiOf (s.imageOn r.half b.set.tki))

def execPretokenTokenised (handle : U32) (r : CheckResult) (s : State) : Host.Outcome State Fault Refusal :=
  .next (s.pretoken handle.toNat r).stepEnded

/-- IN_BEAT_PARITY_ERROR: a NAK pulse with its depth; the failing beat and those after it are discarded (17 R411,
R412). -/
def execInBeatParityError (h : Half) (depth : BitVec 4) (s : State) : Host.Outcome State Fault Refusal :=
  .next (if s.streamUp h || s.streamRefuses h then { s with str := s.str.modify h fun x => { x with inNak := true, inDepth := depth } } else s)

/-- Beats from the failing one on are sent again (17 R412). -/
def StrSt.sendAgain (x : StrSt) (depth : Nat) : StrSt :=
  let n := x.last.length - (depth + 1)
  { x with last := x.last.take n, again := x.last.drop n ++ x.again }

/-- STR_OUT_NAK (17 R412). -/
def execStrOutNak (h : Half) (depth : BitVec 4) (s : State) : Host.Outcome State Fault Refusal :=
  .next { s with str := s.str.modify h fun x => x.sendAgain depth.toNat }

end Sys2Proof.Machine
end

