-- ==== Sys2Proof/Machine/Images.lean ====
section
/-! DEFINITION. The image store and its commands: loading, fetching, verification, references, queries
(10 R213-R224; 12 R269, R270; 17 R416, R420). -/
namespace Sys2Proof.Machine

/-! ### Fetching -/

/-- The pieces of a concatenation of regions that hold bytes `off` to `off + len - 1` (12 R269). -/
def cutRegions : List Region → Nat → Nat → List Region
  | [], _, _ => []
  | g :: gs, off, len =>
    if len = 0 then []
    else if g.len ≤ off then cutRegions gs (off - g.len) len
    else
      let n := min len (g.len - off)
      ⟨g.addr + off, n⟩ :: cutRegions gs 0 (len - n)

/-- A job reads host regions; their bytes are gathered in order. -/
def State.readJob (s : State) (j : Job) (rs : List Region) : State :=
  let t := s.setJob { j with parts := rs.map (fun _ => []), left := rs.length }
  rs.zipIdx.foldl (fun t g => t.miRead j.half g.1.addr g.1.len (.job j.slot g.2)) t

/-- Both halves fetch their copies (10 R219, R221). -/
def State.startFetch (s : State) (i : Image) : State :=
  s.copyHalves.foldl (fun t h =>
    match i.src.head? with
    | some g => t.miRead h g.addr g.len (.fetch i.digest 0)
    | none => t) (s.setImage { i with state := .fetching, copies := ⟨[], []⟩, lost := ⟨false, false⟩, refetch := ⟨false, false⟩ })

/-- A part of a copy has arrived: the next one is asked for. -/
def State.fetchPart (s : State) (h : Half) (d : Digest) (part : Nat) (data : List Byte) : State :=
  match s.image d with
  | none => s
  | some i =>
    let t := s.setImage { i with copies := i.copies.modify h fun b => b ++ data }
    match i.src[part + 1]? with
    | some g => t.miRead h g.addr g.len (.fetch d (part + 1))
    | none => t

/-- Some access still fetches a copy of the image. -/
def State.fetching (s : State) (d : Digest) : Bool :=
  s.mi.any fun a => match a.purpose with
    | .fetch g _ => g == d
    | .bootImage g _ => g == d
    | _ => false

/-! ### Verification (10 R219) -/

/-- The halves whose copies count: those that serve, and in start-up those that start (10 R219, R224). -/
def State.storeHalves (s : State) : List Half :=
  [Half.west, .east].filter fun h => (s.hs h).serves || (s.eng.state == .reset && (s.hs h).starts)

/-- Verification of an image ends: both copies pass, both fail, or one is fetched again from the other half's stacks
(10 R219, 13 R303). -/
def State.verifyImage (s : State) (i : Image) : State :=
  let hs := s.storeHalves.filter fun h => !(i.copies.get h).isEmpty
  let st := fun h => verifyStatus s.safe.fuses (i.copies.get h)
  match hs with
  | [] => s.setImage { i with state := .failed, vstatus := stArg }
  | h :: rest =>
    if hs.all fun g => st g == stOk then
      s.setImage { i with state := .verified, vstatus := stOk, refetch := ⟨false, false⟩ }
    else
      match hs.find? fun g => st g == stOk with
      | none => s.setImage { i with state := .failed, vstatus := st h, refetch := ⟨false, false⟩ }
      | some good =>
        let bad := if rest.isEmpty then h else good.other
        (s.countFault bad 5 1).setImage
          { i with copies := i.copies.set bad (i.copies.get good), refetch := i.refetch.set bad true }

/-! ### `image.load` (12 R269, 10 R221) -/

def loadDescs (p : List Byte) : List Desc := (List.range (u8At p 4)).map fun k => descAt p (8 + 32 * k)

def loadReply (i : Image) : List Byte :=
  digestBytes i.digest ++ toLe 1 i.typ.code ++ toLe 1 i.state.code ++ toLe 2 i.vstatus ++ zeros 4 ++ toLe 8 i.total

/-- The header of the container is read. -/
def State.loadBegin (s : State) (j : Job) : State :=
  s.readJob { j with stage := 1 } (cutRegions ((loadDescs j.body).map Desc.region) 0 64)

/-- Row 7; regions with a CRC are read whole and checked before anything else (11 R247, R252). -/
def loadBody (slot : Nat) (p : List Byte) (s : State) : State :=
  let n := u8At p 4
  let ds := loadDescs p
  if p.length ≠ 8 + 32 * n ∨ n = 0 ∨ 64 < n ∨ 1 < u32At p 0 ∨ !zeroAt p 5 3 ∨ !(ds.all Desc.okIn) then
    s.refuse slot stArg noImg
  else
    match (s.begin slot p 0).jobOf slot with
    | some j =>
      let k := { j with obj := .fixed noImg }
      let rs := (ds.filter fun d => !d.nocrc).map Desc.region
      if rs.isEmpty then (s.begin slot p 0).loadBegin k else (s.begin slot p 0).readJob k rs
    | none => s

/-- The regions with a CRC have been read (11 R252). -/
def State.loadCrc (s : State) (j : Job) : State :=
  if (((loadDescs j.body).filter fun d => !d.nocrc).zip j.parts).all fun x => x.1.crcOk x.2 then s.loadBegin j
  else s.refuse j.slot stArg noImg

def loadTotal (p : List Byte) : Nat := ((loadDescs p).map fun d => d.len).sum

/-- A load that waits for its image completes as far as the image allows. -/
def State.loadGo (s : State) (j : Job) : State :=
  match s.image j.digest with
  | none => s.fail j.slot stState (.fixed noImg)
  | some i =>
    let verify := bitOf (u32At j.body 0) 0
    let done := fun (_ : Unit) =>
      let k := { i with hostRef := true }
      (s.setImage k).complete j.slot (.image j.digest) (loadReply k)
    match i.state with
    | .fetching => s
    | .stored => if verify then s.wantVerified j.digest else done ()
    | .verifying => if verify then s else done ()
    | _ => done ()

/-- The header has been read: the manifest is asked for. -/
def State.loadHeader (s : State) (j : Job) : State :=
  let hdr := j.parts.flatten
  let rs := cutRegions ((loadDescs j.body).map Desc.region) (hdrManOff hdr) (hdrManBytes hdr)
  if !headChecks hdr (loadTotal j.body) || rs.isEmpty then s.refuse j.slot stArg noImg
  else s.readJob { j with stage := 2, reply := hdr } rs

/-- The manifest has been read: the image is found in the store, or fetched (10 R220, R221). -/
def State.loadManifest (s : State) (j : Job) : State :=
  let hdr := j.reply
  let m := j.parts.flatten
  if !manChecks hdr m then s.refuse j.slot stArg noImg
  else
    let d := sha384 m
    let k := { j with stage := 3, digest := d, reply := [], obj := .image d, committed := true }
    let src := (loadDescs j.body).map Desc.region
    match s.image d with
    | some i =>
      let t := (s.commit j.slot).setJob k
      if i.state = .failed then
        t.startFetch { i with hostRef := true, vstatus := stOk, src := src, total := loadTotal j.body, man := m
                              prior := some ⟨i.vstatus, i.hostRef, i.total, i.copies, i.lost⟩ }
      else (t.setImage { i with hostRef := true }).loadGo k
    | none =>
      let ty := (IType.ofCode (hdrType hdr)).getD .fwi
      if ty.limit ≤ (s.img.vals.filter fun i => i.typ == ty).length ∨ !s.storeRoom (hdrTotal hdr) then
        s.refuse j.slot stNoSpace noImg
      else
        ((s.commit j.slot).setJob k).startFetch
          { digest := d, typ := ty, state := .fetching, vstatus := stOk, hostRef := true, total := hdrTotal hdr
            copies := ⟨[], []⟩, src := src, refetch := ⟨false, false⟩, man := m }

/-- The image as it stood before its load. -/
def Image.restored (i : Image) : Option Image :=
  i.prior.map fun p => { i with state := .failed, vstatus := p.vstatus, hostRef := p.hostRef, total := p.total, copies := p.copies, lost := p.lost
                                prior := none, refetch := ⟨false, false⟩ }

/-- A fetch that fails leaves no trace: a new image goes, and one that is fetched again stands as it stood (17 R417). -/
def State.abandon (s : State) (d : Digest) : State :=
  { s with img := (match (s.image d).bind Image.restored with
      | some i => s.img.put d.toNat i
      | none => s.img.del d.toNat), mi := s.mi.filter fun a => match a.purpose with
      | .fetch g _ => g != d
      | .bootImage g _ => g != d
      | _ => true }

/-- The loads of an image that wait for it. -/
def State.loadsOf (s : State) (d : Digest) : List Job := s.mbx.jobs.filter fun j => j.code == cLoad && j.stage == 3 && j.digest == d

/-- IMAGE_LOAD (12 R269). -/
def execImageLoad (slot : Byte) (s : State) : Host.Outcome State Fault Refusal :=
  .next (runMailbox cLoad anyPayload loadBody slot s)

/-! ### `image.release`, `image.query`, `image.list` (12 R270) -/

/-- References of an image: host, firmware and bindings. -/
def State.imageRefs (s : State) (i : Image) : Nat := b2n i.hostRef + s.fwRefs i.digest + s.bindRefs i.digest

def releaseBody (slot : Nat) (p : List Byte) (s : State) : State :=
  match s.image (digestAt p 0) with
  | none => s.refuse slot stState noImg
  | some i =>
    if p.length ≠ 48 then s.refuse slot stArg (imgObj i)
    else
      let k := { i with hostRef := false }
      let t := ((s.commit slot).setImage k).dropIfFree i.digest
      let o : ObjState := match t.image i.digest with
        | some x => imgObj x
        | none => noImg
      t.reply slot stOk o (toLe 4 (s.imageRefs k) ++ toLe 1 o.state ++ zeros 3)

/-- IMAGE_RELEASE (12 R270, 10 R222). -/
def execImageRelease (slot : Byte) (s : State) : Host.Outcome State Fault Refusal :=
  .next (runMailbox cRelease anyPayload releaseBody slot s)

/-- The manifest of an image, from its load or from its bytes (10 R221, 12 R270). -/
def Image.manifestBytes (i : Image) : List Byte := if i.man.isEmpty then manifest i.bytes else i.man

/-- The keyslot of the image's class whose digest is the image's KEY_DIGEST, or 0xFF (10 R218, 12 R270; log 117). -/
def State.slotOf (s : State) (i : Image) : Nat :=
  if i.manifestBytes.isEmpty then 0xFF
  else
    let m := i.manifestBytes
    (s.safe.fuses.findIdx? fun k => decide (k.state ≠ .empty) && k.cls == requiredClass i.typ.code &&
      k.digest == manKeyDigest m).getD 0xFF

def imgQueryBody (slot : Nat) (p : List Byte) (s : State) : State :=
  match s.image (digestAt p 0) with
  | none => s.refuse slot stState noImg
  | some i =>
    if p.length ≠ 48 then s.refuse slot stArg (imgObj i)
    else
      let m := i.manifestBytes
      s.reply slot stOk (imgObj i)
        (toLe 1 i.typ.code ++ toLe 1 i.state.code ++ toLe 2 i.vstatus ++ toLe 1 (b2n i.hostRef) ++
          toLe 1 (s.fwRefs i.digest) ++ toLe 1 (s.slotOf i) ++ zeros 1 ++ toLe 4 (s.bindRefs i.digest) ++
          toLe 4 (manPublisher m) ++ toLe 4 (manVersion m) ++ zeros 4 ++ toLe 8 i.total ++ digestBytes (manKeyDigest m))

/-- IMAGE_QUERY (12 R270). -/
def execImageQuery (slot : Byte) (s : State) : Host.Outcome State Fault Refusal :=
  .next (runMailbox cImgQuery anyPayload imgQueryBody slot s)

def imgEntry (s : State) (i : Image) : List Byte :=
  digestBytes i.digest ++ toLe 1 i.typ.code ++ toLe 1 i.state.code ++ toLe 1 (b2n i.hostRef) ++ zeros 1 ++
  toLe 4 (s.bindRefs i.digest) ++ zeros 8

def imgListBody (slot : Nat) (p : List Byte) (s : State) : State :=
  let d := descAt p 0x10
  let ty := u8At p 0
  if p.length ≠ 48 ∨ !zeroAt p 1 3 ∨ !zeroAt p 8 8 ∨ !d.okOut ∨ (ty ≠ 0 ∧ (IType.ofCode ty).isNone) then
    s.refuse slot stArg (engineObj s)
  else
    let l := s.img.vals.filter fun i => ty == 0 || i.typ.code == ty
    let c := u32At p 4
    let n := min (l.length - c) (d.len / 64)
    let next := if c + n < l.length then c + n else 0
    s.writeThen slot p ⟨d.addr, 64 * n⟩ (((l.drop c).take n).flatMap (imgEntry s)) .engine (toLe 4 n ++ toLe 4 next)

/-- IMAGE_LIST (12 R270). -/
def execImageList (slot : Byte) (s : State) : Host.Outcome State Fault Refusal :=
  .next (runMailbox cImgList anyPayload imgListBody slot s)

end Sys2Proof.Machine
end

