-- ==== Sys2Proof/Machine/Bindings.lean ====
section
/-! DEFINITION. Bindings: creation, start, stop at a step fence, swap, retire and query, and the images they wait for
(10 R225-R237; 12 R265, R271-R276; 02 R47, 04 R76, 08 R172). -/
namespace Sys2Proof.Machine

/-! ### Ranges (02 R47, 04 R76) -/

/-- The bias list: values in range, no token twice (02 R47). -/
def biasOk (b : List Byte) : Bool :=
  let rs := records 8 b
  nodupNat (rs.map fun r => u32At r 0) && rs.all fun r => f32InRange 0xC3800000 0x43800000 (BitVec.ofNat 32 (u32At r 4))

/-- The stop area: each record's length, string and zeros (12 R273, 08 R172). -/
def stopsOk (b : List Byte) : Bool :=
  let rs := records 264 b
  nodupBytes (rs.map fun r => slice r 8 (u16At r 0)) &&
  rs.all fun r => decide (1 ≤ u16At r 0) && decide (u16At r 0 ≤ 256) && zeroAt r 2 6 &&
    zeroAt r (8 + u16At r 0) (256 - u16At r 0) && stopTextOk (slice r 8 (u16At r 0))

/-- INFMT with and without an HDI (12 R271). -/
def infmtOk (hdi : Bool) (v : Nat) : Bool :=
  if hdi then v == 0 else v == 0x01 || v == 0x13 || v == 0x14 || v == 0x20 || v == 0x21

/-! ### Named images (12 R274) -/

/-- The half that the engine chooses under HP_ONE (03 R57): West when it serves. -/
def State.halfOne (s : State) : Half := if s.half.w.serves then .west else .east

/-- Digests of TKI, HDI, CSI and SLI at four offsets. -/
def setAt (p : List Byte) (off infmt : Nat) (pin one : Bool) (h : Half) : ImgSet :=
  { tki := digestAt p off, hdi := digestAt p (off + 0x30), csi := digestAt p (off + 0x60), sli := digestAt p (off + 0x90)
    infmt := infmt, pin := pin, one := one, half := h }

/-- Rows 5 and 6 for the images of a set, in field order: the object that fails. -/
def State.imagesFault (s : State) (x : ImgSet) : Option ObjState :=
  match x.digests.find? fun d => (s.image d).isNone with
  | some _ => some noImg
  | none => (x.digests.find? fun d => ((s.image d).map fun i => i.state) == some .failed).map fun _ =>
      ⟨skImage, IState.failed.code⟩

/-- Every image has the type of its field. -/
def State.typesOk (s : State) (x : ImgSet) : Bool :=
  let is := fun (d : Digest) (t : IType) => d == 0 || ((s.image d).map fun i => i.typ) == some t
  is x.tki .tki && is x.hdi .hdi && is x.csi .csi && is x.sli .sli

def State.anyRevoked (s : State) (x : ImgSet) : Bool :=
  x.digests.any fun d => ((s.image d).map fun i => i.state) == some .revoked

/-- What the images of a set are at: none while a command waits for them; else a status and the object it reports
(10 R227, 12 R274). -/
def State.imagesOutcome (s : State) (x : ImgSet) (own : ObjState) : Option (Nat × ObjState) :=
  let bad := x.digests.findSome? fun d =>
    match s.image d with
    | none => some (stState, noImg)
    | some i => if i.state = .failed then some (i.vstatus, imgObj i) else if i.state = .revoked then some (stSignature, own) else none
  match bad with
  | some r => some r
  | none => if x.digests.all fun d => ((s.image d).map fun i => i.state) == some .verified then some (stOk, own) else none

/-! ### Creation checks (10 R227) -/

/-- Bytes of the pinned head of a binding on a half. -/
def State.pinShare (s : State) (b : Binding) (h : Half) : Nat :=
  if (s.headHalves b).contains h then s.shareOn b h else 0

/-- The pinned heads, each counted once, fit the head region of both halves; the binding at the candidate's index is
left out; a candidate that does not pin takes no room (03 R60, 10 R233). -/
def State.pinsFit (s : State) (b : Binding) : Bool :=
  !b.set.pin ||
  let pinned := (s.bnd.vals.filter fun x => x.set.pin && x.state != .retired && x.state != .loading && x.handle != b.handle) ++
    (if b.set.pin then [b] else [])
  let ds := (pinned.map fun x => x.set.hdi).eraseDups
  s.copyHalves.all fun h =>
    decide ((ds.map fun d => ((pinned.filter fun x => x.set.hdi == d).map fun x => s.pinShare x h).foldl max 0).sum
      ≤ (s.hs h).headRegion)

/-- The creation checks in the order of 10 R227. -/
def State.creationStatus (s : State) (b : Binding) : Nat :=
  let tki := tkiOf (s.imageBytes b.set.tki)
  let hdi := s.imageBytes b.set.hdi
  let csi := csiOf (s.imageBytes b.set.csi)
  let sli := sliOf (s.imageBytes b.set.sli)
  if (biasList b.bias).any fun t => decide (tki.vocab ≤ t.1) then stArg
  else if b.set.hdi != 0 && ((headOf hdi).tki != b.set.tki || (headOf hdi).vocab != tki.vocab) then stArg
  else if !s.pinsFit b then stNoSpace
  else if b.set.csi != 0 && (csi.tki != b.set.tki || csi.vocab != tki.vocab || csi.eos != tki.eos) then stArg
  else if b.set.sli != 0 && (sli.tki != b.set.tki || sli.vocab != tki.vocab) then stArg
  else if !s.finderRoom b b.set then stNoSpace
  else stOk

/-! ### Becoming ACTIVE (03 R60) -/

/-- Image fields of the create and swap replies: HALF, DEAD_REACHABLE, 2 reserved bytes, DEAD_N. -/
def State.setReply (s : State) (x : ImgSet) : List Byte :=
  let c := csiOf (s.imageBytes x.csi)
  toLe 1 (if x.one then x.half.code else 0xFF) ++ toLe 1 (if x.csi = 0 then 0 else b2n (bitOf c.flags 1)) ++ zeros 2 ++
  toLe 4 (if x.csi = 0 then 0 else c.deadN)

/-- The reply of `binding.create` (12 R274). -/
def State.createReply (s : State) (b : Binding) : List Byte :=
  let hdi := s.imageBytes b.set.hdi
  let has := b.set.hdi != 0
  toLe 4 b.handle ++ s.setReply b.set ++ toLe 4 (tkiOf (s.imageBytes b.set.tki)).vocab ++
  toLe 4 (if has then rowsHeld hdi b.shards b.shard else 0) ++ toLe 4 (if has then (headOf hdi).hidden else 0) ++
  toLe 1 (if has then (headOf hdi).hfmt else 0) ++ zeros 7

/-- Complete a `binding.create` or `binding.start` that has reached its end. -/
def State.startReply (s : State) (j : Job) (b : Binding) : State :=
  s.complete j.slot (.binding b.handle) (if j.code = cCreate then s.createReply b else [])

/-- The binding serves: a new start opens admission again. -/
def State.nowActive (s : State) (b : Binding) : State :=
  let c := { b with state := .active, fence := .none, starting := false }
  let jobs := s.mbx.jobs.filter fun j => (j.code == cCreate || j.code == cStart) && j.stage == 3 && j.arg == b.handle
  jobs.foldl (fun t j => t.startReply j c) (s.setBinding c)

/-- Start a binding: at once, or when its pinned head is resident. -/
def State.activate (s : State) (b : Binding) (j : Job) : State :=
  let t := s.setJob { j with stage := 3, arg := b.handle }
  if b.set.pin && !s.headResident b then
    let c := { b with starting := true }
    (t.setBinding c).fillFor c
  else t.nowActive b

/-- HEAD_FILL_DONE: a head becomes resident, and bindings that wait for it become ACTIVE (03 R60, R62). -/
def execHeadFillDone (h : Half) (digest : Digest) (s : State) : Host.Outcome State Fault Refusal :=
  let a := if s.imageGone h digest then s else s.onHalf h fun x => { x with heads := x.heads.map fun e =>
    if e.digest = digest ∧ e.cleared then { e with resident := true, rows := s.imageOn h digest } else e }
  .next ((a.bnd.vals.filter fun b => b.starting && b.state != .swapping && b.set.hdi == digest && a.headResident b).foldl
    (fun t b => t.nowActive b) a)

/-- A mask enters a half's cache; the least recently used entry that nothing pins makes room, and its place is cleared
(05 R120, R121; 09 R208). -/
def State.cacheMask (s : State) (h : Half) (k : CacheKey) : State :=
  let x := s.hs h
  let all := touchMask ⟨k, (csiOf (s.imageOn h k.digest)).maskEnt k.item, none⟩ x.maskCache
  let kept := keepUnpinned (fun m => (s.pinnedMasks h).contains m.key) (x.maskBanks * maskPerBank) all
  s.onHalf h fun x =>
    let y := { x with maskCache := kept }
    if kept.length < all.length then y.clear .cache smallClear else y

/-- MASK_FETCH_DONE: a mask enters the half's cache for every position that waits for its key; a fetch from stacks that have
lost the image does not end, and the entry of an image that has left the store is dropped (05 R120, R121; 10 R237; 13 R305). -/
def execMaskFetchDone (h : Half) (digest : Digest) (state : U32) (s : State) : Host.Outcome State Fault Refusal :=
  let k : CacheKey := ⟨digest, state.toNat⟩
  let done := s.onHalf h fun x =>
    { x with maskFetch := x.maskFetch.filter (fun y => y != k), fetches := addFetch digest 1 x.fetches }
  .next (if !(s.hs h).maskFetch.contains k then s
    else if (s.image digest).isNone then done
    else if s.imageGone h digest then s
    else done.cacheMask h k)

/-! ### `binding.create` (12 R265, R271-R274; 10 R227) -/

/-- The generation that follows a binding index's last one (12 R265). -/
def nextBindGen (last : Nat) : Nat := last % 0xFFFF + 1

def State.lastBindGen (s : State) (i : Nat) : Nat := (s.bndGen.get? i).getD 0

/-- A descriptor of a list of `n` records of `size` bytes: all zero when there is none (12 R271, R273). -/
def listDescOk (b : List Byte) (n size : Nat) : Bool :=
  if n = 0 then allZero b else (descOf b).okIn && (descOf b).len == n * size

/-- Row 7 of `binding.create`. -/
def createArgOk (s : State) (p : List Byte) : Bool :=
  let flags := u32At p 4
  let hdi := digestAt p 0x40 != 0
  let prof := slice p 0xD0 64
  p.length == 352 && u32At p 0 / 65536 == nextBindGen (s.lastBindGen (u32At p 0 % 65536)) && decide (flags ≤ 7) &&
  decide (1 ≤ u8At p 8) && decide (u8At p 8 ≤ 64) && decide (u8At p 9 < u8At p 8) && decide (u8At p 0xA ≤ 3) &&
  infmtOk hdi (u8At p 0xB) && decide (u16At p 0xC < 2048) && decide (u8At p 0xE ≤ 1) && zeroAt p 0xF 1 &&
  digestAt p 0x10 != 0 && (hdi || flags / 2 == 0) && profileOk prof && profileReservedOk prof && decide (u8At p 0x110 ≤ 64) &&
  decide (u8At p 0x111 ≤ 3) && decide (u8At p 0x112 ≤ 2) && zeroAt p 0x113 13 &&
  listDescOk (slice p 0x120 32) (u16At prof 0x20) 8 && listDescOk (slice p 0x140 32) (u8At p 0x110) 264

def createSet (s : State) (p : List Byte) : ImgSet :=
  setAt p 0x10 (u8At p 0xB) (bitOf (u32At p 4) 1) (bitOf (u32At p 4) 2) s.halfOne

def createBinding (s : State) (p bias stops : List Byte) : Binding :=
  { handle := u32At p 0, state := .loading, set := createSet s p, newSet := none, flags := u32At p 4, shards := u8At p 8
    shard := u8At p 9, prio := u8At p 0xA, classSel := u16At p 0xC, stream := Half.ofCode (u8At p 0xE)
    profile := slice p 0xD0 64, bias := bias, stops := stops, stopsN := u8At p 0x110, stopFlags := u8At p 0x111
    endPolicy := u8At p 0x112, fence := .none, fences := 0, starting := false, record := ⟨none, none⟩ }

/-- A creation fails in LOADING: the index is free, and its references are dropped (10 R227). -/
def State.createFail (s : State) (j : Job) (status : Nat) (o : ObjState) : State :=
  match s.binding j.arg with
  | none => s.fail j.slot status (.fixed o)
  | some b =>
    let t : State := { s with bnd := s.bnd.del (bindingIndex j.arg) }
    (t.fail j.slot status (.fixed o)).dropFree b.set.digests

/-- LOADING goes on once the lists have been read: images, then the checks (10 R227). -/
def State.createGo (s : State) (j : Job) : State :=
  match s.binding j.arg with
  | none => s
  | some b =>
    let t := b.set.digests.foldl State.wantVerified s
    match t.imagesOutcome b.set noBnd with
    | none => t
    | some (st, o) =>
      let st := if st = stOk then t.creationStatus b else st
      if st ≠ stOk then t.createFail j st o
      else
        let c := { b with state := .verified }
        let u := (({ t with bndGen := t.bndGen.put (bindingIndex j.arg) (j.arg / 65536) } : State).setBinding c).loadFinders c c.set
        if bitOf b.flags 0 then u.activate c j else u.startReply j c

/-- Rows 5 to 8 of a creation but for the lists: the status and the object of a refusal. -/
def createRefusal (s : State) (p : List Byte) : Option (Nat × ObjState) :=
  let set := createSet s p
  if s.eng.state == .drain && bitOf (u32At p 4) 0 then some (stState, engineObj s)
  else
    match s.bnd.get? (u32At p 0 % 65536) with
    | some b => some (stState, bndObj b)
    | none =>
      match s.imagesFault set with
      | some o => some (stState, o)
      | none =>
        if !createArgOk s p || !s.typesOk set then some (stArg, noBnd)
        else if s.anyRevoked set then some (stSignature, noBnd)
        else none

/-- The request is accepted: it commits, and the binding is LOADING (10 R227, 12 R264). -/
def State.createEnter (s : State) (j : Job) (bias stops : List Byte) : State :=
  let k := { j with stage := 2, parts := [], committed := true }
  let t := ((s.commit j.slot).setBinding (createBinding s j.body bias stops)).setJob k
  if !biasOk bias || !stopsOk stops then t.createFail k stArg noBnd else t.createGo k

/-- The bias list and the stop strings have been read: their CRCs come before the request is accepted (11 R247). -/
def State.createLists (s : State) (j : Job) : State :=
  let p := j.body
  let n := u16At p 0xF0
  let m := u8At p 0x110
  let bias := if n = 0 then [] else j.parts.headD []
  let stops := if m = 0 then [] else j.parts.getLastD []
  if !((n == 0 || (descAt p 0x120).crcOk bias) && (m == 0 || (descAt p 0x140).crcOk stops)) then s.refuse j.slot stArg noBnd
  else
    match createRefusal s p with
    | some (st, o) => s.refuse j.slot st o
    | none => s.createEnter j bias stops

def createBody (slot : Nat) (p : List Byte) (s : State) : State :=
  match createRefusal s p with
  | some (st, o) => s.refuse slot st o
  | none =>
    let j : Job := { slot := slot, code := cCreate, body := p, stage := 1, left := 0, parts := [], reply := []
                     obj := .binding (u32At p 0), arg := u32At p 0, digest := 0, half := s.slotHalf slot }
    let rs := (if u16At p 0xF0 = 0 then [] else [(descAt p 0x120).region]) ++
      (if u8At p 0x110 = 0 then [] else [(descAt p 0x140).region])
    if rs.isEmpty then s.createEnter j [] [] else s.readJob j rs

/-- BINDING_CREATE (12 R271-R274). -/
def execBindingCreate (slot : Byte) (s : State) : Host.Outcome State Fault Refusal :=
  .next (runMailbox cCreate anyPayload createBody slot s)

/-! ### `binding.start` -/

/-- A start goes on once its images are verified again. -/
def State.startGo (s : State) (j : Job) : State :=
  match s.binding j.arg with
  | none => s
  | some b =>
    let t := b.set.digests.foldl State.wantVerified s
    match t.imagesOutcome b.set (bndObj b) with
    | none => t
    | some (st, o) => if st = stOk then t.activate b j else t.refuse j.slot st o

def startBody (slot : Nat) (p : List Byte) (s : State) : State :=
  match s.binding (u32At p 0) with
  | none => s.refuse slot stState noBnd
  | some b =>
    if b.state ≠ .verified ∧ b.state ≠ .stopped then s.refuse slot stState (bndObj b)
    else if p.length ≠ 8 ∨ !zeroAt p 4 4 then s.refuse slot stArg (bndObj b)
    else if s.anyRevoked b.set then s.refuse slot stSignature (bndObj b)
    else
      match (s.begin slot p 2).jobOf slot with
      | some j =>
        let k := { j with arg := b.handle, obj := .binding b.handle }
        ((s.begin slot p 2).setJob k).startGo k
      | none => s

/-- BINDING_START (10 R227, 03 R60). -/
def execBindingStart (slot : Byte) (s : State) : Host.Outcome State Fault Refusal :=
  .next (runMailbox cStart anyPayload startBody slot s)

/-! ### `binding.stop` and the fence (10 R229-R232) -/

/-- LIST with its region: a DESC_OUT with LIST, all zero without. -/
def listArgOk (p : List Byte) : Bool :=
  decide (u32At p 4 ≤ 1) && (if bitOf (u32At p 4) 0 then (descAt p 0x10).okOut else zeroAt p 0x10 32)

def stopBody (slot : Nat) (p : List Byte) (s : State) : State :=
  match s.binding (u32At p 0) with
  | none => s.refuse slot stState noBnd
  | some b =>
    if b.state ≠ .active ∨ b.fence ≠ .none then s.refuse slot stState (bndObj b)
    else if p.length ≠ 48 ∨ !zeroAt p 8 8 ∨ !listArgOk p then s.refuse slot stArg (bndObj b)
    else
      match (s.begin slot p 0).jobOf slot with
      | some j => ((s.begin slot p 0).setJob { j with arg := b.handle, obj := .binding b.handle }).setBinding { b with fence := .phase1 }
      | none => s

/-- BINDING_STOP: phase 1 begins (10 R229). -/
def execBindingStop (slot : Byte) (s : State) : Host.Outcome State Fault Refusal :=
  .next (runMailbox cStop anyPayload stopBody slot s)

/-- The chains that carry routes of a binding. -/
def State.chainsOf (s : State) (b : Binding) (h : Half) : List Nat :=
  (List.range 16).filter fun c => (s.chain h c).stepUp &&
    (s.routesOf b.handle).any fun r => liveRoute r && r.chains.get h == some c

/-- SYN frames of the fence, one on each chain (10 R230, 16 R404). -/
def State.fenceSyns (s : State) (b : Binding) : State :=
  [Half.west, .east].foldl (fun t h =>
    (s.chainsOf b h).foldl (fun t c => t.sendSyn h c (synFence b.handle b.fences)) t) s

/-- A copy that only one half held is after the fence: one refusal, and its partner is a duplicate when it comes
(01 R464, 10 R229). -/
def State.refuseLone (s : State) (handle : Nat) (h : Half) : State :=
  match s.route handle with
  | none => s
  | some r =>
    let t := s.setRoute { r with copies := r.copies.set h []
                                 stoppedSteps := r.stoppedSteps ++ (r.copies.get h).map fun c => (h.other, c.step) }
    (r.copies.get h).foldl (fun t c => t.refuseEntry h ((r.chains.get h).getD 0) r false c.bytes stStopped) t

/-- The fence is set: every entry of a route that waits draws its refusal, whole ones and pairs of copies once, and prepared
drafts go (01 R464, 04 R102, 10 R229). -/
def State.refuseWaiting (s : State) (handle : Nat) : State :=
  match s.route handle with
  | none => s
  | some r =>
    let mine := fun (w : WaitEntry) => eHandle w.bytes == handle
    let ws := r.entries ++ (s.hs .west).waiting.filter mine ++ (s.hs .east).waiting.filter mine
    let a := { s.setRoute { r with entries := [] } with half := s.half.map fun x => { x with waiting := x.waiting.filter fun w => !mine w } }
    let b := ws.foldl (fun t w =>
      match t.route handle, t.binding r.binding with
      | some q, some bd => t.judge w q bd
      | _, _ => t) a
    ((b.refuseLone handle .west).refuseLone handle .east).dropDrafts handle

/-- FENCE_ACK: both halves have acknowledged phase 1: the fence is set, waiting entries are refused, SYN frames leave,
and each held route goes to its benchmark (10 R229-R231). -/
def State.fenceAck (s : State) (handle : Nat) : State :=
  match s.binding handle with
  | none => s
  | some b =>
    if b.fence ≠ .phase1 then s
    else
      let c := { b with fence := .set, state := .stopping, fences := b.fences + 1 }
      let t := match s.mbx.jobs.find? fun j => j.code == cStop && j.arg == handle with
        | some j => s.commit j.slot
        | none => s
      let t := (t.setBinding c).fenceSyns c
      let hs := (t.routesOf handle).filter liveRoute
      let t := hs.foldl (fun t r => t.refuseWaiting r.handle) t
      let t := (t.readmitHalf .west).readmitHalf .east
      (hs.foldl (fun t r => t.settle r.handle) t).finishStop handle

def execFenceAck (binding : U32) (s : State) : Host.Outcome State Fault Refusal := .next (s.fenceAck binding.toNat)

/-! ### Benchmarks of held routes (10 R231, 12 R279) -/

/-- The reply of `route.save` (12 R281). -/
def saveReply (handle next size : Nat) : List Byte := toLe 4 handle ++ toLe 4 next ++ toLe 8 size

/-- The benchmark of a route enters the stacks of both halves, and the route is SAVED (10 R231, 11 R257). -/
def State.saveRoute (s : State) (b : Binding) (r : Route) : State :=
  match freeIndex s.bench with
  | none => s
  | some i =>
    let g := nextGen ((s.benchGen.get? i).getD 0)
    let h := i + 2 ^ 18 * g
    let t : State := { s with bench := s.bench.put i ⟨h, r.handle, routeBench b r⟩, benchGen := s.benchGen.put i g }
    t.setRoute { r with state := .saved, saving := false, bench := some h, drafts := none }

/-- `route.save` commits as its route becomes SAVED, and completes (12 R264, R279, R281). -/
def State.saveDone (s : State) (j : Job) (b : Binding) (r : Route) : State :=
  let t := (s.commit j.slot).saveRoute b r
  let h := ((t.route r.handle).bind fun q => q.bench).getD 0
  t.complete j.slot (.route r.handle) (saveReply h r.next (routeBench b r).length)

/-- The command that saves a route, with its bytes written to the stacks. -/
def State.saveJob (s : State) (handle : Nat) : Option Job :=
  s.mbx.jobs.find? fun j => j.code == cSave && j.arg == handle && j.stage == 1

/-- BENCHMARK_WRITTEN: the benchmark stands in the stacks of both halves and the route is SAVED (10 R231, 11 R257); with EXPORT
it is written to host memory first, so that a failure there leaves no effect (12 R279, 17 R417). -/
def State.benchWritten (s : State) (handle : Nat) : State :=
  match s.route handle with
  | none => s
  | some r =>
    match s.binding r.binding with
    | none => s
    | some b =>
      if !r.saving || (freeIndex s.bench).isNone then s
      else
        match s.saveJob handle with
        | some j =>
          if bitOf (u32At j.body 4) 0 then
            (s.setJob { j with stage := 2, left := 1 }).miWrite j.half (descAt j.body 0x10).addr (routeBench b r) (.job j.slot 0)
          else (s.saveDone j b r).settle handle
        | none =>
          if s.mbx.jobs.any fun j => j.code == cSave && j.arg == handle && j.stage == 2 then s
          else (s.saveRoute b r).settle handle

/-- The export of a benchmark is in host memory: its route is SAVED (12 R279). -/
def State.saveWritten (s : State) (j : Job) : State :=
  match s.route j.arg with
  | none => s
  | some r =>
    match s.binding r.binding with
    | none => s
    | some b => (s.saveDone j b r).settle r.handle

/-- The export of a benchmark has failed: the route is as it was (17 R417). -/
def State.saveFailed (s : State) (j : Job) : State :=
  match s.route j.arg with
  | none => s
  | some r => s.setRoute { r with saving := false }

def execBenchmarkWritten (handle : U32) (s : State) : Host.Outcome State Fault Refusal :=
  .next (s.benchWritten handle.toNat)

/-- End the held routes of a binding (10 R228, R234). -/
def State.endHeld (s : State) (b : Binding) (set : ImgSet) (c : EndCause) : State :=
  (s.routesOf b.handle).foldl (fun t r => if liveRoute r then (t.endBench r c).endRoute b r set c true false else t) s

/-! ### `binding.swap` (10 R233, R234) -/

/-- The set that a swap names. The half of a binding under HP_ONE stays for its life (03 R57). -/
def swapSet (s : State) (b : Binding) (p : List Byte) : ImgSet :=
  setAt p 0x10 (u8At p 8) (bitOf (u32At p 4) 1) (bitOf (u32At p 4) 2) (if b.set.one then b.set.half else s.halfOne)

def swapArgOk (p : List Byte) : Bool :=
  let hdi := digestAt p 0x40 != 0
  p.length == 208 && decide (u32At p 4 ≤ 7) && zeroAt p 9 7 && digestAt p 0x10 != 0 && infmtOk hdi (u8At p 8) &&
  (hdi || u32At p 4 / 2 == 0)

/-- A start that waited while a swap ran goes on with the set that stands. -/
def State.startAgain (s : State) (b : Binding) : State :=
  if !b.starting then s
  else if !b.set.pin || s.headResident b then s.nowActive b
  else s.fillFor b

/-- A swap that fails leaves the binding STOPPED with its old set. -/
def State.swapFail (s : State) (j : Job) (b : Binding) (x : ImgSet) (status : Nat) : State :=
  let c := { b with state := .stopped, newSet := none }
  (((s.setBinding c).fail j.slot status (.binding c.handle)).dropFree x.digests).startAgain c

/-- The swap commits: the set changes, and without HOLD every held route ends on the old one (10 R234). -/
def State.swapCommit (s : State) (j : Job) (b : Binding) (x : ImgSet) (hold : Bool) : State :=
  let n := ((s.routesOf b.handle).filter liveRoute).length
  let c := { b with state := .stopped, set := x, newSet := none }
  let t := if hold then s else s.endHeld b b.set .swapped
  let t := ((t.setBinding c).loadFinders c x).dropFree b.set.digests
  let t := if x.pin then t.fillFor c else t
  (t.complete j.slot (.binding c.handle) (toLe 4 (if hold then 0 else n) ++ t.setReply x)).startAgain c

/-- SWAPPING goes on: the new images, then the checks (10 R233). -/
def State.swapGo (s : State) (j : Job) : State :=
  match s.binding j.arg with
  | none => s
  | some b =>
    match b.newSet with
    | none => s
    | some (x, hold) =>
      let t := x.digests.foldl State.wantVerified s
      match t.imagesOutcome x noBnd with
      | none => t
      | some (st, _) =>
        let st := if st = stOk then t.creationStatus { b with set := x } else st
        if st ≠ stOk then t.swapFail j b x st else t.swapCommit j b x hold

def swapBody (slot : Nat) (p : List Byte) (s : State) : State :=
  match s.binding (u32At p 0) with
  | none => s.refuse slot stState noBnd
  | some b =>
    let set := swapSet s b p
    match (s.imagesFault set).filter fun o => o.state == 0xFF with
    | some o => s.refuse slot stState o
    | none =>
      if b.state ≠ .stopped then s.refuse slot stState (bndObj b)
      else
        match s.imagesFault set with
        | some o => s.refuse slot stState o
        | none =>
          if !swapArgOk p || !s.typesOk set then s.refuse slot stArg (bndObj b)
          else if s.anyRevoked set then s.refuse slot stSignature (bndObj b)
          else
            match (s.begin slot p 2).jobOf slot with
            | some j =>
              let k := { j with arg := b.handle, obj := .binding b.handle, committed := true }
              ((((s.begin slot p 2).commit slot).setJob k).setBinding
                { b with state := .swapping, newSet := some (set, bitOf (u32At p 4) 0) }).swapGo k
            | none => s

/-- BINDING_SWAP (10 R233-R235). -/
def execBindingSwap (slot : Byte) (s : State) : Host.Outcome State Fault Refusal :=
  .next (runMailbox cSwap anyPayload swapBody slot s)

/-! ### `binding.retire` and `binding.query` -/

/-- A binding has left: the fill of its pinned head stops when no other binding waits for it, and its stop strings leave the
finder (06 R128, 10 R227). -/
def State.stopFill (s : State) (b : Binding) : State :=
  let others := s.bnd.vals.any fun x => x.starting && x.set.hdi == b.set.hdi
  { s with half := s.half.map fun x =>
      let y := x.dropFinder (.stopsOf b.handle)
      if b.starting && !others then { y with heads := y.heads.filter fun e => e.resident || e.digest != b.set.hdi } else y }

def retireBody (slot : Nat) (p : List Byte) (s : State) : State :=
  match s.binding (u32At p 0) with
  | none => s.refuse slot stState noBnd
  | some b =>
    if b.state ≠ .verified ∧ b.state ≠ .stopped then s.refuse slot stState (bndObj b)
    else if p.length ≠ 8 ∨ !zeroAt p 4 4 then s.refuse slot stArg (bndObj b)
    else
      let n := ((s.routesOf b.handle).filter liveRoute).length
      let o : ObjState := ⟨skBinding, BState.retired.code⟩
      let t := (s.commit slot).endHeld b b.set .host
      let t : State := { t with bnd := t.bnd.del (bindingIndex b.handle) }
      let t := (t.stopFill b).dropFree b.set.digests
      let waiting := t.mbx.jobs.filter fun j => (j.code == cCreate || j.code == cStart) && j.arg == b.handle
      waiting.foldl (fun u j => u.fail j.slot stState (.fixed o)) (t.reply slot stOk o (toLe 4 n))

/-- BINDING_RETIRE (10 R228). -/
def execBindingRetire (slot : Byte) (s : State) : Host.Outcome State Fault Refusal :=
  .next (runMailbox cRetire anyPayload retireBody slot s)

def bndQueryBody (slot : Nat) (p : List Byte) (s : State) : State :=
  match s.binding (u32At p 0) with
  | none => s.refuse slot stState noBnd
  | some b =>
    let list := bitOf (u32At p 4) 0
    if list && b.state != .stopped then s.refuse slot stState (bndObj b)
    else if p.length ≠ 48 ∨ !zeroAt p 0xC 4 ∨ !listArgOk p then s.refuse slot stArg (bndObj b)
    else
      let d := descAt p 0x10
      let held := s.heldRoutes b
      let c := u32At p 8
      let n := if list then min (held.length - c) (d.len / 16) else 0
      let next := if list ∧ c + n < held.length then c + n else 0
      let rep := toLe 4 ((s.routesOf b.handle).filter liveRoute).length ++ toLe 4 held.length ++ toLe 4 n ++ toLe 4 next ++
        toLe 1 (if b.set.one then b.set.half.code else 0xFF) ++ toLe 1 b.flags ++ toLe 1 b.shards ++ toLe 1 b.shard ++ zeros 12 ++
        digestBytes b.set.tki ++ digestBytes b.set.hdi ++ digestBytes b.set.csi ++ digestBytes b.set.sli
      s.writeThen slot p ⟨d.addr, 16 * n⟩ (((held.drop c).take n).flatMap heldEntry) (.binding b.handle) rep

/-- BINDING_QUERY (12 R275). -/
def execBindingQuery (slot : Byte) (s : State) : Host.Outcome State Fault Refusal :=
  .next (runMailbox cBndQuery anyPayload bndQueryBody slot s)

/-! ### Images that commands wait for -/

/-- Commands that wait for an image go on (10 R221, R227, R233). -/
def State.imageGo (s : State) (d : Digest) : State :=
  let a := (s.loadsOf d).foldl (fun t j => t.loadGo j) s
  (a.mbx.jobs.reverse).foldl (fun t j =>
    if j.stage = 2 ∧ (t.jobOf j.slot).isSome then
      (if j.code = cCreate then t.createGo j else if j.code = cSwap then t.swapGo j
       else if j.code = cStart then t.startGo j else t)
    else t) a

/-- IMAGE_FETCH_DONE: both copies are stored (10 R221); cleared space has been found for them (17 R420). -/
def execImageFetchDone (digest : Digest) (s : State) : Host.Outcome State Fault Refusal :=
  .next (match s.image digest with
    | none => s
    | some i =>
      if i.state ≠ .fetching ∨ s.fetching digest ∨ !s.cleared ∨
          !(s.copyHalves.all fun h => (i.copies.get h).length == i.total) then s
      else (s.setImage { i with state := .stored, prior := none }).imageGo digest)

/-- IMAGE_VERIFY_DONE (10 R219). -/
def execImageVerifyDone (digest : Digest) (s : State) : Host.Outcome State Fault Refusal :=
  .next (match s.image digest with
    | none => s
    | some i => if i.state = .verifying then (s.verifyImage i).imageGo digest else s)

end Sys2Proof.Machine
end

