-- ==== Sys2Proof/Machine/Routes.lean ====
section
/-! DEFINITION. The route commands: open, pause, save, resume, end, query, discard and export
(12 R277-R281; 01 R15-R19; 10 R235, R236; 14 R326-R330; 16 R401). -/
namespace Sys2Proof.Machine

/-! ### Chains (12 R278) -/

/-- CHAIN_W or CHAIN_E; 0xFFFF names none. -/
def chainField (v : Nat) : Option Nat := if v = 0xFFFF then none else some v

/-- A named chain is a step chain in service. -/
def State.chainOk (s : State) (h : Half) (c : Option Nat) : Bool :=
  match c with
  | none => true
  | some k => decide (k ≤ 15) && (s.hs h).serves && (s.chain h k).stepUp

/-- The half that serves a route with these chains; none when they do not suit the binding (12 R278, 03 R57; log 33). -/
def State.chainPlan (s : State) (b : Binding) (x : Halves (Option Nat)) : Option Half :=
  let one : Option Half := match x.w, x.e with
    | some _, none => some .west
    | none, some _ => some .east
    | _, _ => none
  if !(s.chainOk .west x.w && s.chainOk .east x.e) then none
  else if !s.bothServe || b.set.hdi = 0 then one
  else if b.set.one then one.filter fun h => h == b.set.half
  else if x.w.isSome && x.e.isSome then some b.stream
  else none

/-- The half whose stream port a route uses: the binding's, or the survivor's (13 R312). -/
def State.streamFor (s : State) (b : Binding) : Half := if (s.hs b.stream).serves then b.stream else s.survivor

/-- OWNER and DELIVER suit the binding (12 R278). -/
def routeFlagsOk (b : Binding) (flags : Nat) : Bool :=
  (b.shards != 1 || bitOf flags 2) && (!bitOf flags 1 || bitOf flags 0)

/-- Another live route of a sharded binding has the salt (16 R401). -/
def State.saltTaken (s : State) (b : Binding) (salt handle : Nat) : Bool :=
  decide (1 < b.shards) && (s.routesOf b.handle).any fun r => liveRoute r && r.salt == salt && r.handle != handle

/-! ### `route.open` (12 R277, R278) -/

/-- A route index is free once its route is ENDED, after its OUT_END (11 R257, R258). -/
def State.freeRoute (s : State) : Option Nat :=
  freeIndex (s.rt.filter fun p => liveRoute p.2 || !p.2.waitRecs.isEmpty)

/-- A new handle at an index (11 R258). -/
def State.routeHandle (s : State) (i : Nat) : Nat := i + 2 ^ 18 * nextGen ((s.rtGen.get? i).getD 0)

/-- Enter a route in the table under a new handle. The 512-byte record of an index that had an earlier generation is cleared within the
command, before its new contents (09 R208; log 103). The index's generation is a count that firmware changes by an atomic
(09 R200). -/
def State.addRoute (s : State) (i : Nat) (r : Route) : State :=
  let gen := atomicWord ((s.rtGen.get? i).getD 0) (.atomicSwap (BitVec.ofNat 64 (r.handle / 2 ^ 18)))
  ({ s with rtGen := s.rtGen.put i gen } : State).setRoute r

/-- The state before any token (01 R19, 05 R114, 02 R48). -/
def State.relStart (s : State) (b : Binding) : Rel :=
  { pos := { g := if b.set.csi = 0 then 0 else (csiOf (s.imageOn s.survivor b.set.csi)).initial, sw := []
             pen := Pen.init (profileOf b.profile) }
    dev := ⟨[], []⟩, bytes := 0, digest := 0, gen := 0 }

/-- The route that `route.open` makes. -/
def State.newRoute (s : State) (b : Binding) (handle : Nat) (p : List Byte) (x : Halves (Option Nat)) (h : Half) : Route :=
  let seed := BitVec.ofNat 64 (u64At p 8)
  let rel := s.relStart b
  { handle := handle, binding := b.handle, state := .open, ran := false, seed := seed
    salt := u32At p 0x14, startStep := u32At p 0x10, limit := u32At p 0x20, oflags := u32At p 4
    deadline := u64At p 0x18, chains := x, half := h, stream := s.streamFor b, rel := rel
    mirror := ⟨seed, u32At p 0x14, u32At p 0x20, 0, 0, 0, rel⟩, record := ⟨none, none⟩
    promptN := 0, promptDigest := 0, inSeq := 0, outSeq := 0, intake := [], intakeEnded := false, tries := 0, tried := []
    ending := .none, rebasedAt := 0xFFFFFFFF, adm := none, copies := ⟨[], []⟩, peers := [], skip := [], stoppedSteps := []
    drafts := none, forcedMore := false, openDue := false, pauseDue := false, entries := [], saving := false, bench := none
    lastToks := [], lastRecs := [], waitRecs := [], spent := 0, outBytes := 0, sinceCheck := 0, checkAt := s.jr.next
    checkBytes := s.jr.written, markDue := false }

/-- CHAIN_W and CHAIN_E at an offset. -/
def chainsAt (p : List Byte) (off : Nat) : Halves (Option Nat) :=
  ⟨chainField (u16At p off), chainField (u16At p (off + 2))⟩

/-- Row 7 of `route.open`. -/
def State.openArgOk (s : State) (b : Binding) (p : List Byte) : Bool :=
  p.length == 48 && decide (u32At p 4 < 32) && zeroAt p 0x28 8 && decide (1 ≤ u32At p 0x20) &&
  decide (u32At p 0x10 + u32At p 0x20 ≤ 0xFFFFFFFF) && routeFlagsOk b (u32At p 4) &&
  (s.chainPlan b (chainsAt p 0x24)).isSome && !s.saltTaken b (u32At p 0x14) 0

def openBody (slot : Nat) (p : List Byte) (s : State) : State :=
  match s.binding (u32At p 0) with
  | none => s.refuse slot stState noBnd
  | some b =>
    if b.state ≠ .active then s.refuse slot stState (bndObj b)
    else if !s.openArgOk b p then s.refuse slot stArg noRoute
    else
      match s.freeRoute, s.chainPlan b (chainsAt p 0x24) with
      | some i, some h =>
        let r := s.newRoute b (s.routeHandle i) p (chainsAt p 0x24) h
        let t := ((s.commit slot).addRoute i r).reply slot stOk (routeObj r) (toLe 4 r.handle ++ toLe 4 r.next)
        ((if r.intakeFlag then t else t.opening r.handle).afterRelease r.handle).holdIfLeft r.handle
      | _, _ => s.refuse slot stNoSpace noRoute

/-- ROUTE_OPEN (12 R277, R278; 01 R15, R17, R19). -/
def execRouteOpen (slot : Byte) (s : State) : Host.Outcome State Fault Refusal :=
  .next (runMailbox cOpen anyPayload openBody slot s)

/-! ### `route.pause`, `route.save`, `route.end` (12 R281) -/

/-- Rows 5 and 6 for a route of a binding in one of `states`: the object that fails. -/
def State.routeFault (s : State) (handle : Nat) (bs : List BState) (rs : List RState) : Option ObjState :=
  match s.route handle with
  | none => some noRoute
  | some r =>
    if r.state = .ended then some (routeObj r)
    else
      match s.binding r.binding with
      | none => some noBnd
      | some b =>
        if !bs.contains b.state then some (bndObj b)
        else if !rs.contains r.state then some (routeObj r)
        else none

/-- The state a reply reports of a route. -/
def State.routeState (s : State) (handle : Nat) : ObjState := ((s.route handle).map routeObj).getD noRoute

/-- The command takes effect once the route rests (11 R257, 12 R281). -/
def State.routeWait (s : State) (slot : Nat) (p : List Byte) (handle : Nat) : State :=
  (s.setJob
    { slot := slot, code := s.sealCode slot, body := p, stage := 0, left := 0, parts := [], reply := []
      obj := .route handle, arg := handle, digest := 0, half := s.slotHalf slot }).settle handle

def pauseBody (slot : Nat) (p : List Byte) (s : State) : State :=
  match s.routeFault (u32At p 0) [.active] [.open, .running] with
  | some o => s.refuse slot stState o
  | none =>
    if p.length ≠ 8 ∨ !zeroAt p 4 4 then s.refuse slot stArg (s.routeState (u32At p 0))
    else s.routeWait slot p (u32At p 0)

/-- ROUTE_PAUSE. -/
def execRoutePause (slot : Byte) (s : State) : Host.Outcome State Fault Refusal :=
  .next (runMailbox cPause anyPayload pauseBody slot s)

def saveArgOk (p : List Byte) : Bool :=
  p.length == 48 && decide (u32At p 4 ≤ 1) && zeroAt p 8 8 &&
  (if bitOf (u32At p 4) 0 then (descAt p 0x10).okOut else zeroAt p 0x10 32)

def saveBody (slot : Nat) (p : List Byte) (s : State) : State :=
  match s.routeFault (u32At p 0) [.active] [.open, .running, .paused] with
  | some o => s.refuse slot stState o
  | none =>
    if !saveArgOk p then s.refuse slot stArg (s.routeState (u32At p 0)) else s.routeWait slot p (u32At p 0)

/-- ROUTE_SAVE (12 R279). -/
def execRouteSave (slot : Byte) (s : State) : Host.Outcome State Fault Refusal :=
  .next (runMailbox cSave anyPayload saveBody slot s)

def endBody (slot : Nat) (p : List Byte) (s : State) : State :=
  match s.routeFault (u32At p 0) [.active, .stopped] [.open, .running, .paused, .saved] with
  | some o => s.refuse slot stState o
  | none =>
    if p.length ≠ 8 ∨ 1 < u32At p 4 then s.refuse slot stArg (s.routeState (u32At p 0))
    else s.routeWait slot p (u32At p 0)

/-- ROUTE_END (10 R228, 12 R281). -/
def execRouteEnd (slot : Byte) (s : State) : Host.Outcome State Fault Refusal :=
  .next (runMailbox cEnd anyPayload endBody slot s)

/-! ### `route.resume` (12 R280; 10 R235, R236; 14 R327) -/

/-- The benchmark that a handle names. -/
def State.benchAt (s : State) (handle : Nat) : Option BenchEnt :=
  match s.bench.get? (handle % indexCount) with
  | some e => if e.handle = handle then some e else none
  | none => none

/-- The penalty history under the target binding's window (14 R329). -/
def Pen.fit (h : Pen) (win : Nat) : Pen :=
  match h with
  | .counts t => .counts t
  | .window ts => .window (ts.drop (ts.length - win))

/-- A benchmark read for a binding (14 R328, R329; log 55). -/
def benchFor (b : Binding) (bytes : List Byte) : Bench :=
  let win := (profileOf b.profile).penWindow
  let x := benchOf (win != 0) bytes
  { x with pen := x.pen.fit win }

/-- The digests and levels that a resume compares (10 R235, 05 R116, 14 R327). -/
def resumeOk (b : Binding) (rebase : Bool) (bytes : List Byte) : Bool :=
  let x := benchFor b bytes
  u8At bytes 6 == ifLevel && u8At bytes 7 == aLevel &&
  (if rebase then x.digests[0]? == some b.set.tki && x.digests[2]? == some b.set.csi
   else x.digests == [b.set.tki, b.set.hdi, b.set.csi, b.set.sli] && x.pdigest == paramDigest b)

/-- The route that goes on from a benchmark: its own salt and datum, the request's flags, chains and deadline; intake starts
again from SEQ 0, and records that have left since the save keep their numbers (12 R280, 10 R235; 07 R168; 08 R186). -/
def State.resumed (s : State) (b : Binding) (old : Route) (p : List Byte) (bytes : List Byte) (h : Half) : Route :=
  let x := benchFor b bytes
  let rebase := bitOf (u32At p 4) 0
  let q : Route := { old with
    binding := b.handle, state := x.rstate, ran := x.rstate == .running, seed := x.seed, salt := x.salt
    startStep := x.startStep, limit := x.limit, oflags := x.oflags % 2 + u32At p 0xC, deadline := u64At p 0x18
    chains := chainsAt p 0x10, half := h, stream := s.streamFor b
    rel := { pos := { g := x.gstate, sw := x.sw, pen := x.pen }
             dev := ⟨x.held.drop (x.held.length - x.u8n), x.held.take (x.held.length - x.u8n)⟩
             bytes := x.bytes, digest := x.printDigest, gen := x.next - x.startStep }
    promptN := x.promptN, promptDigest := x.promptDigest, inSeq := 0, outSeq := max x.outSeq old.outSeq, intake := []
    intakeEnded := x.rstate == .running, tries := 0, tried := [], rebasedAt := if rebase then x.next else x.rebasedAt
    stoppedSteps := [], record := ⟨none, none⟩, openDue := false, pauseDue := false
    saving := false, sinceCheck := 0, checkAt := s.jr.next, checkBytes := s.jr.written }
  q.synced

/-- MK_RESUMED, MK_MOVED and MK_REBASE (14 R340). -/
def State.resumeMarks (s : State) (r : Route) (moved rebase : Bool) : State :=
  let a := s.mark r.half 0x0003 r.handle r.next r.binding
  let b := if moved then a.mark r.half 0x0004 r.handle r.next r.binding else a
  if rebase then b.mark r.half 0x0002 r.handle r.next r.binding else b

def resumeReply (r : Route) (rebased : Bool) : List Byte := toLe 4 r.handle ++ toLe 4 r.next ++ toLe 1 (b2n rebased) ++ zeros 3

/-- The resume takes effect: the route stands in the table, with marks, and the masks of its next position form. -/
def State.resumeDone (s : State) (slot : Nat) (b : Binding) (r : Route) (moved rebase : Bool) : State :=
  let t := ((s.commit slot).setRoute r).resumeMarks r moved rebase
  ((t.reply slot stOk (routeObj r) (resumeReply r rebase)).wantMasks b r [r.rel.pos.g]).holdIfLeft r.handle

/-- A PAUSED route goes on with its own settings; a forced run or an opening release that its pause cut short goes on
(12 R280, 01 R19, R27). -/
def State.resumePaused (s : State) (slot : Nat) (b : Binding) (r : Route) : State :=
  let again := !r.promptOpen && !r.openDue && decide ((allowed (s.envFor b r) r.rel.pos).length = 1)
  let q : Route := { r with state := if r.ran then .running else .open, forcedMore := again }
  let t := ((s.commit slot).setRoute q).reply slot stOk (routeObj q) (resumeReply q false)
  let u := t.wantMasks b q [q.rel.pos.g]
  ((if q.openDue then u.opening q.handle else u).readmit q.handle).holdIfLeft q.handle

/-- Settings of a resume from a benchmark suit the target binding (12 R278, R280; 16 R401). -/
def State.resumeArgOk (s : State) (b : Binding) (p bytes : List Byte) (handle : Nat) : Bool :=
  (s.chainPlan b (chainsAt p 0x10)).isSome && routeFlagsOk b (u32At bytes 0x28 % 2 + u32At p 0xC) &&
  resumeOk b (bitOf (u32At p 4) 0) bytes && !s.saltTaken b (u32At bytes 0x18) handle

/-- A SAVED route moves to the target binding (12 R280). -/
def State.resumeSaved (s : State) (slot : Nat) (b : Binding) (r : Route) (p : List Byte) : State :=
  match r.bench.bind s.benchAt, s.chainPlan b (chainsAt p 0x10) with
  | some e, some h =>
    if s.resumeArgOk b p e.bytes r.handle then
      s.resumeDone slot b (s.resumed b r p e.bytes h) (r.binding != b.handle) (bitOf (u32At p 4) 0)
    else s.refuse slot stArg (routeObj r)
  | _, _ => s.refuse slot stArg (routeObj r)

/-- The fields of the request that are the same for every source. -/
def resumeFormOk (p : List Byte) : Bool :=
  let desc := bitOf (u32At p 4) 1
  p.length == 64 && decide (u32At p 4 ≤ 3) && zeroAt p 0x14 4 && u32At p 0xC % 2 == 0 && decide (u32At p 0xC < 32) &&
  (if desc then (descAt p 0x20).okIn && u32At p 8 == 0 else zeroAt p 0x20 32)

/-- REBASE, RFLAGS, the chains and DEADLINE are zero, and BINDING is the route's own (12 R280). -/
def pausedFormOk (b : Binding) (r : Route) (p : List Byte) : Bool :=
  r.binding == b.handle && u32At p 4 == 0 && zeroAt p 0xC 0x14

def resumeBody (slot : Nat) (p : List Byte) (s : State) : State :=
  let desc := bitOf (u32At p 4) 1
  match s.binding (u32At p 0) with
  | none => s.refuse slot stState noBnd
  | some b =>
    if desc then
      if b.state ≠ .active then s.refuse slot stState (bndObj b)
      else if !resumeFormOk p then s.refuse slot stArg noRoute
      else
        s.readJob
          { slot := slot, code := cResume, body := p, stage := 1, left := 0, parts := [], reply := [], obj := .fixed noRoute
            arg := 0, digest := 0, half := s.slotHalf slot } [(descAt p 0x20).region]
    else
      match s.route (u32At p 8) with
      | none => s.refuse slot stState noRoute
      | some r =>
        if b.state ≠ .active then s.refuse slot stState (bndObj b)
        else if r.state ≠ .paused ∧ r.state ≠ .saved then s.refuse slot stState (routeObj r)
        else if !resumeFormOk p then s.refuse slot stArg (routeObj r)
        else if r.state = .saved then s.resumeSaved slot b r p
        else if !pausedFormOk b r p then s.refuse slot stArg (routeObj r)
        else s.resumePaused slot b r

/-- FROM_DESC: the benchmark has been read (12 R280, 14 R330). -/
def State.resumeRead (s : State) (j : Job) : State :=
  let bytes := j.parts.flatten
  let p := j.body
  match s.binding (u32At p 0) with
  | none => s.refuse j.slot stState noBnd
  | some b =>
    if !(descAt p 0x20).crcOk bytes || !benchOk bytes then s.refuse j.slot stArg noRoute
    else if u8At bytes 0x2C = RState.ended.code then s.refuse j.slot stState ⟨skRoute, RState.ended.code⟩
    else if b.state ≠ .active then s.refuse j.slot stState (bndObj b)
    else if !s.resumeArgOk b p bytes 0 then s.refuse j.slot stArg noRoute
    else
      match s.freeRoute, s.chainPlan b (chainsAt p 0x10) with
      | some i, some h =>
        let r := s.resumed b (s.newRoute b (s.routeHandle i) (zeros 48) (chainsAt p 0x10) h) p bytes h
        (s.addRoute i r).resumeDone j.slot b r false (bitOf (u32At p 4) 0)
      | _, _ => s.refuse j.slot stNoSpace noRoute

/-- ROUTE_RESUME (12 R280). -/
def execRouteResume (slot : Byte) (s : State) : Host.Outcome State Fault Refusal :=
  .next (runMailbox cResume anyPayload resumeBody slot s)

/-! ### `route.query`, `route.discard`, `route.export` (12 R279, R281) -/

def rtQueryBody (slot : Nat) (p : List Byte) (s : State) : State :=
  match s.route (u32At p 0) with
  | none => s.refuse slot stState noRoute
  | some r =>
    if p.length ≠ 8 ∨ !zeroAt p 4 4 then s.refuse slot stArg (routeObj r)
    else
      s.reply slot stOk (routeObj r)
        (toLe 4 r.binding ++ toLe 4 r.next ++ toLe 4 r.rel.gen ++ toLe 4 r.promptN ++ toLe 8 r.rel.bytes ++
          toLe 4 (r.bench.getD 0) ++ toLe 4 r.oflags)

/-- ROUTE_QUERY. -/
def execRouteQuery (slot : Byte) (s : State) : Host.Outcome State Fault Refusal :=
  .next (runMailbox cRtQuery anyPayload rtQueryBody slot s)

def discardBody (slot : Nat) (p : List Byte) (s : State) : State :=
  match s.benchAt (u32At p 0) with
  | none => s.refuse slot stState noRoute
  | some e =>
    let owner := (s.route e.route).filter fun r => r.bench == some e.handle
    match owner.filter fun r => r.state == .saved with
    | some r => s.refuse slot stState (routeObj r)
    | none =>
      if p.length ≠ 8 ∨ !zeroAt p 4 4 then s.refuse slot stArg (engineObj s)
      else
        let t := (s.commit slot).dropBench (e.handle % indexCount)
        let t := match owner with
          | some r => t.setRoute { r with bench := none }
          | none => t
        t.reply slot stOk (engineObj t) []

/-- ROUTE_DISCARD. -/
def execRouteDiscard (slot : Byte) (s : State) : Host.Outcome State Fault Refusal :=
  .next (runMailbox cDiscard anyPayload discardBody slot s)

def exportBody (slot : Nat) (p : List Byte) (s : State) : State :=
  match s.benchAt (u32At p 0) with
  | none => s.refuse slot stState noRoute
  | some e =>
    let d := descAt p 0x10
    if p.length ≠ 48 ∨ !zeroAt p 4 12 ∨ !d.okOut ∨ d.len < e.bytes.length then s.refuse slot stArg (engineObj s)
    else s.writeThen slot p ⟨d.addr, e.bytes.length⟩ e.bytes .engine (toLe 8 e.bytes.length)

/-- ROUTE_EXPORT. -/
def execRouteExport (slot : Byte) (s : State) : Host.Outcome State Fault Refusal :=
  .next (runMailbox cExport anyPayload exportBody slot s)

end Sys2Proof.Machine
end

