-- ==== Sys2Proof/Machine/Engine.lean ====
section
/-! DEFINITION. The engine commands: query, configure, drain, serve, halt and restart (12 R266-R268; 11 R256). -/
namespace Sys2Proof.Machine

/-- A command of an empty payload. -/
def bare (slot : Nat) (p : List Byte) (s : State) (t : State) : State :=
  if p.isEmpty then t else s.refuse slot stArg (engineObj s)

/-- The 560 bytes of the `engine.query` reply (12 R266). -/
def State.queryReply (s : State) : List Byte := s.identity ++ (List.range 8).flatMap fun n => keyslotBytes (s.keyslot n)

def engQueryBody (slot : Nat) (p : List Byte) (s : State) : State :=
  bare slot p s (s.reply slot stOk (engineObj s) s.queryReply)

/-- ENGINE_QUERY (12 R266). -/
def execEngineQuery (slot : Byte) (s : State) : Host.Outcome State Fault Refusal :=
  .next (runMailbox cQuery anyPayload engQueryBody slot s)

/-- 0, or within a range. -/
def zeroOrIn (lo hi v : Nat) : Bool := v == 0 || (decide (lo ≤ v) && decide (v ≤ hi))

/-- MASK and the settings that it applies are in range (12 R267). -/
def configureOk (p : List Byte) : Bool :=
  let m := u32At p 0
  p.length == 16 && decide (m < 8) && zeroAt p 6 2 && zeroAt p 0xC 4 &&
  (!bitOf m 0 || decide (u8At p 4 ≤ 1)) &&
  (!bitOf m 1 || (zeroOrIn 200 1000 (u16At p 8) && zeroOrIn 200 1000 (u16At p 0xA))) &&
  (!bitOf m 2 || zeroOrIn 60 105 (u8At p 5))

/-- The settings after the command. -/
def configured (p : List Byte) (e : EngSt) : EngSt :=
  let m := u32At p 0
  { e with strict := if bitOf m 0 then u8At p 4 == 1 else e.strict
           pcapW := if bitOf m 1 then BitVec.ofNat 16 (u16At p 8) else e.pcapW
           pcapE := if bitOf m 1 then BitVec.ofNat 16 (u16At p 0xA) else e.pcapE
           tset := if bitOf m 2 then BitVec.ofNat 8 (u8At p 5) else e.tset }

def configureBody (slot : Nat) (p : List Byte) (s : State) : State :=
  if configureOk p then ({ s with eng := configured p s.eng } : State).commitOk slot (engineObj s) []
  else s.refuse slot stArg (engineObj s)

/-- ENGINE_CONFIGURE (12 R267). -/
def execEngineConfigure (slot : Byte) (s : State) : Host.Outcome State Fault Refusal :=
  .next (runMailbox cConfigure anyPayload configureBody slot s)

/-- The engine in another state. -/
def State.withState (s : State) (e : EState) : State := { s with eng := { s.eng with state := e } }

def drainBody (slot : Nat) (p : List Byte) (s : State) : State :=
  bare slot p s ((s.withState .drain).commitOk slot ⟨skEngine, EState.drain.code⟩ [])

/-- ENGINE_DRAIN (12 R268, 11 R256). -/
def execEngineDrain (slot : Byte) (s : State) : Host.Outcome State Fault Refusal :=
  .next (runMailbox cDrain anyPayload drainBody slot s)

/-- SERVICE with both halves present, LIMP otherwise. -/
def State.servingState (s : State) : EState := if s.bothServe then .service else .limp

def serveBody (slot : Nat) (p : List Byte) (s : State) : State :=
  bare slot p s ((s.withState s.servingState).commitOk slot ⟨skEngine, s.servingState.code⟩ [])

/-- ENGINE_SERVE (12 R268, 11 R256). -/
def execEngineServe (slot : Byte) (s : State) : Host.Outcome State Fault Refusal :=
  .next (runMailbox cServe anyPayload serveBody slot s)

/-- HALT at once: the reply is written, and then the engine becomes quiet. -/
def State.haltNow (s : State) (slot : Nat) : State :=
  ((s.withState .halt).commitOk slot ⟨skEngine, EState.halt.code⟩ (toLe 4 0)).enterHalt

/-- Hold every route as at a step fence; HALT follows once all are SAVED (12 R268). -/
def State.haltSaving (s : State) (slot : Nat) (p : List Byte) : State :=
  ((s.rt.vals.filter liveRoute).foldl (fun t r => t.settle r.handle) (s.begin slot p 0)).finishHalt

def haltBody (slot : Nat) (p : List Byte) (s : State) : State :=
  let all := bitOf (u32At p 0) 0
  match (s.rt.vals.find? fun r => r.state == .running).filter fun _ => !all with
  | some r => s.refuse slot stState (routeObj r)
  | none =>
    if p.length ≠ 8 ∨ 1 < u32At p 0 ∨ !zeroAt p 4 4 then s.refuse slot stArg (engineObj s)
    else if all then s.haltSaving slot p else s.haltNow slot

/-- ENGINE_HALT (12 R268). -/
def execEngineHalt (slot : Byte) (s : State) : Host.Outcome State Fault Refusal :=
  .next (runMailbox cHalt anyPayload haltBody slot s)

def restartBody (slot : Nat) (p : List Byte) (s : State) : State :=
  let a := s.commitOk slot (engineObj s) []
  bare slot p s { a with eng := { a.eng with restartDue := true } }

/-- ENGINE_RESTART: the reply, and a warm restart after it (12 R268). -/
def execEngineRestart (slot : Byte) (s : State) : Host.Outcome State Fault Refusal :=
  .next (runMailbox cRestart anyPayload restartBody slot s)

end Sys2Proof.Machine
end

