-- ==== Sys2Proof/Machine/Diag.lean ====
section
/-! DEFINITION. The diagnostic commands (12 R282-R285; 09 R211; 14 R326, R340, R343). -/
namespace Sys2Proof.Machine

/-! ### Counters, census, residency -/

def countersBody (slot : Nat) (p : List Byte) (s : State) : State :=
  if p.length ≠ 8 ∨ !zeroAt p 2 6 ∨ 6 < u16At p 0 then s.refuse slot stArg (engineObj s)
  else s.reply slot stOk (engineObj s) ((s.counterSet (u16At p 0)).flatMap (toLe 8))

/-- DIAG_COUNTERS (12 R282). -/
def execDiagCounters (slot : Byte) (s : State) : Host.Outcome State Fault Refusal :=
  .next (runMailbox cCounters anyPayload countersBody slot s)

def censusBody (slot : Nat) (p : List Byte) (s : State) : State :=
  bare slot p s (s.reply slot stOk (engineObj s) (s.censusBytes .west ++ s.censusBytes .east))

/-- DIAG_CENSUS (12 R283). -/
def execDiagCensus (slot : Byte) (s : State) : Host.Outcome State Fault Refusal :=
  .next (runMailbox cCensus anyPayload censusBody slot s)

/-- RESIDENT, FILLING, CACHED and FETCHES of an image on a half: a head's region and its cached rows, or a constraint set's
cached entries (12 R285). -/
def HalfSt.residency (x : HalfSt) (hdi : Bool) (d : Digest) : Bool × Bool × Nat × Nat :=
  let es := x.heads.filter fun e => e.digest == d
  let keys := if hdi then x.vocCache.map (fun e => e.key) else x.maskCache.map (fun e => e.key)
  (hdi && es.any fun e => e.resident,
   if hdi then es.any fun e => !e.resident else x.maskFetch.any fun k => k.digest == d,
   (keys.filter fun k => k.digest == d).length,
   ((x.fetches.find? fun f => f.digest == d).map fun f => f.n).getD 0)

def residencyBody (slot : Nat) (p : List Byte) (s : State) : State :=
  let d := digestAt p 8
  match s.image d with
  | none => s.refuse slot stState noImg
  | some i =>
    let hdi := i.typ == .hdi
    if p.length ≠ 56 ∨ !zeroAt p 1 7 ∨ u8At p 0 ≠ (if hdi then 1 else 2) ∨ !(hdi || i.typ == .csi) then
      s.refuse slot stArg (imgObj i)
    else
      let w := s.half.w.residency hdi d
      let e := s.half.e.residency hdi d
      s.reply slot stOk (imgObj i)
        (toLe 1 (b2n w.1 + 2 * b2n e.1) ++ toLe 1 (b2n w.2.1 + 2 * b2n e.2.1) ++ zeros 2 ++
          toLe 4 (if hdi then s.pins d else 0) ++ toLe 4 w.2.2.1 ++ toLe 8 w.2.2.2 ++ toLe 4 e.2.2.1 ++ toLe 8 e.2.2.2)

/-- DIAG_RESIDENCY (12 R285). -/
def execDiagResidency (slot : Byte) (s : State) : Host.Outcome State Fault Refusal :=
  .next (runMailbox cResidency anyPayload residencyBody slot s)

/-! ### Bank regions (12 R284, 09 R211) -/

/-- A cache entry that a request names. -/
def bankKey (p : List Byte) : CacheKey := ⟨digestAt p 0x10, u32At p 4⟩

/-- A half's banks hold what it stored: it serves, or has not been reset since it was drained; its stacks do while it has its
rails (09 R207, 15 R349; log 82). -/
def HalfSt.banksHold (x : HalfSt) : Bool := x.serves || (x.code == .drained && !x.needsSurvey)
def HalfSt.stacksHold (x : HalfSt) : Bool := x.serves || (x.code == .drained && x.coreRails)

/-- What a binding's record holds, and what an entry of the mask cache holds, whose layouts the manual does not give. -/
def Binding.held (b : Binding) : List Byte :=
  toLe 4 b.handle ++ b.profile ++ b.bias ++ b.stops ++ toLe 1 b.stopFlags ++ toLe 1 b.endPolicy ++ toLe 2 b.classSel ++
    toLe 1 b.shards ++ toLe 1 b.shard ++ b.set.digests.flatMap digestBytes
def MaskEnt.held (m : MaskEnt) : List Byte :=
  toLe 4 m.state ++ toLe 1 (b2n m.accepting) ++ m.gset.flatMap (toLe 4) ++ m.runs.flatMap fun r => toLe 4 r.1 ++ toLe 4 r.2

/-- The bytes of a record of a kind, from what it holds (log 9). -/
def recordOf (kind n : Nat) (held : List Byte) : List Byte := (List.range n).map fun i => Config.recordByte kind held i

/-- A route's record on a half. -/
def State.routeRegion (s : State) (r : Route) (h : Half) : List Byte :=
  match s.binding r.binding with
  | some b => r.recordBytes b h
  | none => recordOf 2 routeRecord []

/-- The bytes of the region that a request names; none when it does not exist (12 R284, 09 R211; log 9). -/
def State.bankRegion (s : State) (p : List Byte) : Option (List Byte) :=
  let h := Half.ofCode (u8At p 1)
  let x := s.hs h
  let k := u8At p 0
  if k = 1 then
    (((s.image (digestAt p 0x10)).filter fun i => i.readable h).filter fun _ => x.stacksHold).map fun i => i.copies.get h
  else if !x.banksHold then none
  else if k = 2 then (s.route (u32At p 4)).map fun r => s.routeRegion r h
  else if k = 3 then
    (s.binding (u32At p 4)).map fun b => (b.record.get h).getD (recordOf 3 (Config.recordSize 3) b.held)
  else if k = 4 then (x.vocCache.find? fun e => e.key == bankKey p).map fun e => e.bytes
  else
    (x.maskCache.find? fun e => e.key == bankKey p).map fun e => e.bytes.getD (recordOf 5 (Config.recordSize 5) e.ent.held)

/-- The object that owns a region. -/
def bankRef (p : List Byte) : ObjRef :=
  match u8At p 0 with
  | 2 => .route (u32At p 4)
  | 3 => .binding (u32At p 4)
  | _ => .image (digestAt p 0x10)

/-- Row 7 for a region of `n` bytes. -/
def bankArgOk (p : List Byte) (n : Nat) (write : Bool) : Bool :=
  let d := descAt p 0x40
  let k := u8At p 0
  p.length == 96 && zeroAt p 2 2 && u64At p 8 % 8 == 0 && d.len % 8 == 0 && (if write then d.okIn else d.okOut) &&
  (k != 1 || u32At p 4 == 0) && (!(k == 2 || k == 3) || digestAt p 0x10 == 0) && decide (u64At p 8 + d.len ≤ n)

/-- KIND and HALF name a kind of region. -/
def bankNamed (p : List Byte) : Bool := decide (1 ≤ u8At p 0) && decide (u8At p 0 ≤ 5) && decide (u8At p 1 ≤ 1)

/-- A request to a half's banks wakes those in retention (09 R207). -/
def State.wakeHalf (s : State) (p : List Byte) : State :=
  if u8At p 0 = 1 then s else s.onHalf (Half.ofCode (u8At p 1)) HalfSt.wake

def bankReadBody (slot : Nat) (p : List Byte) (s : State) : State :=
  if !bankNamed p then s.refuse slot stArg (engineObj s)
  else
    match s.bankRegion p with
    | none => s.refuse slot stState ⟨(s.objOf (bankRef p)).kind, 0xFF⟩
    | some c =>
      if !bankArgOk p c.length false then s.refuse slot stArg (s.objOf (bankRef p))
      else
        (s.wakeHalf p).writeThen slot p (descAt p 0x40).region (slice c (u64At p 8) (descAt p 0x40).len) (bankRef p) []

/-- DIAG_BANK_READ (12 R284). -/
def execDiagBankRead (slot : Byte) (s : State) : Host.Outcome State Fault Refusal :=
  .next (runMailbox cBankRead anyPayload bankReadBody slot s)

def bankWriteBody (slot : Nat) (p : List Byte) (s : State) : State :=
  if !bankNamed p then s.refuse slot stArg (engineObj s)
  else
    match s.bankRegion p with
    | none => s.refuse slot stState ⟨(s.objOf (bankRef p)).kind, 0xFF⟩
    | some c =>
      if !bankArgOk p c.length true then s.refuse slot stArg (s.objOf (bankRef p))
      else
        s.readJob
          { slot := slot, code := cBankWrite, body := p, stage := 1, left := 0, parts := [], reply := []
            obj := bankRef p, arg := u32At p 4, digest := digestAt p 0x10, half := s.slotHalf slot }
          [(descAt p 0x40).region]

/-- DIAG_BANK_WRITE (12 R284). -/
def execDiagBankWrite (slot : Byte) (s : State) : Host.Outcome State Fault Refusal :=
  .next (runMailbox cBankWrite anyPayload bankWriteBody slot s)

/-- The routes whose output depends on a changed region get their mark (14 R326, R340). -/
def State.markRoutes (s : State) (depends : Binding → Bool) : State :=
  let hs := (s.rt.vals.filter fun r => liveRoute r && ((s.binding r.binding).map depends).getD false).map fun r => r.handle
  let a := hs.foldl (fun t h => match t.route h with
    | some r => t.setRoute { r with markDue := true }
    | none => t) s
  hs.foldl (fun t h => t.settle h) a

/-- A mask-cache entry as written bytes spell it: its layout is not given, so its contents are free, a function of the bytes
(09 R211; log 9). -/
def MaskEnt.spelled (bytes : List Byte) (m : MaskEnt) : MaskEnt :=
  { state := m.state, accepting := bitOf (spells 5 bytes 0 1) 0
    gset := (List.range (spells 5 bytes 4 3)).filter fun t => bitOf (spells 5 bytes (16 + t / 8) 1) (t % 8)
    runs := (List.range (spells 5 bytes 8 2)).map fun i => (spells 5 bytes (2 ^ 22 + 8 * i) 3, spells 5 bytes (2 ^ 22 + 8 * i + 4) 3) }

def MaskCell.write (off : Nat) (data : List Byte) (m : MaskCell) : MaskCell :=
  let bytes := patch (m.bytes.getD (recordOf 5 (Config.recordSize 5) m.ent.held)) off data
  { m with ent := m.ent.spelled bytes, bytes := some bytes }

/-- A cache entry takes the bytes of a diagnostic write; the most recent order stays. -/
def HalfSt.writeEntry (x : HalfSt) (row : Bool) (k : CacheKey) (off : Nat) (data : List Byte) : HalfSt :=
  if row then { x with vocCache := x.vocCache.map fun e => if e.key = k then { e with bytes := patch e.bytes off data } else e }
  else { x with maskCache := x.maskCache.map fun e => if e.key = k then e.write off data else e }

/-- A region takes the bytes of a diagnostic write; an image keeps its state (12 R284). -/
def State.writeRegion (s : State) (p : List Byte) (c data : List Byte) : State :=
  let h := Half.ofCode (u8At p 1)
  let off := u64At p 8
  match u8At p 0, s.image (digestAt p 0x10), s.binding (u32At p 4) with
  | 1, some i, _ => s.setImage { i with copies := i.copies.set h (patch c off data) }
  | 3, _, some b => s.setBinding { b with record := b.record.set h (some (patch c off data)) }
  | _, _, _ => s.onHalf h fun x => x.writeEntry (u8At p 0 == 4) (bankKey p) off data

/-- A binding's steps read the region that a request names. -/
def bankUse (p : List Byte) (b : Binding) : Bool :=
  if u8At p 0 = 3 then b.handle == u32At p 4 else b.set.digests.contains (digestAt p 0x10)

/-- The data of a diagnostic write have been read: the region changes (12 R284, R290; 09 R211; log 56). -/
def State.bankWritten (s : State) (j : Job) : State :=
  let p := j.body
  let data := j.parts.flatten
  if !(descAt p 0x40).crcOk data then s.refuse j.slot stArg (s.objOf (bankRef p))
  else
    match s.bankRegion p with
    | none => s.refuse j.slot stState ⟨(s.objOf (bankRef p)).kind, 0xFF⟩
    | some c =>
      if u8At p 0 = 2 then ((s.wakeHalf p).setJob { j with stage := 0 }).settle j.arg
      else
        ((((s.commit j.slot).wakeHalf p).writeRegion p c data).markRoutes (bankUse p)).complete j.slot (bankRef p) []

/-! ### Journal (12 R285) -/

/-- The contact-sheet records of a salt from a step on, in record order. -/
def State.contacts (s : State) (salt first : Nat) : List (List Byte) :=
  ((s.jr.recs.filter fun r => r.kind == 0x24).map fun r => r.payload).filter fun b =>
    u32At b 0 == salt && decide (first ≤ u32At b 4)

def contactBody (slot : Nat) (p : List Byte) (s : State) : State :=
  let d := descAt p 0x10
  if p.length ≠ 48 ∨ !zeroAt p 0xC 4 ∨ !d.okOut then s.refuse slot stArg (engineObj s)
  else
    let found := (s.contacts (u32At p 0) (u32At p 4)).take (min (u32At p 8) (d.len / 64))
    s.writeThen slot p ⟨d.addr, 64 * found.length⟩ found.flatten .engine
      (toLe 4 found.length ++ toLe 4 ((found.head?.map fun b => u32At b 4).getD 0))

/-- DIAG_CONTACT_READ (12 R285, 14 R343). -/
def execDiagContactRead (slot : Byte) (s : State) : Host.Outcome State Fault Refusal :=
  .next (runMailbox cContact anyPayload contactBody slot s)

/-- Whole records that fit a region. -/
def exportRecs : Nat → Nat → List JRec → List JRec
  | 0, _, _ => []
  | _, _, [] => []
  | n + 1, room, r :: t => if r.size ≤ room then r :: exportRecs n (room - r.size) t else []

def jexportBody (slot : Nat) (p : List Byte) (s : State) : State :=
  let d := descAt p 0x10
  if p.length ≠ 48 ∨ !zeroAt p 0xC 4 ∨ !d.okOut then s.refuse slot stArg (engineObj s)
  else
    let all := s.jr.from (u64At p 0)
    let out := exportRecs (u32At p 8) d.len all
    let next := (((all.drop out.length).head?).map fun r => r.number).getD s.jr.next
    let bytes := out.flatMap JRec.bytes
    s.writeThen slot p ⟨d.addr, bytes.length⟩ bytes .engine (toLe 4 out.length ++ zeros 4 ++ toLe 8 next)

/-- DIAG_JOURNAL_EXPORT (12 R285). -/
def execDiagJournalExport (slot : Byte) (s : State) : Host.Outcome State Fault Refusal :=
  .next (runMailbox cJExport anyPayload jexportBody slot s)

/-- The numbers of the records that bytes of the journal hold. -/
def recNumbers : Nat → List Byte → List Nat
  | 0, _ => []
  | n + 1, b => if b.length < 32 then [] else u64At b 0 :: recNumbers n (b.drop (32 + roundUp (u32At b 12) 32))

/-- Records that an export has written to host memory leave the unflushed ones (14 R342). -/
def State.exported (s : State) (data : List Byte) : State := { s with jr := s.jr.save (recNumbers data.length data) }

/-! ### Self-test (12 R285) -/

/-- A survey of a half, or another self-test, runs. -/
def State.testing (s : State) : Bool :=
  (s.mbx.jobs.any fun j => j.code == cSelftest) ||
    [s.half.w, s.half.e].any fun x => !(x.phase == .held || x.phase == .up)

/-- Plates that a scope tests on a half. -/
def HalfSt.tested (x : HalfSt) (scope : Nat) : Nat := if scope = 0 then x.spare else 128 - x.emptyPos.length + x.spare

def selftestBody (slot : Nat) (p : List Byte) (s : State) : State :=
  let scope := u8At p 0
  let h := Half.ofCode (u8At p 1)
  let x := s.hs h
  if (scope = 1 ∨ scope = 2) ∧ u8At p 1 ≤ 1 ∧ !(x.code == .drained && s.eng.state == .limp) then
    s.refuse slot stState (engineObj s)
  else if p.length ≠ 8 ∨ 2 < scope ∨ 1 < u8At p 1 ∨ !zeroAt p 2 6 then s.refuse slot stArg (engineObj s)
  else if s.testing then s.refuse slot stBusy (engineObj s)
  else
    let a := s.setJob { slot := slot, code := cSelftest, body := p, stage := 1, left := 0, parts := [], reply := []
                        obj := .engine, arg := x.tested scope, digest := 0, half := s.slotHalf slot }
    if scope = 0 then a.onHalf h fun x => { x with spare := 0, underTest := x.spare } else a

/-- DIAG_SELFTEST (12 R285). -/
def execDiagSelftest (slot : Byte) (s : State) : Host.Outcome State Fault Refusal :=
  .next (runMailbox cSelftest anyPayload selftestBody slot s)

/-- A SPARE plate that fails is retired; no position is concerned. -/
def State.retireSpare (s : State) (h : Half) : State :=
  ((s.countFault h 4 1).onHalf h fun x => { x with spare := x.spare - 1, retired := x.retired + 1 }).recovery h 0x0003 0 0

/-- Plates that failed a bank test are retired; which positions they fill is not told (log 9). -/
def State.retireFailed (s : State) (h : Half) : Nat → State
  | 0 => s
  | n + 1 =>
    let f := s.takeFree 1
    State.retireFailed (f.2.retirePlate h (freeNat f.1 1 % 128)) h n

/-- SELFTEST_DONE: the plates that failed are retired, and the command completes (12 R285, 14 R335). -/
def State.selftestDone (s : State) (h : Half) (failed : Nat) : State :=
  match s.mbx.jobs.find? fun j => j.code == cSelftest && Half.ofCode (u8At j.body 1) == h with
  | none => s
  | some j =>
    let n := min failed j.arg
    let a := if u8At j.body 0 = 0 then
        (List.range n).foldl (fun t _ => t.retireSpare h)
          (s.onHalf h fun x => { x with spare := x.spare + x.underTest, underTest := 0 })
      else s.retireFailed h n
    let f := a.takeFree 1
    let sig := Config.selftestSignature f.1
    (f.2.onHalf h fun x => { x with signature := sig }).complete j.slot .engine
      (toLe 2 j.arg ++ toLe 2 n ++ zeros 4 ++ toLe 8 sig.toNat)

def execSelftestDone (h : Half) (failed : U16) (s : State) : Host.Outcome State Fault Refusal :=
  .next (s.selftestDone h failed.toNat)

/-! ### Snapshot (12 R285) -/

def snapEntry (handle state binding next : Nat) : List Byte := toLe 4 handle ++ toLe 1 state ++ zeros 3 ++ toLe 4 binding ++ toLe 4 next

/-- The entries of a kind: bindings, routes that are not ENDED, benchmarks, in index order (12 R285). -/
def State.snapshot (s : State) (kind : Nat) : List (List Byte) :=
  if kind = 0 then s.bnd.vals.map fun b => snapEntry b.handle b.state.code b.handle 0
  else if kind = 1 then (s.rt.vals.filter liveRoute).map fun r => snapEntry r.handle r.state.code r.binding r.next
  else s.bench.vals.map fun e =>
    snapEntry e.handle (u8At e.bytes 0x2C) (((s.route e.route).map fun r => r.binding).getD 0) (u32At e.bytes 0x20)

def snapshotBody (slot : Nat) (p : List Byte) (s : State) : State :=
  let d := descAt p 0x10
  if p.length ≠ 48 ∨ 2 < u8At p 0 ∨ !zeroAt p 1 3 ∨ !zeroAt p 8 8 ∨ !d.okOut then s.refuse slot stArg (engineObj s)
  else
    let l := s.snapshot (u8At p 0)
    let c := u32At p 4
    let n := min (l.length - c) (d.len / 16)
    s.writeThen slot p ⟨d.addr, 16 * n⟩ ((l.drop c).take n).flatten .engine
      (toLe 4 n ++ toLe 4 (if c + n < l.length then c + n else 0))

/-- DIAG_SNAPSHOT (12 R285). -/
def execDiagSnapshot (slot : Byte) (s : State) : Host.Outcome State Fault Refusal :=
  .next (runMailbox cSnapshot anyPayload snapshotBody slot s)

end Sys2Proof.Machine
end

