-- ==== Sys2Proof/Machine/Service.lean ====
section
/-! DEFINITION. The rescue and in-service commands (12 R286-R289; 13 R316; 15 R349, R368; 18 R434-R444). -/
namespace Sys2Proof.Machine

/-! ### Rescue commands (12 R286, R287) -/

/-- The 1,040 bytes of the `service.rescue_status` reply. -/
def State.rescueReply (s : State) : List Byte :=
  toLe 1 s.eng.state.code ++ toLe 1 s.half.w.code.code ++ toLe 1 s.half.e.code.code ++ toLe 1 s.half.w.fw.code ++
  toLe 1 s.half.e.fw.code ++ zeros 3 ++ toLe 4 s.safe.events.toNat ++ zeros 4 ++
  (List.range 256).flatMap fun k => toLe 4 (s.lastOf k)

def rescueStatusBody (slot : Nat) (p : List Byte) (s : State) : State :=
  bare slot p s (s.reply slot stOk (engineObj s) s.rescueReply)

/-- SERVICE_RESCUE_STATUS (12 R286, R465). -/
def execServiceRescueStatus (slot : Byte) (s : State) : Host.Outcome State Fault Refusal :=
  .next (runMailbox cRescue anyPayload rescueStatusBody slot s)

/-- The entries of both series as the answering controller holds them, in order of NUMBER, West before East (19 R457). -/
def State.logHeld (s : State) : List LogEnt :=
  (match s.rescueServer with
   | some h => s.safe.logs.get h
   | none => s.safe.logs.w).foldl (fun l e => logInsert e l) []

/-- NEXT: the number of the first entry that has not been written, or the one that the next entry will take. -/
def State.logNext (s : State) (rest : List LogEnt) : Nat :=
  (rest.head?.map fun e => e.number).getD (max s.safe.nextW s.safe.nextE)

def logReadBody (slot : Nat) (p : List Byte) (s : State) : State :=
  let d := descAt p 0x10
  if p.length ≠ 48 ∨ u32At p 4 = 0 ∨ 256 < u32At p 4 ∨ !zeroAt p 8 8 ∨ !d.okOut then s.refuse slot stArg (engineObj s)
  else
    let all := s.logHeld.filter fun e => decide (u32At p 0 ≤ e.number)
    let n := min all.length (min (u32At p 4) (d.len / 64))
    s.writeThen slot p ⟨d.addr, 64 * n⟩ ((all.take n).flatMap LogEnt.bytes) .engine
      (toLe 4 n ++ toLe 4 (s.logNext (all.drop n)))

/-- SERVICE_LOG_READ (12 R286, 19 R457). -/
def execServiceLogRead (slot : Byte) (s : State) : Host.Outcome State Fault Refusal :=
  .next (runMailbox cLogRead anyPayload logReadBody slot s)

/-- An access of the host's flush is outstanding. -/
def State.flushing (s : State) : Bool := s.mi.any fun a => a.purpose == .hostFlush

/-- The 32 bytes of the `service.journal_flush` reply; bytes count once they are written. -/
def flushReply (bytes first recs done : Nat) : List Byte := toLe 8 bytes ++ toLe 8 first ++ toLe 8 recs ++ toLe 1 done ++ zeros 7

/-- The unflushed records that a flush of a supply warning does not take (12 R290). -/
def State.toFlush (s : State) : List JRec :=
  s.jr.unflushed.filter fun r => !(s.jr.warn.any fun f => f.numbers.contains r.number)

/-- A flush of the unflushed records, whole ones, as far as the region takes them. -/
def State.startFlush (s : State) (slot : Nat) (g : Region) : State :=
  let recs := exportRecs s.jr.recs.length g.len s.toFlush
  let bytes := recs.flatMap JRec.bytes
  let f := Flush.of g recs s.jr.next
  let a : State := { s with jr := { s.jr with host := some f } }
  let b := if bytes.isEmpty then a else a.miWrite a.survivor g.addr bytes .hostFlush
  b.reply slot stOk (engineObj s) (flushReply 0 f.first f.records 0)

def flushStartBody (slot : Nat) (p : List Byte) (s : State) : State :=
  let d := descAt p 8
  if p.length ≠ 40 ∨ !zeroAt p 0 8 ∨ !d.okOut then s.refuse slot stArg (engineObj s)
  else if (s.jr.host.map fun f => !f.done).getD false then s.refuse slot stBusy (engineObj s)
  else s.startFlush slot d.region

/-- SERVICE_JOURNAL_FLUSH_START: `service.journal_flush` with PHASE START, and any PHASE that is neither (12 R287). -/
def execServiceJournalFlushStart (slot : Byte) (s : State) : Host.Outcome State Fault Refusal :=
  .next (runMailbox cFlush (fun p => u8At p 0 != 1)
    flushStartBody slot s)

def flushPollBody (slot : Nat) (p : List Byte) (s : State) : State :=
  if p.length ≠ 40 ∨ !zeroAt p 1 39 then s.refuse slot stArg (engineObj s)
  else
    s.reply slot stOk (engineObj s)
      (match s.jr.host with
       | some f => flushReply (if s.flushing then 0 else f.bytes) f.first f.records (b2n f.done)
       | none => flushReply 0 0 0 0)

/-- SERVICE_JOURNAL_FLUSH_POLL (12 R287). -/
def execServiceJournalFlushPoll (slot : Byte) (s : State) : Host.Outcome State Fault Refusal :=
  .next (runMailbox cFlush (fun p => u8At p 0 == 1) flushPollBody slot s)

/-- A chain at electrical idle until it is retrained (12 R286). -/
def State.quiesce (s : State) (h : Half) (c : Nat) : State :=
  ({ s with lanes := s.lanes.modify h fun ls => ls.map fun l =>
      if l.member = some c then { l with member := none, mode := .dropped } else l } : State).onChain h c
    fun x => { x with quiet := true }

def quiesceBody (slot : Nat) (p : List Byte) (s : State) : State :=
  if p.length ≠ 4 then s.refuse slot stArg (engineObj s)
  else
    let m := u32At p 0
    ((List.range 32).foldl (fun t c => if bitOf m c then t.quiesce (Half.ofCode (c / 16)) (c % 16) else t) s).commitOk slot
      (engineObj s) []

/-- SERVICE_QUIESCE_LANES (12 R286). -/
def execServiceQuiesceLanes (slot : Byte) (s : State) : Host.Outcome State Fault Refusal :=
  .next (runMailbox cQuiesce anyPayload quiesceBody slot s)

/-- Routes of shard groups pause once the engine has withdrawn, until it rejoins (03 R71, 12 R465). -/
def State.pauseGroups (s : State) : State := s.rt.vals.foldl (fun t r => t.holdIfLeft r.handle) s

def withdrawBody (slot : Nat) (p : List Byte) (s : State) : State :=
  bare slot p s ((((s.commit slot).withdraw).reply slot stOk (engineObj s) []).pauseGroups).stepEnded

/-- SERVICE_LEVEL_WITHDRAW (12 R286, 15 R369). -/
def execServiceLevelWithdraw (slot : Byte) (s : State) : Host.Outcome State Fault Refusal :=
  .next (runMailbox cWithdraw anyPayload withdrawBody slot s)

/-- A command that names a half: 8 bytes, HALF and reserved bytes after byte `n`. `bad`: the object of row 6 when the half
is not in a state for the command (12 R286, R288). -/
def halfCommand (n : Nat) (bad : State → Half → Option ObjState) (go : Nat → List Byte → Half → State → State)
    (slot : Nat) (p : List Byte) (s : State) : State :=
  if 1 < u8At p 0 then s.refuse slot stArg (engineObj s)
  else
    match bad s (Half.ofCode (u8At p 0)) with
    | some o => s.refuse slot stState o
    | none =>
      if p.length ≠ 8 ∨ !zeroAt p n (8 - n) then s.refuse slot stArg (engineObj s)
      else go slot p (Half.ofCode (u8At p 0)) s

/-- Every half is in a state for the command. -/
def anyHalf : State → Half → Option ObjState := fun _ _ => none

/-- One half resets: it is lost if it served, and boots, surveys and trains by itself (15 R349, 13 R309). -/
def State.resetHalf (s : State) (h : Half) : State :=
  if s.eng.state == .reset then s.halfReset h
  else
    let a := s.loseHalf h hlReported .inReset
    ((a.onHalf h fun x =>
      { x.wiped with code := if x.code == .drained then .drained else .inReset, fw := .booting, bootTries := 0
                     needsSurvey := true, phase := .firmware }).idleLanes h).clearChainCounts h

def halfResetBody : Nat → List Byte → State → State :=
  halfCommand 1 anyHalf fun k _ h t => (t.resetHalf h).commitOk k (engineObj (t.resetHalf h)) []

/-- SERVICE_HALF_RESET (12 R286, 15 R349). -/
def execServiceHalfReset (slot : Byte) (s : State) : Host.Outcome State Fault Refusal :=
  .next (runMailbox cHalfReset anyPayload halfResetBody slot s)

/-- MADE, PENDING, LEFT and FULL_GROUPS of a half (09 R205). -/
def HalfSt.fuseStatus (x : HalfSt) : List Byte :=
  toLe 2 x.burnt.length ++ toLe 2 x.pendingRepairs.length ++ toLe 2 x.left ++ toLe 2 x.fullGroups

def fuseStatusBody (slot : Nat) (p : List Byte) (s : State) : State :=
  bare slot p s (s.reply slot stOk (engineObj s)
    (toLe 1 (b2n s.safe.fuseV) ++ zeros 7 ++ s.half.w.fuseStatus ++ s.half.e.fuseStatus ++
      (List.range 8).flatMap fun k => toLe 1 (s.keyslot k).cls ++ toLe 1 (s.keyslot k).state.code))

/-- SERVICE_FUSE_STATUS (12 R286, 09 R205). -/
def execServiceFuseStatus (slot : Byte) (s : State) : Host.Outcome State Fault Refusal :=
  .next (runMailbox cFuseStatus anyPayload fuseStatusBody slot s)

/-! ### Draining and returning a half -/

/-- One of the three commands that take a half or its firmware out runs (12 R289). -/
def State.halfBusy (s : State) : Bool :=
  s.mbx.jobs.any fun j => j.code == cHalfDrain || j.code == cHalfServe || j.code == cFwActivate

def halfDrainBody : Nat → List Byte → State → State :=
  halfCommand 1 (fun t _ => if t.bothServe then none else some (engineObj t))
      fun k p _ t => if t.halfBusy then t.refuse k stBusy (engineObj t) else (t.begin k p 0).drainGo

/-- SERVICE_HALF_DRAIN (12 R288, R289). -/
def execServiceHalfDrain (slot : Byte) (s : State) : Host.Outcome State Fault Refusal :=
  .next (runMailbox cHalfDrain anyPayload halfDrainBody slot s)

/-- A half that serves does not return; one held for its temperature waits until it has cooled (18 R444, 17 R433). -/
def serveBad (s : State) (h : Half) : Option ObjState :=
  let x := s.hs h
  if x.serves || (x.hold && x.tj != 0x80#8 && decide (100 ≤ x.tj.toInt)) then some (engineObj s) else none

/-- A half returns: after a reset or a loss its firmware boots and it surveys and trains by itself; a drained half that was
not reset trains its chains (18 R436); a staged FWI activates at the return (18 R444). -/
def State.returnBegins (s : State) (h : Half) : State :=
  let x := s.hs h
  let boots := x.needsSurvey || (s.verified s.eng.staged && x.fwi != s.eng.staged)
  if x.phase == .up then s.returnHalf h
  else if x.phase != .held then s
  else if boots then
    (s.onHalf h fun x => { x.emptied with phase := .firmware, fw := .booting, bootTries := 0, needsSurvey := true })
  else s.onHalf h fun x => { x with phase := .chains }

def halfServeBody : Nat → List Byte → State → State :=
  halfCommand 1 serveBad
      fun k p h t => if t.halfBusy then t.refuse k stBusy (engineObj t) else (t.begin k p 0).returnBegins h

/-- SERVICE_HALF_SERVE (12 R288, R289; 13 R316; 18 R436). -/
def execServiceHalfServe (slot : Byte) (s : State) : Host.Outcome State Fault Refusal :=
  .next (runMailbox cHalfServe anyPayload halfServeBody slot s)

/-! ### Plates, fuses, stacks, chains -/

/-- In LIMP the survivor's repairs are refused (18 R435). -/
def limpBad (s : State) (h : Half) : Option ObjState :=
  if s.eng.state == .limp && h == s.survivor then some (engineObj s) else none

def suspectsBody : Nat → List Byte → State → State :=
  halfCommand 1 limpBad fun k p _ t => (t.begin k p 0).suspectsGo

/-- SERVICE_RETIRE_SUSPECTS (12 R288, 18 R439). -/
def execServiceRetireSuspects (slot : Byte) (s : State) : Host.Outcome State Fault Refusal :=
  .next (runMailbox cSuspects anyPayload suspectsBody slot s)

/-- VDD_FUSE is absent (12 R289). -/
def fuseBad (s : State) : Option ObjState := if s.safe.fuseV then none else some ⟨skNone, 0⟩

/-- The reply of `service.fuse_burn`. -/
def State.burnDone (s : State) (slot : Nat) (h : Half) (n : Nat) : State := s.complete slot .engine (burnReply (s.hs h) n)

/-- The burns that a job has left to make. -/
def State.setLeft (s : State) (slot n : Nat) : State :=
  match s.jobOf slot with
  | some j => s.setJob { j with left := n }
  | none => s

/-- A fuse command starts: as many burns as the repairs and the budget allow (09 R205). -/
def State.startBurn (s : State) (slot : Nat) (p : List Byte) (h : Half) : State :=
  let n := min (s.hs h).pendingRepairs.length (s.hs h).left
  if s.safe.fuseJob.isSome then s.refuse slot stBusy (engineObj s)
  else if n = 0 then s.burnDone slot h 0
  else
    ((s.begin slot p 0).fuseRuns (.burn slot h 0)).setLeft slot n

def fuseBurnBody : Nat → List Byte → State → State :=
  halfCommand 1 (fun t _ => fuseBad t) fun k p h t => t.startBurn k p h

/-- SERVICE_FUSE_BURN (12 R288, R289). -/
def execServiceFuseBurn (slot : Byte) (s : State) : Host.Outcome State Fault Refusal :=
  .next (runMailbox cFuseBurn anyPayload fuseBurnBody slot s)

/-- Bytes that a stack's rebuild has to write. -/
def HalfSt.rebuildOf (x : HalfSt) (i : Nat) : Nat := ((x.rebuild.find? fun p => p.1 == i).map fun p => p.2).getD 0

def stackRetireBody : Nat → List Byte → State → State :=
  halfCommand 2 limpBad fun k p h t =>
      if 15 < u8At p 1 then t.refuse k stArg (engineObj t)
      else
        let a := (t.commit k).retireStack h (u8At p 1)
        (a.reply k stOk (engineObj a) (toLe 8 ((a.hs h).rebuildOf (u8At p 1))))

/-- SERVICE_STACK_RETIRE (12 R288, 13 R305, 18 R435). -/
def execServiceStackRetire (slot : Byte) (s : State) : Host.Outcome State Fault Refusal :=
  .next (runMailbox cStackRetire anyPayload stackRetireBody slot s)

def stackRestoreBody : Nat → List Byte → State → State :=
  halfCommand 2 anyHalf fun k p h t =>
      if 15 < u8At p 1 then t.refuse k stArg (engineObj t)
      else if !(t.hs h).rebuild.isEmpty || (t.jobOn cStackRestore h).isSome then t.refuse k stBusy (engineObj t)
      else if (t.hs h).stackMask.getLsbD (u8At p 1) then t.commitOk k (engineObj t) []
      else t.begin k p 0

/-- SERVICE_STACK_RESTORE: the stack is trained, tested and cleared in later rows (18 R441). One that is in service has
nothing to restore. -/
def execServiceStackRestore (slot : Byte) (s : State) : Host.Outcome State Fault Refusal :=
  .next (runMailbox cStackRestore anyPayload stackRestoreBody slot s)

/-- A dropped lane belongs to a chain: it has the partner of the chain, or claims its number, or may make it (16 R385). -/
def State.dropsFrom (s : State) (h : Half) (c : Nat) (l : Lane) : Bool :=
  let x := s.chain h c
  let known := (s.chains.get h).any fun y => y.kind != .none && y.partner == l.partner
  let free := x.kind == .none && (if l.toPeers then !known else l.chain == c)
  let own := x.kind != .none && x.partner == l.partner && (l.toPeers || l.chain == c)
  l.mode == .dropped && (free || own)

/-- A chain's dropped lanes may train again. -/
def State.freeLanes (s : State) (h : Half) (c : Nat) : State :=
  let f := fun (l : Lane) => if s.dropsFrom h c l then { l with mode := .idle } else l
  { s with lanes := s.lanes.modify h fun ls => ls.map f }

def retrainBody : Nat → List Byte → State → State :=
  halfCommand 2 anyHalf fun k p h t =>
      if 15 < u8At p 1 then t.refuse k stArg (engineObj t)
      else
        ((t.begin k p 0).commit k).freeLanes h (u8At p 1)

/-- SERVICE_CHAIN_RETRAIN: the chain's dropped lanes may train; HELLO brings them back, and the command completes with
CHAINS_TRAINED (18 R442, 16 R387). -/
def execServiceChainRetrain (slot : Byte) (s : State) : Host.Outcome State Fault Refusal :=
  .next (runMailbox cRetrain anyPayload retrainBody slot s)

/-! ### Keyslots -/

/-- The state of a keyslot as an object (12 R288). -/
def State.keyObj (s : State) (n : Nat) : ObjState := ⟨skNone, (s.keyslot n).state.code⟩

def keyProgramBody (slot : Nat) (p : List Byte) (s : State) : State :=
  let n := u8At p 0
  match fuseBad s with
  | some o => s.refuse slot stState o
  | none =>
    if 7 < n then s.refuse slot stArg (engineObj s)
    else if (s.keyslot n).state ≠ .empty then s.refuse slot stState (s.keyObj n)
    else if p.length ≠ 56 ∨ 1 < u8At p 1 ∨ !zeroAt p 2 6 then s.refuse slot stArg (engineObj s)
    else if s.safe.fuseJob.isSome then s.refuse slot stBusy (engineObj s)
    else ((s.begin slot p 0).forgetCut n).fuseRuns (.program slot n)

/-- SERVICE_KEYSLOT_PROGRAM (12 R288, R289; 10 R217): a slot whose programming was cut is programmed anew (log 118). -/
def execServiceKeyslotProgram (slot : Byte) (s : State) : Host.Outcome State Fault Refusal :=
  .next (runMailbox cKeyProgram anyPayload keyProgramBody slot s)

/-- The keyslot's key signed an image (10 R218, R223). -/
def State.signedBy (s : State) (n : Nat) (i : Image) : Bool :=
  let k := s.keyslot n
  !i.manifestBytes.isEmpty && k.cls == requiredClass i.typ.code && manKeyDigest i.manifestBytes == k.digest

/-- The FWI that holds a reference, when the slot's key signed it (18 R443). -/
def State.fwSigned (s : State) (n : Nat) (d : Option Digest) : Option Image :=
  (d.bind s.image).filter fun i => s.signedBy n i

def keyRevokeBody (slot : Nat) (p : List Byte) (s : State) : State :=
  let n := u8At p 0
  match fuseBad s with
  | some o => s.refuse slot stState o
  | none =>
    if 7 < n then s.refuse slot stArg (engineObj s)
    else if (s.keyslot n).state ≠ .active then s.refuse slot stState (s.keyObj n)
    else
      match s.fwSigned n s.eng.fwRun with
      | some i => s.refuse slot stState (imgObj i)
      | none =>
        if p.length ≠ 40 ∨ !zeroAt p 1 7 ∨ !(descAt p 8).okOut then s.refuse slot stArg (engineObj s)
        else if s.safe.fuseJob.isSome then s.refuse slot stBusy (engineObj s)
        else (s.begin slot p 0).fuseRuns (.revoke slot n)

/-- SERVICE_KEYSLOT_REVOKE (12 R288, R289; 10 R223; 18 R443). -/
def execServiceKeyslotRevoke (slot : Byte) (s : State) : Host.Outcome State Fault Refusal :=
  .next (runMailbox cKeyRevoke anyPayload keyRevokeBody slot s)

/-- Images that a revocation marks: every one of the key's digest, but one whose verification runs, which fails it
(10 R223, R237; 18 R444). -/
def State.revokes (s : State) (n : Nat) (i : Image) : Bool := i.state != .verifying && i.state != .revoked && s.signedBy n i

/-- The images of a keyslot are marked. -/
def State.markRevoked (s : State) (n : Nat) : State :=
  { s with img := s.img.mapVals fun i => if s.revokes n i then { i with state := .revoked } else i }

/-- The bindings that name some of the images. -/
def State.naming (s : State) (ds : List Digest) : List Nat :=
  (s.bnd.vals.filter fun x => x.state != .retired &&
    (x.set.digests.any ds.contains || (x.newSet.map fun y => y.1.digests.any ds.contains).getD false)).map fun x => x.handle

/-- The reply of `service.keyslot_revoke`: the images that are marked, and the bindings that name them (12 R288). -/
def State.revokeReply (s : State) (slot : Nat) (ds : List Digest) : State :=
  match s.jobOf slot with
  | none => s
  | some j =>
    let d := descAt j.body 8
    let hs := s.naming ds
    let k := min hs.length (d.len / 4)
    s.writeThen slot j.body ⟨d.addr, 4 * k⟩ ((hs.take k).flatMap (toLe 4)) .engine
      (toLe 4 ds.length ++ toLe 4 hs.length ++ toLe 4 k)

/-- A keyslot's revocation fuse is burned: its images are revoked, and the bindings that name them are listed. A fallback
FWI among them is logged (10 R223; 12 R288; 18 R443). -/
def State.revoked (s : State) (slot n : Nat) : State :=
  let ds := (s.img.vals.filter fun i => s.revokes n i).map fun i => i.digest
  let a := (((s.commitOnce slot).markRevoked n).fuseEnds).setKeyslot n { s.keyslot n with state := .revoked }
  let b := if (s.fwSigned n s.eng.fwFall).isSome then a.log engineSide 1 0x0002 0 0 (digestPrefix s.eng.fwFall) else a
  b.revokeReply slot ds

/-- One repair fuse has been burned: the soft repair is permanent when it reads correctly, and counts against the budget
(09 R205). -/
def State.burned (s : State) (slot : Nat) (h : Half) (n : Nat) (ok : Bool) : State :=
  match (s.hs h).pendingRepairs with
  | [] => s.fuseEnds.burnDone slot h n
  | c :: rest =>
    let m := n + b2n ok
    let a := (s.commitOnce slot).onHalf h fun x =>
      { x with left := x.left - 1, pendingRepairs := if ok then rest else rest ++ [c], burnt := if ok then x.burnt ++ [c] else x.burnt }
    let left := ((s.jobOf slot).map fun j => j.left).getD 1
    if left ≤ 1 then a.fuseEnds.burnDone slot h m
    else (a.fuseRuns (.burn slot h m)).setLeft slot (left - 1)

/-- A keyslot has been programmed (10 R217). -/
def State.programmed (s : State) (slot n : Nat) (ok : Bool) : State :=
  let a := s.fuseEnds
  match s.jobOf slot with
  | none => a
  | some j =>
    if ok then
      ((a.commitOnce slot).setKeyslot n ⟨digestAt j.body 8, u8At j.body 1, .active⟩).complete slot .engine []
    else a.fail slot stFault .engine

/-- FUSE_BURN_DONE (17 R430, 12 R288). -/
def execFuseBurnDone (ok : Bool) (s : State) : Host.Outcome State Fault Refusal :=
  .next (match s.safe.fuseJob with
    | none => s
    | some (.burn slot h n) => s.burned slot h n ok
    | some (.program slot n) => s.programmed slot n ok
    | some (.revoke slot n) =>
      if ok then s.revoked slot n
      else s.fuseEnds.fail slot stFault .engine)

/-! ### Firmware -/

def fwStageBody (slot : Nat) (p : List Byte) (s : State) : State :=
  let d := digestAt p 8
  match s.image d with
  | none => s.refuse slot stState noImg
  | some i =>
    if i.typ ≠ .fwi ∨ i.state ≠ .verified then s.refuse slot stState (imgObj i)
    else if p.length ≠ 56 ∨ !zeroAt p 1 7 then s.refuse slot stArg (imgObj i)
    else ({ s with eng := { s.eng with staged := some d } } : State).commitOk slot (imgObj i) []

/-- SERVICE_FW_STAGE (12 R288). -/
def execServiceFwStage (slot : Byte) (s : State) : Host.Outcome State Fault Refusal :=
  .next (runMailbox cFwStage anyPayload fwStageBody slot s)

/-- Row 6 of `service.fw_activate`: a half that serves beside another one, and a staged image in the store
(12 R288; 18 R435, R444). -/
def activateBad (s : State) (h : Half) : Option ObjState :=
  if (limpBad s h).isSome || !(s.hs h).serves then some (engineObj s)
  else
    match s.eng.staged.bind s.image with
    | none => some noImg
    | some i => if i.state = .verified then none else some (imgObj i)

/-- The half's firmware restarts on the staged FWI; steps go on (12 R288, 18 R437). -/
def State.runStaged (s : State) (slot : Nat) (p : List Byte) (h : Half) (d : Digest) : State :=
  let a := s.begin slot p 0
  let b := match a.jobOf slot with
    | some j => a.setJob { j with digest := ((s.hs h).fwi).getD 0 }
    | none => a
  ((b.commit slot).firmwareStops h).onHalf h fun x => { x with code := .fwRestart, fw := .booting, bootTries := 0, fwi := some d }

def fwActivateBody : Nat → List Byte → State → State :=
  halfCommand 1 activateBad fun k p h t =>
      match t.eng.staged with
      | none => t.refuse k stState noImg
      | some d =>
        if Config.fwiLevel (manifest (t.imageBytes d)) ≠ ifLevel then t.refuse k stArg (engineObj t)
        else if t.halfBusy then t.refuse k stBusy (engineObj t)
        else t.runStaged k p h d

/-- SERVICE_FW_ACTIVATE (12 R288, R289; 18 R437). -/
def execServiceFwActivate (slot : Byte) (s : State) : Host.Outcome State Fault Refusal :=
  .next (runMailbox cFwActivate anyPayload fwActivateBody slot s)

/-! ### Level lines and the flush target -/

def rejoinBody (slot : Nat) (p : List Byte) (s : State) : State :=
  if p.length ≠ 8 ∨ !zeroAt p 1 7 then s.refuse slot stArg (engineObj s)
  else if s.level.acts then
    ({ s with level := { s.level with withdrawn := false, ready := true } } : State).commitOk slot (engineObj s) (toLe 1 0)
  else
    let a := s.begin slot p 0
    ({ a with level := { a.level with seeking := true } } : State).lmSend .up lmAnnounceCode
      (if s.level.position = 0 then 0xFF else s.level.position) ifLevel aLevel s.eng.serial 0

/-- SERVICE_LEVEL_REJOIN: the engine announces itself; its admission completes the command (15 R368). -/
def execServiceLevelRejoin (slot : Byte) (s : State) : Host.Outcome State Fault Refusal :=
  .next (runMailbox cRejoin anyPayload rejoinBody slot s)

/-- A descriptor of LEN 0 that is an outbound one otherwise. -/
def emptyDesc (b : List Byte) : Bool := u64At b 8 == 0 && (descOf (b.take 8 ++ toLe 8 1 ++ b.drop 16)).okOut

def flushTargetBody (slot : Nat) (p : List Byte) (s : State) : State :=
  let b := slice p 8 32
  if p.length ≠ 40 ∨ !zeroAt p 0 8 ∨ !((descOf b).okOut || emptyDesc b) then s.refuse slot stArg (engineObj s)
  else
    ({ s with safe := { s.safe with target := if emptyDesc b then none else some (descOf b).region } } : State).commitOk slot
      (engineObj s) []

/-- SERVICE_FLUSH_TARGET (12 R287). -/
def execServiceFlushTarget (slot : Byte) (s : State) : Host.Outcome State Fault Refusal :=
  .next (runMailbox cFlushTarget anyPayload flushTargetBody slot s)

end Sys2Proof.Machine
end

