-- ==== Sys2Proof/Machine/HostMem.lean ====
section
/-! DEFINITION. Responses of host memory (17 R416, R417), and requests whose wait under AFTER ends or whose code is not
listed (11 R247, R249, R253). -/
namespace Sys2Proof.Machine

/-! ### Requests -/

/-- The meaning of a listed code: its command's body. -/
def bodies : List (Nat × (Nat → List Byte → State → State)) :=
  [(cQuery, engQueryBody), (cConfigure, configureBody), (cDrain, drainBody), (cServe, serveBody), (cHalt, haltBody),
   (cRestart, restartBody), (cLoad, loadBody), (cRelease, releaseBody), (cImgQuery, imgQueryBody), (cImgList, imgListBody),
   (cCreate, createBody), (cStart, startBody), (cStop, stopBody), (cSwap, swapBody), (cRetire, retireBody),
   (cBndQuery, bndQueryBody), (cOpen, openBody), (cPause, pauseBody), (cSave, saveBody), (cResume, resumeBody),
   (cEnd, endBody), (cRtQuery, rtQueryBody), (cDiscard, discardBody), (cExport, exportBody), (cCounters, countersBody),
   (cCensus, censusBody), (cResidency, residencyBody), (cBankRead, bankReadBody), (cBankWrite, bankWriteBody),
   (cContact, contactBody), (cJExport, jexportBody), (cSelftest, selftestBody), (cSnapshot, snapshotBody)] ++
  [(cRescue, rescueStatusBody), (cLogRead, logReadBody),
   (cFlush, fun k p t => if u8At p 0 = 1 then flushPollBody k p t else flushStartBody k p t), (cQuiesce, quiesceBody),
   (cWithdraw, withdrawBody), (cHalfReset, halfResetBody), (cFuseStatus, fuseStatusBody), (cHalfDrain, halfDrainBody),
   (cHalfServe, halfServeBody), (cSuspects, suspectsBody), (cFuseBurn, fuseBurnBody), (cStackRetire, stackRetireBody),
   (cStackRestore, stackRestoreBody), (cRetrain, retrainBody), (cKeyProgram, keyProgramBody), (cKeyRevoke, keyRevokeBody),
   (cFwStage, fwStageBody), (cFwActivate, fwActivateBody), (cRejoin, rejoinBody), (cFlushTarget, flushTargetBody)]

def bodyOf (code : Nat) : Nat → List Byte → State → State :=
  ((bodies.find? fun b => b.1 == code).map fun b => b.2).getD fun _ _ s => s

/-- AFTER_DEPENDENCY_MET: the request goes on with row 4 (11 R249); one of class E waits while a supply warning stands
(15 R378). -/
def execAfterDependencyMet (slot : Byte) (s : State) : Host.Outcome State Fault Refusal :=
  let k := slot.toNat
  .next (if (s.waitOf k).isSome && s.afterMet k && (s.slotServer k).isSome && !s.warned k then
    ({ s with mbx := { s.mbx with waits := s.mbx.waits.filter fun w => w.slot != k } } : State).start k (bodyOf (s.sealCode k))
  else s)

/-- AFTER_WAIT_EXPIRED: ST_BUSY, without an effect (11 R249). -/
def execAfterWaitExpired (slot : Byte) (s : State) : Host.Outcome State Fault Refusal :=
  let k := slot.toNat
  .next (if (s.waitOf k).isSome && !s.afterMet k && (s.slotServer k).isSome then
    ({ s with mbx := { s.mbx with busy := satAdd s.mbx.busy 1 } } : State).refuse k stBusy (s.slotObj k)
  else s)

/-- UNLISTED_COMMAND_CODE: rows 1 and 2 (11 R247, R253). -/
def execUnlistedCommandCode (slot : Byte) (s : State) : Host.Outcome State Fault Refusal :=
  .next (if s.unnoticed slot.toNat && !listed (s.sealCode slot.toNat) then s.consider slot.toNat fun _ _ t => t else s)

/-! ### Responses -/

/-- A command has read all of its regions. -/
def State.gathered (s : State) (j : Job) : State :=
  if j.code = cLoad then (if j.stage = 0 then s.loadCrc j else if j.stage = 1 then s.loadHeader j else s.loadManifest j)
  else if j.code = cCreate then s.createLists j
  else if j.code = cResume then s.resumeRead j
  else if j.code = cBankWrite then s.bankWritten j
  else s

/-- A command's accesses have ended while no firmware serves its slot: it goes on when one does (11 R260). -/
def State.waitServer (s : State) (j : Job) : State := s.setJob { j with due := true }

/-- One region of a command has been read. -/
def State.partRead (s : State) (slot part : Nat) (data : List Byte) : State :=
  match s.jobOf slot with
  | none => s
  | some j =>
    let k := { j with parts := j.parts.set part data, left := j.left - 1 }
    if k.left ≠ 0 then s.setJob k
    else if (s.slotServer slot).isNone then s.waitServer k
    else (s.setJob k).gathered k

/-- A command's output is in host memory: it completes. -/
def State.written (s : State) (j : Job) (data : List Byte) : State :=
  if j.code = cSave then s.saveWritten j
  else (if j.code = cJExport then s.exported data else s).complete j.slot j.obj j.reply

/-- The one write of a command has ended. -/
def State.partWritten (s : State) (slot : Nat) (data : List Byte) : State :=
  match s.jobOf slot with
  | none => s
  | some j => if (s.slotServer slot).isNone then s.waitServer { j with left := 0, parts := [data] } else s.written j data

/-- An access has ended well. -/
def State.accessDone (s : State) (a : MiAcc) (data : List Byte) : State :=
  match a.purpose with
  | .bootHeader => s.bootHeaderRead data
  | .bootEntries _ => s.bootRead data
  | .bootImage d _ => s.bootImageRead a.half d data
  | .job slot part => if a.write then s.partWritten slot a.data else s.partRead slot part data
  | .fetch d part => s.fetchPart a.half d part data
  | .warnFlush => s
  | .hostFlush => s

/-- An access that failed is logged (19 R459). -/
def State.hostIo (s : State) (addr : Nat) : State := s.log engineSide 0 0x0013 addr 0 []

/-- A container of the boot set that could not be read: a failed verification (17 R417, 15 R352). -/
def State.bootImageFailed (s : State) (d : Digest) : State :=
  match s.image d with
  | none => s
  | some i => s.setImage { i with state := .failed, vstatus := stArg }

/-- A container could not be fetched: its loads fail, and so does what waited for it (17 R417). -/
def State.fetchFailed (s : State) (d : Digest) : State :=
  ((s.loadsOf d).foldl (fun t j => t.fail j.slot stFault (.fixed noImg)) (s.abandon d)).imageGo d

/-- A command could not reach host memory: ST_FAULT, without a side effect (17 R417). -/
def State.jobFailed (s : State) (j : Job) (addr : Nat) : State :=
  (if j.code = cSave then s.saveFailed j else s).jobFault j.slot addr

/-- An access of a command has failed; the command ends once firmware serves its slot (11 R260). -/
def State.partFailed (s : State) (slot addr : Nat) : State :=
  match s.jobOf slot with
  | none => s
  | some j => if (s.slotServer slot).isNone then s.waitServer { j with failed := some addr } else s.jobFailed j addr

/-- An access has failed for good: an error, two parity failures, or 1 s without an answer (17 R417). -/
def State.accessFailed (s : State) (a : MiAcc) : State :=
  match a.purpose with
  | .bootHeader => (s.hostIo a.addr).bootRefused
  | .bootEntries _ => (s.hostIo a.addr).bootRefused
  | .bootImage d _ => (s.hostIo a.addr).bootImageFailed d
  | .job slot _ => s.partFailed slot a.addr
  | .fetch d _ => (s.hostIo a.addr).fetchFailed d
  | .warnFlush =>
    let t := s.hostIo a.addr
    { t with jr := { t.jr with warn := none }, safe := { t.safe with flush := 3 } }
  | .hostFlush =>
    let t := s.hostIo a.addr
    { t with jr := { t.jr with host := none } }

/-! ### Firmware that serves slots again (11 R260) -/

/-- Commands that read host memory. -/
def readsHost (code : Nat) : Bool := code == cLoad || code == cCreate || code == cResume || code == cBankWrite

/-- A command whose accesses, or which itself, ended without firmware goes on: it receives the reply that it has. -/
def State.serveJob (s : State) (j : Job) : State :=
  if !j.due || (s.slotServer j.slot).isNone then s
  else if j.done then (if j.status = stOk then s.complete j.slot j.obj j.reply else s.fail j.slot j.status j.obj)
  else match j.failed with
    | some a => s.jobFailed j a
    | none => if readsHost j.code then s.gathered j else s.written j (j.parts.headD [])

/-- Firmware serves slots again. -/
def State.serveDue (s : State) : State := s.mbx.jobs.reverse.foldl (fun t j => t.serveJob j) s

/-- FIRMWARE_BOOTED (11 R256, R260; 15 R354; 18 R436, R437). -/
def execFirmwareBooted (h : Half) (s : State) : Host.Outcome State Fault Refusal := .next (s.firmwareBooted h).serveDue.stepEnded

/-- SLOT_TAKEOVER (11 R260). -/
def execSlotTakeover (h : Half) (s : State) : Host.Outcome State Fault Refusal := .next (s.slotTakeover h).serveDue

/-- SAFELIGHT_HEARTBEAT_MISSED (11 R261, 17 R423). -/
def execSafelightHeartbeatMissed (s : State) : Host.Outcome State Fault Refusal := .next s.heartbeatMissed.serveDue

/-- SAFELIGHT_ISLAND_POWER_UP (11 R261; 17 R429, R432; 19 R457). -/
def execSafelightIslandPowerUp (h : Half) (s : State) : Host.Outcome State Fault Refusal := .next (s.islandPowers h).serveDue

/-- The access that a tag of a half's port names. -/
def State.access (s : State) (h : Half) (tag : Nat) : Option MiAcc := s.mi.find? fun a => a.half == h && a.tag == tag

/-- MI_RESPONSE: a read's bytes, or a write's completion; data that fail parity are read once more (17 R416, R417). -/
def State.response (s : State) (h : Half) (tag : Nat) (data : List Byte) (parityOk err : Bool) : State :=
  match s.access h tag with
  | none => s
  | some a =>
    let rest : State := { s with mi := s.mi.filter fun x => x != a }
    if err then rest.accessFailed a
    else if a.write then rest.accessDone a []
    else if !parityOk then
      if a.retried then rest.accessFailed a else { rest with mi := rest.mi ++ [{ a with retried := true }] }
    else if data.length ≠ a.len then s
    else rest.accessDone a data

def execMiResponse (h : Half) (tag : Byte) (data : List Byte) (parityOk err : Bool) (s : State) :
    Host.Outcome State Fault Refusal :=
  .next (s.response h tag.toNat data parityOk err)

/-- MI_TIMEOUT (17 R417). -/
def execMiTimeout (h : Half) (tag : Byte) (s : State) : Host.Outcome State Fault Refusal :=
  .next (match s.access h tag.toNat with
    | none => s
    | some a => ({ s with mi := s.mi.filter fun x => x != a } : State).accessFailed a)

end Sys2Proof.Machine
end

