-- ==== Sys2Proof/Machine/Dispatch.lean ====
section
/-! DEFINITION. The dispatch: one arm for each command, each one call of its meaning. -/
namespace Sys2Proof.Machine

def exec (i : Instr) (s : State) : Host.Outcome State Fault Refusal :=
  match i with
  | .engineQuery slot => Sys2Proof.Machine.execEngineQuery slot s
  | .engineConfigure slot => Sys2Proof.Machine.execEngineConfigure slot s
  | .engineDrain slot => Sys2Proof.Machine.execEngineDrain slot s
  | .engineServe slot => Sys2Proof.Machine.execEngineServe slot s
  | .engineHalt slot => Sys2Proof.Machine.execEngineHalt slot s
  | .engineRestart slot => Sys2Proof.Machine.execEngineRestart slot s
  | .imageLoad slot => Sys2Proof.Machine.execImageLoad slot s
  | .imageRelease slot => Sys2Proof.Machine.execImageRelease slot s
  | .imageQuery slot => Sys2Proof.Machine.execImageQuery slot s
  | .imageList slot => Sys2Proof.Machine.execImageList slot s
  | .bindingCreate slot => Sys2Proof.Machine.execBindingCreate slot s
  | .bindingStart slot => Sys2Proof.Machine.execBindingStart slot s
  | .bindingStop slot => Sys2Proof.Machine.execBindingStop slot s
  | .bindingSwap slot => Sys2Proof.Machine.execBindingSwap slot s
  | .bindingRetire slot => Sys2Proof.Machine.execBindingRetire slot s
  | .bindingQuery slot => Sys2Proof.Machine.execBindingQuery slot s
  | .routeOpen slot => Sys2Proof.Machine.execRouteOpen slot s
  | .routePause slot => Sys2Proof.Machine.execRoutePause slot s
  | .routeSave slot => Sys2Proof.Machine.execRouteSave slot s
  | .routeResume slot => Sys2Proof.Machine.execRouteResume slot s
  | .routeEnd slot => Sys2Proof.Machine.execRouteEnd slot s
  | .routeQuery slot => Sys2Proof.Machine.execRouteQuery slot s
  | .routeDiscard slot => Sys2Proof.Machine.execRouteDiscard slot s
  | .routeExport slot => Sys2Proof.Machine.execRouteExport slot s
  | .diagCounters slot => Sys2Proof.Machine.execDiagCounters slot s
  | .diagCensus slot => Sys2Proof.Machine.execDiagCensus slot s
  | .diagResidency slot => Sys2Proof.Machine.execDiagResidency slot s
  | .diagBankRead slot => Sys2Proof.Machine.execDiagBankRead slot s
  | .diagBankWrite slot => Sys2Proof.Machine.execDiagBankWrite slot s
  | .diagContactRead slot => Sys2Proof.Machine.execDiagContactRead slot s
  | .diagJournalExport slot => Sys2Proof.Machine.execDiagJournalExport slot s
  | .diagSelftest slot => Sys2Proof.Machine.execDiagSelftest slot s
  | .diagSnapshot slot => Sys2Proof.Machine.execDiagSnapshot slot s
  | .serviceRescueStatus slot => Sys2Proof.Machine.execServiceRescueStatus slot s
  | .serviceLogRead slot => Sys2Proof.Machine.execServiceLogRead slot s
  | .serviceJournalFlushStart slot => Sys2Proof.Machine.execServiceJournalFlushStart slot s
  | .serviceJournalFlushPoll slot => Sys2Proof.Machine.execServiceJournalFlushPoll slot s
  | .serviceQuiesceLanes slot => Sys2Proof.Machine.execServiceQuiesceLanes slot s
  | .serviceLevelWithdraw slot => Sys2Proof.Machine.execServiceLevelWithdraw slot s
  | .serviceHalfReset slot => Sys2Proof.Machine.execServiceHalfReset slot s
  | .serviceFuseStatus slot => Sys2Proof.Machine.execServiceFuseStatus slot s
  | .serviceHalfDrain slot => Sys2Proof.Machine.execServiceHalfDrain slot s
  | .serviceHalfServe slot => Sys2Proof.Machine.execServiceHalfServe slot s
  | .serviceRetireSuspects slot => Sys2Proof.Machine.execServiceRetireSuspects slot s
  | .serviceFuseBurn slot => Sys2Proof.Machine.execServiceFuseBurn slot s
  | .serviceStackRetire slot => Sys2Proof.Machine.execServiceStackRetire slot s
  | .serviceStackRestore slot => Sys2Proof.Machine.execServiceStackRestore slot s
  | .serviceChainRetrain slot => Sys2Proof.Machine.execServiceChainRetrain slot s
  | .serviceKeyslotProgram slot => Sys2Proof.Machine.execServiceKeyslotProgram slot s
  | .serviceKeyslotRevoke slot => Sys2Proof.Machine.execServiceKeyslotRevoke slot s
  | .serviceFwStage slot => Sys2Proof.Machine.execServiceFwStage slot s
  | .serviceFwActivate slot => Sys2Proof.Machine.execServiceFwActivate slot s
  | .serviceLevelRejoin slot => Sys2Proof.Machine.execServiceLevelRejoin slot s
  | .serviceFlushTarget slot => Sys2Proof.Machine.execServiceFlushTarget slot s
  | .afterDependencyMet slot => Sys2Proof.Machine.execAfterDependencyMet slot s
  | .afterWaitExpired slot => Sys2Proof.Machine.execAfterWaitExpired slot s
  | .registerWrite path off be data parityOk => Sys2Proof.Machine.execRegisterWrite path off be data parityOk s
  | .mbxDoneClear h k be data setting => Sys2Proof.Machine.execMbxDoneClear h k be data setting s
  | .safeTakeoverConfirm path be data => Sys2Proof.Machine.execSafeTakeoverConfirm path be data s
  | .safeLogLatch path => Sys2Proof.Machine.execSafeLogLatch path s
  | .peakClr path h be data arriving => Sys2Proof.Machine.execPeakClr path h be data arriving s
  | .sidebandSetOffset h off => Sys2Proof.Machine.execSidebandSetOffset h off s
  | .hid h chain f => Sys2Proof.Machine.execHid h chain f s
  | .lgt h chain f => Sys2Proof.Machine.execLgt h chain f s
  | .drf h chain f => Sys2Proof.Machine.execDrf h chain f s
  | .pkSummary h chain f => Sys2Proof.Machine.execPkSummary h chain f s
  | .pkZmax h chain f => Sys2Proof.Machine.execPkZmax h chain f s
  | .pkZret h chain f => Sys2Proof.Machine.execPkZret h chain f s
  | .pkCands h chain f => Sys2Proof.Machine.execPkCands h chain f s
  | .pkRelease h chain f => Sys2Proof.Machine.execPkRelease h chain f s
  | .halfSummary handle => Sys2Proof.Machine.execHalfSummary handle s
  | .ack h chain f => Sys2Proof.Machine.execAck h chain f s
  | .nak h chain f => Sys2Proof.Machine.execNak h chain f s
  | .crd h chain f => Sys2Proof.Machine.execCrd h chain f s
  | .hello h lane f => Sys2Proof.Machine.execHello h lane f s
  | .replayTimeout h chain => Sys2Proof.Machine.execReplayTimeout h chain s
  | .chainReplayTimeout h chain => Sys2Proof.Machine.execChainReplayTimeout h chain s
  | .laneDropOut h lane => Sys2Proof.Machine.execLaneDropOut h lane s
  | .peerUnreachable position => Sys2Proof.Machine.execPeerUnreachable position s
  | .maskReady handle => Sys2Proof.Machine.execMaskReady handle s
  | .stepChecked handle r => Sys2Proof.Machine.execStepChecked handle r s
  | .mirrorRecord handle => Sys2Proof.Machine.execMirrorRecord handle s
  | .releaseCommit handle => Sys2Proof.Machine.execReleaseCommit handle s
  | .forcedOnlyRelease c => Sys2Proof.Machine.execForcedOnlyRelease c s
  | .latentSlotTimeout handle => Sys2Proof.Machine.execLatentSlotTimeout handle s
  | .latentSlotFreed h => Sys2Proof.Machine.execLatentSlotFreed h s
  | .admissionRoomFreed h => Sys2Proof.Machine.execAdmissionRoomFreed h s
  | .maskFetchDone h digest state => Sys2Proof.Machine.execMaskFetchDone h digest state s
  | .clearDone h => Sys2Proof.Machine.execClearDone h s
  | .headFillDone h digest => Sys2Proof.Machine.execHeadFillDone h digest s
  | .inText h r => Sys2Proof.Machine.execInText h r s
  | .inTokens h r => Sys2Proof.Machine.execInTokens h r s
  | .inEnd h r => Sys2Proof.Machine.execInEnd h r s
  | .pretokenTokenised handle r => Sys2Proof.Machine.execPretokenTokenised handle r s
  | .inBeatParityError h depth => Sys2Proof.Machine.execInBeatParityError h depth s
  | .strOutNak h depth => Sys2Proof.Machine.execStrOutNak h depth s
  | .halfDownReport h => Sys2Proof.Machine.execHalfDownReport h s
  | .mainbandLost => Sys2Proof.Machine.execMainbandLost s
  | .meridianLaneDrop toEast lane => Sys2Proof.Machine.execMeridianLaneDrop toEast lane s
  | .linkSilent westAlive => Sys2Proof.Machine.execLinkSilent westAlive s
  | .partnerSilent => Sys2Proof.Machine.execPartnerSilent s
  | .heartbeatResumed => Sys2Proof.Machine.execHeartbeatResumed s
  | .safelightHeartbeatMissed => Sys2Proof.Machine.execSafelightHeartbeatMissed s
  | .slotTakeover h => Sys2Proof.Machine.execSlotTakeover h s
  | .slotTakeback h => Sys2Proof.Machine.execSlotTakeback h s
  | .firmwareFault h => Sys2Proof.Machine.execFirmwareFault h s
  | .fwBootTimeout h => Sys2Proof.Machine.execFwBootTimeout h s
  | .safeRstNRelease datum addrW addrE => Sys2Proof.Machine.execSafeRstNRelease datum addrW addrE s
  | .coreRstNAssert => Sys2Proof.Machine.execCoreRstNAssert s
  | .coreRstNRelease => Sys2Proof.Machine.execCoreRstNRelease s
  | .firmwareBooted h => Sys2Proof.Machine.execFirmwareBooted h s
  | .censusDone w e => Sys2Proof.Machine.execCensusDone w e s
  | .meridianTrained toEast toWest => Sys2Proof.Machine.execMeridianTrained toEast toWest s
  | .stacksTrained w e => Sys2Proof.Machine.execStacksTrained w e s
  | .chainsTrained => Sys2Proof.Machine.execChainsTrained s
  | .bootSetVerified => Sys2Proof.Machine.execBootSetVerified s
  | .warmRestart => Sys2Proof.Machine.execWarmRestart s
  | .routeStatesRecovered bad => Sys2Proof.Machine.execRouteStatesRecovered bad s
  | .commonCauseFault => Sys2Proof.Machine.execCommonCauseFault s
  | .railOutOfRange h rail => Sys2Proof.Machine.execRailOutOfRange h rail s
  | .coreRailsRemoved => Sys2Proof.Machine.execCoreRailsRemoved s
  | .vddFuseRemoved => Sys2Proof.Machine.execVddFuseRemoved s
  | .supplyWarnN => Sys2Proof.Machine.execSupplyWarnN s
  | .journalFlushDone => Sys2Proof.Machine.execJournalFlushDone s
  | .supplyWarnNRelease railsOk => Sys2Proof.Machine.execSupplyWarnNRelease railsOk s
  | .lmAnnounce p m => Sys2Proof.Machine.execLmAnnounce p m s
  | .lmAdmit p m => Sys2Proof.Machine.execLmAdmit p m s
  | .lmRefuse p m => Sys2Proof.Machine.execLmRefuse p m s
  | .lmBase p m => Sys2Proof.Machine.execLmBase p m s
  | .lmEcho p m => Sys2Proof.Machine.execLmEcho p m s
  | .lmWithdraw p m => Sys2Proof.Machine.execLmWithdraw p m s
  | .announceTimer => Sys2Proof.Machine.execAnnounceTimer s
  | .datumCheckDone => Sys2Proof.Machine.execDatumCheckDone s
  | .formation => Sys2Proof.Machine.execFormation s
  | .barrierReleaseTimer => Sys2Proof.Machine.execBarrierReleaseTimer s
  | .levelRelease => Sys2Proof.Machine.execLevelRelease s
  | .memberSilent position => Sys2Proof.Machine.execMemberSilent position s
  | .datumAbsent => Sys2Proof.Machine.execDatumAbsent s
  | .calibrationDone position pathNs ok => Sys2Proof.Machine.execCalibrationDone position pathNs ok s
  | .timeFrame h time crc => Sys2Proof.Machine.execTimeFrame h time crc s
  | .timeInputTimeout h => Sys2Proof.Machine.execTimeInputTimeout h s
  | .thermalReading h r => Sys2Proof.Machine.execThermalReading h r s
  | .finderStopTimeout h => Sys2Proof.Machine.execFinderStopTimeout h s
  | .refresh h errs => Sys2Proof.Machine.execRefresh h errs s
  | .finderScrub h bad => Sys2Proof.Machine.execFinderScrub h bad s
  | .suspectExpiry h pos => Sys2Proof.Machine.execSuspectExpiry h pos s
  | .stackFault h stack => Sys2Proof.Machine.execStackFault h stack s
  | .stackRebuilt h stack => Sys2Proof.Machine.execStackRebuilt h stack s
  | .imageFetchDone digest => Sys2Proof.Machine.execImageFetchDone digest s
  | .imageVerifyDone digest => Sys2Proof.Machine.execImageVerifyDone digest s
  | .fenceAck binding => Sys2Proof.Machine.execFenceAck binding s
  | .benchmarkWritten handle => Sys2Proof.Machine.execBenchmarkWritten handle s
  | .miResponse h tag data parityOk err => Sys2Proof.Machine.execMiResponse h tag data parityOk err s
  | .miTimeout h tag => Sys2Proof.Machine.execMiTimeout h tag s
  | .frameDiscarded h chain ftype f => Sys2Proof.Machine.execFrameDiscarded h chain ftype f s
  | .unlistedCommandCode slot => Sys2Proof.Machine.execUnlistedCommandCode slot s
  | .reservedKindRecord h kind r => Sys2Proof.Machine.execReservedKindRecord h kind r s
  | .stackClearDone h => Sys2Proof.Machine.execStackClearDone h s
  | .fuseBurnDone ok => Sys2Proof.Machine.execFuseBurnDone ok s
  | .selftestDone h failed => Sys2Proof.Machine.execSelftestDone h failed s
  | .safelightIslandPowerUp h => Sys2Proof.Machine.execSafelightIslandPowerUp h s

end Sys2Proof.Machine
end

