-- ==== Sys2Proof/Safety.lean ====
section
/-! DEFINITION. What counts as a safe state and a safe step, in the terms that the statements use: the log rings, the keyslot
fuses, a request that stands in a mailbox slot, and a reply. -/
namespace Sys2Proof.Machine

/-! ### Invariants -/

/-- Neither ring of the error log holds more than its entries (19 R457). -/
structure RingsOk (l : Halves (List LogEnt)) : Prop where
  w : l.w.length ≤ logRing
  e : l.e.length ≤ logRing

/-- The keyslot of a number; an engine has eight (10 R217). -/
def SafeSt.slot (x : SafeSt) (n : Nat) : Keyslot := x.fuses.getD n Keyslot.reset

/-- How far a keyslot has moved (10 R217): empty, active, revoked. -/
def KState.rank : KState → Nat
  | .empty => 0
  | .active => 1
  | .revoked => 2

/-- How far a start or a stop has taken the engine (11 R256): OFF, RESET, SURVEY, READY, then the states that serve, then HALT. -/
def EState.rank : EState → Nat
  | .off => 0
  | .reset => 1
  | .survey => 2
  | .ready => 3
  | .service => 4
  | .limp => 4
  | .drain => 4
  | .halt => 5

/-- A keyslot that is being programmed, or whose programming was cut short, reads KS_EMPTY; one that is being revoked reads
KS_ACTIVE (10 R217, 12 R288, 17 R430, 18 R444). -/
structure KeysInv (x : SafeSt) : Prop where
  programming : ∀ slot n, x.fuseJob = some (.program slot n) → (x.slot n).state = .empty ∧ ∀ c, x.cutKey = some c → c.1 ≠ n
  revoking : ∀ slot n, x.fuseJob = some (.revoke slot n) → (x.slot n).state = .active
  cut : ∀ c, x.cutKey = some c → (x.slot c.1).state = .empty

/-- Keyslots move only forward, and a programmed one keeps its digest and class (10 R217). -/
def KeysForward (a b : SafeSt) : Prop :=
  ∀ n, (a.slot n).state.rank ≤ (b.slot n).state.rank ∧
    ((a.slot n).state ≠ .empty → (b.slot n).digest = (a.slot n).digest ∧ (b.slot n).cls = (a.slot n).cls)

/-! ### Mailbox rows -/

/-- The row of a mailbox command: the code that it acts on, its slot, and the payloads that are its own. -/
structure Row where
  code : Nat
  slot : Byte
  own : List Byte → Bool

/-- The row of a mailbox command of the catalogue (12 R263 and on); none for the other commands of the table. -/
def rowOf : Instr → Option Row
  | .engineQuery k => some ⟨cQuery, k, anyPayload⟩
  | .engineConfigure k => some ⟨cConfigure, k, anyPayload⟩
  | .engineDrain k => some ⟨cDrain, k, anyPayload⟩
  | .engineServe k => some ⟨cServe, k, anyPayload⟩
  | .engineHalt k => some ⟨cHalt, k, anyPayload⟩
  | .engineRestart k => some ⟨cRestart, k, anyPayload⟩
  | .imageLoad k => some ⟨cLoad, k, anyPayload⟩
  | .imageRelease k => some ⟨cRelease, k, anyPayload⟩
  | .imageQuery k => some ⟨cImgQuery, k, anyPayload⟩
  | .imageList k => some ⟨cImgList, k, anyPayload⟩
  | .bindingCreate k => some ⟨cCreate, k, anyPayload⟩
  | .bindingStart k => some ⟨cStart, k, anyPayload⟩
  | .bindingStop k => some ⟨cStop, k, anyPayload⟩
  | .bindingSwap k => some ⟨cSwap, k, anyPayload⟩
  | .bindingRetire k => some ⟨cRetire, k, anyPayload⟩
  | .bindingQuery k => some ⟨cBndQuery, k, anyPayload⟩
  | .routeOpen k => some ⟨cOpen, k, anyPayload⟩
  | .routePause k => some ⟨cPause, k, anyPayload⟩
  | .routeSave k => some ⟨cSave, k, anyPayload⟩
  | .routeResume k => some ⟨cResume, k, anyPayload⟩
  | .routeEnd k => some ⟨cEnd, k, anyPayload⟩
  | .routeQuery k => some ⟨cRtQuery, k, anyPayload⟩
  | .routeDiscard k => some ⟨cDiscard, k, anyPayload⟩
  | .routeExport k => some ⟨cExport, k, anyPayload⟩
  | .diagCounters k => some ⟨cCounters, k, anyPayload⟩
  | .diagCensus k => some ⟨cCensus, k, anyPayload⟩
  | .diagResidency k => some ⟨cResidency, k, anyPayload⟩
  | .diagBankRead k => some ⟨cBankRead, k, anyPayload⟩
  | .diagBankWrite k => some ⟨cBankWrite, k, anyPayload⟩
  | .diagContactRead k => some ⟨cContact, k, anyPayload⟩
  | .diagJournalExport k => some ⟨cJExport, k, anyPayload⟩
  | .diagSelftest k => some ⟨cSelftest, k, anyPayload⟩
  | .diagSnapshot k => some ⟨cSnapshot, k, anyPayload⟩
  | .serviceRescueStatus k => some ⟨cRescue, k, anyPayload⟩
  | .serviceLogRead k => some ⟨cLogRead, k, anyPayload⟩
  | .serviceJournalFlushStart k => some ⟨cFlush, k, fun p => u8At p 0 != 1⟩
  | .serviceJournalFlushPoll k => some ⟨cFlush, k, fun p => u8At p 0 == 1⟩
  | .serviceQuiesceLanes k => some ⟨cQuiesce, k, anyPayload⟩
  | .serviceLevelWithdraw k => some ⟨cWithdraw, k, anyPayload⟩
  | .serviceHalfReset k => some ⟨cHalfReset, k, anyPayload⟩
  | .serviceFuseStatus k => some ⟨cFuseStatus, k, anyPayload⟩
  | .serviceHalfDrain k => some ⟨cHalfDrain, k, anyPayload⟩
  | .serviceHalfServe k => some ⟨cHalfServe, k, anyPayload⟩
  | .serviceRetireSuspects k => some ⟨cSuspects, k, anyPayload⟩
  | .serviceFuseBurn k => some ⟨cFuseBurn, k, anyPayload⟩
  | .serviceStackRetire k => some ⟨cStackRetire, k, anyPayload⟩
  | .serviceStackRestore k => some ⟨cStackRestore, k, anyPayload⟩
  | .serviceChainRetrain k => some ⟨cRetrain, k, anyPayload⟩
  | .serviceKeyslotProgram k => some ⟨cKeyProgram, k, anyPayload⟩
  | .serviceKeyslotRevoke k => some ⟨cKeyRevoke, k, anyPayload⟩
  | .serviceFwStage k => some ⟨cFwStage, k, anyPayload⟩
  | .serviceFwActivate k => some ⟨cFwActivate, k, anyPayload⟩
  | .serviceLevelRejoin k => some ⟨cRejoin, k, anyPayload⟩
  | .serviceFlushTarget k => some ⟨cFlushTarget, k, anyPayload⟩
  | _ => none

/-- A sealed request of a code stands in a slot that is served, and the engine has not noticed it (11 R242, R247). -/
structure Asked (s : State) (slot : Byte) (code : Nat) (p : List Byte) : Prop where
  unnoticed : s.unnoticed slot.toNat = true
  asks : s.sealCode slot.toNat = code
  payload : s.reqPayload slot.toNat = p
  canonical : s.mbx.mem.wf = true

/-- The request passes rows 1 to 4 of 11 R247: its turn, its form, its dependency, and the engine state. -/
structure Granted (s : State) (slot : Byte) (code : Nat) (p : List Byte) : Prop extends Asked s slot code p where
  turn : s.sealSeq slot.toNat = s.expectedSeq slot.toNat
  form : s.row2 slot.toNat = true
  after : s.afterMet slot.toNat = true
  valid : validIn code s.eng.state = true

/-- The slot's window bytes from 0x800 on are a reply to the request that stands there; OWN is cleared and the completion flag
set, and every other byte of the window, every other slot's flag and every counter of the mailbox is as before
(11 R240, R243-R246, 19 R451). `last`: LAST takes the request's SEQ. -/
structure Answered (s t : State) (slot : Byte) (status : Nat) (o : ObjState) (payload : List Byte) (last : Bool) : Prop where
  seq : t.reqNat slot.toNat 0x800 4 = s.sealSeq slot.toNat
  code : t.reqNat slot.toNat 0x804 2 = s.sealCode slot.toNat
  status : t.reqNat slot.toNat 0x806 2 = status
  rlen : t.reqNat slot.toNat 0x808 2 = payload.length
  kind : t.reqNat slot.toNat 0x80A 1 = o.kind
  state : t.reqNat slot.toNat 0x80B 1 = o.state
  time : t.reqNat slot.toNat 0x810 8 = s.time.toNat
  payload : t.reqBytes slot.toNat 0x820 payload.length = payload
  own : t.sealOwn slot.toNat = false
  memory : ∀ a, a ≠ slotBase slot.toNat + 7 → (a < slotBase slot.toNat + 0x800 ∨ slotBase slot.toNat + 0x1000 ≤ a) →
    t.mbx.mem.read a = s.mbx.mem.read a
  flag : t.mbx.done.getLsbD slot.toNat = true
  flags : ∀ k, k ≠ slot.toNat → t.mbx.done.getLsbD k = s.mbx.done.getLsbD k
  lastOf : t.lastOf slot.toNat = if last then s.sealSeq slot.toNat else s.lastOf slot.toNat
  lasts : ∀ k, k ≠ slot.toNat → t.lastOf k = s.lastOf k
  job : t.jobOf slot.toNat = none
  irqEn : t.mbx.irqEn = s.mbx.irqEn
  taken : t.mbx.taken = s.mbx.taken
  counters : (t.mbx.discarded, t.mbx.busy, t.mbx.takeovers) = (s.mbx.discarded, s.mbx.busy, s.mbx.takeovers)

/-- A command completes with a reply (11 R245). -/
def Replied (s t : State) (slot : Byte) (status : Nat) (o : ObjState) (payload : List Byte) : Prop :=
  Answered s t slot status o payload true

/-- Nothing changes but the mailbox and the journal, and accesses of host memory that the slot's command had outstanding
serve nothing any more. -/
def OnlyReply (s t : State) (slot : Byte) : Prop :=
  { t with mbx := s.mbx, jr := s.jr } = { s with mi := s.mi.filter fun a => a.notOf slot.toNat }

/-- A command completes with a next state, of which something holds. -/
def Completes (c : Instr) (s : State) (holds : State → Prop) : Prop := ∃ t, exec c s = .next t ∧ holds t

/-- A command completes with a reply, and changes nothing but the state `s1`, the mailbox and the journal. -/
def Answers (c : Instr) (s s1 : State) (k : Byte) (status : Nat) (o : ObjState) (payload : List Byte) : Prop :=
  Completes c s fun t => Replied s t k status o payload ∧ OnlyReply s1 t k

/-- A command's output goes to host memory before its reply: a write of the bytes stands at the memory initiator of the slot's
half, behind the accesses that were there, for the command's job, which holds the reply; nothing else changes but the journal
(11 R251, 17 R416). -/
structure Delivers (s s1 t : State) (k : Byte) (addr : Nat) (data : List Byte) (o : ObjRef) (reply : List Byte) : Prop where
  access : t.mi = s.mi ++ [⟨s.slotHalf k.toNat, freeTag s.mi (s.slotHalf k.toNat), true, addr, data.length, data,
    .job k.toNat 0, false⟩]
  job : ∃ j, t.jobOf k.toNat = some j ∧ j.code = s.sealCode k.toNat ∧ j.obj = o ∧ j.reply = reply
  box : { t.mbx with jobs := s.mbx.jobs } = s.mbx
  rest : { t with mbx := s.mbx, jr := s1.jr, mi := s.mi } = s1

/-- A command with output for host memory: the reply at once when there is none. -/
def Sends (c : Instr) (s s1 : State) (k : Byte) (addr : Nat) (data : List Byte) (o : ObjRef) (reply : List Byte) : Prop :=
  if data = [] then Answers c s s1 k stOk (s1.objOf o) reply else Completes c s fun t => Delivers s s1 t k addr data o reply

/-- A command goes on in later rows: it stands as a job of its slot, with its request; nothing else changes from `s1` but the
journal. -/
structure Begins (s s1 t : State) (k : Byte) (p : List Byte) : Prop where
  job : ∃ j, t.jobOf k.toNat = some j ∧ j.code = s.sealCode k.toNat ∧ j.body = p
  box : { t.mbx with jobs := s.mbx.jobs } = s.mbx
  rest : { t with mbx := s.mbx, jr := s1.jr } = s1

/-- What an access asks of host memory. -/
def MiAcc.ask (a : MiAcc) : Half × Bool × Nat × Nat × Purpose := (a.half, a.write, a.addr, a.len, a.purpose)

/-- A command reads regions of host memory: a read of each stands at the memory initiator, in order, behind the accesses that were
there, for the command's job, which holds the request; nothing else changes from `s1` but the journal (11 R251, 17 R416). -/
structure Fetches (s s1 t : State) (k : Byte) (p : List Byte) (regions : List Region) : Prop where
  accesses : t.mi.map MiAcc.ask = s.mi.map MiAcc.ask ++
    regions.zipIdx.map fun g => (s.slotHalf k.toNat, false, g.1.addr, g.1.len, .job k.toNat g.2)
  job : ∃ j, t.jobOf k.toNat = some j ∧ j.code = s.sealCode k.toNat ∧ j.body = p ∧ j.left = regions.length
  box : { t.mbx with jobs := s.mbx.jobs } = s.mbx
  rest : { t with mbx := s.mbx, jr := s1.jr, mi := s.mi } = s1

/-- A frame of a type that a chain accepts, with one whole entry and nothing else (16 R390, R392). -/
structure OneEntry (s : State) (h : Half) (c typ : Nat) (f : Frame) (b : List Byte) : Prop where
  up : (s.chain h c).up = true
  accepted : (s.chain h c).judge typ f = .accepted
  whole : (s.chain h c).entries typ f = some ([b], none)

/-- A frame is accepted: EXPECTED advances on its chain, its cost is received, an ACK names it, and no other chain changes
(16 R392). -/
structure FrameTaken (s t : State) (h : Half) (c typ : Nat) (f : Frame) : Prop where
  expected : (t.chain h c).expected = (s.chain h c).expected + 1
  ack : ackOut false (s.chain h c).expected ∈ (t.chain h c).ctl
  up : (t.chain h c).up = true

/-- An entry of a route's next step that admission takes: on the route's chain of the half that serves it, from its binding's
images, in time, in its form, and with room for its body and its drafts (01 R22, R23; 09 R197; 04 R99). -/
structure Admissible (s : State) (h : Half) (c : Nat) (hid : Bool) (b : List Byte) (r : Route) (bd : Binding) (e : Env) : Prop where
  route : s.route (eHandle b) = some r
  state : r.state = .open ∨ r.state = .running
  rests : r.adm = none ∧ r.saving = false ∧ r.forcedMore = false
  chain : r.chains.get h = some c
  alone : s.paired r = false
  binding : s.binding r.binding = some bd
  active : bd.state = .active ∧ bd.fence = .none
  admits : s.drains h = false
  step : eStep b = r.next
  serves : s.serving = true ∧ s.blocked r = false
  env : e = s.envFor bd r
  form : entryFormOk e hid b = true
  inTime : owns bd r = true → passed s.time.toNat r.deadline = false
  room : ∀ g ∈ s.routeHalves r, s.hasRoom g (eLen b) = true
  slots : ∀ g ∈ s.routeHalves r, ((s.freeDrafts r).setRoute { r with drafts := none }).slotRoom g (eDrafts b).length = true

/-- The entry is admitted: its route runs with the entry's step, drafts and body, and waits for its masks; the released state
stands (01 R24, 05 R117). -/
structure EntryAdmitted (s t : State) (hid : Bool) (b : List Byte) (r : Route) : Prop where
  runs : ∃ q a, t.route r.handle = some q ∧ t.rt = s.rt.put (routeIndex r.handle) q ∧ q.state = .running ∧ q.ran = true ∧
    q.rel = r.rel ∧ q.adm = some a ∧ a.hid = hid ∧ a.step = r.next ∧ a.drafts = eDrafts b ∧ a.body = eBody b ∧
    a.strict = s.eng.strict ∧ a.execs = 1 ∧ a.phase = .waitMask ∧ a.formed = none
  rest : (t.bnd, t.img, t.eng, t.mbx, t.bench, t.str) = (s.bnd, s.img, s.eng, s.mbx, s.bench, s.str)

/-- Half `h` is out of the engine, and the other one serves on alone: LIMP (13 R309, 11 R256). -/
structure Lost (s t : State) (h : Half) (code : HCode) : Prop where
  code : (t.hs h).code = code
  firmware : (t.hs h).fw = .stopped ∨ (t.hs h).fw = .failed
  chains : ∀ c, (t.chain h c).up = false
  limp : t.eng.limp = true
  state : t.eng.state = s.eng.state.limped
  other : (t.hs h.other).serves = true

/-- Both halves serve, and nothing that runs has to be moved or answered when one goes: no command and no route. -/
structure Quiet (s : State) : Prop where
  both : s.bothServe = true
  serving : s.serving = true
  jobs : s.mbx.jobs = []
  waits : s.mbx.waits = []
  routes : s.rt = []

/-- A stack of a half leaves service: the mask and the rebuild that the other half's copies give it where the contents fit; in a
half that serves alone what it stored is lost, image by image; each is logged, and nothing else changes but the journal
(13 R305). -/
structure StackRetired (s t : State) (h : Half) (i : Nat) : Prop where
  mask : (t.hs h).stackMask = (s.hs h).stackMask &&& ~~~(1#16 <<< i)
  rebuilt : (s.hs h.other).serves = true →
    s.storedBytes h ≤ ((List.range 16).filter fun k => (t.hs h).stackMask.getLsbD k).length * stackBytes →
    (t.hs h).rebuild = ((s.hs h).rebuild.filter fun q => q.1 != i) ++ [(i, s.storedBytes h / 16)] ∧
      t.safe = (s.log h.code 1 0x0006 i 0 []).safe
  full : (s.hs h.other).serves = true →
    ((List.range 16).filter fun k => (t.hs h).stackMask.getLsbD k).length * stackBytes < s.storedBytes h →
    (t.hs h).rebuild = ((s.hs h).rebuild.filter fun q => q.1 != i) ∧
      t.safe = ((s.log h.code 1 0x0006 i 0 []).log h.code 1 0x0008 i 0 []).safe
  alone : (s.hs h.other).serves = false →
    (t.hs h).rebuild = ((s.hs h).rebuild.filter fun q => q.1 != i) ∧ t.safe = (s.log h.code 1 0x0006 i 0 []).safe ∧
      t.img = s.img.mapVals fun g => if (g.copies.get h).isEmpty then g else { g with state := .failed, lost := g.lost.set h true }
  images : (s.hs h.other).serves = true → t.img = s.img
  half : { t.hs h with stackMask := (s.hs h).stackMask, rebuild := (s.hs h).rebuild } = s.hs h
  other : t.hs h.other = s.hs h.other
  rest : { t with half := s.half, safe := s.safe, jr := s.jr, mbx := s.mbx, mi := s.mi, img := s.img } = s

/-- A frame has been given to a chain of a half: it waits, or has left and stands in the replay buffer (16 R393). -/
def SentOn (t : State) (h : Half) (o : Out) : Prop := ∃ c, o ∈ (t.chain h c).wait ++ (t.chain h c).replay.map (·.out)

/-- A PRT entry of a route has been given to the chains: each of its frames (16 R388, R390, R402). -/
def PeerSent (s t : State) (b : Binding) (r : Route) (kind flags step pos : Nat) (body : List Byte) : Prop :=
  let dst := Config.memberPosition b.handle (Config.ownerShard b.handle r.salt)
  let entry := prtEntry kind s.level.position dst flags b.handle r.salt step pos body
  ∀ o ∈ prtFrames (entry.length / maxPayload + 1) false entry, SentOn t (s.peerHalf r.half) o

/-- A check's failure recovers nothing of a route record. -/
def sparesRecords (k : CheckKind) : Prop := ∀ e n, k = .parity e → e.owner ≠ .record n

/-- Nothing waits for the end of what a route does: no entry, no copy, no mark, no pause, no save. -/
structure NothingWaits (r : Route) : Prop where
  entries : r.entries = []
  copies : r.copies = ⟨[], []⟩
  mark : r.markDue = false
  pause : r.pauseDue = false
  saving : r.saving = false

/-- The opening release of a route finds its search free, its data there, and more than one token allowed (01 R19; 06 R136;
13 R305). -/
structure OpensFreely (s : State) (b : Binding) (r : Route) : Prop where
  searches : s.searchWaits b r = false
  data : s.dataGone b r [r.rel.pos.g] = false
  set : 2 ≤ (allowed (s.envFor b r) r.rel.pos).length

/-- Every lane of both halves is at electrical idle and no chain is in service (15 R376). -/
structure LanesIdle (t : State) : Prop where
  lanes : ∀ h, ∀ l ∈ t.lanes.get h, l = Lane.reset
  chains : ∀ h c, (t.chain h c).up = false

/-- One level message joins those to send: its pair, CODE, POSITION, ARG and SERIAL, with its CRC (15 R363). -/
def Says (old new : List LmOut) (p : Pair) (code position arg : Nat) (serial : U64) : Prop :=
  ∃ m : LmMsg, new = old ++ [⟨p, code, m⟩] ∧ m.position = BitVec.ofNat 8 position ∧ m.arg = BitVec.ofNat 16 arg ∧
    m.serial = serial ∧ m.crc = lmCrc code m

/-- Every image of a set is in the store and verified. -/
def ImagesStand (s : State) (x : ImgSet) : Prop := ∀ d ∈ x.digests, ∃ i, s.image d = some i ∧ i.state = .verified

end Sys2Proof.Machine
end

