-- ==== Sys2Proof/Certificates/Slice0/Obligations.lean ====
section
/-! DEFINITION. The statements about the block, by family of commands. -/
open Sys2Proof Sys2Proof.Machine

/-! ### Mailbox commands that report -/

/-- `engine.query`, `diag.census`, `diag.counters` and the rescue queries answer ST_OK with the bytes that 12 R266, R282, R283,
R286, R287, R465 lay out, and change nothing (12_command_reference). The reply is read from the slot's window. The state that is
reported is the one after the request's journal copy. Where the spec leaves a clause open it rests on a choice of the model: log
entries 15, 87. -/
def Obligations.EngineReports : Prop :=
  ∀ (s : State) (k : Byte) (p : List Byte),
    (Granted s k cQuery [] → Answers (.engineQuery k) s s k stOk (engineObj s) (s.notice k.toNat).queryReply) ∧
    (Granted s k cCensus [] →
      Answers (.diagCensus k) s s k stOk (engineObj s) (s.censusBytes .west ++ s.censusBytes .east)) ∧
    (Granted s k cCounters p → p.length = 8 → u16At p 0 ≤ 6 → zeroAt p 2 6 = true →
      Answers (.diagCounters k) s s k stOk (engineObj s) ((s.counterSet (u16At p 0)).flatMap (toLe 8))) ∧
    (Granted s k cRescue [] → Answers (.serviceRescueStatus k) s s k stOk (engineObj s) s.rescueReply) ∧
    (Granted s k cFuseStatus [] →
      Answers (.serviceFuseStatus k) s s k stOk (engineObj s)
        (toLe 1 (b2n s.safe.fuseV) ++ zeros 7 ++ s.half.w.fuseStatus ++ s.half.e.fuseStatus ++
          (List.range 8).flatMap fun n => toLe 1 (s.keyslot n).cls ++ toLe 1 (s.keyslot n).state.code)) ∧
    (Granted s k cFlush p → u8At p 0 = 1 → p.length = 40 → zeroAt p 1 39 = true →
      Answers (.serviceJournalFlushPoll k) s s k stOk (engineObj s)
        (match s.jr.host with
         | some f => flushReply (if s.flushing then 0 else f.bytes) f.first f.records (b2n f.done)
         | none => flushReply 0 0 0 0))

/-- `image.query`, `diag.residency`, `binding.query` without LIST and `route.query` answer ST_OK with the object's state and the
bytes that 12 R270, R275, R281 and R285 lay out, and change nothing (12_command_reference). Where the spec leaves a clause open
it rests on a choice of the model: log entries 68, 75, 117. -/
def Obligations.ObjectReports : Prop :=
  ∀ (s : State) (k : Byte) (p : List Byte),
    (∀ i, Granted s k cImgQuery p → s.image (digestAt p 0) = some i → p.length = 48 →
      Answers (.imageQuery k) s s k stOk ⟨skImage, i.state.code⟩
        (toLe 1 i.typ.code ++ toLe 1 i.state.code ++ toLe 2 i.vstatus ++ toLe 1 (b2n i.hostRef) ++ toLe 1 (s.fwRefs i.digest) ++
          toLe 1 (s.slotOf i) ++ zeros 1 ++ toLe 4 (s.bindRefs i.digest) ++ toLe 4 (manPublisher i.manifestBytes) ++
          toLe 4 (manVersion i.manifestBytes) ++ zeros 4 ++ toLe 8 i.total ++ digestBytes (manKeyDigest i.manifestBytes))) ∧
    (∀ i, Granted s k cResidency p → s.image (digestAt p 8) = some i → p.length = 56 → zeroAt p 1 7 = true →
      (i.typ = .hdi ∧ u8At p 0 = 1 ∨ i.typ = .csi ∧ u8At p 0 = 2) →
      let w := s.half.w.residency (i.typ == .hdi) (digestAt p 8)
      let e := s.half.e.residency (i.typ == .hdi) (digestAt p 8)
      Answers (.diagResidency k) s s k stOk ⟨skImage, i.state.code⟩
        (toLe 1 (b2n w.1 + 2 * b2n e.1) ++ toLe 1 (b2n w.2.1 + 2 * b2n e.2.1) ++ zeros 2 ++
          toLe 4 (if i.typ = .hdi then s.pins (digestAt p 8) else 0) ++ toLe 4 w.2.2.1 ++ toLe 8 w.2.2.2 ++ toLe 4 e.2.2.1 ++
          toLe 8 e.2.2.2)) ∧
    (∀ b, Granted s k cBndQuery p → s.binding (u32At p 0) = some b → p.length = 48 → u32At p 4 = 0 → zeroAt p 0xC 4 = true →
      zeroAt p 0x10 32 = true →
      Answers (.bindingQuery k) s s k stOk ⟨skBinding, b.state.code⟩
        (toLe 4 ((s.routesOf b.handle).filter liveRoute).length ++ toLe 4 (s.heldRoutes b).length ++ toLe 4 0 ++ toLe 4 0 ++
          toLe 1 (if b.set.one then b.set.half.code else 0xFF) ++ toLe 1 b.flags ++ toLe 1 b.shards ++ toLe 1 b.shard ++
          zeros 12 ++ digestBytes b.set.tki ++ digestBytes b.set.hdi ++ digestBytes b.set.csi ++ digestBytes b.set.sli)) ∧
    (∀ r, Granted s k cRtQuery p → s.route (u32At p 0) = some r → p.length = 8 → zeroAt p 4 4 = true →
      Answers (.routeQuery k) s s k stOk ⟨skRoute, r.state.code⟩
        (toLe 4 r.binding ++ toLe 4 r.next ++ toLe 4 r.rel.gen ++ toLe 4 r.promptN ++ toLe 8 r.rel.bytes ++
          toLe 4 (r.bench.getD 0) ++ toLe 4 r.oflags))

/-! ### Mailbox commands with output for host memory -/

/-- `image.list`, `binding.query` with LIST, `diag.snapshot`, `diag.contact_read`, `diag.journal_export`, `service.log_read` and
`route.export`: their entries go to the request's outbound region, as many as fit it, and their reply counts them
(12_command_reference: 12 R270, R275, R276, R279, R285, R286). Where the spec leaves a clause open it rests on a choice of the
model: log entries 16, 69, 76, 77, 79, 86. -/
def Obligations.ListsGoToHostMemory : Prop :=
  ∀ (s : State) (k : Byte) (p : List Byte),
    let d := descAt p 0x10
    (Granted s k cImgList p → p.length = 48 → zeroAt p 1 3 = true → zeroAt p 8 8 = true → d.okOut = true →
      (u8At p 0 = 0 ∨ (IType.ofCode (u8At p 0)).isSome) →
      let l := s.img.vals.filter fun i => u8At p 0 == 0 || i.typ.code == u8At p 0
      let c := u32At p 4
      let n := min (l.length - c) (d.len / 64)
      Sends (.imageList k) s s k d.addr (((l.drop c).take n).flatMap (imgEntry s)) .engine
        (toLe 4 n ++ toLe 4 (if c + n < l.length then c + n else 0))) ∧
    (∀ b, Granted s k cBndQuery p → s.binding (u32At p 0) = some b → b.state = .stopped → p.length = 48 → u32At p 4 = 1 →
      zeroAt p 0xC 4 = true → d.okOut = true →
      let c := u32At p 8
      let n := min ((s.heldRoutes b).length - c) (d.len / 16)
      Sends (.bindingQuery k) s s k d.addr ((((s.heldRoutes b).drop c).take n).flatMap heldEntry) (.binding b.handle)
        (toLe 4 ((s.routesOf b.handle).filter liveRoute).length ++ toLe 4 (s.heldRoutes b).length ++ toLe 4 n ++
          toLe 4 (if c + n < (s.heldRoutes b).length then c + n else 0) ++
          toLe 1 (if b.set.one then b.set.half.code else 0xFF) ++ toLe 1 b.flags ++ toLe 1 b.shards ++ toLe 1 b.shard ++
          zeros 12 ++ digestBytes b.set.tki ++ digestBytes b.set.hdi ++ digestBytes b.set.csi ++ digestBytes b.set.sli)) ∧
    (Granted s k cSnapshot p → p.length = 48 → u8At p 0 ≤ 2 → zeroAt p 1 3 = true → zeroAt p 8 8 = true → d.okOut = true →
      let l := s.snapshot (u8At p 0)
      let c := u32At p 4
      let n := min (l.length - c) (d.len / 16)
      Sends (.diagSnapshot k) s s k d.addr ((l.drop c).take n).flatten .engine
        (toLe 4 n ++ toLe 4 (if c + n < l.length then c + n else 0))) ∧
    (Granted s k cContact p → p.length = 48 → zeroAt p 0xC 4 = true → d.okOut = true →
      let l := ((s.notice k.toNat).contacts (u32At p 0) (u32At p 4)).take (min (u32At p 8) (d.len / 64))
      Sends (.diagContactRead k) s s k d.addr l.flatten .engine
        (toLe 4 l.length ++ toLe 4 ((l.head?.map fun b => u32At b 4).getD 0))) ∧
    (Granted s k cJExport p → p.length = 48 → zeroAt p 0xC 4 = true → d.okOut = true →
      let j := (s.notice k.toNat).jr
      let l := exportRecs (u32At p 8) d.len (j.from (u64At p 0))
      Sends (.diagJournalExport k) s s k d.addr (l.flatMap JRec.bytes) .engine
        (toLe 4 l.length ++ zeros 4 ++
          toLe 8 (((((j.from (u64At p 0)).drop l.length).head?).map fun r => r.number).getD j.next))) ∧
    (Granted s k cLogRead p → p.length = 48 → 1 ≤ u32At p 4 → u32At p 4 ≤ 256 → zeroAt p 8 8 = true → d.okOut = true →
      let l := s.logHeld.filter fun e => decide (u32At p 0 ≤ e.number)
      let n := min l.length (min (u32At p 4) (d.len / 64))
      Sends (.serviceLogRead k) s s k d.addr ((l.take n).flatMap LogEnt.bytes) .engine
        (toLe 4 n ++ toLe 4 (s.logNext (l.drop n)))) ∧
    (∀ e, Granted s k cExport p → s.benchAt (u32At p 0) = some e → p.length = 48 → zeroAt p 4 12 = true → d.okOut = true →
      e.bytes.length ≤ d.len →
      Sends (.routeExport k) s s k d.addr e.bytes .engine (toLe 8 e.bytes.length))

/-! ### Host memory -/

/-- `image.load`, `binding.create` with a bias list or stop strings, `route.resume` FROM_DESC and `diag.bank_write` read the
regions that their descriptors name, and wait for them; a load reads first the regions that carry a CRC, or the container's header
where none does; until its lists are read and checked a creation has entered no binding (12_command_reference: 12 R269, R273, R280,
R284; 11_yesum_mailboxes: 11 R247, R252; 17_block_boundary: 17 R416). Where the spec leaves a clause open it rests on a choice of
the model: log entries 9, 16, 82. -/
def Obligations.CommandsFetchTheirRegions : Prop :=
  ∀ (s : State) (k : Byte) (p : List Byte),
    (Granted s k cLoad p → p.length = 8 + 32 * u8At p 4 → 1 ≤ u8At p 4 → u8At p 4 ≤ 64 → u32At p 0 ≤ 1 → zeroAt p 5 3 = true →
      (loadDescs p).all Desc.okIn = true →
      ∀ rs, rs = ((loadDescs p).filter fun d => !d.nocrc).map Desc.region →
      Completes (.imageLoad k) s fun t =>
        Fetches s s t k p (if rs = [] then cutRegions ((loadDescs p).map Desc.region) 0 64 else rs)) ∧
    (∀ rs, rs = (if u16At p 0xF0 = 0 then [] else [(descAt p 0x120).region]) ++
        (if u8At p 0x110 = 0 then [] else [(descAt p 0x140).region]) → Granted s k cCreate p →
      ¬(s.eng.state = .drain ∧ bitOf (u32At p 4) 0 = true) → s.bnd.get? (u32At p 0 % 65536) = none →
      s.imagesFault (createSet s p) = none → createArgOk s p = true → s.typesOk (createSet s p) = true →
      s.anyRevoked (createSet s p) = false → rs ≠ [] →
      Completes (.bindingCreate k) s fun t => Fetches s s t k p rs) ∧
    (∀ b, Granted s k cResume p → s.binding (u32At p 0) = some b → b.state = .active → bitOf (u32At p 4) 1 = true →
      resumeFormOk p = true →
      Completes (.routeResume k) s fun t => Fetches s s t k p [(descAt p 0x20).region]) ∧
    (∀ c, Granted s k cBankWrite p → bankNamed p = true → s.bankRegion p = some c → bankArgOk p c.length true = true →
      Completes (.diagBankWrite k) s fun t => Fetches s s t k p [(descAt p 0x40).region])

/-- MI_RESPONSE: the acknowledged write of a command's output completes the command with the reply it holds; a read's data that
fail parity are read once more; a part of several regions is kept for the command; a part of a container joins the half's copy; a
list of a creation that fails its CRC refuses the creation. An error, and MI_TIMEOUT, answer the command ST_FAULT and are logged
HOST_IO; while no firmware serves its slot a command waits for it (17_block_boundary: 17 R416, R417; 11_yesum_mailboxes: 11 R252,
R260; 19 R459). Where the spec leaves a clause open it rests on a choice of the model: log entries 16, 94, 95, 96. -/
def Obligations.HostMemoryAnswers : Prop :=
  ∀ (s : State) (h : Half) (tag : Byte) (data : List Byte) (a : MiAcc), s.mbx.mem.wf = true → s.access h tag.toNat = some a →
    let rest : State := { s with mi := s.mi.filter fun x => x != a }
    (∀ (k : Byte) part j, a.purpose = .job k.toNat part → s.jobOf k.toNat = some j →
      (s.objOf j.obj).kind < 256 → (s.objOf j.obj).state < 256 →
      ((s.slotServer k.toNat).isSome = true → a.write = true → j.code ≠ cJExport → j.code ≠ cSave → j.reply.length ≤ 2016 →
        Answers (.miResponse h tag data true false) s rest k stOk (s.objOf j.obj) j.reply) ∧
      (a.write = false → data.length = a.len → 2 ≤ j.left →
        exec (.miResponse h tag data true false) s =
          .next (rest.setJob { j with parts := j.parts.set part data, left := j.left - 1 })) ∧
      ((s.slotServer k.toNat).isSome = true → a.write = false → data.length = a.len → j.left = 1 → j.code = cCreate →
        u16At j.body 0xF0 ≠ 0 → (descAt j.body 0x120).crcOk ((j.parts.set part data).headD []) = false →
        Answers (.miResponse h tag data true false) s rest k stArg noBnd []) ∧
      (∀ c, c = .miTimeout h tag ∨ c = .miResponse h tag data true true →
        ((s.slotServer k.toNat).isSome = true → j.code ≠ cSave →
          Completes c s fun t => Replied s t k stFault (s.objOf j.obj) [] ∧ t.safe = (s.log engineSide 0 0x0013 a.addr 0 []).safe ∧
            { t with mbx := s.mbx, jr := s.jr, safe := s.safe } = { rest with mi := rest.mi.filter fun x => x.notOf k.toNat }) ∧
        (s.slotServer k.toNat = none → exec c s = .next (rest.setJob { j with due := true, failed := some a.addr })))) ∧
    (a.write = false → a.retried = false →
      exec (.miResponse h tag data false false) s = .next { rest with mi := rest.mi ++ [{ a with retried := true }] }) ∧
    (∀ d part i, a.purpose = .fetch d part → a.write = false → data.length = a.len → s.image d = some i →
      i.src[part + 1]? = none →
      exec (.miResponse h tag data true false) s =
        .next (rest.setImage { i with copies := i.copies.modify a.half fun b => b ++ data }))

/-! ### Settings and states of the engine -/

/-- `engine.configure` changes the settings that MASK names, and those alone; `service.flush_target` registers or removes the
flush region; `service.fw_stage` stages a verified FWI; `service.level_rejoin` at the datum engine takes it into the barrier
again. Each answers ST_OK (12_command_reference: 12 R267, R287, R288; 15 R368). Where the spec leaves a clause open it rests on
a choice of the model: log entry 92. -/
def Obligations.SettingsTakeEffect : Prop :=
  ∀ (s : State) (k : Byte) (p : List Byte),
    (Granted s k cConfigure p → configureOk p = true →
      Answers (.engineConfigure k) s
        { s with eng :=
          { s.eng with strict := if (u32At p 0).testBit 0 then u8At p 4 == 1 else s.eng.strict
                       pcapW := if (u32At p 0).testBit 1 then BitVec.ofNat 16 (u16At p 8) else s.eng.pcapW
                       pcapE := if (u32At p 0).testBit 1 then BitVec.ofNat 16 (u16At p 0xA) else s.eng.pcapE
                       tset := if (u32At p 0).testBit 2 then BitVec.ofNat 8 (u8At p 5) else s.eng.tset } }
        k stOk (engineObj s) []) ∧
    (Granted s k cFlushTarget p → p.length = 40 → zeroAt p 0 8 = true →
      ((descOf (slice p 8 32)).okOut = true →
        Answers (.serviceFlushTarget k) s
          { s with safe := { s.safe with target := some ⟨u64At p 8, u64At p 0x10⟩ } } k stOk (engineObj s) []) ∧
      (emptyDesc (slice p 8 32) = true →
        Answers (.serviceFlushTarget k) s { s with safe := { s.safe with target := none } } k stOk (engineObj s) [])) ∧
    (∀ i, Granted s k cFwStage p → p.length = 56 → zeroAt p 1 7 = true → s.image (digestAt p 8) = some i → i.typ = .fwi →
      i.state = .verified →
      Answers (.serviceFwStage k) s { s with eng := { s.eng with staged := some (digestAt p 8) } } k stOk
        ⟨skImage, IState.verified.code⟩ []) ∧
    (Granted s k cRejoin p → p.length = 8 → zeroAt p 1 7 = true → s.level.acts = true →
      Answers (.serviceLevelRejoin k) s { s with level := { s.level with withdrawn := false, ready := true } } k stOk (engineObj s)
        (toLe 1 0))

/-- `engine.drain` and `engine.serve` move the engine to DRAIN, and back to SERVICE when both halves serve and to LIMP otherwise;
`engine.restart` replies and decides a warm restart (12_command_reference: 12 R268; 11_yesum_mailboxes: 11 R256). -/
def Obligations.EngineChangesState : Prop :=
  ∀ (s : State) (k : Byte),
    (Granted s k cDrain [] →
      Answers (.engineDrain k) s { s with eng := { s.eng with state := .drain } } k stOk ⟨skEngine, 6⟩ []) ∧
    (Granted s k cServe [] → s.half.w.serves = true → s.half.e.serves = true →
      Answers (.engineServe k) s { s with eng := { s.eng with state := .service } } k stOk ⟨skEngine, 4⟩ []) ∧
    (Granted s k cServe [] → (s.half.w.serves = false ∨ s.half.e.serves = false) →
      Answers (.engineServe k) s { s with eng := { s.eng with state := .limp } } k stOk ⟨skEngine, 5⟩ []) ∧
    (Granted s k cRestart [] →
      Answers (.engineRestart k) s { s with eng := { s.eng with restartDue := true } } k stOk (engineObj s) [])

/-- `engine.halt` without SAVE_ALL and without a RUNNING route, and with SAVE_ALL once every route is SAVED or ENDED: it replies
the number of routes saved, the engine is in HALT, every lane is at electrical idle with no chain in service, and the engine has
withdrawn from the level barrier. No half, image, binding, benchmark or stream changes (12_command_reference: 12 R268; 11 R256).
A RUNNING route refuses the command with its state. Where the spec leaves a clause open it rests on a choice of the model: log
entries 80, 96. -/
def Obligations.HaltQuiesces : Prop :=
  ∀ (s : State) (k : Byte) (p : List Byte), Granted s k cHalt p → p.length = 8 → zeroAt p 4 4 = true →
    (s.mbx.jobs = [] → s.mbx.waits = [] → u32At p 0 = 0 → s.rt.vals.find? (fun r => r.state == .running) = none →
      Completes (.engineHalt k) s fun t =>
        Replied s t k stOk ⟨skEngine, 7⟩ (toLe 4 0) ∧ t.eng = { s.eng with state := .halt } ∧
        (∀ h c, (t.chain h c).up = false) ∧ (∀ h l, l ∈ t.lanes.get h → l = Lane.reset) ∧
        t.level.withdrawn = true ∧ t.level.ready = false ∧
        (t.pending, t.half, t.safe, t.merid, t.img, t.bnd) = (s.pending, s.half, s.safe, s.merid, s.img, s.bnd) ∧
        (t.bench, t.str, t.time, t.free) = (s.bench, s.str, s.time, s.free)) ∧
    (s.mbx.jobs = [] → s.mbx.waits = [] → u32At p 0 = 1 → s.bnd.vals.all (fun b => b.state != .stopping) = true →
      s.rt.vals.all (fun r => (r.state == .ended || r.state == .saved) && !r.markDue) = true →
      Completes (.engineHalt k) s fun t =>
        Replied s t k stOk ⟨skEngine, 7⟩ (toLe 4 (s.rt.vals.filter fun r => r.state == .saved).length) ∧
        t.eng = { s.eng with state := .halt } ∧ (∀ h c, (t.chain h c).up = false) ∧
        t.level.withdrawn = true ∧ t.level.ready = false) ∧
    (∀ r, u32At p 0 = 0 → s.rt.vals.find? (fun r => r.state == .running) = some r →
      Answers (.engineHalt k) s s k stState ⟨skRoute, 1⟩ [])

/-! ### Images, bindings, routes -/

/-- `image.release` clears the host's reference and answers the references that remain; an image that has none leaves the store,
with its caches, its head and its finder banks; one that no binding names any more has no finder banks (12_command_reference: 12
R270; 10_images_and_bindings: 10 R222; 06 R128). Where the spec
leaves a clause open it rests on a choice of the model: log entries 62, 63. -/
def Obligations.ReleaseDropsUnreferencedImages : Prop :=
  ∀ (s : State) (k : Byte) (p : List Byte) (i : Image), Granted s k cRelease p → p.length = 48 →
    s.image (digestAt p 0) = some i →
    (s.fwRefs i.digest + s.bindRefs i.digest ≠ 0 →
      Answers (.imageRelease k) s ((s.setImage { i with hostRef := false }).dropUnnamed i.digest) k stOk ⟨skImage, i.state.code⟩
        (toLe 4 (s.fwRefs i.digest + s.bindRefs i.digest) ++ toLe 1 i.state.code ++ zeros 3)) ∧
    (s.fwRefs i.digest + s.bindRefs i.digest = 0 → s.loading i.digest = false →
      Completes (.imageRelease k) s fun t =>
        Replied s t k stOk ⟨skImage, 0xFF⟩ (toLe 4 0 ++ toLe 1 0xFF ++ zeros 3) ∧ t.image i.digest = none ∧
        (∀ d, d ≠ i.digest → t.image d = s.image d) ∧
        (∀ h, t.hs h = ((s.hs h).dropFinder (.image i.digest)).forget i.digest (i.copies.get h).length) ∧
        (t.eng, t.safe, t.lanes, t.chains, t.bnd, t.rt, t.bench, t.str) = (s.eng, s.safe, s.lanes, s.chains, s.bnd, s.rt, s.bench, s.str))

/-- `binding.create` without lists and without START gives a VERIFIED binding at its index with the request's image set and
profile; `binding.start` of an unpinned binding makes it ACTIVE; `binding.stop` begins phase 1 of the fence; `binding.swap` with
HOLD puts the new image set in the old one's place; `binding.retire` removes the binding. No other binding changes
(10_images_and_bindings: 10 R227-R234; 12_command_reference: 12 R271-R275). Where the spec leaves a clause open it rests on a
choice of the model: log entries 42, 62, 66, 98. -/
def Obligations.BindingsMove : Prop :=
  ∀ (s : State) (k : Byte) (p : List Byte),
    (∀ b, b = createBinding s p [] [] → Granted s k cCreate p → s.bnd.get? (u32At p 0 % 65536) = none → s.imagesFault b.set = none →
      createArgOk s p = true → s.typesOk b.set = true → s.anyRevoked b.set = false → u16At p 0xF0 = 0 → u8At p 0x110 = 0 →
      bitOf (u32At p 4) 0 = false → ImagesStand s b.set → (s.setBinding b).creationStatus b = stOk →
      Completes (.bindingCreate k) s fun t =>
        Replied s t k stOk ⟨skBinding, 1⟩ (s.createReply b) ∧ t.bnd = (s.setBinding { b with state := .verified }).bnd ∧
        t.bndGen = s.bndGen.put (u32At p 0 % 65536) (u32At p 0 / 65536) ∧
        (t.eng, t.img, t.rt, t.bench, t.lanes, t.chains) = (s.eng, s.img, s.rt, s.bench, s.lanes, s.chains)) ∧
    (∀ b, s.binding (u32At p 0) = some b → (∀ j ∈ s.mbx.jobs, j.arg ≠ b.handle) →
      (Granted s k cStart p → p.length = 8 → zeroAt p 4 4 = true → (b.state = .verified ∨ b.state = .stopped) → b.set.pin = false →
        s.anyRevoked b.set = false → ImagesStand s b.set →
        Completes (.bindingStart k) s fun t =>
          Replied s t k stOk ⟨skBinding, 2⟩ [] ∧
          t.bnd = (s.setBinding { b with state := .active, fence := .none, starting := false }).bnd ∧
          OnlyReply { s with bnd := t.bnd } t k) ∧
      (Granted s k cStop p → b.state = .active → b.fence = .none → p.length = 48 → zeroAt p 8 8 = true → listArgOk p = true →
        Completes (.bindingStop k) s fun t =>
          t.bnd = (s.setBinding { b with fence := .phase1 }).bnd ∧ { t with mbx := s.mbx, jr := s.jr, bnd := s.bnd } = s ∧
          { t.mbx with jobs := s.mbx.jobs } = s.mbx ∧
          ∃ j, t.jobOf k.toNat = some j ∧ j.code = cStop ∧ j.arg = b.handle ∧ j.body = p) ∧
      (∀ x, x = swapSet s b p → Granted s k cSwap p → b.state = .stopped → b.starting = false → s.imagesFault x = none →
        swapArgOk p = true → s.typesOk x = true → s.anyRevoked x = false → ImagesStand s x → bitOf (u32At p 4) 0 = true →
        (s.setBinding { b with state := .swapping, newSet := some (x, true) }).creationStatus
          { b with state := .swapping, newSet := some (x, true), set := x } = stOk →
        Completes (.bindingSwap k) s fun t =>
          Replied s t k stOk ⟨skBinding, 4⟩ (toLe 4 0 ++ s.setReply x) ∧
          t.bnd = (s.setBinding { b with state := .stopped, set := x, newSet := none }).bnd ∧
          (t.eng, t.rt, t.bench, t.lanes, t.chains, t.str) = (s.eng, s.rt, s.bench, s.lanes, s.chains, s.str)) ∧
      (Granted s k cRetire p → (b.state = .verified ∨ b.state = .stopped) → p.length = 8 → zeroAt p 4 4 = true →
        Completes (.bindingRetire k) s fun t =>
          Replied s t k stOk ⟨skBinding, 6⟩ (toLe 4 ((s.routesOf b.handle).filter liveRoute).length) ∧
          t.bnd = s.bnd.del (bindingIndex b.handle) ∧ t.binding (u32At p 0) = none ∧ t.eng = s.eng))

/-- `route.open` enters a new route in the table, OPEN at its starting step, under a new handle that the reply gives. Without
INTAKE this holds where its searches can run and its data stand, and the starting step has more than one allowed token, or none on
an engine that does not own the route; with one allowed token a forced run follows. A group's route does not open while the engine
has left the level barrier (12_command_reference: 12 R277, R278, R465; 01_decode_step: 01 R15, R17, R19; 06 R136). Where the spec
leaves a clause open it rests on a choice of the model: log entries 33, 71. -/
def Obligations.OpenEntersRoute : Prop :=
  ∀ (s : State) (k : Byte) (p : List Byte) (b : Binding) (i : Nat) (h : Half), Granted s k cOpen p → s.mbx.jobs = [] →
    s.binding (u32At p 0) = some b → b.state = .active → s.openArgOk b p = true → s.freeRoute = some i →
    s.chainPlan b (chainsAt p 0x24) = some h → s.groupHeld b = false →
    ∀ r, r = (s.notice k.toNat).newRoute b (s.routeHandle i) p (chainsAt p 0x24) h →
    ∀ n, n = (allowed (s.envFor b r) r.rel.pos).length →
    ∀ q, (r.intakeFlag = true ∧ q = r) ∨
        (r.intakeFlag = false ∧ s.searchWaits b r = false ∧ s.dataGone b r [r.rel.pos.g] = false ∧ (1 ≤ n ∨ owns b r = false) ∧
          q = { r with forcedMore := decide (n = 1) }) →
      Completes (.routeOpen k) s fun t =>
        Replied s t k stOk ⟨skRoute, 0⟩ (toLe 4 r.handle ++ toLe 4 (u32At p 0x10)) ∧ t.rt = s.rt.put (routeIndex r.handle) q ∧
        t.rtGen = s.rtGen.put i (r.handle / 2 ^ 18) ∧ t.route r.handle = some q ∧
        (t.eng, t.img, t.bnd, t.bench, t.lanes, t.chains, t.str) = (s.eng, s.img, s.bnd, s.bench, s.lanes, s.chains, s.str)

/-- A route that rests: `route.pause` makes it PAUSED at its last release; `route.save` holds it for its benchmark; `route.end`
ends it with END_HOST; `route.resume` of a PAUSED route takes it back to the state it had. Its prepared latent slots return to the
pool when it pauses or is held (12_command_reference: 12 R279-R281; 11_yesum_mailboxes: 11 R257; 10 R228; 04 R102). Where the spec
leaves a clause open it rests on a choice of the model: log entries 72, 73. -/
def Obligations.RestingRoutesMove : Prop :=
  ∀ (s : State) (k : Byte) (p : List Byte) (r : Route) (b : Binding), s.mbx.jobs = [] → s.binding r.binding = some b →
    r.adm = none → r.forcedMore = false → r.saving = false → r.markDue = false → r.pauseDue = false → b.state = .active →
    (Granted s k cPause p → s.route (u32At p 0) = some r → p.length = 8 → zeroAt p 4 4 = true → (r.state = .open ∨ r.state = .running) →
      Answers (.routePause k) s ((s.freeDrafts r).setRoute { r with state := .paused, drafts := none }) k stOk ⟨skRoute, 2⟩
        (toLe 4 r.next)) ∧
    (Granted s k cSave p → s.route (u32At p 0) = some r → saveArgOk p = true → bitOf (u32At p 4) 0 = false → s.benchRoom b r = true →
      (r.state = .open ∨ r.state = .running ∨ r.state = .paused) →
      Completes (.routeSave k) s fun t =>
        t.rt = (s.setRoute { r with saving := true, drafts := none }).rt ∧
        { t with mbx := s.mbx, jr := s.jr, rt := s.rt } = s.freeDrafts r ∧
        { t.mbx with jobs := s.mbx.jobs } = s.mbx ∧
        ∃ j, t.jobOf k.toNat = some j ∧ j.code = cSave ∧ j.arg = r.handle ∧ j.stage = 1 ∧ j.body = p) ∧
    (Granted s k cEnd p → s.route (u32At p 0) = some r → p.length = 8 → u32At p 4 ≤ 1 →
      (r.state = .open ∨ r.state = .running ∨ r.state = .paused) →
      Completes (.routeEnd k) s fun t =>
        Replied s t k stOk ⟨skRoute, 4⟩ (toLe 4 r.next ++ toLe 4 r.rel.gen ++ toLe 4 0) ∧
        (∃ q, t.route r.handle = some q ∧ q.state = .ended ∧ q.ending = .host ∧ q.next = r.next ∧ q.rel.gen = r.rel.gen) ∧
        t.bnd = s.bnd ∧ t.eng = s.eng ∧ t.bench = s.bench) ∧
    (Granted s k cResume p → s.binding (u32At p 0) = some b → s.route (u32At p 8) = some r → r.state = .paused → r.entries = [] →
      r.copies = ⟨[], []⟩ → r.openDue = false → s.groupHeld b = false → bitOf (u32At p 4) 1 = false → resumeFormOk p = true →
      pausedFormOk b r p = true →
      Completes (.routeResume k) s fun t =>
        Replied s t k stOk ⟨skRoute, if r.ran then 1 else 0⟩ (toLe 4 r.handle ++ toLe 4 r.next ++ toLe 1 0 ++ zeros 3) ∧
        (∃ q, t.route r.handle = some q ∧ q.state = (if r.ran then .running else .open) ∧
          { q with state := r.state, forcedMore := r.forcedMore } = r) ∧ t.bnd = s.bnd ∧ t.eng = s.eng)

/-- `route.discard` frees a benchmark, whose stack regions become dirty and which its route no longer names; that of a SAVED route is
refused with the route's state. BENCHMARK_WRITTEN takes a held route to SAVED with a new benchmark of its released state, and
completes its `route.save` (12_command_reference: 12 R279; 09 R210; 10 R231; 11 R257). Where the spec leaves a clause open it rests
on a choice of the model: log entries 30, 69. -/
def Obligations.BenchmarksComeAndGo : Prop :=
  ∀ (s : State) (k : Byte) (p : List Byte),
    (∀ e, Granted s k cDiscard p → s.benchAt (u32At p 0) = some e →
      ((∀ r, s.route e.route = some r → r.bench ≠ some e.handle ∨ r.state ≠ .saved) → p.length = 8 → zeroAt p 4 4 = true →
        Completes (.routeDiscard k) s fun t =>
          Replied s t k stOk (engineObj s) [] ∧ t.bench = s.bench.del (e.handle % indexCount) ∧
          (∀ h, t.hs h = if (s.hs h).serves then { s.hs h with dirty := (s.hs h).dirty + e.bytes.length } else s.hs h) ∧
          (∀ r, s.route e.route = some r → r.bench = some e.handle → t.route e.route = some { r with bench := none }) ∧
          OnlyReply { s with bench := t.bench, half := t.half, rt := t.rt } t k) ∧
      (∀ r, s.route e.route = some r → r.bench = some e.handle → r.state = .saved →
        Answers (.routeDiscard k) s s k stState ⟨skRoute, 3⟩ [])) ∧
    (∀ (h : U32) r b i j, s.mbx.mem.wf = true → (s.slotServer k.toNat).isSome = true → s.route h.toNat = some r → s.binding r.binding = some b → r.saving = true →
      r.adm = none → r.forcedMore = false → r.markDue = false → b.state = .active → freeIndex s.bench = some i →
      s.mbx.jobs = [j] → j.slot = k.toNat → j.code = cSave → j.arg = r.handle → j.stage = 1 → bitOf (u32At j.body 4) 0 = false →
      Completes (.benchmarkWritten h) s fun t =>
        let g := nextGen ((s.benchGen.get? i).getD 0)
        Replied s t k stOk ⟨skRoute, 3⟩ (toLe 4 (i + 2 ^ 18 * g) ++ toLe 4 r.next ++ toLe 8 (routeBench b r).length) ∧
        t.route r.handle = some { r with state := .saved, saving := false, bench := some (i + 2 ^ 18 * g), drafts := none } ∧
        t.bench = s.bench.put i ⟨i + 2 ^ 18 * g, r.handle, routeBench b r⟩ ∧ t.bnd = s.bnd ∧ t.eng = s.eng)

/-! ### Diagnostics, the journal's flush, chains, halves -/

/-- `diag.bank_read` writes the bytes of the named region, an image's copy being its own, to the request's region; the data of
`diag.bank_write` change the region, an image keeping its state. `diag.selftest` begins a test of the half's plates, spare ones being
out of use meanwhile; SELFTEST_DONE retires the spare plates that failed and completes it with a new signature
(12_command_reference: 12 R284, R285; 09 R207, R211; 14 R335). Where the spec leaves a clause open it rests on a choice of the
model: log entries 9, 78, 82. -/
def Obligations.BankReadsAndSelftests : Prop :=
  ∀ (s : State) (k : Byte) (p : List Byte),
    (∀ c d, d = descAt p 0x40 → Granted s k cBankRead p → bankNamed p = true → s.bankRegion p = some c →
      bankArgOk p c.length false = true →
      Sends (.diagBankRead k) s (s.wakeHalf p) k d.addr (slice c (u64At p 8) d.len) (bankRef p) [] ∧
      (u8At p 0 = 1 → ∃ i, s.image (digestAt p 0x10) = some i ∧ c = i.copies.get (Half.ofCode (u8At p 1)))) ∧
    (∀ (h : Half) (tag : Byte) (data : List Byte) a j i c, s.mbx.mem.wf = true → s.access h tag.toNat = some a → a.write = false →
      data.length = a.len → a.purpose = .job k.toNat 0 → s.jobOf k.toNat = some j → j.code = cBankWrite → j.left = 1 → j.parts = [[]] →
      (s.slotServer k.toNat).isSome = true → (descAt j.body 0x40).crcOk data = true → u8At j.body 0 = 1 →
      s.image (digestAt j.body 0x10) = some i → s.bankRegion j.body = some c →
      (∀ b ∈ s.bnd.vals, b.set.digests.contains (digestAt j.body 0x10) = false) →
      Answers (.miResponse h tag data true false) s
        (({ s with mi := s.mi.filter fun x => x != a } : State).setImage
          { i with copies := i.copies.set (Half.ofCode (u8At j.body 1)) (patch c (u64At j.body 8) data) })
        k stOk ⟨skImage, i.state.code⟩ []) ∧
    (∀ h, h = Half.ofCode (u8At p 1) → Granted s k cSelftest p → p.length = 8 → u8At p 0 ≤ 2 → u8At p 1 ≤ 1 →
      zeroAt p 2 6 = true → s.testing = false → (u8At p 0 = 0 ∨ (s.hs h).code = .drained ∧ s.eng.state = .limp) →
      Completes (.diagSelftest k) s fun t =>
        Begins s (if u8At p 0 = 0 then s.onHalf h fun x => { x with spare := 0, underTest := x.spare } else s) t k p) ∧
    (∀ (h : Half) (failed : U16) j n, s.mbx.mem.wf = true → (s.slotServer k.toNat).isSome = true → j.slot = k.toNat →
      s.jobOf k.toNat = some j → n = min failed.toNat j.arg →
      s.mbx.jobs.find? (fun j => j.code == cSelftest && Half.ofCode (u8At j.body 1) == h) = some j → u8At j.body 0 = 0 →
      Completes (.selftestDone h failed) s fun t =>
        Replied s t k stOk (engineObj s)
          (toLe 2 j.arg ++ toLe 2 n ++ zeros 4 ++ toLe 8 (Config.selftestSignature s.free).toNat) ∧
        (t.hs h).spare = (s.hs h).spare + (s.hs h).underTest - n ∧ (t.hs h).retired = (s.hs h).retired + n ∧
        (t.hs h).underTest = 0 ∧ (t.hs h).signature = Config.selftestSignature s.free ∧ t.hs h.other = s.hs h.other)

/-- `service.journal_flush` START begins to write the unflushed records, those of a supply warning's flush left out, to the request's
region, whole ones, and replies; with its accesses done, JOURNAL_FLUSH_DONE marks it done and those records flushed; the flush of a
supply warning gets its header with DONE last (12_command_reference: 12 R287, R290; 15 R379; 14 R342). Where the spec leaves a
clause open it rests on a choice of the model: log entries 16, 87. -/
def Obligations.FlushesWriteTheJournal : Prop :=
  ∀ (s : State) (k : Byte) (p : List Byte),
    (∀ n, n = s.notice k.toNat → ∀ l, l = exportRecs n.jr.recs.length (descAt p 8).len
        (n.jr.unflushed.filter fun r => !(s.jr.warn.any fun f => f.numbers.contains r.number)) →
      ∀ g, g = (l.head?.map fun r => r.number).getD n.jr.next → Granted s k cFlush p → u8At p 0 ≠ 1 → p.length = 40 →
      zeroAt p 0 8 = true → (descAt p 8).okOut = true → (∀ f, s.jr.host = some f → f.done = true) →
      Completes (.serviceJournalFlushStart k) s fun t =>
        Replied s t k stOk (engineObj s) (flushReply 0 g l.length 0) ∧
        t.jr.host = some ⟨(descAt p 8).region, l.map fun r => r.number, g, l.length, (l.flatMap JRec.bytes).length, false⟩ ∧
        (l ≠ [] → ∃ a ∈ t.mi, a.write = true ∧ a.addr = (descAt p 8).addr ∧ a.data = l.flatMap JRec.bytes ∧ a.purpose = .hostFlush) ∧
        { t with mbx := s.mbx, jr := s.jr, mi := s.mi } = s) ∧
    (∀ f, s.jr.host = some f → f.done = false → (∀ a ∈ s.mi, a.purpose ≠ .hostFlush) →
      (s.jr.warn = none ∨ s.safe.flush ≠ 1) →
      exec .journalFlushDone s =
        .next { s with jr := { s.jr with
          host := some { f with done := true }
          recs := s.jr.recs.map fun r => if f.numbers.contains r.number then { r with saved := true } else r } }) ∧
    (∀ f, s.jr.warn = some f → f.done = false → s.safe.flush = 1 → (∀ a ∈ s.mi, a.purpose ≠ .warnFlush) →
      Completes .journalFlushDone s fun t =>
        t.safe = { s.safe with flush := 2 } ∧
        t.jr = { s.jr with
          warn := some { f with done := true }
          recs := s.jr.recs.map fun r => if f.numbers.contains r.number then { r with saved := true } else r } ∧
        (∃ a, t.mi = s.mi ++ [a] ∧ a.write = true ∧ a.addr = f.region.addr ∧ a.data = flushHeader true f s.eng.serial ∧
          a.purpose = .warnFlush) ∧
        { t with safe := s.safe, jr := s.jr, mi := s.mi } = s)

/-- `service.quiesce_lanes` brings the chains that its bits name to electrical idle, and no other; `service.level_withdraw`
withdraws from the barrier, and the groups of this engine pause: at once where no release of theirs is on its way, and a route that
has one after it; `service.chain_retrain` lets the dropped lanes of a chain train again and waits, and completes with the chain's
width when the chains have been trained (12_command_reference: 12 R286, R288, R465; 18 R442; 16 R387; 15 R369; 03 R71; 11 R257).
Where the spec leaves a clause open it rests on a choice of the model: log entries 49, 58, 59, 93. -/
def Obligations.ChainCommands : Prop :=
  ∀ (s : State) (k : Byte) (p : List Byte),
    (Granted s k cQuiesce p → p.length = 4 →
      Completes (.serviceQuiesceLanes k) s fun t =>
        Replied s t k stOk (engineObj s) [] ∧
        (∀ h, t.chains.get h = (s.chains.get h).mapIdx fun c x =>
          if c < 16 ∧ bitOf (u32At p 0) (16 * h.code + c) = true then { x with quiet := true } else x) ∧
        (∀ h, t.lanes.get h = (s.lanes.get h).map fun l => match l.member with
          | some c => if c < 16 ∧ bitOf (u32At p 0) (16 * h.code + c) = true then { l with member := none, mode := .dropped } else l
          | none => l) ∧
        { t with mbx := s.mbx, jr := s.jr, lanes := s.lanes, chains := s.chains, mi := s.mi } = s) ∧
    (Granted s k cWithdraw [] → s.mbx.jobs = [] →
      ((∀ r ∈ s.rt.vals, ∀ b, s.binding r.binding = some b → b.shards ≤ 1 ∨ (r.state ≠ .open ∧ r.state ≠ .running)) →
        Completes (.serviceLevelWithdraw k) s fun t =>
          Replied s t k stOk (engineObj s) [] ∧ t.level.withdrawn = true ∧ t.level.ready = false ∧
          (s.level.member = true → s.level.acts = false →
            Says s.level.out t.level.out .up lmWithdrawCode s.level.position 0 s.eng.serial) ∧
          OnlyReply { s with level := t.level } t k) ∧
      (∀ r b, s.rt = [(routeIndex r.handle, r)] → s.binding r.binding = some b → 1 < b.shards →
        (r.state = .open ∨ r.state = .running) → r.entries = [] → r.copies = ⟨[], []⟩ → r.markDue = false → r.saving = false →
        b.state = .active →
        ((owns b r = false ∨ (r.forcedMore = false ∧ ∀ a, r.adm = some a → a.leaving = false)) →
          Completes (.serviceLevelWithdraw k) s fun t =>
            Replied s t k stOk (engineObj s) [] ∧ t.level.withdrawn = true ∧ t.level.ready = false ∧
            ∃ q, t.route r.handle = some q ∧ q.state = .paused ∧ q.adm = none ∧ q.drafts = none ∧ q.rel = r.rel) ∧
        (owns b r = true → (r.forcedMore = true ∨ ∃ a, r.adm = some a ∧ a.leaving = true) →
          Completes (.serviceLevelWithdraw k) s fun t =>
            Replied s t k stOk (engineObj s) [] ∧ t.level.withdrawn = true ∧ t.level.ready = false ∧
            t.route r.handle = some { r with pauseDue := true }))) ∧
    (∀ h, h = Half.ofCode (u8At p 0) → Granted s k cRetrain p → u8At p 0 ≤ 1 → u8At p 1 ≤ 15 → p.length = 8 → zeroAt p 2 6 = true →
      Completes (.serviceChainRetrain k) s fun t =>
        Begins s
          { s with lanes := s.lanes.modify h (·.map (fun l => if s.dropsFrom h (u8At p 1) l then { l with mode := .idle } else l)) }
          t k p) ∧
    (∀ j, s.mbx.mem.wf = true → s.mbx.jobs = [j] → j.slot = k.toNat → j.code = cRetrain → (s.slotServer k.toNat).isSome = true →
      s.eng.phase ≠ .chains → s.half.w.phase ≠ .chains → s.half.e.phase ≠ .chains →
      Answers .chainsTrained s s k stOk (engineObj s)
        (toLe 1 ((s.lanes.get j.target).filter fun l => l.member == some (u8At j.body 1)).length))

/-- `service.half_reset` holds a half in reset, clears its counters and volatile banks, and boots its firmware; a half that does
not serve resets alone, and where one that serves carries no command and no route the other one serves on in LIMP. `service.half_drain`
waits for the half's admitted steps; with none it takes the half out, and the other half serves its slots. `service.half_serve`
begins the return of a half: one that has been reset, or that has a staged image to run, boots, and any other trains its chains
(12_command_reference: 12 R286, R288; 15 R349; 18 R436, R444). Where the spec leaves a clause open it rests on a choice of the
model: log entries 83, 84. -/
def Obligations.HalfCommands : Prop :=
  ∀ (s : State) (k : Byte) (p : List Byte) (h : Half), h = Half.ofCode (u8At p 0) → u8At p 0 ≤ 1 → p.length = 8 →
    zeroAt p 1 7 = true →
    (Granted s k cHalfReset p →
      Completes (.serviceHalfReset k) s (fun t =>
        (t.hs h).serves = false ∧ (t.hs h).fw = .booting ∧ (t.hs h).steps = [0, 0, 0, 0] ∧ (t.hs h).maskCache = [] ∧
        (t.hs h).heads = [] ∧ (t.hs h).regions = [] ∧ ∀ c, (t.chain h c).up = false ∧ (t.chain h c).cnt = [0, 0, 0, 0]) ∧
      (s.eng.state ≠ .reset → Quiet s →
        Completes (.serviceHalfReset k) s fun t =>
          Replied s t k stOk (engineObj t) [] ∧ (t.hs h).code = .inReset ∧ (t.hs h).phase = .firmware ∧ t.eng.limp = true ∧
          t.eng.state = s.eng.state.limped ∧ (t.hs h.other).serves = true) ∧
      ((s.hs h).serves = false → s.eng.state ≠ .reset →
        Completes (.serviceHalfReset k) s fun t =>
          Replied s t k stOk (engineObj s) [] ∧ t.hs h.other = s.hs h.other ∧
          t.hs h = { (s.hs h).wiped with code := if (s.hs h).code = .drained then .drained else .inReset, fw := .booting
                                         bootTries := 0, needsSurvey := true, phase := .firmware } ∧
          (t.eng, t.safe, t.merid, t.img, t.bnd, t.bench, t.str, t.level) =
            (s.eng, s.safe, s.merid, s.img, s.bnd, s.bench, s.str, s.level))) ∧
    (Granted s k cHalfDrain p → s.bothServe = true → s.halfBusy = false →
      ((∃ r ∈ s.rt.vals, r.adm.isSome = true ∧ s.holds h r = true) → Completes (.serviceHalfDrain k) s fun t => Begins s s t k p) ∧
      (s.rt = [] → s.mbx.jobs = [] → (s.hs h).waiting = [] → s.mbx.taken.get h = false →
        Completes (.serviceHalfDrain k) s fun t =>
          Replied { s with mbx := { s.mbx with taken := s.mbx.taken.set h true, takeovers := satAdd s.mbx.takeovers 1 } } t k stOk
            (engineObj t) [] ∧
          (t.hs h).code = .drained ∧ (t.hs h).retention = true ∧ (t.hs h.other).serves = true ∧ t.eng.limp = true ∧
          t.eng.state = s.eng.state.limped)) ∧
    (Granted s k cHalfServe p → (s.hs h).serves = false → ((s.hs h).hold = true → (s.hs h).tj = 0x80 ∨ (s.hs h).tj.toInt < 100) →
      s.halfBusy = false → (s.hs h).phase = .held →
      (((s.hs h).needsSurvey = true ∨ s.verified s.eng.staged = true ∧ (s.hs h).fwi ≠ s.eng.staged) →
        Completes (.serviceHalfServe k) s fun t =>
          Begins s (s.onHalf h fun x =>
            { x.emptied with phase := .firmware, fw := .booting, bootTries := 0, needsSurvey := true }) t k p) ∧
      ((s.hs h).needsSurvey = false → s.verified s.eng.staged = false ∨ (s.hs h).fwi = s.eng.staged →
        Completes (.serviceHalfServe k) s fun t => Begins s (s.onHalf h fun x => { x with phase := .chains }) t k p))

/-! ### Plates, stacks, fuses, firmware -/

/-- `service.retire_suspects` replies at once when the half has no suspect plate, and gives a suspect's position to a spare;
a suspect's charge lapses after 7 days (12_command_reference: 12 R288; 18 R439; 13 R302). -/
def Obligations.SuspectPlates : Prop :=
  ∀ (s : State) (k : Byte) (p : List Byte) (h : Half),
    (h = Half.ofCode (u8At p 0) → u8At p 0 ≤ 1 → p.length = 8 → zeroAt p 1 7 = true → Granted s k cSuspects p →
      (s.eng.state = .limp → h ≠ s.survivor) →
      ((s.hs h).suspects = [] →
        Answers (.serviceRetireSuspects k) s s k stOk (engineObj s) (toLe 2 0 ++ toLe 2 (s.hs h).spare)) ∧
      (∀ x, (s.hs h).suspects = [x] → 0 < (s.hs h).spare → s.busySuspect h x.pos = false →
        Completes (.serviceRetireSuspects k) s fun t =>
          Replied s t k stOk (engineObj s) (toLe 2 1 ++ toLe 2 ((s.hs h).spare - 1)) ∧
          (t.hs h).suspects = [] ∧ (t.hs h).spare = (s.hs h).spare - 1 ∧ (t.hs h).retired = (s.hs h).retired + 1 ∧
          (t.hs h).emptyPos = (s.hs h).emptyPos ∧ t.hs h.other = s.hs h.other)) ∧
    (∀ pos : BitVec 7, Completes (.suspectExpiry h pos) s fun t =>
      (∀ y, y ∈ (t.hs h).suspects ↔ y ∈ (s.hs h).suspects ∧ ¬(y.pos = pos.toNat ∧ y.time + 7 * dayNs ≤ s.time.toNat)) ∧
      s.onHalf h (fun x => { x with suspects := (t.hs h).suspects }) = t)

/-- A stack that `service.stack_retire` names, or that STACK_FAULT reports, leaves service as `StackRetired` says, and one that
has left already stays as it is; the command's reply has the bytes that the rebuild writes. STACK_REBUILT ends a rebuild and is
logged. `service.stack_restore` waits for the stack's training, test and clear, STACK_CLEAR_DONE clears the freed regions and
brings the stack back, and a stack in service has nothing to restore (12_command_reference: 12 R288; 13 R305; 18 R441; 17 R420). Where the spec leaves a
clause open it rests on a choice of the model: log entries 30, 63, 89. -/
def Obligations.StacksLeaveAndReturn : Prop :=
  ∀ (s : State) (k : Byte) (p : List Byte) (h : Half),
    (h = Half.ofCode (u8At p 0) → u8At p 0 ≤ 1 → u8At p 1 ≤ 15 → p.length = 8 → zeroAt p 2 6 = true →
      (Granted s k cStackRetire p → (s.eng.state = .limp → h ≠ s.survivor) →
        ((s.hs h).stackMask.getLsbD (u8At p 1) = true →
          Completes (.serviceStackRetire k) s fun t =>
            Replied s t k stOk (engineObj s) (toLe 8 ((t.hs h).rebuildOf (u8At p 1))) ∧ StackRetired s t h (u8At p 1)) ∧
        ((s.hs h).stackMask.getLsbD (u8At p 1) = false →
          Answers (.serviceStackRetire k) s s k stOk (engineObj s) (toLe 8 ((s.hs h).rebuildOf (u8At p 1))))) ∧
      (Granted s k cStackRestore p → (s.hs h).rebuild = [] → s.jobOn cStackRestore h = none →
        ((s.hs h).stackMask.getLsbD (u8At p 1) = true → Answers (.serviceStackRestore k) s s k stOk (engineObj s) []) ∧
        ((s.hs h).stackMask.getLsbD (u8At p 1) = false → Completes (.serviceStackRestore k) s fun t => Begins s s t k p))) ∧
    (∀ i : BitVec 4,
      ((s.hs h).stackMask.getLsbD i.toNat = true →
        Completes (.stackFault h i) s fun t => StackRetired s t h i.toNat ∧ (t.mbx, t.mi) = (s.mbx, s.mi)) ∧
      ((s.hs h).stackMask.getLsbD i.toNat = false → exec (.stackFault h i) s = .next s)) ∧
    (∀ i : BitVec 4, (∃ n, (i.toNat, n) ∈ (s.hs h).rebuild) →
      Completes (.stackRebuilt h i) s fun t =>
        (t.hs h).rebuild = (s.hs h).rebuild.filter (fun q => q.1 != i.toNat) ∧
        t.safe = (s.log h.code 1 0x0007 i.toNat 0 []).safe ∧ { t with safe := s.safe, half := s.half } = s) ∧
    (s.jobOn cStackRestore h = none → exec (.stackClearDone h) s = .next (s.onHalf h fun x => { x with dirty := 0 })) ∧
    (∀ j, s.mbx.mem.wf = true → s.jobOn cStackRestore h = some j → j.slot = k.toNat → j.stage = 1 →
      (s.slotServer k.toNat).isSome = true →
      Answers (.stackClearDone h) s
        (s.onHalf h fun x => { x with dirty := 0, stackMask := x.stackMask ||| (1#16 <<< u8At j.body 1) }) k stOk (engineObj s) [])

/-- `service.fuse_burn`, `service.keyslot_program` and `service.keyslot_revoke` begin their fuse command; without VDD_FUSE they
answer ST_STATE, and while a fuse command runs the burn answers ST_BUSY. FUSE_BURN_DONE ends a burn, a keyslot's programming or its
revocation, which marks the key's images and lists the bindings that name them, and VDD_FUSE_REMOVED shows the rail absent (12_command_reference: 12 R288,
R289; 10 R217, R223; 17 R430; 09 R205). Where the spec leaves a clause open it rests on a choice of the model: log entries 37,
88, 90, 118. -/
def Obligations.FuseCommands : Prop :=
  ∀ (s : State) (k : Byte) (p : List Byte) (n : Nat), n = u8At p 0 →
    (s.safe.fuseV = false →
      (Granted s k cFuseBurn p → n ≤ 1 → Answers (.serviceFuseBurn k) s s k stState ⟨skNone, 0⟩ []) ∧
      (Granted s k cKeyProgram p → Answers (.serviceKeyslotProgram k) s s k stState ⟨skNone, 0⟩ []) ∧
      (Granted s k cKeyRevoke p → Answers (.serviceKeyslotRevoke k) s s k stState ⟨skNone, 0⟩ [])) ∧
    (s.safe.fuseV = true → s.safe.fuseJob ≠ none → Granted s k cFuseBurn p → n ≤ 1 → p.length = 8 → zeroAt p 1 7 = true →
      Answers (.serviceFuseBurn k) s s k stBusy (engineObj s) []) ∧
    (s.safe.fuseV = true → s.safe.fuseJob = none →
      (∀ h, h = Half.ofCode n → Granted s k cFuseBurn p → n ≤ 1 → p.length = 8 → zeroAt p 1 7 = true →
        ((s.hs h).pendingRepairs = [] ∨ (s.hs h).left = 0 →
          Answers (.serviceFuseBurn k) s s k stOk (engineObj s)
            (toLe 2 0 ++ toLe 2 (s.hs h).pendingRepairs.length ++ toLe 2 (s.hs h).left)) ∧
        ((s.hs h).pendingRepairs ≠ [] → (s.hs h).left ≠ 0 →
          Completes (.serviceFuseBurn k) s fun t =>
            Begins s { s with safe := { s.safe with fuseJob := some (.burn k.toNat h 0) } } t k p ∧
            (t.jobOf k.toNat).map (·.left) = some (min (s.hs h).pendingRepairs.length (s.hs h).left))) ∧
      (Granted s k cKeyProgram p → n ≤ 7 → (s.keyslot n).state = .empty → p.length = 56 → u8At p 1 ≤ 1 → zeroAt p 2 6 = true →
        Completes (.serviceKeyslotProgram k) s fun t =>
          Begins s { s with safe := { s.safe with fuseJob := some (.program k.toNat n)
                                                  cutKey := s.safe.cutKey.filter fun c => c.1 != n } } t k p) ∧
      (Granted s k cKeyRevoke p → n ≤ 7 → (s.keyslot n).state = .active → s.fwSigned n s.eng.fwRun = none → p.length = 40 →
        zeroAt p 1 7 = true → (descAt p 8).okOut = true →
        Completes (.serviceKeyslotRevoke k) s fun t =>
          Begins s { s with safe := { s.safe with fuseJob := some (.revoke k.toNat n) } } t k p)) ∧
    (∀ j q, s.mbx.mem.wf = true → s.jobOf k.toNat = some j → (s.slotServer k.toNat).isSome = true →
      (s.safe.fuseJob = some (.program k.toNat q) →
        Answers (.fuseBurnDone true) s
          { s with safe := { s.safe with fuseJob := none, fuses := s.safe.fuses.set q ⟨digestAt j.body 8, u8At j.body 1, .active⟩ } }
          k stOk (engineObj s) [] ∧
        Answers (.fuseBurnDone false) s { s with safe := { s.safe with fuseJob := none } } k stFault (engineObj s) []) ∧
      (s.safe.fuseJob = some (.revoke k.toNat q) → q < s.safe.fuses.length →
        Completes (.fuseBurnDone true) s fun t =>
          t.keyslot q = { s.keyslot q with state := .revoked } ∧ (∀ m, m ≠ q → t.keyslot m = s.keyslot m) ∧
          t.safe.fuseJob = none ∧ t.img = s.img.mapVals (fun i => if s.revokes q i then { i with state := .revoked } else i) ∧
          (t.bnd, t.rt, t.half, t.eng) = (s.bnd, s.rt, s.half, s.eng) ∧
          let ds := (s.img.vals.filter fun i => s.revokes q i).map fun i => i.digest
          let m := min (s.naming ds).length ((descAt j.body 8).len / 4)
          let out := ((s.naming ds).take m).flatMap (toLe 4)
          (m = 0 → Replied s t k stOk (engineObj s) (toLe 4 ds.length ++ toLe 4 (s.naming ds).length ++ toLe 4 0)) ∧
          (m ≠ 0 → t.mi = s.mi ++ [⟨s.slotHalf k.toNat, freeTag s.mi (s.slotHalf k.toNat), true, (descAt j.body 8).addr,
            out.length, out, .job k.toNat 0, false⟩])) ∧
      (∀ h c rest m, s.safe.fuseJob = some (.burn k.toNat h m) → (s.hs h).pendingRepairs = c :: rest → j.left = 1 →
        Answers (.fuseBurnDone true) s
          { (s.onHalf h fun x => { x with left := x.left - 1, pendingRepairs := rest, burnt := x.burnt ++ [c] }) with
            safe := { s.safe with fuseJob := none } }
          k stOk (engineObj s) (toLe 2 (m + 1) ++ toLe 2 rest.length ++ toLe 2 ((s.hs h).left - 1)))) ∧
    (s.safe.fuseJob = none →
      exec .vddFuseRemoved s = .next { s with safe := { s.safe with fuseV := false }
                                              half := s.half.map fun x => { x with railOk := x.railOk &&& 0x0FF } })

/-- `service.fw_activate` restarts a half's firmware on the staged image while the half goes on serving; FIRMWARE_BOOTED brings
a half's firmware up, the engine to SURVEY with both, and an activation to its end; a boot that hangs is tried twice more, then
gives way to the fallback, and without one the half is held; a firmware fault restarts the firmware alone; a half's slots go to
the other one, where a command without a commit record starts again, and back between commands (12_command_reference: 12 R288;
15 R353, R354; 18 R437; 13 R321; 11 R256, R260). Where the spec leaves a clause open it rests on a choice of the model: log
entries 9, 38, 91. -/
def Obligations.FirmwareRestarts : Prop :=
  ∀ (s : State) (k : Byte) (p : List Byte) (h : Half),
    (∀ d i, h = Half.ofCode (u8At p 0) → u8At p 0 ≤ 1 → p.length = 8 → zeroAt p 1 7 = true → Granted s k cFwActivate p →
      (s.eng.state = .limp → h ≠ s.survivor) → (s.hs h).serves = true → s.eng.staged = some d → s.image d = some i →
      i.state = .verified → Config.fwiLevel (manifest (s.imageBytes d)) = ifLevel → s.mbx.jobs = [] →
      Completes (.serviceFwActivate k) s fun t =>
        Begins s (s.onHalf h fun x => { x with code := .fwRestart, fw := .booting, bootTries := 0, fwi := some d }) t k p) ∧
    (∀ d, s.bootChoice h = some d → s.mbx.jobs = [] →
      (s.eng.state = .reset → s.eng.phase = .firmware → (s.hs h).code = .inReset → (s.hs h).fw = .booting → s.eng.fwRun = some d →
        exec (.firmwareBooted h) s =
          .next { (s.onHalf h fun x => { x with code := .up, fw := .running, fwi := some d }) with
            eng := if (s.hs h.other).code = .up ∨ (s.hs h.other).out = true then { s.eng with state := .survey, phase := .census }
              else s.eng }) ∧
      (s.eng.state ≠ .reset → (s.hs h).phase = .firmware → (s.hs h).code ≠ .drained →
        exec (.firmwareBooted h) s =
          .next (s.onHalf h fun x => { x with code := .down, fw := .running, phase := .census, fwi := some d }))) ∧
    (∀ j, s.eng.state ≠ .reset → (s.hs h).phase ≠ .firmware → (s.hs h).code = .fwRestart → s.eng.staged = none →
      s.mbx.mem.wf = true → s.mbx.jobs = [j] → j.slot = k.toNat → j.code = cFwActivate → j.target = h → j.due = false →
      ((s.onHalf h fun x => { x with code := .up, fw := .running, bootTries := 0 }).slotServer k.toNat).isSome = true →
      Completes (.firmwareBooted h) s fun t =>
        Replied s t k stOk (engineObj s) [] ∧
        OnlyReply (s.onHalf h fun x => { x with code := .up, fw := .running, bootTries := 0 }) t k) ∧
    (s.eng.state = .reset → s.eng.phase = .firmware → (s.hs h).code = .inReset → (s.hs h).fw = .booting →
      ((s.hs h).bootTries < 2 →
        exec (.fwBootTimeout h) s = .next (s.onHalf h fun x => { x with bootTries := x.bootTries + 1 })) ∧
      (∀ d, 2 ≤ (s.hs h).bootTries → s.eng.fwFall = some d → s.verified (some d) = true → s.bootChoice h ≠ some d →
        Completes (.fwBootTimeout h) s fun t =>
          (t.hs h).fwi = some d ∧ (t.hs h).bootTries = 0 ∧ (t.hs h).fw = .booting ∧
          t.safe = (s.log h.code 1 0x0002 0 0 ((digestBytes d).take 24)).safe) ∧
      (2 ≤ (s.hs h).bootTries → s.verified s.eng.fwFall = false → s.mbx.jobs = [] →
        exec (.fwBootTimeout h) s = .next (s.onHalf h fun x => { x with fw := .failed, phase := .held }))) ∧
    ((s.hs h).fw = .running → (s.hs h).code = .up → s.mbx.jobs = [] →
      exec (.firmwareFault h) s = .next (s.onHalf h fun x => { x with code := .fwRestart, fw := .booting, bootTries := 0 })) ∧
    ((s.hs h).fw ≠ .running → (s.hs h.other).fw = .running → (s.hs h.other).serves = true → s.mbx.taken.get h = false →
      (∀ j ∈ s.mbx.jobs, j.due = false) →
      let t := { s with mbx := { s.mbx with taken := s.mbx.taken.set h true, takeovers := satAdd s.mbx.takeovers 1 } }
      ((∀ j ∈ s.mbx.jobs, j.slot = 255 ∨ homeHalf j.slot ≠ h ∨ j.committed = true) → exec (.slotTakeover h) s = .next t) ∧
      (∀ j, s.mbx.jobs = [j] → j.slot ≠ 255 → homeHalf j.slot = h → j.committed = false → s.fuseSlot ≠ some j.slot →
        j.code ≠ cStop → j.code ≠ cSave → j.code ≠ cStart →
        exec (.slotTakeover h) s =
          .next { t with mbx := { t.mbx with jobs := [] }, mi := s.mi.filter fun a => a.notOf j.slot })) ∧
    ((s.hs h).fw = .running → (s.hs h).serves = true → s.mbx.taken.get h = true → s.eng.staged = none →
      (∀ j ∈ s.mbx.jobs, j.slot = 255 ∨ homeHalf j.slot ≠ h) →
      exec (.slotTakeback h) s = .next { s with mbx := { s.mbx with taken := s.mbx.taken.set h false } })

/-! ### Requests, registers -/

/-- AFTER_DEPENDENCY_MET: a request that waited goes on with row 4: an engine state that does not admit it refuses it ST_STATE,
and `engine.drain`, `engine.query` and `engine.serve`, for example, then have their effect; one of class E waits on while a supply
warning stands. AFTER_WAIT_EXPIRED answers ST_BUSY and counts it. UNLISTED_COMMAND_CODE answers ST_ARG
(11_yesum_mailboxes: 11 R247, R249, R253; 15 R378). Where the spec leaves a clause open it rests on a choice of the model: log
entries 99, 119. -/
def Obligations.WaitingAndUnlistedRequests : Prop :=
  ∀ (s : State) (k : Byte), s.mbx.mem.wf = true →
    ((s.waitOf k.toNat).isSome = true → (s.slotServer k.toNat).isSome = true →
      (s.afterMet k.toNat = false →
        Completes (.afterWaitExpired k) s fun t =>
          Replied { s with mbx := { s.mbx with busy := satAdd s.mbx.busy 1 } } t k stBusy (s.slotObj k.toNat) [] ∧
          OnlyReply s t k ∧ t.waitOf k.toNat = none) ∧
      (s.warned k.toNat = true → exec (.afterDependencyMet k) s = .next s) ∧
      (s.afterMet k.toNat = true → s.warned k.toNat = false →
        (validIn (s.sealCode k.toNat) s.eng.state = false →
          Answers (.afterDependencyMet k) s s k stState (engineObj s) []) ∧
        (s.sealCode k.toNat = cDrain → validIn cDrain s.eng.state = true → s.reqPayload k.toNat = [] →
          Answers (.afterDependencyMet k) s { s with eng := { s.eng with state := .drain } } k stOk ⟨skEngine, 6⟩ []) ∧
        (s.sealCode k.toNat = cQuery → validIn cQuery s.eng.state = true → s.reqPayload k.toNat = [] →
          Answers (.afterDependencyMet k) s s k stOk (engineObj s) s.queryReply) ∧
        (s.sealCode k.toNat = cServe → validIn cServe s.eng.state = true → s.reqPayload k.toNat = [] → s.bothServe = true →
          Answers (.afterDependencyMet k) s { s with eng := { s.eng with state := .service } } k stOk ⟨skEngine, 4⟩ []))) ∧
    (s.unnoticed k.toNat = true → listed (s.sealCode k.toNat) = false →
      (s.sealSeq k.toNat = s.expectedSeq k.toNat → Answers (.unlistedCommandCode k) s s k stArg (s.slotObj k.toNat) []) ∧
      (s.sealSeq k.toNat ≠ s.expectedSeq k.toNat →
        Completes (.unlistedCommandCode k) s fun t =>
          Answered s t k stArg (s.slotObj k.toNat) (toLe 4 (s.expectedSeq k.toNat)) false ∧ OnlyReply s t k))

/-- REGISTER_WRITE through a control port: a word of a request half takes the enabled bytes, while the slot is the host's; a
write to a sealed slot, a seal written in part and a write that fails parity are discarded and counted; a reply half takes
nothing; MBX_IRQ_EN and SAFE_LOG_SEL take their bits. Through a sideband target SAFE_BOOT_PTR is taken, with its low six bits
zero (11_yesum_mailboxes: 11 R242; 17 R415; 19 R446, R450, R453, R457, R462). Where the spec leaves a clause open it rests on a
choice of the model: log entry 15. -/
def Obligations.RegisterWritesTakeEffect : Prop :=
  ∀ (s : State) (h : Half) (off : BitVec 24) (be : Byte) (data : U64),
    (∀ slot w, slot < 256 → w < 0x1000 → w % 8 = 0 → off.toNat = mbxWindow + 0x1000 * slot + w →
      (if slot = 255 then s.portUp h = true else s.ctlUp h = true) → s.mbx.mem.wf = true →
      (w < 0x800 → s.sealOwn slot = false → (w = 0 → be = 0xFF) →
        Completes (.registerWrite (.control h) off be data true) s fun t =>
          (∀ i, i < 8 → t.mbx.mem.read (slotBase slot + w + i) =
            if be.getLsbD i then (data >>> (8 * i)).setWidth 8 else s.mbx.mem.read (slotBase slot + w + i)) ∧
          (∀ a, (a < slotBase slot + w ∨ slotBase slot + w + 8 ≤ a) → t.mbx.mem.read a = s.mbx.mem.read a) ∧
          { t with mbx := { t.mbx with mem := s.mbx.mem } } = s) ∧
      (0x800 ≤ w → exec (.registerWrite (.control h) off be data true) s = .next s) ∧
      (∀ parityOk, (parityOk = false ∨ (w < 0x800 ∧ (s.sealOwn slot = true ∨ (w = 0 ∧ be ≠ 0xFF)))) →
        exec (.registerWrite (.control h) off be data parityOk) s =
          .next { s with mbx := { s.mbx with discarded := satAdd s.mbx.discarded 1 } })) ∧
    (s.ctlUp h = true → off = 0x0108 →
      Completes (.registerWrite (.control h) off be data true) s fun t =>
        (∀ i, i < 16 → t.mbx.irqEn.getLsbD i = if be.getLsbD (i / 8) then data.getLsbD i else s.mbx.irqEn.getLsbD i) ∧
        { t with mbx := { t.mbx with irqEn := s.mbx.irqEn } } = s) ∧
    (s.ctlUp h = true → off = 0x1048 →
      Completes (.registerWrite (.control h) off be data true) s fun t =>
        (∀ i, i < 33 → t.safe.logSel.getLsbD i = if be.getLsbD (i / 8) then data.getLsbD i else s.safe.logSel.getLsbD i) ∧
        { t with safe := { t.safe with logSel := s.safe.logSel } } = s) ∧
    (s.sideUp h = true → off = 0x1008 → ∀ parityOk,
      Completes (.registerWrite (.sideband h) off be data parityOk) s fun t =>
        (∀ i, i < 64 → t.safe.bootPtr.getLsbD i = (decide (6 ≤ i) && data.getLsbD i)) ∧
        { t with safe := { t.safe with bootPtr := s.safe.bootPtr } } = s)

/-- A completion sets its slot's flag as it clears OWN, and no other flag. A write of 1 to a completion flag clears it, unless it is
being set at the same moment, and only in enabled bytes; every other flag stands (19_register_map: R451). -/
def Obligations.CompletionFlags : Prop :=
  (∀ (s : State) (k : Byte) status o payload last, s.mbx.mem.wf = true →
    (s.answer k.toNat status o payload last).sealOwn k.toNat = false ∧
    ∀ n, (s.answer k.toNat status o payload last).mbx.done.getLsbD n = (s.mbx.done.getLsbD n || decide (n = k.toNat))) ∧
  (∀ (s : State) (h : Half) (k : BitVec 2) (be : Byte) (data setting : U64), s.ctlUp h = true →
    Completes (.mbxDoneClear h k be data setting) s fun t =>
      (∀ i, i < 64 → t.mbx.done.getLsbD (64 * k.toNat + i) =
        (s.mbx.done.getLsbD (64 * k.toNat + i) && !(be.getLsbD (i / 8) && data.getLsbD i && !setting.getLsbD i))) ∧
      (∀ n, (n < 64 * k.toNat ∨ 64 * k.toNat + 64 ≤ n) → t.mbx.done.getLsbD n = s.mbx.done.getLsbD n) ∧
      { t with mbx := { t.mbx with done := s.mbx.done } } = s)

/-- PEAK_CLR makes the present reading the peak, or the larger of it and a reading that arrives at that moment; a read of
SAFE_LOG_DATA_0 latches the selected entry for its path alone, and the data words read it, or zero once that entry is no longer held;
a private write sets the sideband's offset
(19_register_map: 19 R455, R458, R462, R463). -/
def Obligations.SafelightRegisters : Prop :=
  ∀ (s : State) (q : Path) (h : Half) (be : Byte) (data : U64), s.pathUp q = true →
    (be.getLsbD 7 = true → data.getLsbD 63 = true →
      exec (.peakClr q h be data none) s = .next (s.onHalf h fun x => { x with tpeak := x.tj }) ∧
      ∀ r : Byte, Completes (.peakClr q h be data (some r)) s fun t =>
        (t.hs h).tpeak.toInt = max (s.hs h).tj.toInt r.toInt ∧ (t.hs h).tj = r ∧
        t = s.onHalf h fun x => { x with tpeak := (t.hs h).tpeak, tj := r }) ∧
    ((be.getLsbD 7 = false ∨ data.getLsbD 63 = false) → ∀ r, exec (.peakClr q h be data r) s = .next s) ∧
    (∀ g, q = .control g → (∀ e ∈ s.safe.logs.get g, s.safe.logSel.toNat = e.number + 2 ^ 32 * e.src → e.number < 2 ^ 32 →
        (∀ f ∈ s.safe.logs.get g, f.number = e.number → f.src = e.src → f = e) →
        exec (.safeLogLatch q) s = .next (s.onHalf g fun x => { x with latchCtl := e.bytes })) ∧
      ((∀ e ∈ s.safe.logs.get g, e.number % 2 ^ 32 ≠ s.safe.logSel.toNat % 2 ^ 32 ∨ e.src ≠ s.safe.logSel.toNat / 2 ^ 32) →
        exec (.safeLogLatch q) s = .next (s.onHalf g fun x => { x with latchCtl := zeros 64 }))) ∧
    (∀ (i : BitVec 3) l, l = (s.hs h).latchCtl → (s.ctlUp h = true) →
      ((∃ e ∈ s.safe.logs.get h, e.bytes = l) → s.ctlRead h (0x1080 + 8 * i.toNat) = BitVec.ofNat 64 (u64At l (8 * i.toNat))) ∧
      ((∀ e ∈ s.safe.logs.get h, e.bytes ≠ l) → s.ctlRead h (0x1080 + 8 * i.toNat) = 0)) ∧
    (∀ (o : U16), q = .sideband h → exec (.sidebandSetOffset h o) s = .next (s.onHalf h fun x => { x with sbOffset := o }))

/-- SAFE_TAKEOVER: it reads WAITING in bit 16 and zeros; only the code, through the East sideband target, while WAITING is set, starts a
warm restart in LIMP on the East half; any other write, through either target or a control port, changes nothing. WAITING returns to 0
as the restart begins, and when a West heartbeat is heard again (19_register_map: R454; 13 R315). -/
def Obligations.TakeoverIsConfirmed : Prop :=
  (∀ (s : State) (q : Path) (be : Byte) (data : U64),
    (q = .sideband .east → s.sideUp .east = true → s.safe.waiting = true → be.toNat % 4 = 3 → data.toNat % 2 ^ 16 = 0x0C0F →
      ∀ c, (c = .safeTakeoverConfirm q be data ∨ c = .registerWrite q 0x1030 be data true) →
      Completes c s fun t =>
        t.eng.state = .reset ∧ t.eng.warm = true ∧ t.eng.phase = .bootList ∧
        t.half.w.code = (if s.half.w.code = .drained then .drained else .down) ∧ t.half.e.code = .inReset ∧
        t.half.e.fw = .booting ∧ t.safe.waiting = false ∧ t.mbx.taken = ⟨true, false⟩ ∧ (∀ r ∈ t.rt.vals, r.adm = none)) ∧
    ((q ≠ .sideband .east ∨ s.safe.waiting = false ∨ be.toNat % 4 ≠ 3 ∨ data.toNat % 2 ^ 16 ≠ 0x0C0F) →
      exec (.safeTakeoverConfirm q be data) s = .next s) ∧
    ((q ≠ .sideband .east ∨ s.safe.waiting = false ∨ data.toNat % 2 ^ 16 ≠ 0x0C0F) →
      exec (.registerWrite q 0x1030 be data true) s = .next s) ∧
    (s.half.w.safeUp = true → Completes .heartbeatResumed s fun t => t.safe.waiting = false)) ∧
  (∀ (s : State) (h : Half) (sideband : Bool) (n : Nat), n < 64 →
    (s.safeRead h sideband 0x1030).getLsbD n = (decide (n = 16) && s.safe.waiting))

/-! ### Frames and lanes -/

/-- An accepted HID or LGT frame with one entry: the entry of a route's next step, on its chain, with room for it, is admitted:
the route runs and waits for its masks, and nothing is released yet (01_decode_step: 01 R22-R24; 16 R392, R396, R399). Where the
spec leaves a clause open it rests on a choice of the model: log entry 28. -/
def Obligations.EntriesAreAdmitted : Prop :=
  ∀ (s : State) (h : Half) (ch : BitVec 4) (f : Frame) (hid : Bool) (b : List Byte) (r : Route) (bd : Binding) (e : Env),
    OneEntry s h ch.toNat (if hid then ftHid else ftLgt) f b → Admissible s h ch.toNat hid b r bd e →
    Completes (if hid then .hid h ch f else .lgt h ch f) s fun t =>
      FrameTaken s t h ch.toNat (if hid then ftHid else ftLgt) f ∧ EntryAdmitted s t hid b r

/-- An accepted DRF frame with one entry takes the drafts of the route's next step: with latent slots free they are prepared, their
slots hold the states after each draft, and their masks are held or being fetched; without, the preparation waits. One for any
other step is discarded and counted (04_sampling_and_speculation: 04 R93, R99; 16 R398). Where the spec leaves a clause open it
rests on a choice of the model: log entry 106. -/
def Obligations.DraftsArePrepared : Prop :=
  ∀ (s : State) (h : Half) (ch : BitVec 4) (f : Frame) (b : List Byte) (r : Route) (bd : Binding),
    OneEntry s h ch.toNat ftDrf f b → s.route (u32At b 0) = some r → s.binding r.binding = some bd →
    (u32At b 4 = r.next → (r.state = .open ∨ r.state = .running) → r.saving = false → r.adm = none → bd.state = .active →
      bd.fence = .none → 1 ≤ u8At b 8 → u8At b 8 ≤ 15 → r.chains.get h = some ch.toNat →
      Completes (.drf h ch f) s fun t =>
        FrameTaken s t h ch.toNat ftDrf f ∧
        let e := s.envFor bd r
        let ds := draftsOf (b.drop 16) (u8At b 8)
        (if ((s.freeDrafts r).setRoute { r with drafts := none }).slotRoom h (u8At b 8) = true then
          t.rt = s.rt.put (routeIndex r.handle) { r with drafts := some ⟨h, r.next, ds, true, latentOf e r ds⟩ } ∧
          ∀ g ∈ s.routeHalves r, ∀ k ∈ maskKeys bd (statesOf e r ds), (t.hs g).hasMask k = true ∨ k ∈ (t.hs g).maskFetch
        else t.rt = s.rt.put (routeIndex r.handle) { r with drafts := some ⟨h, r.next, ds, false, []⟩ }) ∧
        (t.bnd, t.img, t.eng, t.mbx, t.jr) = (s.bnd, s.img, s.eng, s.mbx, s.jr)) ∧
    (u32At b 4 ≠ r.next →
      Completes (.drf h ch f) s fun t =>
        FrameTaken s t h ch.toNat ftDrf f ∧ t.half = (s.countStep h 3 1).half ∧ t.rt = s.rt)

/-- PRT frames: a summary, a list or z_max of a step that the owner has not released stands for it, and the values that come
back stand at the member; a member's refusal of an entry that the owner has refused itself counts as its answer and stands for
nothing; a release notice makes a member's route advance over its tokens, and wait where a forced run follows, or ends it; a
member that cannot be reached leaves the owner's routes PAUSED, or due to pause where a release is on its way
(03_unembedding: 03 R68, R70-R74; 04 R86, R98; 16 R401-R403; 11 R257). Where the spec leaves a clause
open it rests on a choice of the model: log entries 33, 46, 48, 49, 51. -/
def Obligations.PeersExchange : Prop :=
  ∀ (s : State) (h : Half) (ch : BitVec 4) (f : Frame) (b : List Byte) (r : Route) (bd : Binding), s.mbx.jobs = [] →
    s.routeBySalt (pBinding b) (pSalt b) = some r → s.binding r.binding = some bd →
    (OneEntry s h ch.toNat ftPrt f b → pDst b = s.level.position →
      (∀ c, (c = .pkSummary h ch f ∧ pKind b = pkSummary ∧ owns bd r = true ∨ c = .pkZmax h ch f ∧ pKind b = pkZmax ∧ owns bd r = true ∨
          c = .pkCands h ch f ∧ pKind b = pkCands ∧ owns bd r = true ∨ c = .pkZret h ch f ∧ pKind b = pkZret ∧ owns bd r = false) →
        r.adm = none → r.next ≤ pStep b - pPos b → (r.skips (pSrc b) = false ∨ pKind b ≠ pkSummary) →
        Completes c s fun t =>
          FrameTaken s t h ch.toNat ftPrt f ∧
          (∃ q, t.rt = s.rt.put (routeIndex r.handle) q ∧ { q with peers := r.peers } = r ∧
            (⟨pKind b, pSrc b, pStep b - pPos b, pPos b, pFlags b, pBody b⟩ : PeerRec) ∈ q.peers ∧
            ∀ x ∈ r.peers, (x.kind = pKind b ∧ x.src = pSrc b ∧ x.step = pStep b - pPos b ∧ x.pos = pPos b) ∨ x ∈ q.peers)) ∧
      (∀ p : PeerRec, p = ⟨pKind b, pSrc b, pStep b - pPos b, pPos b, pFlags b, pBody b⟩ → pKind b = pkSummary → owns bd r = true →
        p.refuses r.next = true → r.skips (pSrc b) = true →
        Completes (.pkSummary h ch f) s fun t =>
          FrameTaken s t h ch.toNat ftPrt f ∧ t.rt = s.rt.put (routeIndex r.handle) (r.skipped (pSrc b))) ∧
      (∀ n e, n = tokOfBytes (pBody b) → e = (r.adm.map fun a => a.env).getD (s.envFor bd r) → pKind b = pkRelease →
        owns bd r = false → n.step = r.next → r.entries = [] → r.copies = ⟨[], []⟩ → r.markDue = false → r.saving = false →
        r.pauseDue = false → bd.state = .active →
        (n.toks = [] → n.ending ≠ .none →
          Completes (.pkRelease h ch f) s fun t =>
            FrameTaken s t h ch.toNat ftPrt f ∧ t.bnd = s.bnd ∧
            ∃ q, t.route r.handle = some q ∧ q.state = .ended ∧ q.ending = n.ending ∧ q.next = r.next) ∧
        (n.ending = .none → n.ranges.length = n.toks.length → n.toks ≠ [] →
          Completes (.pkRelease h ch f) s fun t =>
            FrameTaken s t h ch.toNat ftPrt f ∧ t.bnd = s.bnd ∧
            ∃ q, t.route r.handle = some q ∧ q.state = r.state ∧ q.adm = none ∧ q.next = r.next + n.toks.length ∧
              q.rel.pos = n.toks.foldl (fun p x => p.advance e x) r.rel.pos ∧
              q.forcedMore = decide ((allowed e q.rel.pos).length = 1)))) ∧
    (∀ (position : Byte) i, s.rt = [(routeIndex r.handle, r)] → owns bd r = true → (r.state = .open ∨ r.state = .running) →
      i ∈ memberShards bd → Config.memberPosition bd.handle i = position.toNat → r.entries = [] → r.copies = ⟨[], []⟩ →
      r.markDue = false → r.saving = false → bd.state = .active →
      Completes (.peerUnreachable position) s fun t =>
        t.route r.handle = some (if r.forcedMore = true ∨ (r.adm.map Adm.leaving).getD false = true then { r with pauseDue := true }
          else { r with state := .paused, adm := none, drafts := none, pauseDue := false }) ∧
        (t.bnd, t.img, t.eng, t.mbx, t.bench) = (s.bnd, s.img, s.eng, s.mbx, s.bench))

/-- ACK: the frames that ACKED covers leave the replay buffer and the others stay; NAK: those are sent again, too; CRD raises
the limit of its class; REPLAY_TIMEOUT sends every frame after ACKED again. No other chain changes (16_stadia_lanes: 16 R393,
R394). Where the spec leaves a clause open it rests on a choice of the model: log entry 52. -/
def Obligations.AcknowledgementsAndCredits : Prop :=
  ∀ (s : State) (h : Half) (ch : BitVec 4) (f : Frame) (x : Chain), x = s.chain h ch.toNat → x.up = true →
    (ctlFrameOk ftAck f = true → fHello f = false →
      (fNak f = false → Completes (.ack h ch f) s fun t =>
        (∃ sent, (t.chain h ch.toNat).replay = x.replay.filter (fun r => !covered16 (fAcked f) r.seq) ++ sent) ∧
        (x.wait = [] → t.chain h ch.toNat = x.acknowledge (fAcked f)) ∧
        s.onChain h ch.toNat (fun _ => t.chain h ch.toNat) = t) ∧
      (fNak f = true → Completes (.nak h ch f) s fun t =>
        (∃ sent, (t.chain h ch.toNat).replay = x.replay.filter (fun r => !covered16 (fAcked f) r.seq) ++ sent) ∧
        (t.chain h ch.toNat).ctl = x.ctl ++ (x.replay.filter fun r => !covered16 (fAcked f) r.seq).map (·.out) ∧
        s.onChain h ch.toNat (fun _ => t.chain h ch.toNat) = t)) ∧
    (ctlFrameOk ftCrd f = true → fCrdClass f ≤ 2 → x.wait = [] →
      ((fCrdLimit f + 2 ^ 32 - trip x.limit (fCrdClass f)) % 2 ^ 32 < 2 ^ 31 →
        exec (.crd h ch f) s = .next (s.onChain h ch.toNat fun y => { y with limit := tripSet y.limit (fCrdClass f) (fCrdLimit f) })) ∧
      (2 ^ 31 ≤ (fCrdLimit f + 2 ^ 32 - trip x.limit (fCrdClass f)) % 2 ^ 32 → exec (.crd h ch f) s = .next s)) ∧
    (x.paused = false →
      (x.replay ≠ [] → Completes (.replayTimeout h ch) s fun t =>
        (t.chain h ch.toNat).ctl = x.ctl ++ x.replay.map (·.out) ∧ (t.chain h ch.toNat).replay = x.replay ∧
        s.onChain h ch.toNat (fun _ => t.chain h ch.toNat) = t) ∧
      (x.replay = [] → exec (.replayTimeout h ch) s = .next s))

/-- A frame that is not taken: one that fails its CRC or comes out of order is answered by one NAK of the last accepted number,
with silence after it; a duplicate is acknowledged again. Nothing else of the machine changes (16_stadia_lanes: 16 R391, R392).
Where the spec leaves a clause open it rests on a choice of the model: log entry 54. -/
def Obligations.DiscardedFrames : Prop :=
  ∀ (s : State) (h : Half) (ch : BitVec 4) (ty : Byte) (f : Frame) (x : Chain), x = s.chain h ch.toNat → x.up = true →
    (x.nakked = false → (frameCrcOk ty.toNat f = false ∨
        (ty.toNat ≠ ftAck ∧ ty.toNat ≠ ftCrd ∧ f.seq ≠ x.expected ∧ 2 ^ 31 < (x.expected - f.seq).toNat)) →
      Completes (.frameDiscarded h ch ty f) s fun t =>
        (t.chain h ch.toNat).ctl = x.ctl ++ [ackOut true (x.expected - 1)] ∧ (t.chain h ch.toNat).nakked = true ∧
        (t.chain h ch.toNat).expected = x.expected ∧ (t.chain h ch.toNat).replay = x.replay ∧
        s.onChain h ch.toNat (fun _ => t.chain h ch.toNat) = t) ∧
    (x.nakked = true → ty.toNat ≠ ftAck → ty.toNat ≠ ftCrd → frameCrcOk ty.toNat f = true → f.seq ≠ x.expected →
      2 ^ 31 < (x.expected - f.seq).toNat → exec (.frameDiscarded h ch ty f) s = .next (s.onChain h ch.toNat fun y => y)) ∧
    (ty.toNat ≠ ftAck → ty.toNat ≠ ftCrd → frameCrcOk ty.toNat f = true → f.seq ≠ x.expected →
      (x.expected - f.seq).toNat ≤ 2 ^ 31 →
      exec (.frameDiscarded h ch ty f) s =
        .next (s.onChain h ch.toNat fun y => { y with ctl := y.ctl ++ [ackOut false (y.expected - 1)] }))

/-- HELLO brings the first lane of a half up, and with it a chain: a step chain of the number it claims, or a peer chain of
number 15. A lane that drops out leaves its chain to the lanes that remain, which replay; the last lane of a peer chain, and a
chain whose replay has stood still, take the chain out of service; a step chain's routes, and their entries that wait, go to the
lowest other one
(16_stadia_lanes: 16 R384, R385, R387, R393; 13 R307). Where the spec leaves a clause open it rests on a choice of the model:
log entries 29, 50, 57. -/
def Obligations.LanesAndChains : Prop :=
  ∀ (s : State) (h : Half),
    (∀ (lane : BitVec 4) f n k, helloOk f = true → s.mayTrain h = true → s.lanes.get h = List.replicate 16 Lane.reset →
      (s.chains.get h).length = 16 → (∀ x ∈ s.chains.get h, x.kind = .none ∧ x.quiet = false) →
      (fHelloKind f = 1 ∧ n = fHelloChain f ∧ k = .accel ∨ fHelloKind f = 2 ∧ n = 15 ∧ k = .peer ∨
        fHelloKind f = 3 ∧ fHelloChain f ≤ 15 ∧ n = fHelloChain f ∧ k = .switch ∨
        fHelloKind f = 3 ∧ fHelloChain f = 0xFF ∧ n = 15 ∧ k = .peer) →
      Completes (.hello h lane f) s fun t =>
        (t.chain h n).up = true ∧ (t.chain h n).kind = k ∧ (t.chain h n).expected = 0 ∧ (t.chain h n).seq = 0 ∧
        (∀ c, c ≠ n → (t.chain h c).up = false) ∧ ((t.lanes.get h).getD lane.toNat Lane.reset).member = some n ∧
        ((t.lanes.get h).getD lane.toNat Lane.reset).mode = .up ∧
        { t with lanes := s.lanes, chains := s.chains } = s) ∧
    (∀ (lane : BitVec 4) l c, (s.lanes.get h)[lane.toNat]? = some l → l.member = some c →
      ((∃ i m, i ≠ lane.toNat ∧ (s.lanes.get h)[i]? = some m ∧ m.member = some c) →
        Completes (.laneDropOut h lane) s fun t =>
          t.lanes.get h = (s.lanes.get h).set lane.toNat { l with mode := .dropped, member := none } ∧
          (t.chain h c).kind = (s.chain h c).kind ∧ (t.chain h c).replay = (s.chain h c).replay ∧
          (t.chain h c).ctl = (s.chain h c).ctl ++ (s.chain h c).replay.map (·.out) ∧
          { t with lanes := s.lanes, chains := s.chains } = s) ∧
      ((∀ i m, i ≠ lane.toNat → (s.lanes.get h)[i]? = some m → m.member ≠ some c) → (s.chain h c).kind = .peer →
        Completes (.laneDropOut h lane) s fun t =>
          (t.chain h c).up = false ∧ { t with lanes := s.lanes, chains := s.chains } = s)) ∧
    (∀ (ch : BitVec 4) (x : Chain), x = s.chain h ch.toNat → x.up = true → x.replay ≠ [] →
      (x.kind = .peer → Completes (.chainReplayTimeout h ch) s fun t =>
        (t.chain h ch.toNat).up = false ∧ { t with lanes := s.lanes, chains := s.chains } = s) ∧
      (∀ k, x.isStep = true → (List.range 16).find? (fun c => c != ch.toNat && (s.chain h c).stepUp) = some k →
        Completes (.chainReplayTimeout h ch) s fun t =>
          (t.chain h ch.toNat).up = false ∧
          t.rt = s.rt.mapVals (fun r =>
            if r.chains.get h = some ch.toNat then
              { r with chains := r.chains.set h (some k)
                       entries := r.entries.map fun w => w.rename h (some ch.toNat) (some k) } else r) ∧
          t.half = (s.onHalf h fun y => { y with waiting := y.waiting.map fun w => w.rename h (some ch.toNat) (some k) }).half ∧
          (t.bnd, t.img, t.eng, t.mbx, t.bench, t.safe) = (s.bnd, s.img, s.eng, s.mbx, s.bench, s.safe)))

/-! ### Steps -/

/-- MASK_READY: with its masks held and its searches able to run a step is computed. Its positions have their plates, under
DP_STRICT those that 14 R332 gives; an unsharded route whose head's rows one half computes has its release formed from the
positions of the step, and one whose rows two halves share waits for the other half's records; HALF_SUMMARY joins them. A route's
released state does not advance (05_grammar_masks: 05 R118; 03 R58, R74; 04 R82-R97; 06 R136; 09 R193; 14 R332). Where the spec
leaves a clause open it rests on a choice of the model: log entry 9. -/
def Obligations.StepsAreComputed : Prop :=
  ∀ (s : State) (h : U32) (r : Route) (b : Binding) (a : Adm), s.mbx.jobs = [] → s.admitted h.toNat = some (r, b, a) →
    (∀ gs, gs = statesOf a.env r a.drafts → a.phase = .waitMask → s.serving = true → s.imagesReady b.set = true →
      s.searchWaits b r = false → s.dataGone b r gs = false → s.headGone b r = false → s.masksHeld b r gs = true →
      ∀ done : Adm, (a.env.headE.isSome = true ∧ done = { a with phase := .waitHalf } ∨
          a.env.headE.isSome = false ∧ b.shards ≤ 1 ∧
            done = { a with phase := .formed, formed := some (formStep a.env r a (wholesOf a.env b r a)) }) →
      Completes (.maskReady h) s fun t =>
        (∃ places, t.route h.toNat = some { r with adm := some { done with places := places } } ∧ places.length = gs.length ∧
          (a.strict = true → places = (List.range gs.length).map fun j =>
            let out := (s.hs r.half).emptyPos ++ (a.charges.filter fun c => c.1 == r.half).map fun c => c.2
            (strictPlace r.salt a.step j out, strictPlace r.salt a.step j (strictPlace r.salt a.step j out :: out)))) ∧
        (t.bnd, t.img, t.eng, t.mbx, t.jr, t.str) = (s.bnd, s.img, s.eng, s.mbx, s.jr, s.str)) ∧
    (a.phase = .waitHalf → b.shards ≤ 1 →
      exec (.halfSummary h) s = .next (s.setRoute { r with adm := some { a with
        phase := .formed, formed := some (formStep a.env r a (wholesOf a.env b r a)) } }))

/-- STEP_CHECKED: a pass writes the step's state, and the plates that failed executions were charged to become suspects; a failed
check, and a result that its second computation does not confirm, discards the step's results and has it executed again with its
charges, at most four times in all, and then the route ends ST_FAULT at its last committed state; a member of a group sends its
summaries, and its lists under a filtered profile. MIRROR_RECORD writes the other half's copy of the record and acknowledges it
(13_faults_and_ordering: 13 R296, R300-R302, R318; 03 R70; 04 R86; 09 R196). Where the spec leaves a clause open it rests on a
choice of the model: log entries 9, 33, 46. -/
def Obligations.StepsAreChecked : Prop :=
  ∀ (s : State) (h : U32) (r : Route) (b : Binding) (a : Adm), s.mbx.jobs = [] → s.admitted h.toNat = some (r, b, a) →
    let again (charges : List (Half × Nat)) (t : State) : Prop :=
      t.route h.toNat = some { r with adm := some { a with
        execs := a.execs + 1, phase := .waitMask, formed := none, charges := a.charges ++ charges } } ∧
      (t.bnd, t.img, t.eng, t.mbx, t.str) = (s.bnd, s.img, s.eng, s.mbx, s.str)
    (a.phase = .formed →
      (∀ f, owns b r = true → a.formed = some f →
        (stepSound b r a f = true → s.bothServe = true → exec (.stepChecked h .pass) s =
          .next ((s.chargeAll a.charges).setRoute { r with adm := some { a with charges := [], phase := .written } })) ∧
        (stepSound b r a f = false → a.execs < 4 → Completes (.stepChecked h .pass) s (again []))) ∧
      (owns b r = false → memberSound r a = true →
        Completes (.stepChecked h .pass) s fun t =>
          t.route h.toNat = some { r with adm := some { a with charges := [], phase := .waitRelease } } ∧
          (a.charges = [] → (t.bnd, t.img, t.eng, t.mbx, t.jr, t.str, t.half) = (s.bnd, s.img, s.eng, s.mbx, s.jr, s.str, s.half)) ∧
          (s.peerChains (s.peerHalf r.half) ≠ [] → ∀ x j, (spotsOf a.env r a)[j]? = some x →
            let own := memberOwn a.env r a x j
            PeerSent s t b r pkSummary 0 (a.step + j) j (summaryAt a.env r a j false own) ∧
            (a.env.prof.listed = true → x.open_ = true →
              PeerSent s t b r pkCands (b2n own.draft.isSome) (a.step + j) j (candsBytes (a.step + j) own)))) ∧
      (∀ g pos kind, sparesRecords kind →
        (a.execs < 4 → Completes (.stepChecked h (.fail g pos kind)) s fun t =>
          again (chargesOf s.free g pos.toNat kind) t ∧ ((∀ e, kind ≠ .parity e) → t.safe = s.safe)) ∧
        (4 ≤ a.execs → b.state = .active → r.entries = [] → r.markDue = false → r.saving = false → r.forcedMore = false →
          Completes (.stepChecked h (.fail g pos kind)) s fun t =>
            (∃ q, t.route h.toNat = some q ∧ q.state = .ended ∧ q.ending = .fault ∧ q.next = r.next ∧ q.adm = none) ∧
            ((∀ e, kind ≠ .parity e) → t.safe = (s.log engineSide 2 0x000B r.handle r.next []).safe) ∧
            (t.bnd, t.img, t.eng, t.mbx) = (s.bnd, s.img, s.eng, s.mbx)))) ∧
    (∀ f, a.phase = .written → a.formed = some f → s.bothServe = true →
      exec (.mirrorRecord h) s = .next (s.setRoute
        { r with mirror := r.recordAfter f, record := r.record.set r.half.other none, adm := some { a with phase := .acked } }))

/-- A step that both halves have written, or that LIMP's one half has checked, commits: RELEASE_COMMIT advances the route's
state to that of its release, no step is admitted any more, both halves' records are alike, and the release's TOK entry is sent on
the route's chain. A forced run goes on in forced-only releases once their checks have passed. A route that is due to pause is
PAUSED at its last release (13_faults_and_ordering: 13 R296; 01 R24, R27; 04 R98; 08 R187; 09 R196; 11 R257). Where the spec leaves
a clause open it rests on a choice of the model: log entry 18. -/
def Obligations.ReleasesCommit : Prop :=
  ∀ (s : State) (h : U32) (r : Route) (b : Binding), s.mbx.jobs = [] → s.route h.toNat = some r → s.binding r.binding = some b →
    b.shards ≤ 1 → b.state = .active → r.entries = [] → r.copies = ⟨[], []⟩ → r.markDue = false → r.saving = false →
    passed s.time.toNat r.deadline = false →
    let released (x : Release) (t : State) : Prop :=
      (∃ q, t.route h.toNat = some q ∧ q.rel = x.grow.rel ∧ q.adm = none ∧ q.forcedMore = decide (x.after = .forcedMore) ∧
        (s.bothServe = true → q.mirror = q.recOf) ∧
        q.state = (if x.after = .goes ∧ r.pauseDue = true ∧ (r.state = .open ∨ r.state = .running) then .paused else r.state)) ∧
      (∀ k, r.chains.get r.half = some k → k < (s.chains.get r.half).length →
        tokOut r.handle (x.tok r.handle r.next).bytes ∈ (t.chain r.half k).wait ++ (t.chain r.half k).replay.map (·.out)) ∧
      (t.bnd, t.img, t.eng, t.mbx) = (s.bnd, s.img, s.eng, s.mbx)
    (∀ a f c, r.adm = some a → a.formed = some f → f.release.after = .goes → f.release.grow.taken ≠ [] →
      (c = .releaseCommit h ∧ a.phase = .acked ∨
        c = .stepChecked h .pass ∧ a.phase = .formed ∧ s.bothServe = false ∧ a.charges = [] ∧ stepSound b r a f = true) →
      Completes c s (released f.release)) ∧
    (r.forcedMore = true → (r.state = .open ∨ r.state = .running) → r.adm = none → s.serving = true → s.blocked r = false →
      s.searchWaits b r = false → r.tried = [] → forcedSound (s.envFor b r) r = true →
      ∀ x, x = forcedRelease (s.envFor b r) r.limit r.rel → (x.after = .goes ∨ x.after = .forcedMore) → x.grow.taken ≠ [] →
      s.dataGone b r (x.grow.taken.map fun t => t.before.pos.g) = false →
      Completes (.forcedOnlyRelease ⟨h, .pass⟩) s (released x))

/-- Latent slots return after 1 ms and go to what waits for them, a step or prepared drafts; outputs that have left give their
space back, freed room decides an entry that waits, and credits are granted; a fetched mask enters the cache, where no pinned entry
makes room; a cleared head fills with the image's rows and is resident, and a start that waited for it ends
(04_sampling_and_speculation: 04 R99, R102; 09 R197; 13 R299; 16 R395; 05 R120, R121; 03 R60, R62; 09 R208). Where the spec leaves a
clause open it rests on a choice of the model: log entries 27, 28, 29. -/
def Obligations.SlotsRoomAndCaches : Prop :=
  ∀ (s : State) (h : Half),
    let still (r : Route) : Prop := r.outBytes = 0 ∧ r.entries = [] ∧ r.copies = ⟨[], []⟩
    (∀ (d : U32) r, s.route d.toNat = some r →
      exec (.latentSlotTimeout d) s = .next ((s.freeDrafts r).setRoute { r with drafts := none })) ∧
    (∀ r b, s.rt = [(routeIndex r.handle, r)] → s.binding r.binding = some b →
      (∀ a q, r.adm = some a → a.phase = .waitSlots → (∀ g ∈ s.routeHalves r, s.slotRoom g a.drafts.length = true) →
        q = { r with adm := some { a with phase := .waitMask, slots := latentOf a.env r a.drafts } } →
        exec (.latentSlotFreed h) s = .next ((s.setRoute q).wantMasks b q (statesOf a.env r a.drafts))) ∧
      (∀ p q, r.adm = none → r.drafts = some p → p.held = false → p.half = h → s.slotRoom h p.drafts.length = true →
        q = { r with drafts := some { p with held := true, slots := latentOf (s.envFor b r) r p.drafts } } →
        exec (.latentSlotFreed h) s = .next ((s.setRoute q).wantMasks b q (statesOf (s.envFor b r) r p.drafts)))) ∧
    ((s.hs h).waiting = [] → (∀ r ∈ s.rt.vals, still r) →
      Completes (.admissionRoomFreed h) s fun t =>
        (∀ c, c < 16 → (s.chain h c).isStep = true → trip (t.chain h c).granted 0 = (s.chain h c).limitOf 0) ∧
        { t with chains := s.chains } = s) ∧
    (∀ r, s.rt = [(routeIndex r.handle, r)] → s.holds h r = true → r.outBytes ≠ 0 → s.outputsLeft r = true → r.entries = [] →
      r.copies = ⟨[], []⟩ → (s.hs h).waiting = [] →
      Completes (.admissionRoomFreed h) s fun t => t.rt = [(routeIndex r.handle, { r with spent := 0, outBytes := 0 })]) ∧
    (∀ c hid b r bd e, (s.hs h).waiting = [⟨h, c, hid, b⟩] → (∀ r ∈ s.rt.vals, still r) → Admissible s h c hid b r bd e →
      Completes (.admissionRoomFreed h) s fun t => (t.hs h).waiting = [] ∧ EntryAdmitted s t hid b r) ∧
    (∀ (d : Digest) (g : U32) (k : CacheKey) (m : MaskCell), k = ⟨d, g.toNat⟩ → k ∈ (s.hs h).maskFetch →
      (s.image d).isSome = true → s.imageGone h d = false → m = ⟨k, (csiOf (s.imageOn h d)).maskEnt g.toNat, none⟩ →
      ((s.hs h).maskCache.filter fun x => (s.pinnedMasks h).contains x.key).length < (s.hs h).maskBanks * maskPerBank →
      Completes (.maskFetchDone h d g) s fun t =>
        m ∈ (t.hs h).maskCache ∧ k ∉ (t.hs h).maskFetch ∧
        (t.hs h).maskCache.length ≤ (s.hs h).maskBanks * maskPerBank ∧
        (∀ x, x ∈ (t.hs h).maskCache → x = m ∨ x ∈ (s.hs h).maskCache) ∧
        (∀ x ∈ (s.hs h).maskCache, x.key ≠ k → x.key ∈ s.pinnedMasks h → x ∈ (t.hs h).maskCache) ∧
        t.hs h.other = s.hs h.other ∧ { t with half := s.half } = s) ∧
    (∀ d n k bytes rest, (s.hs h).clears = ⟨.head d n k, bytes⟩ :: rest → s.mbx.jobs = [] → (∀ r ∈ s.rt.vals, r.openDue = false) →
      exec (.clearDone h) s = .next (s.onHalf h fun x =>
        { x with clears := rest, heads := x.heads.map fun y =>
            if y.digest = d ∧ y.share.shards = n ∧ y.share.shard = k then { y with cleared := true } else y })) ∧
    (∀ (d : Digest) a, s.imageGone h d = false → a = s.onHalf h (fun x =>
        { x with heads := x.heads.map fun y =>
            if y.digest = d ∧ y.cleared = true then { y with resident := true, rows := s.imageOn h d } else y }) →
      ((∀ b ∈ s.bnd.vals, b.starting = false) → exec (.headFillDone h d) s = .next a) ∧
      (∀ b, s.mbx.jobs = [] → s.bnd = [(bindingIndex b.handle, b)] → b.starting = true → b.state ≠ .swapping → b.set.hdi = d →
        a.headResident b = true →
        exec (.headFillDone h d) s =
          .next { a with bnd := [(bindingIndex b.handle, { b with state := .active, fence := .none, starting := false })] }))

/-! ### Streams -/

/-- Inbound records: one that the refusal table admits joins the intake of its route; one out of sequence, and one of a reserved
kind, is refused by an OUT_REFUSE record that gives the sequence number expected; IN_END ends the intake, and where it leaves no
token to release the opening release follows (07_tokeniser: 07 R162, R164-R166, R168; 01 R19). Where the spec leaves a clause
open it rests on a choice of the model: log entry 102. -/
def Obligations.RecordsAreTaken : Prop :=
  ∀ (s : State) (h : Half) (x : InRec) (r : Route) (b : Binding) (k : Tki), s.mbx.jobs = [] → s.streamUp h = true →
    s.route x.handle.toNat = some r → s.binding r.binding = some b → r.intakeFlag = true → r.state = .open → r.saving = false →
    r.intakeEnded = false → r.adm = none → b.state = .active → r.stream = h → k = tkiOf (s.imageOn r.half b.set.tki) →
    (x.seq.toNat = r.inSeq → r.promptN = 0 →
      (recFormOk kText x = true → intakeText r.intake + (recPayload x).length ≤ 2 ^ 26 →
        Completes (.inText h x) s fun t =>
          t.rt = s.rt.put (routeIndex r.handle)
            { r with inSeq := topOut (2 ^ 32) (r.inSeq + 1), intake := r.intake ++ [.text (x.flags.getLsbD 0) (recPayload x)] } ∧
          (t.bnd, t.img, t.eng, t.mbx, t.half, t.str, t.chains) = (s.bnd, s.img, s.eng, s.mbx, s.half, s.str, s.chains)) ∧
      (recFormOk kTokens x = true → (∀ t ∈ words32 (recPayload x), t < k.vocab) →
        intakeToks r.intake + (recPayload x).length / 4 ≤ 2 ^ 20 →
        Completes (.inTokens h x) s fun t =>
          t.rt = s.rt.put (routeIndex r.handle)
            { r with inSeq := topOut (2 ^ 32) (r.inSeq + 1), intake := r.intake ++ [.toks (words32 (recPayload x))] } ∧
          (t.bnd, t.img, t.eng, t.mbx, t.half, t.str, t.chains) = (s.bnd, s.img, s.eng, s.mbx, s.half, s.str, s.chains)) ∧
      (recFormOk kEnd x = true →
        (r.intake = [] → NothingWaits r → r.forcedMore = false → OpensFreely s b r →
          Completes (.inEnd h x) s fun t =>
            (∃ q, t.route r.handle = some q ∧ q.intakeEnded = true ∧ q.intake = [] ∧ q.state = .open ∧ q.openDue = false ∧
              q.forcedMore = false ∧ q.inSeq = topOut (2 ^ 32) (r.inSeq + 1) ∧ q.promptN = 0 ∧ q.rel.gen = r.rel.gen) ∧
            (t.bnd, t.img, t.eng, t.mbx) = (s.bnd, s.img, s.eng, s.mbx)) ∧
        (r.intake ≠ [] → k.prompt true r.intake ≠ [] →
          Completes (.inEnd h x) s fun t =>
            t.rt = s.rt.put (routeIndex r.handle) { r with inSeq := topOut (2 ^ 32) (r.inSeq + 1), intakeEnded := true } ∧
            (t.bnd, t.img, t.eng, t.mbx, t.half, t.str, t.chains) = (s.bnd, s.img, s.eng, s.mbx, s.half, s.str, s.chains)))) ∧
    (∀ c rec, rec = streamRecord r.handle 0x82 0 stArg (topOut (2 ^ 32) r.outSeq) (toLe 4 x.seq.toNat ++ toLe 4 r.inSeq) →
      r.waitRecs = [] → (s.str.get h).room rec = true →
      ((c = .inText h x ∨ c = .inTokens h x ∨ c = .inEnd h x) ∧ x.seq.toNat ≠ r.inSeq ∨
        ∃ kind : Byte, c = .reservedKindRecord h kind x ∧ kind.toNat ≠ kText ∧ kind.toNat ≠ kTokens ∧ kind.toNat ≠ kEnd) →
      Completes c s fun t =>
        (t.str.get h).queue = (s.str.get h).queue ++ slotsOf rec ∧
        t.rt = s.rt.put (routeIndex r.handle) (s.twin { r with outSeq := topOut (2 ^ 32) (r.outSeq + 1) }) ∧
        { t with str := s.str, rt := s.rt } = s)

/-- PRETOKEN_TOKENISED: the next final group of prompt tokens is released when its strings spell its text and both sequence units
agree, on the route's chain when the host has it deliver, and the last one brings the opening release; a disagreement has the
segment processed again, with the plates to charge, and is counted; the fourth one ends the route ST_FAULT (07_tokeniser: 07 R165,
R166, R169; 13 R301, R302, R318). Where the spec leaves a clause open it rests on a choice of the model: log entries 9, 24, 61. -/
def Obligations.PretokensAreReleased : Prop :=
  ∀ (s : State) (h : U32) (r : Route) (b : Binding) (k : Tki) (g : Group) (ts : List Nat), s.mbx.jobs = [] →
    s.route h.toNat = some r → s.binding r.binding = some b → b.state = .active → r.state = .open → r.saving = false →
    r.promptOpen = true → r.adm = none → r.intake ≠ [] → s.tokeniserWaits b r = false → s.safe.warn = false → s.imageGone r.half b.set.tki = false →
    k = tkiOf (s.imageOn r.half b.set.tki) → intakeAgrees k r.intakeEnded r.intake r.promptN r.promptDigest = true →
    nextGroup (k.groupsFrom r.intakeEnded r.intake []) r.promptN = some (g, ts) →
    (r.tried = [] → k.spells g = true →
      ((r.intakeEnded && promptDone k { r with promptN := r.promptN + ts.length }) = false →
        Completes (.pretokenTokenised h .pass) s fun t =>
          (∃ q, t.route h.toNat = some q ∧ q.promptN = r.promptN + ts.length ∧ q.tries = 0 ∧
            q.promptDigest = crc64From r.promptDigest (u32s ts) ∧ q.intake = r.intake ∧ q.intakeEnded = r.intakeEnded ∧
            q.state = .open ∧ q.inSeq = r.inSeq) ∧
          (∀ c, owns b r = true → r.deliver = true → r.chains.get r.half = some c → c < (s.chains.get r.half).length →
            ∀ p ∈ promptPieces promptEntry false (ts.length + 1) r.promptN ts,
              SentOn t r.half (tokOut r.handle (promptTok r.handle p).bytes)) ∧
          (t.bnd, t.img, t.eng, t.mbx) = (s.bnd, s.img, s.eng, s.mbx)) ∧
      ((r.intakeEnded && promptDone k { r with promptN := r.promptN + ts.length }) = true → NothingWaits r → r.forcedMore = false →
        OpensFreely s b r →
        Completes (.pretokenTokenised h .pass) s fun t =>
          (∃ q, t.route h.toNat = some q ∧ q.promptN = r.promptN + ts.length ∧ q.intake = [] ∧ q.intakeEnded = true ∧
            q.promptDigest = crc64From r.promptDigest (u32s ts) ∧ q.state = .open ∧ q.openDue = false ∧ q.forcedMore = false ∧
            q.rel.gen = r.rel.gen) ∧
          (t.bnd, t.img, t.eng, t.mbx) = (s.bnd, s.img, s.eng, s.mbx))) ∧
    (∀ f pos kind, sparesRecords kind →
      (r.tries < 3 → Completes (.pretokenTokenised h (.fail f pos kind)) s fun t =>
        t.rt = s.rt.put (routeIndex r.handle)
          { r with tries := r.tries + 1, tried := r.tried ++ chargesOf s.free f pos.toNat kind } ∧
        (∀ q, kind = .unitPair q → t.half = (s.countFault r.half 3 1).half) ∧
        (t.bnd, t.img, t.eng, t.mbx, t.str, t.chains) = (s.bnd, s.img, s.eng, s.mbx, s.str, s.chains)) ∧
      (3 ≤ r.tries → r.entries = [] → r.markDue = false →
        Completes (.pretokenTokenised h (.fail f pos kind)) s fun t =>
          (∃ q, t.route h.toNat = some q ∧ q.state = .ended ∧ q.ending = .fault ∧ q.next = r.next) ∧
          (t.bnd, t.img, t.eng, t.mbx) = (s.bnd, s.img, s.eng, s.mbx)))

/-- A beat that fails parity is answered with a NAK pulse that gives its depth, and takes nothing; a NAK of an outbound beat has
the engine send again from the failing beat on, in order (17_block_boundary: 17 R411, R412). -/
def Obligations.BeatsAreSentAgain : Prop :=
  ∀ (s : State) (h : Half) (depth : BitVec 4),
    (s.streamUp h = true → Completes (.inBeatParityError h depth) s fun t =>
      (t.str.get h).inNak = true ∧ (t.str.get h).inDepth = depth ∧ t.str.get h.other = s.str.get h.other ∧
      (t.str.get h).queue = (s.str.get h).queue ∧ { t with str := s.str } = s) ∧
    (depth.toNat < (s.str.get h).last.length → Completes (.strOutNak h depth) s fun t =>
      (t.str.get h).again.take (depth.toNat + 1) = (s.str.get h).last.drop ((s.str.get h).last.length - (depth.toNat + 1)) ∧
      (t.str.get h).again.drop (depth.toNat + 1) = (s.str.get h).again ∧
      (t.str.get h).last = (s.str.get h).last.take ((s.str.get h).last.length - (depth.toNat + 1)) ∧
      (t.str.get h).queue = (s.str.get h).queue ∧ t.str.get h.other = s.str.get h.other ∧ { t with str := s.str } = s)

/-! ### Halves and links that fail -/

/-- A half that reports itself down, a lost mainband, fewer than four meridian lanes in a direction, a silent link with West
alive, a stopped finder, a rail of the data path out of range, and 120 degrees for 1 ms each take a half out, and the other one
serves on in LIMP (13_faults_and_ordering: 13 R308, R309, R313, R314; 06 R136; 17 R429, R432). Where the spec leaves a clause
open it rests on a choice of the model: log entries 25, 34. -/
def Obligations.HalvesAreLost : Prop :=
  ∀ (s : State) (h : Half), Quiet s →
    (Completes (.halfDownReport h) s fun t =>
      Lost s t h .down ∧ t.safe = (s.log h.code 3 0x000C 1 0 []).safe ∧ (t.img, t.bnd, t.bench) = (s.img, s.bnd, s.bench)) ∧
    (s.merid.trained = true → s.half.w.heartbeat = true → s.half.e.heartbeat = true →
      Completes .mainbandLost s fun t => Lost s t .east .down ∧ t.merid.trained = false ∧ t.merid.lost = true) ∧
    (∀ (toEast : Bool) (lane : BitVec 4) m, s.merid.trained = true →
      m = (if toEast then { s.merid with toEast := s.merid.toEast &&& ~~~(1#16 <<< lane.toNat) }
        else { s.merid with toWest := s.merid.toWest &&& ~~~(1#16 <<< lane.toNat) }) →
      (4 ≤ countBits 16 m.toEast.toNat → 4 ≤ countBits 16 m.toWest.toNat →
        exec (.meridianLaneDrop toEast lane) s = .next { s with merid := m }) ∧
      ((countBits 16 m.toEast.toNat < 4 ∨ countBits 16 m.toWest.toNat < 4) →
        Completes (.meridianLaneDrop toEast lane) s fun t => Lost s t .east .down ∧ t.merid.trained = false)) ∧
    (Completes (.linkSilent true) s fun t =>
      Lost s t .east .inReset ∧ t.merid.trained = false ∧ t.half.w.heartbeat = false ∧ t.half.e.heartbeat = false) ∧
    ((s.hs h).rate = 3 → (s.hs h.other).rate ≠ 3 → Completes (.finderStopTimeout h) s fun t => Lost s t h .down) ∧
    (∀ rail : BitVec 4, rail.toNat ∈ [rRet, rMem, rCore, rPhy, rHbm, rPort] →
      Completes (.railOutOfRange h rail) s fun t =>
        Lost s t h .down ∧ (t.hs h).rail rail.toNat = false ∧ (t.hs h).needsSurvey = true) ∧
    (∀ r : Reading, (s.hs h).safeUp = true → r.railOk.getLsbD rCore = true → r.tj ≠ 0x80 → 120 ≤ r.tj.toInt → 9 ≤ (s.hs h).hot →
      (s.hs h).hold = false → (s.hs h.other).hold = false →
      Completes (.thermalReading h r) s fun t => Lost s t h .inReset ∧ (t.hs h).hold = true ∧ (t.hs h).tj = r.tj)

/-- A route that a lost half served goes on at the other half: on a step chain there, with its stream there, at the state that the
copy of its record there holds (13_faults_and_ordering: 13 R296, R310-R312; 09 R196). Where the spec leaves a clause open it rests on a choice of the model:
log entries 33, 50. -/
def Obligations.RoutesGoOnAtTheSurvivor : Prop :=
  ∀ (s : State) (h : Half) (r : Route) (b : Binding), s.bothServe = true → s.serving = true → s.mbx.jobs = [] →
    s.rt = [(routeIndex r.handle, r)] → s.binding r.binding = some b → b.state = .active → r.moves = true → r.half = h →
    r.adm = none → NothingWaits r → r.forcedMore = false → r.chains.get h.other = none → (s.hs h.other).waiting = [] →
    Completes (.halfDownReport h) s fun t =>
      Lost s t h .down ∧
      ∃ q, t.route r.handle = some q ∧ q.half = h.other ∧ q.stream = h.other ∧ q.chains.get h = none ∧
        q.chains.get h.other = s.newChain h.other (r.chains.get h) ∧ q.rel = r.mirror.rel ∧ q.promptN = r.mirror.promptN ∧
        q.promptDigest = r.mirror.promptDigest ∧ q.state = r.state ∧ q.handle = r.handle ∧ q.binding = r.binding

/-- Heartbeats of the safelight controllers: a partner that falls silent sets WAITING and is logged; a West heartbeat clears
WAITING; a missed one puts slot 255 at the East controller; an island that comes up beside the other one shares its log, each copying
the entries that it lacks, and one that comes up alone starts afresh; one whose rail fails is down, and slot 255 is at the other one
(13_faults_and_ordering: 13 R314, R315; 11 R261; 19 R454, R457; 17 R423, R429). Where the spec leaves a clause open it rests on a
choice of the model: log entries 14, 25. -/
def Obligations.SafelightControllers : Prop :=
  ∀ (s : State) (h : Half),
    (s.half.e.code = .inReset → s.half.w.heartbeat = false → s.half.e.safeUp = true → s.safe.waiting = false →
      Completes .partnerSilent s fun t =>
        t.safe.waiting = true ∧ t.safe.inband.e = s.safe.inband.e + 1 ∧ t.safe.events = inc32 s.safe.events ∧
        (∃ e, t.safe.logs.e = logPush s.safe.logs.e e ∧ e.code = 0x0014 ∧ e.half = 1 ∧ e.sev = 3 ∧ e.src = 1) ∧
        { t with safe := s.safe } = s) ∧
    (s.half.w.safeUp = true → Completes .heartbeatResumed s fun t =>
      t.half.w.heartbeat = true ∧ t.half.e.heartbeat = true ∧ t.safe.waiting = false ∧ t.safe.rescueEast = false ∧
      (t.eng, t.mbx, t.rt, t.img, t.bnd, t.jr) = (s.eng, s.mbx, s.rt, s.img, s.bnd, s.jr)) ∧
    (s.half.e.safeUp = true → (∀ j ∈ s.mbx.jobs, j.due = false) → Completes .safelightHeartbeatMissed s fun t =>
      t.rescueServer = some .east ∧ t.half.w.heartbeat = false ∧ t.level.ready = false ∧
      (t.eng, t.mbx, t.rt, t.img, t.bnd, t.jr, t.half.e) = (s.eng, s.mbx, s.rt, s.img, s.bnd, s.jr, s.half.e)) ∧
    ((s.hs h).safeUp = false → (∀ j ∈ s.mbx.jobs, j.due = false) →
      ((s.hs h.other).safeUp = true → Completes (.safelightIslandPowerUp h) s fun t =>
        (t.hs h).safeUp = true ∧ (t.hs h).tpeak = 0x80 ∧ t.safe.events = s.safe.events ∧ t.mbx = s.mbx ∧
        t.safe.rescueEast = (if h = .west then false else s.safe.rescueEast) ∧
        ((s.hs h.other).heartbeat = false → t.safe.logs = s.safe.logs) ∧
        ((s.hs h.other).heartbeat = true → s.safe.logs.w.length + s.safe.logs.e.length ≤ logRing →
          ∀ g e, e ∈ t.safe.logs.get g ↔ e ∈ s.safe.logs.w ∨ e ∈ s.safe.logs.e)) ∧
      ((s.hs h.other).safeUp = false → Completes (.safelightIslandPowerUp h) s fun t =>
        (t.hs h).safeUp = true ∧ t.safe.events = 0 ∧ t.safe.logs = ⟨[], []⟩ ∧ t.safe.nextW = 0 ∧ t.safe.nextE = 0 ∧
        t.lastOf 255 = 0 ∧ t.jobOf 255 = none ∧ (∀ n, n ≠ 255 → t.lastOf n = s.lastOf n) ∧
        (∀ a, a < slotBase 255 → t.mbx.mem.read a = s.mbx.mem.read a) ∧ t.safe.fuses = s.safe.fuses)) ∧
    (Completes (.railOutOfRange h 0) s fun t =>
      (t.hs h).safeUp = false ∧ (t.hs h).heartbeat = false ∧ (t.hs h).rail rSafe = false ∧
      ((s.hs h.other).safeUp = true → t.rescueServer = some h.other) ∧
      (t.eng, t.mbx, t.rt, t.img, t.bnd, t.jr) = (s.eng, s.mbx, s.rt, s.img, s.bnd, s.jr)) ∧
    (exec (.railOutOfRange h 1) s = .next (s.onHalf h fun x => { x with railOk := x.railOk &&& ~~~2#9 }))

/-! ### Resets, starts, supply -/

/-- `SAFE_RST_N` released samples the straps; `CORE_RST_N` asserted holds everything and drops what has not committed; released
it begins a cold start, with stores, tables, journal, settings and the slots of the mailbox but 255 empty, and reads the boot list;
without the core rails the engine is OFF and keeps no route, image or binding; a drained half stays drained over both, and slot
255's accesses go on (11_yesum_mailboxes: 11 R256; 15 R348-R352, R354, R366). Where the spec leaves a
clause open it rests on a choice of the model: log entries 14, 113. -/
def Obligations.ResetsAndColdStarts : Prop :=
  ∀ (s : State),
    (∀ datum addrW addrE, Completes (.safeRstNRelease datum addrW addrE) s fun t =>
      t.eng = { s.eng with safeRst := false } ∧ t.safe = { s.safe with bootPtr := 0 } ∧ t.level.strap = datum ∧
      t.half.w.strapAddr = addrW ∧ t.half.e.strapAddr = addrE ∧ t.half.w.safeUp = true ∧ t.half.e.safeUp = true ∧
      (t.mbx, t.rt, t.img, t.bnd, t.jr, t.lanes) = (s.mbx, s.rt, s.img, s.bnd, s.jr, s.lanes)) ∧
    (s.safe.fuseJob = none → Completes .coreRstNAssert s fun t =>
      t.eng.state = .reset ∧ t.eng.coreRst = true ∧ LanesIdle t ∧
      (∀ h, (t.hs h).code = if (s.hs h).code = .drained then .drained else .inReset) ∧ t.mi = s.rescueAccesses ∧
      (∀ r ∈ t.rt.vals, r.adm = none ∧ r.copies = ⟨[], []⟩) ∧ (t.mbx, t.img, t.bnd, t.bench, t.safe) = (s.mbx, s.img, s.bnd, s.bench, s.safe)) ∧
    (s.eng.coreRst = true → s.eng.safeRst = false → Completes .coreRstNRelease s fun t =>
      t.eng.state = .reset ∧ t.eng.coreRst = false ∧ t.eng.phase = .bootList ∧ t.eng.warm = false ∧ t.eng.strict = false ∧
      (t.img, t.bnd, t.rt, t.bench, t.jr) = ([], [], [], [], JrSt.reset) ∧ t.mbx.irqEn = 0 ∧ t.mbx.taken = ⟨false, false⟩ ∧
      (∀ n, n < 255 → t.lastOf n = 0 ∧ t.jobOf n = none) ∧ t.safe.target = none ∧ t.safe.fuses = s.safe.fuses ∧ LanesIdle t ∧
      (64 ≤ s.safe.bootPtr.toNat →
        t.mi = s.rescueAccesses ++
          [⟨.west, freeTag s.rescueAccesses .west, false, s.safe.bootPtr.toNat / 64 * 64, 64, [], .bootHeader, false⟩]) ∧
      (s.safe.bootPtr = 0 → t.mi = s.rescueAccesses ∧ t.safe.events = (s.log engineSide 0 0x0001 0 0 []).safe.events)) ∧
    (s.safe.fuseJob = none → Completes .coreRailsRemoved s fun t =>
      t.eng.state = .off ∧ LanesIdle t ∧ (∀ h, (t.hs h).code = if (s.hs h).code = .drained then .drained else .down) ∧
      (t.rt, t.bnd, t.img, t.bench, t.jr, t.mi) = ([], [], [], [], JrSt.reset, s.rescueAccesses) ∧ t.safe.fuses = s.safe.fuses)

/-- A common-cause fault halts the engine and decides a warm restart; WARM_RESTART begins it: images are stored again, creations
that ran are gone, routes keep their released states and lose what has not committed, and settings and fuses stay
(11_yesum_mailboxes: 11 R256; 13 R321; 15 R349, R374; 10 R224, R227). Where the spec leaves a clause open it rests on a choice
of the model: log entries 13, 35, 36, 65, 85, 113. -/
def Obligations.WarmRestarts : Prop :=
  ∀ (s : State),
    (s.eng.state ≠ .off → s.eng.state ≠ .reset → s.mbx.jobs = [] → s.mbx.waits = [] → Completes .commonCauseFault s fun t =>
      t.eng = { s.eng with state := .halt, restartDue := true } ∧ LanesIdle t ∧ t.level.withdrawn = true ∧ t.level.ready = false ∧
      (t.mbx, t.half, t.img, t.bnd, t.bench) = (s.mbx, s.half, s.img, s.bnd, s.bench)) ∧
    (s.eng.restartDue = true → s.half.w.hold = false → s.half.e.hold = false → s.safe.fuseJob = none →
      (∀ b ∈ s.bnd.vals, b.state ≠ .loading ∧ b.newSet = none) → Completes .warmRestart s fun t =>
        t.eng.state = .reset ∧ t.eng.warm = true ∧ t.eng.phase = .bootList ∧ t.eng.restartDue = false ∧
        t.eng.strict = s.eng.strict ∧ t.eng.pcapW = s.eng.pcapW ∧ t.eng.pcapE = s.eng.pcapE ∧ t.safe.fuses = s.safe.fuses ∧
        LanesIdle t ∧ t.img = warmImages s.img ∧ t.bnd = warmBindings s.bnd ∧ t.bench = s.bench ∧
        (∀ n r, s.rt.get? n = some r → ∃ q, t.rt.get? n = some q ∧ q.rel = r.rel ∧ q.state = r.state ∧ q.adm = none) ∧
        (∀ n, n < 255 → t.lastOf n = 0 ∧ t.jobOf n = none) ∧ t.lastOf 255 = s.lastOf 255)

/-- A supply warning stops admission and commits, idles the lanes, withdraws from the barrier, leaves no uncommitted command
of class E in execution, and writes the newest unflushed journal records to the flush target, or logs that there is none, in RESET of
a warm restart, too; its release with the rails in range begins a warm restart
(15_startup_and_constellation: 15 R378-R381). Where the spec leaves a clause open it rests on a choice of the model: log entries
14, 30, 119. -/
def Obligations.SupplyWarnings : Prop :=
  ∀ (s : State),
    (s.safe.warn = false → s.safe.fuseJob = none →
      (s.eng.state = .service ∨ s.eng.state = .reset ∧ s.eng.warm = true ∧ s.eng.coreRst = false) → Completes .supplyWarnN s fun t =>
      t.safe.warn = true ∧ LanesIdle t ∧ (∀ r ∈ t.rt.vals, r.adm = none) ∧ t.level.withdrawn = true ∧ t.level.ready = false ∧
      (∀ h, (t.hs h).waiting = []) ∧ (∀ j ∈ t.mbx.jobs, classE j.code = true → j.committed = true) ∧
      (s.safe.target = none → t.safe.flush = 3 ∧ (s.mbx.jobs = [] → t.mi = s.mi) ∧
        t.safe.events = (s.log engineSide 0 0x000E 0 0 []).safe.events) ∧
      (∀ g, s.safe.target = some g → ∀ l, l = newest s.jr.unflushed → ∀ f, f = Flush.of g l s.jr.next →
        t.safe.flush = 1 ∧ t.jr.warn = some f ∧
        ∃ a m, t.mi = m ++ [a] ∧ (s.mbx.jobs = [] → m = s.mi) ∧ a.write = true ∧ a.addr = g.addr ∧ a.purpose = .warnFlush ∧
          a.data = flushHeader false f s.eng.serial ++ l.flatMap JRec.bytes) ∧
      (t.eng, t.img, t.bench) = (s.eng, s.img, s.bench) ∧ (s.mbx.jobs = [] → (t.mbx, t.bnd) = (s.mbx, s.bnd))) ∧
    (s.safe.warn = true →
      (exec (.supplyWarnNRelease false) s =
        .next { s with safe := { s.safe with warn := false }, jr := { s.jr with warn := none } }) ∧
      (s.eng.state ≠ .off → s.eng.state ≠ .reset → s.safe.fuseJob = none → Completes (.supplyWarnNRelease true) s fun t =>
        t.safe.warn = false ∧ t.jr.warn = none ∧ t.eng.state = .reset ∧ t.eng.warm = true ∧ t.eng.phase = .bootList ∧
        t.bench = s.bench ∧ t.safe.fuses = s.safe.fuses))

/-- A start's steps take the engine to the next one: the census of both halves sets their counts, their trays and their selftest
results; the meridian link is trained, or the East half is held in reset; the stacks are trained, with a new journal that begins
with JR_START; the chains are trained, and a half without one is held in reset; and the boot set makes the engine READY. Route
states are recovered once after a warm restart, and both copies of a route's record agree from then on
(15_startup_and_constellation: 15 R354, R356-R361, R374, R375; 14 R338; 13 R304). Where the spec leaves a clause open it rests
on a choice of the model: log entries 9, 20, 31, 65. -/
def Obligations.StartsGoThroughTheirSteps : Prop :=
  ∀ (s : State),
    (s.eng.state = .survey → s.half.w.code = .up → s.half.e.code = .up →
      (∀ a b, s.eng.phase = .census → s.eng.warm = false → a.failed = [] → b.failed = [] → a.empty.length ≤ 32 → b.empty.length ≤ 32 →
        Completes (.censusDone (some a) (some b)) s fun t =>
          t.eng = { s.eng with phase := .meridian } ∧
          t.half.w.emptyPos = a.empty.map (·.toNat) ∧ t.half.w.spare = a.spare.toNat ∧ t.half.w.retired = a.retired.toNat ∧
          t.half.w.trays = traysWithout (a.trayRetired.map (·.toNat)) ∧ t.half.w.signature = Config.selftestSignature s.free ∧
          t.half.w.cal = Config.calCode s.free ∧
          t.half.e.emptyPos = b.empty.map (·.toNat) ∧ t.half.e.spare = b.spare.toNat ∧ t.half.e.retired = b.retired.toNat ∧
          t.half.e.trays = traysWithout (b.trayRetired.map (·.toNat)) ∧ t.half.w.code = .up ∧ t.half.e.code = .up) ∧
      (∀ toEast toWest, s.eng.phase = .meridian →
        (4 ≤ countBits 16 toEast.toNat → 4 ≤ countBits 16 toWest.toNat →
          exec (.meridianTrained toEast toWest) s =
            .next { s with merid := ⟨toEast, toWest, true, false⟩, eng := { s.eng with phase := .stackTrain } }) ∧
        ((countBits 16 toEast.toNat < 4 ∨ countBits 16 toWest.toNat < 4) → Completes (.meridianTrained toEast toWest) s fun t =>
          t.half.e.code = .inReset ∧ t.half.w.code = .up ∧ t.eng.phase = .stackTrain ∧ t.mbx.taken.e = true)) ∧
      (s.half.w.emptyPos.length ≤ 32 → s.half.e.emptyPos.length ≤ 32 →
        (s.eng.phase = .stackTrain → s.eng.warm = false → Completes (.stacksTrained 0 0) s fun t =>
          t.eng = { s.eng with phase := .chains } ∧ t.half.w.stackMask = 0xFFFF ∧ t.half.e.stackMask = 0xFFFF ∧
          ∃ r, t.jr.recs = [r] ∧ r.kind = 1 ∧ r.number = s.jr.next ∧ r.payload.head? = some 0) ∧
        (s.eng.phase = .chains → 12 ≤ countBits 16 s.half.w.stackMask.toNat → 12 ≤ countBits 16 s.half.e.stackMask.toNat →
          (s.lowestStep .east).isSome = true →
          ((s.lowestStep .west).isSome = true → Completes .chainsTrained s fun t =>
            t.eng = { s.eng with phase := .bootSet } ∧ (t.half, t.lanes, t.chains) = (s.half, s.lanes, s.chains)) ∧
          (s.lowestStep .west = none → s.peerChains .west = [] → Completes .chainsTrained s fun t =>
            t.half.w.code = .inReset ∧ t.half.e.code = .up ∧ t.eng = { s.eng with phase := .bootSet } ∧ t.mbx.taken.w = true))) ∧
      (s.eng.phase = .bootSet → s.half.w.warmEnough = true → s.half.e.warmEnough = true →
        (∀ e ∈ s.eng.boot, ∀ i, s.image e.digest = some i → i.state = .verified ∨ i.state = .failed ∨ i.state = .revoked) →
        (s.eng.warm = false →
          exec .bootSetVerified s = .next { s with eng := { s.eng with state := .ready, phase := .ready } }) ∧
        (s.eng.warm = true → Completes .bootSetVerified s fun t =>
          t.eng = { s.eng with state := .ready, phase := .ready } ∧
          (∀ d i, s.image d = some i → i.state ≠ .stored → t.image d = some i) ∧
          { t with eng := s.eng, img := s.img } = s)) ∧
      (s.eng.warm = true → s.eng.recovered = false →
        exec (.routeStatesRecovered []) s =
          .next { s with eng := { s.eng with recovered := true }, rt := s.rt.mapVals s.twin }))

/-! ### Level lines -/

/-- Level messages: the datum engine admits a new sender at the lowest free position, or refuses one of another level; other
engines relay it upward. An admission and a refusal act at their addressee; the base is recorded by a member and relayed down; an
echo from above is returned, and one from below ends its round; a withdrawal masks the member at the datum engine and is relayed
elsewhere (15_startup_and_constellation: 15 R363-R369, R372). Where the spec leaves a clause open it rests on a choice of the
model: log entries 23, 92. -/
def Obligations.LevelMessages : Prop :=
  ∀ (s : State) (i : BitVec 2) (m : LmMsg), s.half.w.safeUp = true →
    (m.crc = lmCrc lmAnnounceCode m → m.arg = 0 →
      (s.level.acts = true → (s.eng.state = .ready ∨ s.inService = true) → (∀ x ∈ s.level.members, x.serial ≠ m.serial.toNat) →
        (m.iflevel.toNat = ifLevel → m.alevel.toNat = aLevel → s.level.members.length < 63 → m.position = 0xFF →
          ∀ pos, freePosition s.level.members 0xFF = some pos →
          Completes (.lmAnnounce (.dn i) m) s fun t =>
            t.level.members = s.level.members ++ [⟨pos, m.serial.toNat, i.toNat, false⟩] ∧ 1 ≤ pos ∧ pos ≤ 63 ∧
            (∀ x ∈ s.level.members, x.position ≠ pos) ∧ (∀ q, 1 ≤ q → q < pos → ∃ x ∈ s.level.members, x.position = q) ∧
            t.level.count = s.level.members.length + 2 ∧ pos ∈ t.level.joining ∧
            Says s.level.out t.level.out (.dn i) lmAdmitCode pos (s.level.members.length + 2) m.serial ∧
            { t with level := s.level } = s) ∧
        ((m.iflevel.toNat ≠ ifLevel ∨ m.alevel.toNat ≠ aLevel) →
          Completes (.lmAnnounce (.dn i) m) s fun t =>
            t.level.members = s.level.members ∧ Says s.level.out t.level.out (.dn i) lmRefuseCode 0xFF 1 m.serial ∧
            { t with level := s.level } = s)) ∧
      (s.level.acts = false → s.level.strap = false →
        Completes (.lmAnnounce (.dn i) m) s fun t =>
          t.level.out = s.level.out ++ [⟨.up, lmAnnounceCode, m⟩] ∧ t.level.members = s.level.members ∧
          { t with level := s.level } = s)) ∧
    (m.crc = lmCrc lmAdmitCode m → m.serial = s.eng.serial →
      (s.mbx.jobs = [] → Completes (.lmAdmit .up m) s fun t =>
        t.level.member = true ∧ t.level.alone = false ∧ t.level.refused = false ∧ t.level.position = m.position.toNat ∧
        t.level.count = m.arg.toNat ∧ t.level.ready = s.serving ∧ { t with level := s.level } = s) ∧
      (∀ j (k : Byte), s.mbx.mem.wf = true → s.mbx.jobs = [j] → j.code = cRejoin → j.slot = k.toNat →
        (s.slotServer k.toNat).isSome = true →
        Completes (.lmAdmit .up m) s fun t =>
          Replied s t k stOk (engineObj s) (toLe 1 m.position.toNat) ∧ t.level.member = true ∧
          t.level.position = m.position.toNat)) ∧
    (m.crc = lmCrc lmRefuseCode m → m.serial = s.eng.serial → s.mbx.jobs = [] → s.bothServe = true → s.eng.warm = false →
      Completes (.lmRefuse .up m) s fun t =>
        t.level.refused = true ∧ t.level.member = false ∧ t.level.alone = true ∧ t.level.acts = false ∧
        t.eng.state = (if s.eng.state = .ready then .service else s.eng.state) ∧
        t.safe.events = (s.log engineSide 0 0x0010 m.arg.toNat 0 []).safe.events) ∧
    (m.crc = lmCrc lmBaseCode m → s.level.alone = false →
      Completes (.lmBase .up m) s fun t =>
        t.level.out = s.level.out ++ (dnPairs.map fun q => ⟨q, lmBaseCode, m⟩) ∧
        t.level.base = (if s.level.member then m.serial else s.level.base) ∧ { t with level := s.level, jr := s.jr } = s) ∧
    (m.crc = lmCrc lmEchoCode m → s.level.alone = false →
      exec (.lmEcho .up m) s =
        .next { s with level := { s.level with out := s.level.out ++ [⟨.up, lmEchoCode, m⟩] } } ∧
      (m.arg.toNat = s.level.echo → exec (.lmEcho (.dn i) m) s = .next s)) ∧
    (m.crc = lmCrc lmWithdrawCode m →
      s.mbx.jobs = [] → s.rt = [] →
      (s.level.acts = true → Completes (.lmWithdraw (.dn i) m) s fun t =>
        (∀ x, x ∈ t.level.members ↔ ∃ y ∈ s.level.members,
          x = if y.position = m.position.toNat then { y with inBarrier := false } else y) ∧
        m.position.toNat ∉ t.level.joining ∧ { t with level := s.level } = s) ∧
      (s.level.acts = false → exec (.lmWithdraw (.dn i) m) s =
        .next { s with level := { s.level with out := s.level.out ++ [⟨.up, lmWithdrawCode, m⟩] } }))

/-- The timers of the level tree: announcements, the datum check, formation with its base and its first release, which waits
for the routes' states after a warm restart, releases every second with an echo round, a silent member, an absent datum engine, and calibration, which masks a member whose link is too long;
an engine enters SERVICE at the release (15_startup_and_constellation: 15 R365-R372, R381). Where the spec leaves a clause open it
rests on a choice of the model: log entries 7, 14, 21, 102, 114, 120. -/
def Obligations.LevelTimers : Prop :=
  ∀ (s : State),
    (s.half.w.safeUp = true →
      (s.level.checking = true → Completes .announceTimer s fun t =>
        Says s.level.out t.level.out .up lmAnnounceCode 0xFF 1 s.eng.serial ∧ { t with level := s.level } = s) ∧
      (s.level.checking = false → s.level.acts = false → s.level.member = false → s.level.refused = false → s.eng.state = .ready →
        s.level.position = 0 → Completes .announceTimer s fun t =>
          Says s.level.out t.level.out .up lmAnnounceCode 0xFF 0 s.eng.serial ∧ { t with level := s.level } = s) ∧
      (s.level.acts = false →
        ((s.level.member = false ∨ s.level.delay = none) →
          exec .levelRelease s = .next { s with level := { s.level with edges := s.level.edges + 1 } }) ∧
        (∀ d, s.level.member = true → s.level.delay = some d → s.eng.state = .ready → s.eng.warm = false → s.bothServe = true →
          Completes .levelRelease s fun t =>
            t.eng.state = .service ∧ t.eng.limp = false ∧ t.level.ready = true ∧ t.level.edges = s.level.edges + 1))) ∧
    (s.level.strap = true → s.level.checking = true →
      exec .datumCheckDone s = .next { s with level := { s.level with checking := false, acts := true } }) ∧
    (s.level.acts = true → s.eng.state = .ready → s.level.formed = false → s.eng.warm = false → s.bothServe = true →
      s.level.base ≠ 0xFFFFFFFFFFFFFFFF → Completes .formation s fun t =>
        t.eng.state = .service ∧ t.level.formed = true ∧ t.level.base = s.level.base + 1 ∧ t.level.position = 0 ∧
        t.level.member = true ∧ t.level.count = s.level.members.length + 1 ∧ t.level.edges = s.level.edges + 1 ∧
        t.level.echo = topOut (2 ^ 16) (s.level.echo + 1) ∧ t.level.joining = [] ∧
        (∀ x ∈ t.level.members, x.position ∈ s.level.joining → x.inBarrier = true) ∧ t.level.delay = some 1000) ∧
    (s.eng.warm = true → s.eng.recovered = false → exec .formation s = .next s) ∧
    (s.level.acts = true → s.level.formed = true → s.serving = true → s.level.withdrawn = false →
      Completes .barrierReleaseTimer s fun t =>
        t.level.edges = s.level.edges + 1 ∧ t.level.echo = topOut (2 ^ 16) (s.level.echo + 1) ∧ t.level.joining = [] ∧
        (∀ x ∈ t.level.members, x.position ∈ s.level.joining → x.inBarrier = true) ∧ { t with level := s.level } = s) ∧
    (∀ position : Byte, s.level.acts = true → s.mbx.jobs = [] → s.rt = [] → Completes (.memberSilent position) s fun t =>
      (∀ x ∈ t.level.members, x.position = position.toNat → x.inBarrier = false) ∧ position.toNat ∉ t.level.joining ∧
      { t with level := s.level } = s) ∧
    (s.eng.state = .ready → s.level.acts = false → s.eng.warm = false → s.bothServe = true → Completes .datumAbsent s fun t =>
      t.eng.state = .service ∧ t.level.alone = true ∧ t.level.member = false ∧ t.level.position = 0 ∧ t.level.count = 1 ∧
      (t.mbx, t.half, t.rt, t.img, t.bnd, t.safe) = (s.mbx, s.half, s.rt, s.img, s.bnd, s.safe)) ∧
    (∀ (position : Byte) (ns : U16) ok, position.toNat = s.level.position → (s.level.acts = false ∨ position = 0) →
      (ok = true → ns.toNat ≤ 1000 → exec (.calibrationDone position ns ok) s =
        .next { s with level := { s.level with delay := some (1000 - ns.toNat) } }) ∧
      ((ok = false ∨ 1000 < ns.toNat) → Completes (.calibrationDone position ns ok) s fun t =>
        t.safe = (s.log engineSide 0 0x0011 position.toNat 0 []).safe ∧ t.level.delay = some (1000 - ns.toNat) ∧
        { t with safe := s.safe, level := { t.level with delay := s.level.delay } } = s)) ∧
    (∀ (position : Byte) (ns : U16), s.level.acts = true → position ≠ 0 → 1000 < ns.toNat → s.mbx.jobs = [] → s.rt = [] →
      Completes (.calibrationDone position ns true) s fun t =>
        (∀ x ∈ t.level.members, x.position = position.toNat → x.inBarrier = false) ∧ position.toNat ∉ t.level.joining ∧
        t.safe.events = (s.log engineSide 0 0x0011 position.toNat 0 []).safe.events)

/-! ### Time, temperature, upkeep -/

/-- A good time frame sets the time, and a step of more than 1 ms is logged; a bad one, or one that does not come, leaves the
time going. A reading of a running core gives SAFE_SUPPLY and SAFE_THERM their values and the finder its rate: full below 95
degrees, half below 105, quarter below 115, and none from there on, and the full rate again only 3 degrees below its boundary; a
thermal hold ends below 100 degrees, and VDD_FUSE is there where either half reads it (17_block_boundary: 17 R424, R432; 19 R455; 06 R135). Where the spec leaves a clause open it rests on a choice of the model: log
entries 14, 34, 40, 107. -/
def Obligations.TimeAndTemperature : Prop :=
  ∀ (s : State) (h : Half),
    (∀ (time : U64) (crc : Byte),
      ((s.hs h).safeUp = true → crc8Bits time.toNat = crc.toNat →
        ((time.toInt - s.time.toInt).natAbs ≤ 1000000 →
          exec (.timeFrame h time crc) s = .next { s with time := time, timeLost := false }) ∧
        (1000000 < (time.toInt - s.time.toInt).natAbs → Completes (.timeFrame h time crc) s fun t =>
          t.time = time ∧ t.timeLost = false ∧ t.safe.events = inc32 s.safe.events ∧
          { t with time := s.time, timeLost := s.timeLost, safe := s.safe } = s)) ∧
      (crc8Bits time.toNat ≠ crc.toNat → exec (.timeFrame h time crc) s = .next s)) ∧
    (Completes (.timeInputTimeout h) s fun t =>
      t.time = s.time ∧ t.timeLost = true ∧ t.safe = (s.log h.code 0 0x000F 0 0 []).safe ∧
      { t with timeLost := s.timeLost, safe := s.safe } = s) ∧
    (∀ r : Reading, (s.hs h).safeUp = true → r.railOk.getLsbD rCore = true → r.tj ≠ 0x80 →
      (r.tj.toInt < 120 ∨ (s.hs h).hot < 9) → ((s.hs h).rate ≠ 3 ∨ 113 ≤ r.tj.toInt ∨ (s.rt = [] ∧ s.mbx.jobs = [])) →
      Completes (.thermalReading h r) s fun t =>
        (t.hs h).tj = r.tj ∧ (t.hs h).tpeak.toInt = max (s.hs h).tpeak.toInt r.tj.toInt ∧ (t.hs h).stackHot = r.stackHot ∧
        (t.hs h).railOk = r.railOk ∧ (t.hs h).vcore = r.vcore ∧ (t.hs h).vmem = r.vmem ∧ (t.hs h).pwr = r.pwr ∧
        (r.tj.toInt ≤ 92 → (t.hs h).rate = 0) ∧ (95 ≤ r.tj.toInt → 1 ≤ (t.hs h).rate) ∧ (105 ≤ r.tj.toInt → 2 ≤ (t.hs h).rate) ∧
        (115 ≤ r.tj.toInt → 3 ≤ (t.hs h).rate) ∧ (92 < r.tj.toInt → r.tj.toInt < 95 → (t.hs h).rate = min (s.hs h).rate 1) ∧
        ((t.hs h).trip = true ↔ (s.hs h).trip = true ∨ 125 ≤ r.tj.toInt) ∧ (t.hs h).code = (s.hs h).code ∧
        ((t.hs h).hold = true ↔ (s.hs h).hold = true ∧ 100 ≤ r.tj.toInt) ∧
        (t.safe.fuseV = true ↔ r.railOk.getLsbD rFuse = true ∨ (s.hs h.other).rail rFuse = true) ∧
        t.hs h.other = s.hs h.other ∧ (t.eng, t.mbx, t.rt, t.img, t.bnd, t.jr) = (s.eng, s.mbx, s.rt, s.img, s.bnd, s.jr))

/-- A refresh changes no word. A parity error that it finds is counted and its column remembered; one that persists is repaired in
a redundant column of its group, or, in a tray bank whose group has none left, the bank leaves its function. A bad word of a
vocabulary row is dropped and fetched again. A scrub loads a region with bad bytes again
(09_plates_and_banks: 09 R202, R204, R206; 06 R134, R147; 13 R303). -/
def Obligations.UpkeepRepairs : Prop :=
  ∀ (s : State) (h : Half), s.mbx.jobs = [] →
    exec (.refresh h []) s = .next s ∧ exec (.finderScrub h []) s = .next s ∧
    (∀ (e : ColErr), 6 < (s.hs h).faults.length → (∀ x ∈ (s.hs h).colErrs, x.col ≠ columnOf e) →
      (e.owner = .formed →
        (e.persists = false → Completes (.refresh h [e]) s fun t =>
          (t.hs h).pendingRepairs = (s.hs h).pendingRepairs ∧
          (t.hs h).colErrs = (s.hs h).colErrs ++ [⟨columnOf e, [s.time.toNat]⟩] ∧
          (t.hs h).faults.getD 0 0 = satAdd ((s.hs h).faults.getD 0 0) 1 ∧ t.hs h.other = s.hs h.other ∧
          { t with half := s.half } = s) ∧
        (e.persists = true → 1 ≤ (s.hs h).groupLeft e → columnOf e ∉ (s.hs h).pendingRepairs → columnOf e ∉ (s.hs h).burnt →
          Completes (.refresh h [e]) s fun t =>
            (t.hs h).pendingRepairs = (s.hs h).pendingRepairs ++ [columnOf e] ∧ (t.hs h).colErrs = (s.hs h).colErrs ∧
            (t.hs h).groupLeft e = (s.hs h).groupLeft e - 1 ∧
            (t.hs h).faults.getD 6 0 = satAdd ((s.hs h).faults.getD 6 0) 1 ∧ t.hs h.other = s.hs h.other ∧
            { t with half := s.half } = s) ∧
        (e.persists = true → (s.hs h).groupLeft e = 0 → e.tray = true → Completes (.refresh h [e]) s fun t =>
          (t.hs h).trays = ((s.hs h).loseTray e.bank.toNat).trays ∧ (t.hs h).groupLeft e = 0 ∧
          (t.hs h).pendingRepairs = (s.hs h).pendingRepairs ∧ t.hs h.other = s.hs h.other ∧ { t with half := s.half } = s)) ∧
      (∀ d u, e.owner = .row d u → e.persists = false → s.rt = [] → Completes (.refresh h [e]) s fun t =>
        (∀ x, x ∈ (t.hs h).vocCache ↔ x ∈ (s.hs h).vocCache ∧ x.key ≠ ⟨d, u.toNat⟩) ∧
        (t.hs h).faults.getD 5 0 = satAdd ((s.hs h).faults.getD 5 0) 1 ∧ t.hs h.other = s.hs h.other ∧
        { t with half := s.half, jr := s.jr } = s)) ∧
    (∀ (b : BadRegion),
      (((s.hs h).regions.any fun r => r.has (.image b.digest)) = true → s.rt = [] → Completes (.finderScrub h [b]) s fun t =>
        t.half = (((s.countFault h 0 1).reloadRegion h (.image b.digest) b.second).refetched h).half ∧
        { t with half := s.half, jr := s.jr } = s) ∧
      (((s.hs h).regions.any fun r => r.has (.image b.digest)) = false → exec (.finderScrub h [b]) s = .next s))

/-! ### Images and fences -/

/-- IMAGE_FETCH_DONE stores an image whose copies are whole, and completes a load that does not ask for verification;
IMAGE_VERIFY_DONE, with a copy on each half, makes it VERIFIED when both copies pass, FAILED with the West copy's first failing
step when neither does, and takes the copy of the East half again when only that one fails (10_images_and_bindings: 10 R219,
R221; 12 R269). Where the spec leaves a clause open it rests on a choice of the model: log entries 4, 5, 64. -/
def Obligations.ImagesAreStoredAndVerified : Prop :=
  ∀ (s : State) (d : Digest) (i : Image), s.image d = some i →
    (i.state = .fetching → s.fetching d = false → s.cleared = true → (∀ h ∈ s.copyHalves, (i.copies.get h).length = i.total) →
      (s.mbx.jobs = [] → exec (.imageFetchDone d) s = .next (s.setImage { i with state := .stored, prior := none })) ∧
      (∀ j (k : Byte), s.mbx.mem.wf = true → s.mbx.jobs = [j] → j.slot = k.toNat → j.code = cLoad → j.stage = 3 → j.digest = d →
        (s.slotServer k.toNat).isSome = true → u32At j.body 0 = 0 → i.vstatus < 65536 →
        Answers (.imageFetchDone d) s (s.setImage { i with state := .stored, prior := none, hostRef := true }) k stOk
          ⟨skImage, IState.stored.code⟩ (loadReply { i with state := .stored, hostRef := true }))) ∧
    (i.state = .verifying → s.mbx.jobs = [] → s.bothServe = true → i.copies.w ≠ [] → i.copies.e ≠ [] →
      ∀ vw ve, vw = verifyStatus s.safe.fuses i.copies.w → ve = verifyStatus s.safe.fuses i.copies.e →
        (vw = stOk → ve = stOk → exec (.imageVerifyDone d) s =
          .next (s.setImage { i with state := .verified, vstatus := stOk, refetch := ⟨false, false⟩ })) ∧
        (vw ≠ stOk → ve ≠ stOk → exec (.imageVerifyDone d) s =
          .next (s.setImage { i with state := .failed, vstatus := vw, refetch := ⟨false, false⟩ })) ∧
        (vw = stOk → ve ≠ stOk → Completes (.imageVerifyDone d) s fun t =>
          t.img = (s.setImage { i with copies := ⟨i.copies.w, i.copies.w⟩, refetch := i.refetch.set .east true }).img ∧
          t.half = (s.countFault .east 5 1).half))

/-- FENCE_ACK of a binding in phase 1 sets its fence: without a route to hold the binding is STOPPED at once and its
`binding.stop`, which asks for no list, completes; with one route that rests, that route is held for its benchmark and its
prepared drafts go, the binding is STOPPING, and the command has committed (10_images_and_bindings: 10 R229-R232;
04_sampling_and_speculation: 04 R102). Where the spec leaves a clause open it rests on a choice of the model: log entry 70. -/
def Obligations.FencesAreSet : Prop :=
  ∀ (s : State) (d : U32) (k : Byte) (b : Binding) (j : Job), s.mbx.mem.wf = true → s.binding d.toNat = some b → b.fence = .phase1 →
    b.state = .active → s.mbx.jobs = [j] → j.slot = k.toNat → j.code = cStop → j.arg = d.toNat → u32At j.body 4 = 0 →
    s.half.w.waiting = [] → s.half.e.waiting = [] → (s.slotServer k.toNat).isSome = true →
    ((∀ r ∈ s.rt.vals, r.binding ≠ b.handle) →
      Answers (.fenceAck d) s (s.setBinding { b with fence := .set, fences := b.fences + 1, state := .stopped }) k stOk
        ⟨skBinding, BState.stopped.code⟩ (toLe 4 0 ++ toLe 4 0)) ∧
    (∀ r, s.rt = [(routeIndex r.handle, r)] → r.binding = b.handle → (r.state = .open ∨ r.state = .running ∨ r.state = .paused) →
      r.adm = none → r.forcedMore = false → r.saving = false → r.markDue = false → r.entries = [] → r.copies = ⟨[], []⟩ →
      Completes (.fenceAck d) s fun t =>
        t.bnd = (s.setBinding { b with fence := .set, fences := b.fences + 1, state := .stopping }).bnd ∧
        t.route r.handle = some { r with saving := true, drafts := none, intake := [] } ∧
        t.jobOf k.toNat = some { j with committed := true } ∧ { t.mbx with jobs := s.mbx.jobs } = s.mbx)

/-! ### The whole machine -/

/-- A step with a command at the front of the queue runs that command on the queue's rest; with an empty queue it is the idle tick of
log entry 7, which is the model's own: no time passes for the spec's commands, which have no tick. -/
def Obligations.StepRunsTheFront : Prop :=
  ∀ (s : State) (c : Instr) (rest : List Instr),
    (s.pending = c :: rest → step s = exec c { s with pending := rest }) ∧
    (s.pending = [] → step s = .next s.tick ∧ s.tick.pending = [])

/-- What reset leaves: RESET with the core held, no command, image, binding, route or benchmark, an empty mailbox, no flag, no
interrupt, no log entry, lanes at electrical idle without a chain, SAFE_BOOT_PTR zero and no confirmation awaited; the control
ports answer the not-present pattern but for the identification registers and slot 255; and the invariants of
StepsKeepTheInvariants hold (11 R255, R256; 15 R348, R376; 19 R447, R450, R453, R454, R457). The fuses of log entry 3 are the
model's choice. Where the spec leaves a clause open it rests on a choice of the model: log entries 1, 2, 10. -/
def Obligations.ResetLeaves : Prop :=
  ∀ s, s = State.reset →
    s.eng.state = .reset ∧ s.eng.coreRst = true ∧ (s.pending, s.img, s.bnd, s.rt, s.bench, s.mi) = ([], [], [], [], [], []) ∧
    (∀ a, s.mbx.mem.read a = 0) ∧ s.mbx.done = 0 ∧ s.mbx.irqEn = 0 ∧ (∀ k, s.lastOf k = 0) ∧ s.mbxIrq = 0 ∧
    s.safe.logs = ⟨[], []⟩ ∧ s.safe.bootPtr = 0 ∧ s.safe.waiting = false ∧ s.safe.logSel = 0 ∧ LanesIdle s ∧
    (∀ h off, off ≠ 0 → off ≠ 8 → ¬(mbxWindow + slotBase 255 ≤ off ∧ off < 0x200000) → s.ctlRead h off = notPresent) ∧
    s.mbx.mem.wf = true ∧ RingsOk s.safe.logs ∧ KeysInv s.safe

/-- A row of the catalogue acts on an unnoticed request of its own code and payload alone. A request out of its turn is answered
ST_ARG with the number that was expected, and LAST stands; one that is ill-formed, ST_ARG; one whose dependency is not met
waits; one that the engine's state does not admit, ST_STATE; in this order, and nothing else changes (11_yesum_mailboxes: 11
R243, R247, R249, R250). Where the spec leaves a clause open it rests on a choice of the model: log entry 11. -/
def Obligations.RequestsAreJudgedInOrder : Prop :=
  ∀ (s : State) (c : Instr) (x : Row), rowOf c = some x →
    ((s.unnoticed x.slot.toNat = false ∨ s.sealCode x.slot.toNat ≠ x.code ∨ x.own (s.reqPayload x.slot.toNat) = false) →
      exec c s = .next s) ∧
    (∀ p, Asked s x.slot x.code p → x.own p = true →
      (s.sealSeq x.slot.toNat ≠ s.expectedSeq x.slot.toNat →
        Completes c s fun t =>
          Answered s t x.slot stArg (s.slotObj x.slot.toNat) (toLe 4 (s.expectedSeq x.slot.toNat)) false ∧
            OnlyReply s t x.slot) ∧
      (s.sealSeq x.slot.toNat = s.expectedSeq x.slot.toNat →
        (s.row2 x.slot.toNat = false → Answers c s s x.slot stArg (s.slotObj x.slot.toNat) []) ∧
        (s.row2 x.slot.toNat = true →
          (s.afterMet x.slot.toNat = false → Completes c s fun t =>
            t.mbx = { s.mbx with waits := ⟨x.slot.toNat, s.time.toNat⟩ :: s.mbx.waits } ∧
            { t with mbx := s.mbx, jr := s.jr } = s) ∧
          (s.afterMet x.slot.toNat = true → validIn x.code s.eng.state = false →
            Answers c s s x.slot stState (engineObj s) []))))

/-- LAST: a completion, whatever its status, sets its slot's LAST to its SEQ, and a wrong SEQ leaves it; a request is in its turn when
its SEQ is LAST + 1 modulo 2^32, and otherwise it is answered ST_ARG with the SEQ expected and changes nothing; a cold or warm start
clears the LAST of slots 0 to 254; a restart of a half's firmware leaves every LAST; and slot 255 follows R261: its LAST stands over
both starts, and is zero once the islands come up afresh (11_yesum_mailboxes: R243). -/
def Obligations.SequenceNumbers : Prop :=
  ∀ (s : State),
    (∀ (k : Byte) status o payload n,
      (s.answer k.toNat status o payload true).lastOf n = (if n = k.toNat then s.sealSeq n else s.lastOf n) ∧
      (s.answer k.toNat status o payload false).lastOf n = s.lastOf n) ∧
    (∀ k, s.expectedSeq k = (s.lastOf k + 1) % 2 ^ 32) ∧
    (∀ c x p, rowOf c = some x → Asked s x.slot x.code p → x.own p = true → s.sealSeq x.slot.toNat ≠ s.expectedSeq x.slot.toNat →
      Completes c s fun t =>
        Answered s t x.slot stArg (s.slotObj x.slot.toNat) (toLe 4 (s.expectedSeq x.slot.toNat)) false ∧
          OnlyReply s t x.slot) ∧
    (∀ c, (c = .coreRstNRelease ∧ s.eng.coreRst = true ∧ s.eng.safeRst = false ∨
        c = .warmRestart ∧ s.eng.restartDue = true ∧ ∀ h, (s.hs h).hold = false ∨ (s.hs h).tj.toInt < 100) →
      Completes c s fun t => (∀ n, n < 255 → t.lastOf n = 0) ∧ t.lastOf 255 = s.lastOf 255) ∧
    (∀ h c, (c = .firmwareFault h ∨ (c = .slotTakeover h ∧ ∀ j ∈ s.mbx.jobs, j.due = false)) →
      Completes c s fun t => ∀ n, t.lastOf n = s.lastOf n) ∧
    (∀ h, s.mbx.jobs = [] → Completes (.firmwareBooted h) s fun t => ∀ n, t.lastOf n = s.lastOf n) ∧
    (∀ h, (s.hs h).safeUp = false → (s.hs h.other).safeUp = false → (∀ j ∈ s.mbx.jobs, j.due = false) →
      Completes (.safelightIslandPowerUp h) s fun t => t.lastOf 255 = 0 ∧ ∀ n, n ≠ 255 → t.lastOf n = s.lastOf n)

/-- Every command of the table completes with a next state, from every state, and leaves the commands that wait behind it as
they are; and a step keeps the invariants: the mailbox memory's canonical form, the size of the log rings, and the form of the
keyslots, which move only forward, a programmed one keeping its digest and class (10 R217, 12 R288; 17 R430; 18 R444; 19 R457).
Where the spec leaves a clause open it rests on a choice of the model: log entries 11, 12, 36. -/
def Obligations.StepsKeepTheInvariants : Prop :=
  (∀ (c : Instr) (s : State), Completes c s fun t => t.pending = s.pending) ∧
  (∀ s t : State, step s = .next t →
    (s.mbx.mem.wf = true → t.mbx.mem.wf = true) ∧ (RingsOk s.safe.logs → RingsOk t.safe.logs) ∧
    (KeysInv s.safe → KeysInv t.safe ∧ KeysForward s.safe t.safe))

/-- Whatever is commanded, the engine moves onward from OFF over RESET, SURVEY and READY to the states that serve and to HALT, and back
only to OFF, when the core rails go, or to RESET, by the reset input, a warm restart, the end of a supply warning or the confirmation
that the East half takes over (11_yesum_mailboxes: 11 R256; 15 R349, R380; 13 R315). -/
def Obligations.EngineMovesOnward : Prop :=
  ∀ (c : Instr) (s t : State), exec c s = .next t →
    s.eng.state.rank ≤ t.eng.state.rank ∨
    (t.eng.state = .off ∧ c = .coreRailsRemoved) ∨
    (t.eng.state = .reset ∧
      (c = .coreRstNAssert ∨ c = .coreRstNRelease ∨ c = .warmRestart ∨ (∃ ok, c = .supplyWarnNRelease ok) ∨
        (∃ q be data, c = .safeTakeoverConfirm q be data ∧ s.safe.waiting = true) ∨
        (∃ q be data ok, c = .registerWrite q 0x1030 be data ok ∧ s.safe.waiting = true)))

/-- A draft outside the allowed set of the position it fills is rejected there and nothing beyond it is released; every token of a
release is in the allowed set of its position; the accepted drafts lead the release, which is nothing else when it stops at one of
them, and otherwise has one sampled token and at most 256 forced ones after them; and the route's count of generated tokens advances
by the tokens released. For a route without a group, of which all parts are this engine's own
(04_sampling_and_speculation: R91; 01 R27, 04 R90, R92, R96; 05 R112). -/
def Obligations.DraftsOutsideTheSetAreRejected : Prop :=
  ∀ (e : Env) (b : Binding) (r : Route) (a : Adm), memberShards b = [] →
    ∀ x : Release, x = (formStep e r a (wholesOf e b r a)).release →
    (∀ t ∈ x.grow.taken, t.tk.tok ∈ allowed e t.before.pos) ∧
    x.nAccepted ≤ a.drafts.length ∧
    (x.grow.taken.take x.nAccepted).map (fun t => t.tk.tok) = (a.drafts.take x.nAccepted).map (fun d => d.tok) ∧
    (∀ j d q, a.drafts[j]? = some d → (positions e r.rel.pos (a.drafts.map fun d => d.tok))[j]? = some q → d.tok ∉ q.2 →
      x.nAccepted ≤ j ∧ ∀ t ∈ x.grow.taken, ∀ i, t.tk.pos = some i → i ≤ j) ∧
    (x.grow.taken.length = x.nAccepted ∨ x.grow.taken.length = x.nAccepted + 1 + x.nForced) ∧ x.nForced ≤ 256 ∧
    x.grow.rel.gen = r.rel.gen + x.grow.taken.length

/-- No bit of a wire form is dropped: a TOK entry read back from its bytes is the entry, at every value its fields admit; and a
route resumed from the benchmark that was written for it on the same binding has its released state, its seed, salt, steps,
counts and prompt digest, at every value the benchmark's fields admit, its output goes on above every record that has left, and
both copies of its record hold that (16 R400, R402; 14 R328-R330; 12 R280; 08 R186; 09 R196). Where the spec
leaves a clause open it rests on a choice of the model: log entry 55. -/
def Obligations.WireFormsReadBack : Prop :=
  (∀ t : TokEntry, t.handle < 2 ^ 32 → t.step < 2 ^ 32 → t.status < 2 ^ 16 → t.toks.length < 2 ^ 16 → (∀ x ∈ t.toks, x < 2 ^ 32) →
    t.ranges.length = t.toks.length → t.nForced < 2 ^ 16 → t.accepted < 2 ^ 8 → t.consumed < 2 ^ 8 → tokOfBytes t.bytes = t) ∧
  (∀ (s : State) (b : Binding) (r old q : Route) (p : List Byte) (h : Half),
    q = s.resumed b old p (routeBench b r) h → r.binding = b.handle →
    r.salt < 2 ^ 32 → r.next < 2 ^ 32 → r.limit < 2 ^ 32 → r.oflags < 2 ^ 32 →
    r.rebasedAt < 2 ^ 32 → r.rel.pos.g < 2 ^ 32 → (b.set.csi = 0 → r.rel.pos.g = 0) → r.promptN < 2 ^ 32 → r.outSeq < 2 ^ 32 →
    r.rel.bytes < 2 ^ 64 → r.rel.pos.sw.length ≤ 7 → (∀ x ∈ r.rel.pos.sw, x < 2 ^ 32 - 1) →
    (r.rel.dev.held ++ r.rel.dev.pend).length ≤ 272 →
    (match r.rel.pos.pen with
     | .counts tab => (profileOf b.profile).penWindow = 0 ∧ tab.wf = true ∧ tab.length < 2 ^ 32 ∧
       ∀ x ∈ tab, x.1 < 2 ^ 32 ∧ x.2 < 65536
     | .window ts => (profileOf b.profile).penWindow ≠ 0 ∧ ts.length ≤ (profileOf b.profile).penWindow ∧
       ∀ x ∈ ts, x < 2 ^ 32 - 1) →
    benchOk (routeBench b r) = true ∧ resumeOk b false (routeBench b r) = true ∧
    q.rel = r.rel ∧ q.seed = r.seed ∧ q.salt = r.salt ∧ q.startStep = r.startStep ∧ q.next = r.next ∧ q.limit = r.limit ∧
    q.promptN = r.promptN ∧ q.promptDigest = r.promptDigest ∧ q.outSeq = max r.outSeq old.outSeq ∧ q.mirror = q.recOf ∧
    (bitOf (u32At p 4) 0 = false → q.rebasedAt = r.rebasedAt) ∧
    (r.state ≠ .ended → q.state = if r.ran then .running else .open))
end

