-- ==== Sys2Proof/Laws/State.lean ====
section
/-! SUPPORT. One lemma for each field and each named update of the state. -/
namespace Sys2Proof.Machine

@[simp] theorem State.onHalf_pending (s : State) (h : Half) (f : HalfSt → HalfSt) : (s.onHalf h f).pending = s.pending := rfl
@[simp] theorem State.onHalf_eng (s : State) (h : Half) (f : HalfSt → HalfSt) : (s.onHalf h f).eng = s.eng := rfl
@[simp] theorem State.onHalf_safe (s : State) (h : Half) (f : HalfSt → HalfSt) : (s.onHalf h f).safe = s.safe := rfl
@[simp] theorem State.onHalf_mbx (s : State) (h : Half) (f : HalfSt → HalfSt) : (s.onHalf h f).mbx = s.mbx := rfl
@[simp] theorem State.onHalf_mi (s : State) (h : Half) (f : HalfSt → HalfSt) : (s.onHalf h f).mi = s.mi := rfl
@[simp] theorem State.onHalf_lanes (s : State) (h : Half) (f : HalfSt → HalfSt) : (s.onHalf h f).lanes = s.lanes := rfl
@[simp] theorem State.onHalf_chains (s : State) (h : Half) (f : HalfSt → HalfSt) : (s.onHalf h f).chains = s.chains := rfl
@[simp] theorem State.onHalf_merid (s : State) (h : Half) (f : HalfSt → HalfSt) : (s.onHalf h f).merid = s.merid := rfl
@[simp] theorem State.onHalf_img (s : State) (h : Half) (f : HalfSt → HalfSt) : (s.onHalf h f).img = s.img := rfl
@[simp] theorem State.onHalf_bnd (s : State) (h : Half) (f : HalfSt → HalfSt) : (s.onHalf h f).bnd = s.bnd := rfl
@[simp] theorem State.onHalf_bndGen (s : State) (h : Half) (f : HalfSt → HalfSt) : (s.onHalf h f).bndGen = s.bndGen := rfl
@[simp] theorem State.onHalf_rt (s : State) (h : Half) (f : HalfSt → HalfSt) : (s.onHalf h f).rt = s.rt := rfl
@[simp] theorem State.onHalf_rtGen (s : State) (h : Half) (f : HalfSt → HalfSt) : (s.onHalf h f).rtGen = s.rtGen := rfl
@[simp] theorem State.onHalf_bench (s : State) (h : Half) (f : HalfSt → HalfSt) : (s.onHalf h f).bench = s.bench := rfl
@[simp] theorem State.onHalf_benchGen (s : State) (h : Half) (f : HalfSt → HalfSt) : (s.onHalf h f).benchGen = s.benchGen := rfl
@[simp] theorem State.onHalf_jr (s : State) (h : Half) (f : HalfSt → HalfSt) : (s.onHalf h f).jr = s.jr := rfl
@[simp] theorem State.onHalf_str (s : State) (h : Half) (f : HalfSt → HalfSt) : (s.onHalf h f).str = s.str := rfl
@[simp] theorem State.onHalf_level (s : State) (h : Half) (f : HalfSt → HalfSt) : (s.onHalf h f).level = s.level := rfl
@[simp] theorem State.onHalf_owed (s : State) (h : Half) (f : HalfSt → HalfSt) : (s.onHalf h f).owed = s.owed := rfl
@[simp] theorem State.onHalf_tap (s : State) (h : Half) (f : HalfSt → HalfSt) : (s.onHalf h f).tap = s.tap := rfl
@[simp] theorem State.onHalf_time (s : State) (h : Half) (f : HalfSt → HalfSt) : (s.onHalf h f).time = s.time := rfl
@[simp] theorem State.onHalf_timeLost (s : State) (h : Half) (f : HalfSt → HalfSt) : (s.onHalf h f).timeLost = s.timeLost := rfl
@[simp] theorem State.onHalf_free (s : State) (h : Half) (f : HalfSt → HalfSt) : (s.onHalf h f).free = s.free := rfl

@[simp] theorem State.onChain_pending (s : State) (h : Half) (c : Nat) (f : Chain → Chain) : (s.onChain h c f).pending = s.pending := rfl
@[simp] theorem State.onChain_eng (s : State) (h : Half) (c : Nat) (f : Chain → Chain) : (s.onChain h c f).eng = s.eng := rfl
@[simp] theorem State.onChain_half (s : State) (h : Half) (c : Nat) (f : Chain → Chain) : (s.onChain h c f).half = s.half := rfl
@[simp] theorem State.onChain_safe (s : State) (h : Half) (c : Nat) (f : Chain → Chain) : (s.onChain h c f).safe = s.safe := rfl
@[simp] theorem State.onChain_mbx (s : State) (h : Half) (c : Nat) (f : Chain → Chain) : (s.onChain h c f).mbx = s.mbx := rfl
@[simp] theorem State.onChain_mi (s : State) (h : Half) (c : Nat) (f : Chain → Chain) : (s.onChain h c f).mi = s.mi := rfl
@[simp] theorem State.onChain_lanes (s : State) (h : Half) (c : Nat) (f : Chain → Chain) : (s.onChain h c f).lanes = s.lanes := rfl
@[simp] theorem State.onChain_merid (s : State) (h : Half) (c : Nat) (f : Chain → Chain) : (s.onChain h c f).merid = s.merid := rfl
@[simp] theorem State.onChain_img (s : State) (h : Half) (c : Nat) (f : Chain → Chain) : (s.onChain h c f).img = s.img := rfl
@[simp] theorem State.onChain_bnd (s : State) (h : Half) (c : Nat) (f : Chain → Chain) : (s.onChain h c f).bnd = s.bnd := rfl
@[simp] theorem State.onChain_bndGen (s : State) (h : Half) (c : Nat) (f : Chain → Chain) : (s.onChain h c f).bndGen = s.bndGen := rfl
@[simp] theorem State.onChain_rt (s : State) (h : Half) (c : Nat) (f : Chain → Chain) : (s.onChain h c f).rt = s.rt := rfl
@[simp] theorem State.onChain_rtGen (s : State) (h : Half) (c : Nat) (f : Chain → Chain) : (s.onChain h c f).rtGen = s.rtGen := rfl
@[simp] theorem State.onChain_bench (s : State) (h : Half) (c : Nat) (f : Chain → Chain) : (s.onChain h c f).bench = s.bench := rfl
@[simp] theorem State.onChain_benchGen (s : State) (h : Half) (c : Nat) (f : Chain → Chain) : (s.onChain h c f).benchGen = s.benchGen := rfl
@[simp] theorem State.onChain_jr (s : State) (h : Half) (c : Nat) (f : Chain → Chain) : (s.onChain h c f).jr = s.jr := rfl
@[simp] theorem State.onChain_str (s : State) (h : Half) (c : Nat) (f : Chain → Chain) : (s.onChain h c f).str = s.str := rfl
@[simp] theorem State.onChain_level (s : State) (h : Half) (c : Nat) (f : Chain → Chain) : (s.onChain h c f).level = s.level := rfl
@[simp] theorem State.onChain_owed (s : State) (h : Half) (c : Nat) (f : Chain → Chain) : (s.onChain h c f).owed = s.owed := rfl
@[simp] theorem State.onChain_tap (s : State) (h : Half) (c : Nat) (f : Chain → Chain) : (s.onChain h c f).tap = s.tap := rfl
@[simp] theorem State.onChain_time (s : State) (h : Half) (c : Nat) (f : Chain → Chain) : (s.onChain h c f).time = s.time := rfl
@[simp] theorem State.onChain_timeLost (s : State) (h : Half) (c : Nat) (f : Chain → Chain) : (s.onChain h c f).timeLost = s.timeLost := rfl
@[simp] theorem State.onChain_free (s : State) (h : Half) (c : Nat) (f : Chain → Chain) : (s.onChain h c f).free = s.free := rfl

@[simp] theorem State.setRoute_pending (s : State) (r : Route) : (s.setRoute r).pending = s.pending := rfl
@[simp] theorem State.setRoute_eng (s : State) (r : Route) : (s.setRoute r).eng = s.eng := rfl
@[simp] theorem State.setRoute_half (s : State) (r : Route) : (s.setRoute r).half = s.half := rfl
@[simp] theorem State.setRoute_safe (s : State) (r : Route) : (s.setRoute r).safe = s.safe := rfl
@[simp] theorem State.setRoute_mbx (s : State) (r : Route) : (s.setRoute r).mbx = s.mbx := rfl
@[simp] theorem State.setRoute_mi (s : State) (r : Route) : (s.setRoute r).mi = s.mi := rfl
@[simp] theorem State.setRoute_lanes (s : State) (r : Route) : (s.setRoute r).lanes = s.lanes := rfl
@[simp] theorem State.setRoute_chains (s : State) (r : Route) : (s.setRoute r).chains = s.chains := rfl
@[simp] theorem State.setRoute_merid (s : State) (r : Route) : (s.setRoute r).merid = s.merid := rfl
@[simp] theorem State.setRoute_img (s : State) (r : Route) : (s.setRoute r).img = s.img := rfl
@[simp] theorem State.setRoute_bnd (s : State) (r : Route) : (s.setRoute r).bnd = s.bnd := rfl
@[simp] theorem State.setRoute_bndGen (s : State) (r : Route) : (s.setRoute r).bndGen = s.bndGen := rfl
@[simp] theorem State.setRoute_rtGen (s : State) (r : Route) : (s.setRoute r).rtGen = s.rtGen := rfl
@[simp] theorem State.setRoute_bench (s : State) (r : Route) : (s.setRoute r).bench = s.bench := rfl
@[simp] theorem State.setRoute_benchGen (s : State) (r : Route) : (s.setRoute r).benchGen = s.benchGen := rfl
@[simp] theorem State.setRoute_jr (s : State) (r : Route) : (s.setRoute r).jr = s.jr := rfl
@[simp] theorem State.setRoute_str (s : State) (r : Route) : (s.setRoute r).str = s.str := rfl
@[simp] theorem State.setRoute_level (s : State) (r : Route) : (s.setRoute r).level = s.level := rfl
@[simp] theorem State.setRoute_owed (s : State) (r : Route) : (s.setRoute r).owed = s.owed := rfl
@[simp] theorem State.setRoute_tap (s : State) (r : Route) : (s.setRoute r).tap = s.tap := rfl
@[simp] theorem State.setRoute_time (s : State) (r : Route) : (s.setRoute r).time = s.time := rfl
@[simp] theorem State.setRoute_timeLost (s : State) (r : Route) : (s.setRoute r).timeLost = s.timeLost := rfl
@[simp] theorem State.setRoute_free (s : State) (r : Route) : (s.setRoute r).free = s.free := rfl

@[simp] theorem State.setBinding_pending (s : State) (x : Binding) : (s.setBinding x).pending = s.pending := rfl
@[simp] theorem State.setBinding_eng (s : State) (x : Binding) : (s.setBinding x).eng = s.eng := rfl
@[simp] theorem State.setBinding_half (s : State) (x : Binding) : (s.setBinding x).half = s.half := rfl
@[simp] theorem State.setBinding_safe (s : State) (x : Binding) : (s.setBinding x).safe = s.safe := rfl
@[simp] theorem State.setBinding_mbx (s : State) (x : Binding) : (s.setBinding x).mbx = s.mbx := rfl
@[simp] theorem State.setBinding_mi (s : State) (x : Binding) : (s.setBinding x).mi = s.mi := rfl
@[simp] theorem State.setBinding_lanes (s : State) (x : Binding) : (s.setBinding x).lanes = s.lanes := rfl
@[simp] theorem State.setBinding_chains (s : State) (x : Binding) : (s.setBinding x).chains = s.chains := rfl
@[simp] theorem State.setBinding_merid (s : State) (x : Binding) : (s.setBinding x).merid = s.merid := rfl
@[simp] theorem State.setBinding_img (s : State) (x : Binding) : (s.setBinding x).img = s.img := rfl
@[simp] theorem State.setBinding_bndGen (s : State) (x : Binding) : (s.setBinding x).bndGen = s.bndGen := rfl
@[simp] theorem State.setBinding_rt (s : State) (x : Binding) : (s.setBinding x).rt = s.rt := rfl
@[simp] theorem State.setBinding_rtGen (s : State) (x : Binding) : (s.setBinding x).rtGen = s.rtGen := rfl
@[simp] theorem State.setBinding_bench (s : State) (x : Binding) : (s.setBinding x).bench = s.bench := rfl
@[simp] theorem State.setBinding_benchGen (s : State) (x : Binding) : (s.setBinding x).benchGen = s.benchGen := rfl
@[simp] theorem State.setBinding_jr (s : State) (x : Binding) : (s.setBinding x).jr = s.jr := rfl
@[simp] theorem State.setBinding_str (s : State) (x : Binding) : (s.setBinding x).str = s.str := rfl
@[simp] theorem State.setBinding_level (s : State) (x : Binding) : (s.setBinding x).level = s.level := rfl
@[simp] theorem State.setBinding_owed (s : State) (x : Binding) : (s.setBinding x).owed = s.owed := rfl
@[simp] theorem State.setBinding_tap (s : State) (x : Binding) : (s.setBinding x).tap = s.tap := rfl
@[simp] theorem State.setBinding_time (s : State) (x : Binding) : (s.setBinding x).time = s.time := rfl
@[simp] theorem State.setBinding_timeLost (s : State) (x : Binding) : (s.setBinding x).timeLost = s.timeLost := rfl
@[simp] theorem State.setBinding_free (s : State) (x : Binding) : (s.setBinding x).free = s.free := rfl

@[simp] theorem State.setImage_pending (s : State) (i : Image) : (s.setImage i).pending = s.pending := rfl
@[simp] theorem State.setImage_eng (s : State) (i : Image) : (s.setImage i).eng = s.eng := rfl
@[simp] theorem State.setImage_half (s : State) (i : Image) : (s.setImage i).half = s.half := rfl
@[simp] theorem State.setImage_safe (s : State) (i : Image) : (s.setImage i).safe = s.safe := rfl
@[simp] theorem State.setImage_mbx (s : State) (i : Image) : (s.setImage i).mbx = s.mbx := rfl
@[simp] theorem State.setImage_mi (s : State) (i : Image) : (s.setImage i).mi = s.mi := rfl
@[simp] theorem State.setImage_lanes (s : State) (i : Image) : (s.setImage i).lanes = s.lanes := rfl
@[simp] theorem State.setImage_chains (s : State) (i : Image) : (s.setImage i).chains = s.chains := rfl
@[simp] theorem State.setImage_merid (s : State) (i : Image) : (s.setImage i).merid = s.merid := rfl
@[simp] theorem State.setImage_bnd (s : State) (i : Image) : (s.setImage i).bnd = s.bnd := rfl
@[simp] theorem State.setImage_bndGen (s : State) (i : Image) : (s.setImage i).bndGen = s.bndGen := rfl
@[simp] theorem State.setImage_rt (s : State) (i : Image) : (s.setImage i).rt = s.rt := rfl
@[simp] theorem State.setImage_rtGen (s : State) (i : Image) : (s.setImage i).rtGen = s.rtGen := rfl
@[simp] theorem State.setImage_bench (s : State) (i : Image) : (s.setImage i).bench = s.bench := rfl
@[simp] theorem State.setImage_benchGen (s : State) (i : Image) : (s.setImage i).benchGen = s.benchGen := rfl
@[simp] theorem State.setImage_jr (s : State) (i : Image) : (s.setImage i).jr = s.jr := rfl
@[simp] theorem State.setImage_str (s : State) (i : Image) : (s.setImage i).str = s.str := rfl
@[simp] theorem State.setImage_level (s : State) (i : Image) : (s.setImage i).level = s.level := rfl
@[simp] theorem State.setImage_owed (s : State) (i : Image) : (s.setImage i).owed = s.owed := rfl
@[simp] theorem State.setImage_tap (s : State) (i : Image) : (s.setImage i).tap = s.tap := rfl
@[simp] theorem State.setImage_time (s : State) (i : Image) : (s.setImage i).time = s.time := rfl
@[simp] theorem State.setImage_timeLost (s : State) (i : Image) : (s.setImage i).timeLost = s.timeLost := rfl
@[simp] theorem State.setImage_free (s : State) (i : Image) : (s.setImage i).free = s.free := rfl

@[simp] theorem State.miStart_pending (s : State) (h : Half) (write : Bool) (addr len : Nat) (data : List Byte) (p : Purpose) : (s.miStart h write addr len data p).pending = s.pending := rfl
@[simp] theorem State.miStart_eng (s : State) (h : Half) (write : Bool) (addr len : Nat) (data : List Byte) (p : Purpose) : (s.miStart h write addr len data p).eng = s.eng := rfl
@[simp] theorem State.miStart_half (s : State) (h : Half) (write : Bool) (addr len : Nat) (data : List Byte) (p : Purpose) : (s.miStart h write addr len data p).half = s.half := rfl
@[simp] theorem State.miStart_safe (s : State) (h : Half) (write : Bool) (addr len : Nat) (data : List Byte) (p : Purpose) : (s.miStart h write addr len data p).safe = s.safe := rfl
@[simp] theorem State.miStart_mbx (s : State) (h : Half) (write : Bool) (addr len : Nat) (data : List Byte) (p : Purpose) : (s.miStart h write addr len data p).mbx = s.mbx := rfl
@[simp] theorem State.miStart_lanes (s : State) (h : Half) (write : Bool) (addr len : Nat) (data : List Byte) (p : Purpose) : (s.miStart h write addr len data p).lanes = s.lanes := rfl
@[simp] theorem State.miStart_chains (s : State) (h : Half) (write : Bool) (addr len : Nat) (data : List Byte) (p : Purpose) : (s.miStart h write addr len data p).chains = s.chains := rfl
@[simp] theorem State.miStart_merid (s : State) (h : Half) (write : Bool) (addr len : Nat) (data : List Byte) (p : Purpose) : (s.miStart h write addr len data p).merid = s.merid := rfl
@[simp] theorem State.miStart_img (s : State) (h : Half) (write : Bool) (addr len : Nat) (data : List Byte) (p : Purpose) : (s.miStart h write addr len data p).img = s.img := rfl
@[simp] theorem State.miStart_bnd (s : State) (h : Half) (write : Bool) (addr len : Nat) (data : List Byte) (p : Purpose) : (s.miStart h write addr len data p).bnd = s.bnd := rfl
@[simp] theorem State.miStart_bndGen (s : State) (h : Half) (write : Bool) (addr len : Nat) (data : List Byte) (p : Purpose) : (s.miStart h write addr len data p).bndGen = s.bndGen := rfl
@[simp] theorem State.miStart_rt (s : State) (h : Half) (write : Bool) (addr len : Nat) (data : List Byte) (p : Purpose) : (s.miStart h write addr len data p).rt = s.rt := rfl
@[simp] theorem State.miStart_rtGen (s : State) (h : Half) (write : Bool) (addr len : Nat) (data : List Byte) (p : Purpose) : (s.miStart h write addr len data p).rtGen = s.rtGen := rfl
@[simp] theorem State.miStart_bench (s : State) (h : Half) (write : Bool) (addr len : Nat) (data : List Byte) (p : Purpose) : (s.miStart h write addr len data p).bench = s.bench := rfl
@[simp] theorem State.miStart_benchGen (s : State) (h : Half) (write : Bool) (addr len : Nat) (data : List Byte) (p : Purpose) : (s.miStart h write addr len data p).benchGen = s.benchGen := rfl
@[simp] theorem State.miStart_jr (s : State) (h : Half) (write : Bool) (addr len : Nat) (data : List Byte) (p : Purpose) : (s.miStart h write addr len data p).jr = s.jr := rfl
@[simp] theorem State.miStart_str (s : State) (h : Half) (write : Bool) (addr len : Nat) (data : List Byte) (p : Purpose) : (s.miStart h write addr len data p).str = s.str := rfl
@[simp] theorem State.miStart_level (s : State) (h : Half) (write : Bool) (addr len : Nat) (data : List Byte) (p : Purpose) : (s.miStart h write addr len data p).level = s.level := rfl
@[simp] theorem State.miStart_owed (s : State) (h : Half) (write : Bool) (addr len : Nat) (data : List Byte) (p : Purpose) : (s.miStart h write addr len data p).owed = s.owed := rfl
@[simp] theorem State.miStart_tap (s : State) (h : Half) (write : Bool) (addr len : Nat) (data : List Byte) (p : Purpose) : (s.miStart h write addr len data p).tap = s.tap := rfl
@[simp] theorem State.miStart_time (s : State) (h : Half) (write : Bool) (addr len : Nat) (data : List Byte) (p : Purpose) : (s.miStart h write addr len data p).time = s.time := rfl
@[simp] theorem State.miStart_timeLost (s : State) (h : Half) (write : Bool) (addr len : Nat) (data : List Byte) (p : Purpose) : (s.miStart h write addr len data p).timeLost = s.timeLost := rfl
@[simp] theorem State.miStart_free (s : State) (h : Half) (write : Bool) (addr len : Nat) (data : List Byte) (p : Purpose) : (s.miStart h write addr len data p).free = s.free := rfl

@[simp] theorem State.sendOut_pending (s : State) (h : Half) (c : Nat) (o : Out) : (s.sendOut h c o).pending = s.pending := rfl
@[simp] theorem State.sendOut_eng (s : State) (h : Half) (c : Nat) (o : Out) : (s.sendOut h c o).eng = s.eng := rfl
@[simp] theorem State.sendOut_half (s : State) (h : Half) (c : Nat) (o : Out) : (s.sendOut h c o).half = s.half := rfl
@[simp] theorem State.sendOut_safe (s : State) (h : Half) (c : Nat) (o : Out) : (s.sendOut h c o).safe = s.safe := rfl
@[simp] theorem State.sendOut_mbx (s : State) (h : Half) (c : Nat) (o : Out) : (s.sendOut h c o).mbx = s.mbx := rfl
@[simp] theorem State.sendOut_mi (s : State) (h : Half) (c : Nat) (o : Out) : (s.sendOut h c o).mi = s.mi := rfl
@[simp] theorem State.sendOut_lanes (s : State) (h : Half) (c : Nat) (o : Out) : (s.sendOut h c o).lanes = s.lanes := rfl
@[simp] theorem State.sendOut_merid (s : State) (h : Half) (c : Nat) (o : Out) : (s.sendOut h c o).merid = s.merid := rfl
@[simp] theorem State.sendOut_img (s : State) (h : Half) (c : Nat) (o : Out) : (s.sendOut h c o).img = s.img := rfl
@[simp] theorem State.sendOut_bnd (s : State) (h : Half) (c : Nat) (o : Out) : (s.sendOut h c o).bnd = s.bnd := rfl
@[simp] theorem State.sendOut_bndGen (s : State) (h : Half) (c : Nat) (o : Out) : (s.sendOut h c o).bndGen = s.bndGen := rfl
@[simp] theorem State.sendOut_rt (s : State) (h : Half) (c : Nat) (o : Out) : (s.sendOut h c o).rt = s.rt := rfl
@[simp] theorem State.sendOut_rtGen (s : State) (h : Half) (c : Nat) (o : Out) : (s.sendOut h c o).rtGen = s.rtGen := rfl
@[simp] theorem State.sendOut_bench (s : State) (h : Half) (c : Nat) (o : Out) : (s.sendOut h c o).bench = s.bench := rfl
@[simp] theorem State.sendOut_benchGen (s : State) (h : Half) (c : Nat) (o : Out) : (s.sendOut h c o).benchGen = s.benchGen := rfl
@[simp] theorem State.sendOut_jr (s : State) (h : Half) (c : Nat) (o : Out) : (s.sendOut h c o).jr = s.jr := rfl
@[simp] theorem State.sendOut_str (s : State) (h : Half) (c : Nat) (o : Out) : (s.sendOut h c o).str = s.str := rfl
@[simp] theorem State.sendOut_level (s : State) (h : Half) (c : Nat) (o : Out) : (s.sendOut h c o).level = s.level := rfl
@[simp] theorem State.sendOut_owed (s : State) (h : Half) (c : Nat) (o : Out) : (s.sendOut h c o).owed = s.owed := rfl
@[simp] theorem State.sendOut_tap (s : State) (h : Half) (c : Nat) (o : Out) : (s.sendOut h c o).tap = s.tap := rfl
@[simp] theorem State.sendOut_time (s : State) (h : Half) (c : Nat) (o : Out) : (s.sendOut h c o).time = s.time := rfl
@[simp] theorem State.sendOut_timeLost (s : State) (h : Half) (c : Nat) (o : Out) : (s.sendOut h c o).timeLost = s.timeLost := rfl
@[simp] theorem State.sendOut_free (s : State) (h : Half) (c : Nat) (o : Out) : (s.sendOut h c o).free = s.free := rfl

@[simp] theorem State.takeFree_fst (s : State) (n : Nat) : (s.takeFree n).1 = s.free := rfl
@[simp] theorem State.takeFree_snd (s : State) (n : Nat) : (s.takeFree n).2 = { s with free := s.free + n } := rfl

@[simp] theorem State.journal_pending (s : State) (h : Half) (kind subject : Nat) (payload : List Byte) :
    (s.journal h kind subject payload).pending = s.pending := by unfold State.journal; split <;> rfl
@[simp] theorem State.journal_eng (s : State) (h : Half) (kind subject : Nat) (payload : List Byte) :
    (s.journal h kind subject payload).eng = s.eng := by unfold State.journal; split <;> rfl
@[simp] theorem State.journal_half (s : State) (h : Half) (kind subject : Nat) (payload : List Byte) :
    (s.journal h kind subject payload).half = s.half := by unfold State.journal; split <;> rfl
@[simp] theorem State.journal_safe (s : State) (h : Half) (kind subject : Nat) (payload : List Byte) :
    (s.journal h kind subject payload).safe = s.safe := by unfold State.journal; split <;> rfl
@[simp] theorem State.journal_mbx (s : State) (h : Half) (kind subject : Nat) (payload : List Byte) :
    (s.journal h kind subject payload).mbx = s.mbx := by unfold State.journal; split <;> rfl
@[simp] theorem State.journal_mi (s : State) (h : Half) (kind subject : Nat) (payload : List Byte) :
    (s.journal h kind subject payload).mi = s.mi := by unfold State.journal; split <;> rfl
@[simp] theorem State.journal_lanes (s : State) (h : Half) (kind subject : Nat) (payload : List Byte) :
    (s.journal h kind subject payload).lanes = s.lanes := by unfold State.journal; split <;> rfl
@[simp] theorem State.journal_chains (s : State) (h : Half) (kind subject : Nat) (payload : List Byte) :
    (s.journal h kind subject payload).chains = s.chains := by unfold State.journal; split <;> rfl
@[simp] theorem State.journal_merid (s : State) (h : Half) (kind subject : Nat) (payload : List Byte) :
    (s.journal h kind subject payload).merid = s.merid := by unfold State.journal; split <;> rfl
@[simp] theorem State.journal_img (s : State) (h : Half) (kind subject : Nat) (payload : List Byte) :
    (s.journal h kind subject payload).img = s.img := by unfold State.journal; split <;> rfl
@[simp] theorem State.journal_bnd (s : State) (h : Half) (kind subject : Nat) (payload : List Byte) :
    (s.journal h kind subject payload).bnd = s.bnd := by unfold State.journal; split <;> rfl
@[simp] theorem State.journal_bndGen (s : State) (h : Half) (kind subject : Nat) (payload : List Byte) :
    (s.journal h kind subject payload).bndGen = s.bndGen := by unfold State.journal; split <;> rfl
@[simp] theorem State.journal_rt (s : State) (h : Half) (kind subject : Nat) (payload : List Byte) :
    (s.journal h kind subject payload).rt = s.rt := by unfold State.journal; split <;> rfl
@[simp] theorem State.journal_rtGen (s : State) (h : Half) (kind subject : Nat) (payload : List Byte) :
    (s.journal h kind subject payload).rtGen = s.rtGen := by unfold State.journal; split <;> rfl
@[simp] theorem State.journal_bench (s : State) (h : Half) (kind subject : Nat) (payload : List Byte) :
    (s.journal h kind subject payload).bench = s.bench := by unfold State.journal; split <;> rfl
@[simp] theorem State.journal_benchGen (s : State) (h : Half) (kind subject : Nat) (payload : List Byte) :
    (s.journal h kind subject payload).benchGen = s.benchGen := by unfold State.journal; split <;> rfl
@[simp] theorem State.journal_str (s : State) (h : Half) (kind subject : Nat) (payload : List Byte) :
    (s.journal h kind subject payload).str = s.str := by unfold State.journal; split <;> rfl
@[simp] theorem State.journal_level (s : State) (h : Half) (kind subject : Nat) (payload : List Byte) :
    (s.journal h kind subject payload).level = s.level := by unfold State.journal; split <;> rfl
@[simp] theorem State.journal_owed (s : State) (h : Half) (kind subject : Nat) (payload : List Byte) :
    (s.journal h kind subject payload).owed = s.owed := by unfold State.journal; split <;> rfl
@[simp] theorem State.journal_tap (s : State) (h : Half) (kind subject : Nat) (payload : List Byte) :
    (s.journal h kind subject payload).tap = s.tap := by unfold State.journal; split <;> rfl
@[simp] theorem State.journal_time (s : State) (h : Half) (kind subject : Nat) (payload : List Byte) :
    (s.journal h kind subject payload).time = s.time := by unfold State.journal; split <;> rfl
@[simp] theorem State.journal_timeLost (s : State) (h : Half) (kind subject : Nat) (payload : List Byte) :
    (s.journal h kind subject payload).timeLost = s.timeLost := by unfold State.journal; split <;> rfl
@[simp] theorem State.journal_free (s : State) (h : Half) (kind subject : Nat) (payload : List Byte) :
    (s.journal h kind subject payload).free = s.free := by unfold State.journal; split <;> rfl

@[simp] theorem State.log_pending (s : State) (side sev code arg0 arg1 : Nat) (detail : List Byte) :
    (s.log side sev code arg0 arg1 detail).pending = s.pending := by unfold State.log; split <;> rfl
@[simp] theorem State.log_eng (s : State) (side sev code arg0 arg1 : Nat) (detail : List Byte) :
    (s.log side sev code arg0 arg1 detail).eng = s.eng := by unfold State.log; split <;> rfl
@[simp] theorem State.log_half (s : State) (side sev code arg0 arg1 : Nat) (detail : List Byte) :
    (s.log side sev code arg0 arg1 detail).half = s.half := by unfold State.log; split <;> rfl
@[simp] theorem State.log_mbx (s : State) (side sev code arg0 arg1 : Nat) (detail : List Byte) :
    (s.log side sev code arg0 arg1 detail).mbx = s.mbx := by unfold State.log; split <;> rfl
@[simp] theorem State.log_mi (s : State) (side sev code arg0 arg1 : Nat) (detail : List Byte) :
    (s.log side sev code arg0 arg1 detail).mi = s.mi := by unfold State.log; split <;> rfl
@[simp] theorem State.log_lanes (s : State) (side sev code arg0 arg1 : Nat) (detail : List Byte) :
    (s.log side sev code arg0 arg1 detail).lanes = s.lanes := by unfold State.log; split <;> rfl
@[simp] theorem State.log_chains (s : State) (side sev code arg0 arg1 : Nat) (detail : List Byte) :
    (s.log side sev code arg0 arg1 detail).chains = s.chains := by unfold State.log; split <;> rfl
@[simp] theorem State.log_merid (s : State) (side sev code arg0 arg1 : Nat) (detail : List Byte) :
    (s.log side sev code arg0 arg1 detail).merid = s.merid := by unfold State.log; split <;> rfl
@[simp] theorem State.log_img (s : State) (side sev code arg0 arg1 : Nat) (detail : List Byte) :
    (s.log side sev code arg0 arg1 detail).img = s.img := by unfold State.log; split <;> rfl
@[simp] theorem State.log_bnd (s : State) (side sev code arg0 arg1 : Nat) (detail : List Byte) :
    (s.log side sev code arg0 arg1 detail).bnd = s.bnd := by unfold State.log; split <;> rfl
@[simp] theorem State.log_bndGen (s : State) (side sev code arg0 arg1 : Nat) (detail : List Byte) :
    (s.log side sev code arg0 arg1 detail).bndGen = s.bndGen := by unfold State.log; split <;> rfl
@[simp] theorem State.log_rt (s : State) (side sev code arg0 arg1 : Nat) (detail : List Byte) :
    (s.log side sev code arg0 arg1 detail).rt = s.rt := by unfold State.log; split <;> rfl
@[simp] theorem State.log_rtGen (s : State) (side sev code arg0 arg1 : Nat) (detail : List Byte) :
    (s.log side sev code arg0 arg1 detail).rtGen = s.rtGen := by unfold State.log; split <;> rfl
@[simp] theorem State.log_bench (s : State) (side sev code arg0 arg1 : Nat) (detail : List Byte) :
    (s.log side sev code arg0 arg1 detail).bench = s.bench := by unfold State.log; split <;> rfl
@[simp] theorem State.log_benchGen (s : State) (side sev code arg0 arg1 : Nat) (detail : List Byte) :
    (s.log side sev code arg0 arg1 detail).benchGen = s.benchGen := by unfold State.log; split <;> rfl
@[simp] theorem State.log_jr (s : State) (side sev code arg0 arg1 : Nat) (detail : List Byte) :
    (s.log side sev code arg0 arg1 detail).jr = s.jr := by unfold State.log; split <;> rfl
@[simp] theorem State.log_str (s : State) (side sev code arg0 arg1 : Nat) (detail : List Byte) :
    (s.log side sev code arg0 arg1 detail).str = s.str := by unfold State.log; split <;> rfl
@[simp] theorem State.log_level (s : State) (side sev code arg0 arg1 : Nat) (detail : List Byte) :
    (s.log side sev code arg0 arg1 detail).level = s.level := by unfold State.log; split <;> rfl
@[simp] theorem State.log_owed (s : State) (side sev code arg0 arg1 : Nat) (detail : List Byte) :
    (s.log side sev code arg0 arg1 detail).owed = s.owed := by unfold State.log; split <;> rfl
@[simp] theorem State.log_tap (s : State) (side sev code arg0 arg1 : Nat) (detail : List Byte) :
    (s.log side sev code arg0 arg1 detail).tap = s.tap := by unfold State.log; split <;> rfl
@[simp] theorem State.log_time (s : State) (side sev code arg0 arg1 : Nat) (detail : List Byte) :
    (s.log side sev code arg0 arg1 detail).time = s.time := by unfold State.log; split <;> rfl
@[simp] theorem State.log_timeLost (s : State) (side sev code arg0 arg1 : Nat) (detail : List Byte) :
    (s.log side sev code arg0 arg1 detail).timeLost = s.timeLost := by unfold State.log; split <;> rfl
@[simp] theorem State.log_free (s : State) (side sev code arg0 arg1 : Nat) (detail : List Byte) :
    (s.log side sev code arg0 arg1 detail).free = s.free := by unfold State.log; split <;> rfl

theorem State.onHalf_get (s : State) (h : Half) (f : HalfSt → HalfSt) : (s.onHalf h f).half.get h = f (s.half.get h) := by
  cases h <;> rfl

theorem State.onHalf_other (s : State) (h : Half) (f : HalfSt → HalfSt) : (s.onHalf h f).half.get h.other = s.half.get h.other := by
  cases h <;> rfl

/-- A swap leaves the word that it brings (09 R200). -/
theorem atomicWord_swap (old n : Nat) (h : n < 2 ^ 64) : atomicWord old (.atomicSwap (BitVec.ofNat 64 n)) = n := by
  simp only [atomicWord, oneWord, sameWord, BankOp.after, BankWord.of, BitVec.toNat_ofNat]
  exact Nat.mod_eq_of_lt h

/-- An addition wraps modulo 2^64 (09 R200). -/
theorem atomicWord_add (old n : Nat) : atomicWord old (.atomicAdd (BitVec.ofNat 64 n)) = (old + n) % 2 ^ 64 := by
  simp only [atomicWord, oneWord, sameWord, BankOp.after, BankWord.of, BitVec.toNat_add, BitVec.toNat_ofNat]
  omega

end Sys2Proof.Machine
end

