-- ==== Sys2Proof/Laws/Calm.lean ====
section
/-! SUPPORT. What almost every operation of the machine leaves alone: the queue, the keyslot fuses, the engine's rank, the canonical
form of the mailbox memory and the size of the log rings. One lemma for each operation, in the files Laws/Calm*.lean. -/
namespace Sys2Proof.Machine

/-! ### The mailbox memory keeps its canonical form -/

/-- Every address of a memory lies above `a`. -/
def Mem.above (a : Nat) (m : Mem) : Prop := ∀ c ∈ m, a < c.1

theorem Mem.wf_cons (k : Nat) (v : Byte) (m : Mem) :
    Mem.wf ((k, v) :: m) = true ↔ v ≠ Mem.unlisted ∧ Mem.above k m ∧ Mem.wf m = true := by
  induction m generalizing k v with
  | nil => simp [Mem.wf, Mem.above]
  | cons c t ih =>
    obtain ⟨l, w⟩ := c
    have h := ih l w
    simp only [Mem.wf, Bool.and_eq_true, decide_eq_true_eq, Mem.above, List.mem_cons, forall_eq_or_imp] at h ⊢
    constructor
    · rintro ⟨⟨hv, hk⟩, hw⟩
      refine ⟨hv, ⟨hk, fun c hc => ?_⟩, hw⟩
      exact Nat.lt_trans hk ((h.1 hw).2.1 c hc)
    · rintro ⟨hv, ⟨hk, _⟩, hw⟩
      exact ⟨⟨hv, hk⟩, hw⟩

theorem Mem.wf_nil : Mem.wf [] = true := rfl

/-- Addresses of a memory after a write: the old ones, and the one written. -/
theorem Mem.mem_write (m : Mem) (a : Nat) (v : Byte) (c : Host.Cell) : c ∈ Mem.write m a v → c ∈ m ∨ c = (a, v) := by
  induction m with
  | nil => unfold Mem.write; split <;> simp
  | cons d t ih =>
    obtain ⟨k, w⟩ := d
    unfold Mem.write
    split
    · split
      · intro h; exact .inl h
      · rintro (_ | ⟨_, h⟩)
        · exact .inr rfl
        · exact .inl h
    · split
      · split
        · intro h; exact .inl (List.mem_cons_of_mem _ h)
        · rintro (_ | ⟨_, h⟩)
          · exact .inr rfl
          · exact .inl (List.mem_cons_of_mem _ h)
      · rintro (_ | ⟨_, h⟩)
        · exact .inl (List.mem_cons_self ..)
        · exact (ih h).imp (List.mem_cons_of_mem _) id

/-- A write keeps the canonical form. -/
theorem Mem.write_wf (m : Mem) (a : Nat) (v : Byte) (h : m.wf = true) : (m.write a v).wf = true := by
  induction m with
  | nil => unfold Mem.write; split <;> simp_all [Mem.wf]
  | cons d t ih =>
    obtain ⟨k, w⟩ := d
    have hk := (Mem.wf_cons k w t).1 h
    unfold Mem.write
    split
    · split
      · exact h
      · refine (Mem.wf_cons _ _ _).2 ⟨‹_›, ?_, h⟩
        intro c hc
        rcases List.mem_cons.1 hc with rfl | hc
        · assumption
        · exact Nat.lt_trans ‹a < k› (hk.2.1 c hc)
    · split
      · split
        · exact hk.2.2
        · exact (Mem.wf_cons _ _ _).2 ⟨‹_›, by subst_vars; exact hk.2.1, hk.2.2⟩
      · refine (Mem.wf_cons _ _ _).2 ⟨hk.1, ?_, ih hk.2.2⟩
        intro c hc
        rcases Mem.mem_write t a v c hc with hc | rfl
        · exact hk.2.1 c hc
        · show k < a
          omega

theorem Mem.writeAll_wf (bs : List Byte) (m : Mem) (a : Nat) (h : m.wf = true) : (m.writeAll a bs).wf = true := by
  induction bs generalizing m a with
  | nil => exact h
  | cons b bs ih => exact ih _ _ (Mem.write_wf m a b h)

theorem Mem.filter_wf (f : Host.Cell → Bool) (m : Mem) (h : m.wf = true) : Mem.wf (m.filter f) = true := by
  induction m with
  | nil => rfl
  | cons d t ih =>
    obtain ⟨k, w⟩ := d
    have hk := (Mem.wf_cons k w t).1 h
    rw [List.filter_cons]
    split
    · exact (Mem.wf_cons _ _ _).2 ⟨hk.1, fun c hc => hk.2.1 c (List.mem_filter.1 hc).1, ih hk.2.2⟩
    · exact ih hk.2.2

/-- Clearing keeps the canonical form. -/
theorem Mem.clear_wf (m : Mem) (a b : Nat) (h : m.wf = true) : (m.clear a b).wf = true := Mem.filter_wf _ m h

/-! ### Reading what was written -/

theorem Mem.read_of_above (m : Mem) (a k : Nat) (h : Mem.above k m) (ha : a ≤ k) : m.read a = Mem.unlisted := by
  induction m with
  | nil => rfl
  | cons d t ih =>
    have h1 := h d (List.mem_cons_self ..)
    have h2 : Mem.above k t := fun c hc => h c (List.mem_cons_of_mem _ hc)
    simp only [Mem.read]
    split
    · omega
    · exact ih h2

/-- Reading after a write: the written byte at its address, every other byte as before. -/
theorem Mem.read_write (m : Mem) (a : Nat) (v : Byte) (b : Nat) (h : m.wf = true) :
    (m.write a v).read b = if b = a then v else m.read b := by
  induction m with
  | nil =>
    unfold Mem.write
    split
    · split
      · subst_vars; rfl
      · rfl
    · simp only [Mem.read]
      by_cases hb : b = a
      · subst hb; simp
      · simp [hb, Ne.symm hb]
  | cons d t ih =>
    obtain ⟨k, w⟩ := d
    have hk := (Mem.wf_cons k w t).1 h
    unfold Mem.write
    split
    · have hn : Mem.read ((k, w) :: t) a = Mem.unlisted := by
        simp only [Mem.read]
        rw [if_neg (by omega)]
        exact Mem.read_of_above t a k hk.2.1 (by omega)
      split
      · by_cases hb : b = a
        · subst hb; rw [if_pos rfl, hn]; exact (‹v = Mem.unlisted›).symm
        · rw [if_neg hb]
      · by_cases hb : b = a
        · subst hb; simp [Mem.read]
        · simp [Mem.read, hb, Ne.symm hb]
    · split
      · subst_vars
        split
        · by_cases hb : b = k
          · subst hb; rw [if_pos rfl, Mem.read_of_above t b b hk.2.1 (Nat.le_refl _)]; exact (‹v = Mem.unlisted›).symm
          · rw [if_neg hb]; simp [Mem.read, Ne.symm hb]
        · by_cases hb : b = k
          · subst hb; simp [Mem.read]
          · simp [Mem.read, hb, Ne.symm hb]
      · rw [Mem.read, ih hk.2.2, Mem.read]
        by_cases h1 : k = b
        · subst h1; rw [if_pos rfl, if_pos rfl, if_neg (by omega)]
        · rw [if_neg h1, if_neg h1]

theorem Mem.read_writeAll (bs : List Byte) (m : Mem) (a b : Nat) (h : m.wf = true) :
    (m.writeAll a bs).read b = if a ≤ b ∧ b < a + bs.length then bs.getD (b - a) 0 else m.read b := by
  induction bs generalizing m a with
  | nil =>
    rw [if_neg (by simp only [List.length_nil]; omega)]
    rfl
  | cons x xs ih =>
    rw [Mem.writeAll, ih _ _ (Mem.write_wf m a x h), Mem.read_write m a x b h]
    by_cases h1 : a ≤ b ∧ b < a + (x :: xs).length
    · rw [if_pos h1]
      by_cases h2 : b = a
      · subst h2
        rw [if_neg (by omega), if_pos rfl, Nat.sub_self]; rfl
      · rw [if_pos (by simp only [List.length_cons] at h1; omega)]
        have : b - a = (b - (a + 1)) + 1 := by omega
        rw [this]; rfl
    · rw [if_neg h1, if_neg (by simp only [List.length_cons] at h1; omega), if_neg]
      simp only [List.length_cons] at h1
      omega

theorem Mem.read_clear (m : Mem) (a b x : Nat) :
    (m.clear a b).read x = if a ≤ x ∧ x < b then Mem.unlisted else m.read x := by
  induction m with
  | nil => simp [Mem.clear, Mem.read]
  | cons d t ih =>
    obtain ⟨k, w⟩ := d
    simp only [Mem.clear, List.filter_cons] at ih ⊢
    split
    · rename_i hc
      simp only [Bool.not_eq_true', Bool.and_eq_false_iff, decide_eq_false_iff_not] at hc
      simp only [Mem.read, ih]
      by_cases h1 : k = x
      · subst h1; simp only [if_true]; rw [if_neg (by omega)]
      · simp [h1]
    · rename_i hc
      simp only [Bool.not_eq_true', Bool.and_eq_false_iff, decide_eq_false_iff_not, not_or, Decidable.not_not] at hc
      rw [ih]
      by_cases h2 : a ≤ x ∧ x < b
      · rw [if_pos h2, if_pos h2]
      · rw [if_neg h2, if_neg h2, Mem.read, if_neg (by omega)]

/-! ### Log rings -/

theorem logPush_length (l : List LogEnt) (e : LogEnt) (h : l.length ≤ logRing) : (logPush l e).length ≤ logRing := by
  unfold logPush
  split
  · rw [List.length_append, List.length_singleton]; omega
  · have : 0 < logRing := by decide
    rw [List.length_append, List.length_singleton, List.length_tail]; omega

theorem RingsOk.pair {l r : List LogEnt} (hl : l.length ≤ logRing) (hr : r.length ≤ logRing) : RingsOk ⟨l, r⟩ := ⟨hl, hr⟩

theorem RingsOk.push {x : Halves (List LogEnt)} (c : Bool) (e : LogEnt) (h : RingsOk x) :
    RingsOk ⟨logPush x.w e, if c then logPush x.e e else x.e⟩ := by
  refine RingsOk.pair (logPush_length x.w e h.w) ?_
  cases c
  · exact h.e
  · exact logPush_length x.e e h.e

theorem drop_ring (l : List LogEnt) : (l.drop (l.length - logRing)).length ≤ logRing := by
  rw [List.length_drop]
  omega

/-! ### Calm -/

@[simp] theorem EState.rank_le_halt (e : EState) : e.rank ≤ EState.halt.rank := by cases e <;> decide

/-- What lies between a state and one that follows it calmly. -/
structure Calm (b s : State) : Prop where
  pending : s.pending = b.pending
  fuses : s.safe.fuses = b.safe.fuses
  cutKey : s.safe.cutKey = b.safe.cutKey
  fuseJob : s.safe.fuseJob = b.safe.fuseJob
  onward : b.eng.state.rank ≤ s.eng.state.rank
  mem : b.mbx.mem.wf = true → s.mbx.mem.wf = true
  logs : RingsOk b.safe.logs → RingsOk s.safe.logs

@[simp] theorem Calm.refl (s : State) : Calm s s := ⟨rfl, rfl, rfl, rfl, Nat.le_refl _, id, id⟩

theorem Calm.trans {a b c : State} (h : Calm a b) (k : Calm b c) : Calm a c :=
  ⟨k.pending.trans h.pending, k.fuses.trans h.fuses, k.cutKey.trans h.cutKey, k.fuseJob.trans h.fuseJob,
    Nat.le_trans h.onward k.onward, k.mem ∘ h.mem, k.logs ∘ h.logs⟩

/-- A record update that leaves the watched fields alone is calm. -/
@[simp] theorem calm_mk {b s : State} {eng : EngSt} {half : Halves HalfSt} {safe : SafeSt} {mbx : MbxSt} {mi : List MiAcc}
    {lanes : Halves (List Lane)} {chains : Halves (List Chain)} {merid : Merid} {img : Tab Image} {bnd : Tab Binding}
    {bndGen : Tab Nat} {rt : Tab Route} {rtGen : Tab Nat} {bench : Tab BenchEnt} {benchGen : Tab Nat} {owed : List Owed} {jr : JrSt}
    {str : Halves StrSt} {level : LvSt} {tap : Tap} {time : U64} {timeLost : Bool} {free : Nat} (h : Calm b s)
    (he : s.eng.state.rank ≤ eng.state.rank) (hf : safe.fuses = s.safe.fuses) (hc : safe.cutKey = s.safe.cutKey)
    (hj : safe.fuseJob = s.safe.fuseJob) (hl : safe.logs = s.safe.logs) (hm : mbx.mem = s.mbx.mem) :
    Calm b ⟨s.pending, eng, half, safe, mbx, mi, lanes, chains, merid, img, bnd, bndGen, rt, rtGen, bench, benchGen, owed, jr, str,
      level, tap, time, timeLost, free⟩ :=
  ⟨h.pending, hf.trans h.fuses, hc.trans h.cutKey, hj.trans h.fuseJob, Nat.le_trans h.onward he,
    fun x => (congrArg Mem.wf hm).trans (h.mem x), fun x => by rw [hl]; exact h.logs x⟩

/-- A log that stays within its rings is calm. -/
theorem calm_rings {b s : State} (h : Calm b s) (x : SafeSt) (hf : x.fuses = s.safe.fuses) (hc : x.cutKey = s.safe.cutKey)
    (hj : x.fuseJob = s.safe.fuseJob) (hr : RingsOk b.safe.logs → RingsOk x.logs) : Calm b { s with safe := x } :=
  ⟨h.pending, hf.trans h.fuses, hc.trans h.cutKey, hj.trans h.fuseJob, h.onward, h.mem, hr⟩

@[simp] theorem calm_foldl {α : Type} {b s : State} {f : State → α → State} {l : List α} (h : Calm b s)
    (hf : ∀ t x, Calm b t → Calm b (f t x)) : Calm b (l.foldl f s) := by
  induction l generalizing s with
  | nil => exact h
  | cons x xs ih => exact ih (hf s x h)

theorem calm_foldl_fst {α β : Type} {b : State} {f : State × β → α → State × β} {l : List α} {p : State × β}
    (h : Calm b p.1) (hf : ∀ p x, Calm b p.1 → Calm b (f p x).1) : Calm b (l.foldl f p).1 := by
  induction l generalizing p with
  | nil => exact h
  | cons x xs ih => exact ih (hf p x h)

@[simp] theorem calm_ite {b s t : State} {p : Prop} [Decidable p] (h : Calm b s) (k : Calm b t) :
    Calm b (if p then s else t) := by split <;> assumption

/-! ### Mild -/

theorem KeysForward.refl (x : SafeSt) : KeysForward x x := fun _ => ⟨Nat.le_refl _, fun _ => ⟨rfl, rfl⟩⟩

theorem KeysForward.trans {x y z : SafeSt} (h : KeysForward x y) (k : KeysForward y z) : KeysForward x z := fun n => by
  refine ⟨Nat.le_trans (h n).1 (k n).1, fun e => ?_⟩
  have h2 : (y.slot n).state ≠ .empty := by
    intro hy
    have := (h n).1
    rw [hy] at this
    cases hx : (x.slot n).state with
    | empty => exact e hx
    | active => rw [hx] at this; exact absurd this (by decide)
    | revoked => rw [hx] at this; exact absurd this (by decide)
  exact ⟨((k n).2 h2).1.trans ((h n).2 e).1, ((k n).2 h2).2.trans ((h n).2 e).2⟩

/-- What lies between a state and any state that follows it. -/
structure Keeps (b s : State) : Prop where
  pending : s.pending = b.pending
  mem : b.mbx.mem.wf = true → s.mbx.mem.wf = true
  logs : RingsOk b.safe.logs → RingsOk s.safe.logs
  keys : KeysInv b.safe → KeysInv s.safe ∧ KeysForward b.safe s.safe

theorem Keeps.refl (s : State) : Keeps s s := ⟨rfl, id, id, fun h => ⟨h, KeysForward.refl _⟩⟩

theorem Keeps.trans {a b c : State} (h : Keeps a b) (k : Keeps b c) : Keeps a c :=
  ⟨k.pending.trans h.pending, k.mem ∘ h.mem, k.logs ∘ h.logs,
    fun x => ⟨(k.keys (h.keys x).1).1, (h.keys x).2.trans (k.keys (h.keys x).1).2⟩⟩

/-- What lies between a state and one that follows it without a restart. -/
structure Mild (b s : State) : Prop where
  keeps : Keeps b s
  onward : b.eng.state.rank ≤ s.eng.state.rank

theorem Mild.refl (s : State) : Mild s s := ⟨Keeps.refl s, Nat.le_refl _⟩

theorem Mild.trans {a b c : State} (h : Mild a b) (k : Mild b c) : Mild a c := ⟨h.keeps.trans k.keeps, Nat.le_trans h.onward k.onward⟩

theorem KeysInv.congr {x y : SafeSt} (hf : y.fuses = x.fuses) (hc : y.cutKey = x.cutKey) (hj : y.fuseJob = x.fuseJob)
    (h : KeysInv x) : KeysInv y := by
  constructor
  · intro slot n e
    have := h.programming slot n (hj ▸ e)
    exact ⟨by unfold SafeSt.slot; rw [hf]; exact this.1, fun c hx => this.2 c (hc ▸ hx)⟩
  · intro slot n e
    unfold SafeSt.slot
    rw [hf]
    exact h.revoking slot n (hj ▸ e)
  · intro c e
    unfold SafeSt.slot
    rw [hf]
    exact h.cut c (hc ▸ e)

theorem KeysForward.of_fuses {x y : SafeSt} (hf : y.fuses = x.fuses) : KeysForward x y := fun n => by
  unfold SafeSt.slot
  rw [hf]
  exact ⟨Nat.le_refl _, fun _ => ⟨rfl, rfl⟩⟩

theorem Calm.keeps {b s : State} (h : Calm b s) : Keeps b s :=
  ⟨h.pending, h.mem, h.logs, fun k => ⟨k.congr h.fuses h.cutKey h.fuseJob, KeysForward.of_fuses h.fuses⟩⟩

theorem Calm.mild {b s : State} (h : Calm b s) : Mild b s := ⟨h.keeps, h.onward⟩

/-- A calm operation after a mild one. -/
theorem Mild.calm {b s t : State} (h : Mild b s) (k : Calm s t) : Mild b t := h.trans k.mild

/-- A fuse command ends, or one that burns repairs begins; the keyslots stay. -/
theorem mild_fuse {b s : State} (h : Mild b s) (x : SafeSt) (hf : x.fuses = s.safe.fuses) (hc : x.cutKey = s.safe.cutKey)
    (hl : x.logs = s.safe.logs) (hj : x.fuseJob = none ∨ ∃ slot g n, x.fuseJob = some (.burn slot g n)) :
    Mild b { s with safe := x } := by
  refine h.trans ⟨⟨rfl, id, fun k => hl ▸ k, fun k => ⟨⟨fun slot n e => ?_, fun slot n e => ?_, fun c e => ?_⟩,
    KeysForward.of_fuses hf⟩⟩, Nat.le_refl _⟩
  · rcases hj with hj | ⟨_, _, _, hj⟩ <;> simp [hj] at e
  · rcases hj with hj | ⟨_, _, _, hj⟩ <;> simp [hj] at e
  · unfold SafeSt.slot
    rw [hf]
    exact k.cut c (hc ▸ e)

/-- An operation that is calm, after a mild one. -/
theorem mild_of {b s t : State} (h : Mild b s) (k : ∀ c, Calm c s → Calm c t) : Mild b t := h.calm (k s (Calm.refl s))

/-- An operation that is calm, after one that keeps. -/
theorem keeps_of {b s t : State} (h : Keeps b s) (k : ∀ c, Calm c s → Calm c t) : Keeps b t :=
  h.trans (k s (Calm.refl s)).keeps

/-- A record update that leaves the keyslots, the logs and the mailbox memory alone. -/
theorem keeps_mk {b s : State} {eng : EngSt} {half : Halves HalfSt} {safe : SafeSt} {mbx : MbxSt} {mi : List MiAcc}
    {lanes : Halves (List Lane)} {chains : Halves (List Chain)} {merid : Merid} {img : Tab Image} {bnd : Tab Binding}
    {bndGen : Tab Nat} {rt : Tab Route} {rtGen : Tab Nat} {bench : Tab BenchEnt} {benchGen : Tab Nat} {owed : List Owed} {jr : JrSt}
    {str : Halves StrSt} {level : LvSt} {tap : Tap} {time : U64} {timeLost : Bool} {free : Nat} (h : Keeps b s)
    (hf : safe.fuses = s.safe.fuses) (hc : safe.cutKey = s.safe.cutKey) (hj : safe.fuseJob = s.safe.fuseJob)
    (hl : safe.logs = s.safe.logs) (hm : mbx.mem = s.mbx.mem) :
    Keeps b ⟨s.pending, eng, half, safe, mbx, mi, lanes, chains, merid, img, bnd, bndGen, rt, rtGen, bench, benchGen, owed, jr, str,
      level, tap, time, timeLost, free⟩ :=
  h.trans ⟨rfl, fun x => (congrArg Mem.wf hm).trans x, fun x => by rw [hl]; exact x,
    fun k => ⟨k.congr hf hc hj, KeysForward.of_fuses hf⟩⟩

/-- A fuse command ends. -/
theorem mild_endFuse {b s : State} (h : Mild b s) : Mild b { s with safe := { s.safe with fuseJob := none } } :=
  mild_fuse h _ rfl rfl rfl (.inl rfl)

/-- A keyslot's state after a change of one keyslot. -/
theorem slot_set (l : List Keyslot) (n m : Nat) (k : Keyslot) :
    (l.set n k).getD m Keyslot.reset = if n = m ∧ n < l.length then k else l.getD m Keyslot.reset := by
  simp only [List.getD_eq_getElem?_getD, List.getElem?_set]
  by_cases h : n = m
  · subst h
    by_cases h2 : n < l.length
    · simp [h2]
    · simp [h2]
  · simp [h]

/-- A change of one keyslot forward. -/
theorem keysForward_set (x y : SafeSt) (n : Nat) (k : Keyslot) (hf : y.fuses = x.fuses.set n k)
    (hr : (x.slot n).state.rank ≤ k.state.rank)
    (hk : (x.slot n).state ≠ .empty → k.digest = (x.slot n).digest ∧ k.cls = (x.slot n).cls) : KeysForward x y := fun m => by
  have e : y.slot m = if n = m ∧ n < x.fuses.length then k else x.slot m := by
    simp only [SafeSt.slot, hf, slot_set]
  rw [e]
  split
  · rename_i h
    obtain ⟨rfl, _⟩ := h
    exact ⟨hr, hk⟩
  · exact ⟨Nat.le_refl _, fun _ => ⟨rfl, rfl⟩⟩

/-- A keyslot's programming is cut short (17 R430). -/
theorem mild_cut {b s : State} {slot n : Nat} (h : Mild b s) (hj : s.safe.fuseJob = some (.program slot n)) (new : Keyslot) :
    Mild b { s with safe := { s.safe with fuseJob := none, cutKey := some (n, new)
                                          fuses := s.safe.fuses.set n { s.safe.fuses.getD n Keyslot.reset with state := .empty } } } := by
  refine h.trans ⟨⟨rfl, id, id, fun k => ?_⟩, Nat.le_refl _⟩
  have hk := (k.programming slot n hj).1
  have hs : ({ s.safe.fuses.getD n Keyslot.reset with state := .empty } : Keyslot) = s.safe.slot n := by
    show _ = s.safe.fuses.getD n Keyslot.reset
    have : (s.safe.fuses.getD n Keyslot.reset).state = .empty := hk
    rw [← this]
  refine ⟨⟨fun _ _ hc => (by simp at hc), fun _ _ hc => (by simp at hc), fun c hc => ?_⟩, keysForward_set _ _ n _ rfl (by rw [hs] <;> exact Nat.le_refl _)
    (fun e => absurd hk e)⟩
  simp only [Option.some.injEq] at hc
  subst hc
  simp only [SafeSt.slot, slot_set]
  split
  · rfl
  · exact hk

end Sys2Proof.Machine
end

