-- ==== Sys2Proof/Laws/CalmOps.lean ====
section
/-! SUPPORT. The named operations are calm. -/
namespace Sys2Proof.Machine

@[simp] theorem State.onHalf_calm (b : State) (s : State) (h0 : Half) (f : HalfSt → HalfSt) (h : Calm b s)  :
    Calm b (State.onHalf s h0 f) := by
  unfold State.onHalf
  (try dsimp only)
  (repeat' (first | split | with_reducible refine calm_foldl ?_ (fun _ _ _ => ?_))) <;> simp +contextual (maxDischargeDepth := 40) [*]

@[simp] theorem State.countFault_calm (b : State) (s : State) (h0 : Half) (i : Nat) (n : Nat) (h : Calm b s)  :
    Calm b (State.countFault s h0 i n) := by
  unfold State.countFault
  (try dsimp only)
  (repeat' (first | split | with_reducible refine calm_foldl ?_ (fun _ _ _ => ?_))) <;> simp +contextual (maxDischargeDepth := 40) [*]

@[simp] theorem State.countStep_calm (b : State) (s : State) (h0 : Half) (i : Nat) (n : Nat) (h : Calm b s)  :
    Calm b (State.countStep s h0 i n) := by
  unfold State.countStep
  (try dsimp only)
  (repeat' (first | split | with_reducible refine calm_foldl ?_ (fun _ _ _ => ?_))) <;> simp +contextual (maxDischargeDepth := 40) [*]

@[simp] theorem State.countChoice_calm (b : State) (s : State) (h0 : Half) (i : Nat) (n : Nat) (h : Calm b s)  :
    Calm b (State.countChoice s h0 i n) := by
  unfold State.countChoice
  (try dsimp only)
  (repeat' (first | split | with_reducible refine calm_foldl ?_ (fun _ _ _ => ?_))) <;> simp +contextual (maxDischargeDepth := 40) [*]

@[simp] theorem State.takeFree_calm (b : State) (s : State) (n : Nat) (h : Calm b s)  :
    Calm b (State.takeFree s n).2 := by
  unfold State.takeFree
  (try dsimp only)
  (repeat' (first | split | with_reducible refine calm_foldl ?_ (fun _ _ _ => ?_))) <;> simp +contextual (maxDischargeDepth := 40) [*]

@[simp] theorem State.freeCount_calm (b : State) (s : State) (h : Calm b s)  :
    Calm b (State.freeCount s).2 := by
  unfold State.freeCount
  (try dsimp only)
  (repeat' (first | split | with_reducible refine calm_foldl ?_ (fun _ _ _ => ?_))) <;> simp +contextual (maxDischargeDepth := 40) [*]

@[simp] theorem State.timedChoices_calm (b : State) (s : State) (h0 : Half) (i : Nat) (h : Calm b s)  :
    Calm b (State.timedChoices s h0 i) := by
  unfold State.timedChoices
  (try dsimp only)
  (repeat' (first | split | with_reducible refine calm_foldl ?_ (fun _ _ _ => ?_))) <;> simp +contextual (maxDischargeDepth := 40) [*]

@[simp] theorem State.countConflict_calm (b : State) (s : State) (h0 : Half) (a : Master) (b0 : Master) (n : Nat) (h : Calm b s)  :
    Calm b (State.countConflict s h0 a b0 n) := by
  unfold State.countConflict
  (try dsimp only)
  (repeat' (first | split | with_reducible refine calm_foldl ?_ (fun _ _ _ => ?_))) <;> simp +contextual (maxDischargeDepth := 40) [*]

@[simp] theorem State.log_calm (b : State) (s : State) (side : Nat) (sev : Nat) (code : Nat) (arg0 : Nat) (arg1 : Nat) (detail : List Byte) (h : Calm b s)  :
    Calm b (State.log s side sev code arg0 arg1 detail) := by
  unfold State.log
  split
  · exact h
  · exact calm_rings h _ rfl rfl rfl fun k => RingsOk.push s.reach _ (h.logs k)
  · exact calm_rings h _ rfl rfl rfl fun k => RingsOk.pair (h.logs k).w (logPush_length _ _ (h.logs k).e)

@[simp] theorem State.mergeLogs_calm (b : State) (s : State) (h : Calm b s)  :
    Calm b (State.mergeLogs s) := by
  unfold State.mergeLogs
  split
  · exact calm_rings h _ rfl rfl rfl fun k => RingsOk.pair (drop_ring _) (drop_ring _)
  · exact h

@[simp] theorem State.journal_calm (b : State) (s : State) (h0 : Half) (kind : Nat) (subject : Nat) (payload : List Byte) (h : Calm b s)  :
    Calm b (State.journal s h0 kind subject payload) := by
  unfold State.journal
  (try dsimp only)
  (repeat' (first | split | with_reducible refine calm_foldl ?_ (fun _ _ _ => ?_))) <;> simp +contextual (maxDischargeDepth := 40) [*]

@[simp] theorem State.recovery_calm (b : State) (s : State) (h0 : Half) (cause : Nat) (handle : Nat) (step : Nat) (h : Calm b s)  :
    Calm b (State.recovery s h0 cause handle step) := by
  unfold State.recovery
  (try dsimp only)
  (repeat' (first | split | with_reducible refine calm_foldl ?_ (fun _ _ _ => ?_))) <;> simp +contextual (maxDischargeDepth := 40) [*]

@[simp] theorem State.mark_calm (b : State) (s : State) (h0 : Half) (kind : Nat) (subject : Nat) (step : Nat) (binding : Nat) (h : Calm b s)  :
    Calm b (State.mark s h0 kind subject step binding) := by
  unfold State.mark
  (try dsimp only)
  (repeat' (first | split | with_reducible refine calm_foldl ?_ (fun _ _ _ => ?_))) <;> simp +contextual (maxDischargeDepth := 40) [*]

@[simp] theorem State.miStart_calm (b : State) (s : State) (h0 : Half) (write : Bool) (addr : Nat) (len : Nat) (data : List Byte) (p : Purpose) (h : Calm b s)  :
    Calm b (State.miStart s h0 write addr len data p) := by
  unfold State.miStart
  (try dsimp only)
  (repeat' (first | split | with_reducible refine calm_foldl ?_ (fun _ _ _ => ?_))) <;> simp +contextual (maxDischargeDepth := 40) [*]

@[simp] theorem State.miRead_calm (b : State) (s : State) (h0 : Half) (addr : Nat) (len : Nat) (p : Purpose) (h : Calm b s)  :
    Calm b (State.miRead s h0 addr len p) := by
  unfold State.miRead
  (try dsimp only)
  (repeat' (first | split | with_reducible refine calm_foldl ?_ (fun _ _ _ => ?_))) <;> simp +contextual (maxDischargeDepth := 40) [*]

@[simp] theorem State.miWrite_calm (b : State) (s : State) (h0 : Half) (addr : Nat) (data : List Byte) (p : Purpose) (h : Calm b s)  :
    Calm b (State.miWrite s h0 addr data p) := by
  unfold State.miWrite
  (try dsimp only)
  (repeat' (first | split | with_reducible refine calm_foldl ?_ (fun _ _ _ => ?_))) <;> simp +contextual (maxDischargeDepth := 40) [*]

@[simp] theorem State.onChain_calm (b : State) (s : State) (h0 : Half) (c : Nat) (f : Chain → Chain) (h : Calm b s)  :
    Calm b (State.onChain s h0 c f) := by
  unfold State.onChain
  (try dsimp only)
  (repeat' (first | split | with_reducible refine calm_foldl ?_ (fun _ _ _ => ?_))) <;> simp +contextual (maxDischargeDepth := 40) [*]

@[simp] theorem State.sendOut_calm (b : State) (s : State) (h0 : Half) (c : Nat) (o : Out) (h : Calm b s)  :
    Calm b (State.sendOut s h0 c o) := by
  unfold State.sendOut
  (try dsimp only)
  (repeat' (first | split | with_reducible refine calm_foldl ?_ (fun _ _ _ => ?_))) <;> simp +contextual (maxDischargeDepth := 40) [*]

@[simp] theorem State.sendTok_calm (b : State) (s : State) (h0 : Half) (c : Option Nat) (t : TokEntry) (h : Calm b s)  :
    Calm b (State.sendTok s h0 c t) := by
  unfold State.sendTok
  (try dsimp only)
  (repeat' (first | split | with_reducible refine calm_foldl ?_ (fun _ _ _ => ?_))) <;> simp +contextual (maxDischargeDepth := 40) [*]

@[simp] theorem State.sendPrt_calm (b : State) (s : State) (h0 : Half) (dst : Nat) (entry : List Byte) (h : Calm b s)  :
    Calm b (State.sendPrt s h0 dst entry) := by
  unfold State.sendPrt
  dsimp only
  split
  · exact calm_foldl h fun t x ht => by simp [ht]
  · exact h

@[simp] theorem State.sendSyn_calm (b : State) (s : State) (h0 : Half) (c : Nat) (body : List Byte) (h : Calm b s)  :
    Calm b (State.sendSyn s h0 c body) := by
  unfold State.sendSyn
  (try dsimp only)
  (repeat' (first | split | with_reducible refine calm_foldl ?_ (fun _ _ _ => ?_))) <;> simp +contextual (maxDischargeDepth := 40) [*]

@[simp] theorem State.setRoute_calm (b : State) (s : State) (r : Route) (h : Calm b s)  :
    Calm b (State.setRoute s r) := by
  unfold State.setRoute
  (try dsimp only)
  (repeat' (first | split | with_reducible refine calm_foldl ?_ (fun _ _ _ => ?_))) <;> simp +contextual (maxDischargeDepth := 40) [*]

@[simp] theorem State.setBinding_calm (b : State) (s : State) (b0 : Binding) (h : Calm b s)  :
    Calm b (State.setBinding s b0) := by
  unfold State.setBinding
  (try dsimp only)
  (repeat' (first | split | with_reducible refine calm_foldl ?_ (fun _ _ _ => ?_))) <;> simp +contextual (maxDischargeDepth := 40) [*]

@[simp] theorem State.setImage_calm (b : State) (s : State) (i : Image) (h : Calm b s)  :
    Calm b (State.setImage s i) := by
  unfold State.setImage
  (try dsimp only)
  (repeat' (first | split | with_reducible refine calm_foldl ?_ (fun _ _ _ => ?_))) <;> simp +contextual (maxDischargeDepth := 40) [*]

@[simp] theorem State.queueRecs_calm (b : State) (s : State) (r : Route) (recs : List (List Byte)) (h : Calm b s)  :
    Calm b (State.queueRecs s r recs) := by
  unfold State.queueRecs
  (try dsimp only)
  (repeat' (first | split | with_reducible refine calm_foldl ?_ (fun _ _ _ => ?_))) <;> simp +contextual (maxDischargeDepth := 40) [*]

@[simp] theorem State.emit_calm (b : State) (s : State) (r : Route) (recs : List OutRec) (h : Calm b s)  :
    Calm b (State.emit s r recs) := by
  unfold State.emit
  (try dsimp only)
  (repeat' (first | split | with_reducible refine calm_foldl ?_ (fun _ _ _ => ?_))) <;> simp +contextual (maxDischargeDepth := 40) [*]

@[simp] theorem State.streamFlow_calm (b : State) (s : State) (h0 : Half) (h : Calm b s)  :
    Calm b (State.streamFlow s h0) := by
  unfold State.streamFlow
  (try dsimp only)
  (repeat' (first | split | with_reducible refine calm_foldl ?_ (fun _ _ _ => ?_))) <;> simp +contextual (maxDischargeDepth := 40) [*]

@[simp] theorem State.tick_calm (b : State) (s : State) (h : Calm b s)  :
    Calm b (State.tick s) := by
  unfold State.tick
  (try dsimp only)
  (repeat' (first | split | with_reducible refine calm_foldl ?_ (fun _ _ _ => ?_))) <;> simp +contextual (maxDischargeDepth := 40) [*]

end Sys2Proof.Machine
end

