-- ==== Sys2Proof/Laws/CalmMailbox.lean ====
section
/-! SUPPORT. The mailbox operations are calm. -/
namespace Sys2Proof.Machine

@[simp] theorem State.setJob_calm (b : State) (s : State) (j : Job) (h : Calm b s)  :
    Calm b (State.setJob s j) := by
  unfold State.setJob
  (try dsimp only)
  (repeat' (first | split | with_reducible refine calm_foldl ?_ (fun _ _ _ => ?_))) <;> simp +contextual (maxDischargeDepth := 40) [*]

@[simp] theorem State.answer_calm (b : State) (s : State) (slot : Nat) (status : Nat) (o : ObjState) (payload : List Byte) (last : Bool) (h : Calm b s)  :
    Calm b (State.answer s slot status o payload last) := by
  unfold State.answer
  dsimp only
  generalize hx : replyHead _ _ _ _ _ _ _ ++ payload = x
  have k : Calm b (s.journal (s.slotHalf slot) 3 slot x) := by simp [h]
  generalize s.journal (s.slotHalf slot) 3 slot x = t at k ⊢
  exact ⟨k.pending, k.fuses, k.cutKey, k.fuseJob, k.onward,
    fun z => Mem.write_wf _ _ _ (Mem.writeAll_wf _ _ _ (Mem.clear_wf _ _ _ (h.mem z))), k.logs⟩

@[simp] theorem State.reply_calm (b : State) (s : State) (slot : Nat) (status : Nat) (o : ObjState) (payload : List Byte) (h : Calm b s)  :
    Calm b (State.reply s slot status o payload) := by
  unfold State.reply
  (try dsimp only)
  (repeat' (first | split | with_reducible refine calm_foldl ?_ (fun _ _ _ => ?_))) <;> simp +contextual (maxDischargeDepth := 40) [*]

@[simp] theorem State.refuse_calm (b : State) (s : State) (slot : Nat) (status : Nat) (o : ObjState) (h : Calm b s)  :
    Calm b (State.refuse s slot status o) := by
  unfold State.refuse
  (try dsimp only)
  (repeat' (first | split | with_reducible refine calm_foldl ?_ (fun _ _ _ => ?_))) <;> simp +contextual (maxDischargeDepth := 40) [*]

@[simp] theorem State.commit_calm (b : State) (s : State) (slot : Nat) (h : Calm b s)  :
    Calm b (State.commit s slot) := by
  unfold State.commit
  (try dsimp only)
  (repeat' (first | split | with_reducible refine calm_foldl ?_ (fun _ _ _ => ?_))) <;> simp +contextual (maxDischargeDepth := 40) [*]

@[simp] theorem State.commitOnce_calm (b : State) (s : State) (slot : Nat) (h : Calm b s)  :
    Calm b (State.commitOnce s slot) := by
  unfold State.commitOnce
  (try dsimp only)
  (repeat' (first | split | with_reducible refine calm_foldl ?_ (fun _ _ _ => ?_))) <;> simp +contextual (maxDischargeDepth := 40) [*]

@[simp] theorem State.commitOk_calm (b : State) (s : State) (slot : Nat) (o : ObjState) (payload : List Byte) (h : Calm b s)  :
    Calm b (State.commitOk s slot o payload) := by
  unfold State.commitOk
  (try dsimp only)
  (repeat' (first | split | with_reducible refine calm_foldl ?_ (fun _ _ _ => ?_))) <;> simp +contextual (maxDischargeDepth := 40) [*]

@[simp] theorem State.notice_calm (b : State) (s : State) (slot : Nat) (h : Calm b s)  :
    Calm b (State.notice s slot) := by
  unfold State.notice
  (try dsimp only)
  (repeat' (first | split | with_reducible refine calm_foldl ?_ (fun _ _ _ => ?_))) <;> simp +contextual (maxDischargeDepth := 40) [*]

@[simp] theorem State.start_calm (b : State) (s : State) (slot : Nat) (body : Nat → List Byte → State → State) (h : Calm b s) (hbody : ∀ y0 y1 y2, Calm b y2 → Calm b (body y0 y1 y2)) :
    Calm b (State.start s slot body) := by
  unfold State.start
  split
  · exact hbody _ _ _ h
  · simp [h]

@[simp] theorem State.consider_calm (b : State) (s : State) (slot : Nat) (body : Nat → List Byte → State → State) (h : Calm b s) (hbody : ∀ y0 y1 y2, Calm b y2 → Calm b (body y0 y1 y2)) :
    Calm b (State.consider s slot body) := by
  unfold State.consider
  dsimp only
  repeat' split
  all_goals first
    | exact State.start_calm b _ slot body (by simp [h]) hbody
    | simp [h]

@[simp] theorem runMailbox_calm (b : State) (code : Nat) (sel : List Byte → Bool) (body : Nat → List Byte → State → State) (slot : Byte) (s : State) (h : Calm b s) (hbody : ∀ y0 y1 y2, Calm b y2 → Calm b (body y0 y1 y2)) :
    Calm b (runMailbox code sel body slot s) := by
  unfold runMailbox
  split
  · exact State.consider_calm b _ _ body h hbody
  · exact h

@[simp] theorem State.begin_calm (b : State) (s : State) (slot : Nat) (body : List Byte) (stage : Nat) (h : Calm b s)  :
    Calm b (State.begin s slot body stage) := by
  unfold State.begin
  (try dsimp only)
  (repeat' (first | split | with_reducible refine calm_foldl ?_ (fun _ _ _ => ?_))) <;> simp +contextual (maxDischargeDepth := 40) [*]

/-- A command whose reply waits for firmware changes its job only. -/
theorem State.awaitServer_calm {b s t : State} {slot status : Nat} {o : ObjRef} {reply : List Byte} (h : Calm b s)
    (e : s.awaitServer slot status o reply = some t) : Calm b t := by
  unfold State.awaitServer at e
  (repeat' split at e) <;> simp_all
  subst e
  simp [h]

@[simp] theorem State.complete_calm (b : State) (s : State) (slot : Nat) (o : ObjRef) (reply : List Byte) (h : Calm b s)  :
    Calm b (State.complete s slot o reply) := by
  unfold State.complete
  split
  · exact State.awaitServer_calm h ‹_›
  · dsimp only
    split <;> simp [h]

@[simp] theorem State.fail_calm (b : State) (s : State) (slot : Nat) (status : Nat) (o : ObjRef) (h : Calm b s)  :
    Calm b (State.fail s slot status o) := by
  unfold State.fail
  split
  · exact State.awaitServer_calm h ‹_›
  · simp [h]

@[simp] theorem State.writeThen_calm (b : State) (s : State) (slot : Nat) (body : List Byte) (region : Region) (data : List Byte) (o : ObjRef) (reply : List Byte) (h : Calm b s)  :
    Calm b (State.writeThen s slot body region data o reply) := by
  unfold State.writeThen
  (try dsimp only)
  (repeat' (first | split | with_reducible refine calm_foldl ?_ (fun _ _ _ => ?_))) <;> simp +contextual (maxDischargeDepth := 40) [*]

@[simp] theorem State.jobFault_calm (b : State) (s : State) (slot : Nat) (addr : Nat) (h : Calm b s)  :
    Calm b (State.jobFault s slot addr) := by
  unfold State.jobFault
  (try dsimp only)
  (repeat' (first | split | with_reducible refine calm_foldl ?_ (fun _ _ _ => ?_))) <;> simp +contextual (maxDischargeDepth := 40) [*]

@[simp] theorem State.clearMailbox_calm (b : State) (s : State) (h : Calm b s)  :
    Calm b (State.clearMailbox s) := by
  unfold State.clearMailbox
  exact ⟨h.pending, h.fuses, h.cutKey, h.fuseJob, h.onward, fun x => Mem.clear_wf _ _ _ (h.mem x), h.logs⟩

@[simp] theorem State.haltPending_calm (b : State) (s : State) (h : Calm b s)  :
    Calm b (State.haltPending s) := by
  unfold State.haltPending
  (try dsimp only)
  (repeat' (first | split | with_reducible refine calm_foldl ?_ (fun _ _ _ => ?_))) <;> simp +contextual (maxDischargeDepth := 40) [*]

end Sys2Proof.Machine
end

