-- ==== Sys2Proof/Laws/CalmRestart.lean ====
section
/-! SUPPORT. Resets and restarts: what is calm, mild, or keeps. -/
namespace Sys2Proof.Machine

theorem State.fuseRuns_burn {b s : State} (slot : Nat) (g : Half) (n : Nat) (h : Mild b s) :
    Mild b (s.fuseRuns (.burn slot g n)) := mild_fuse h _ rfl rfl rfl (.inr ⟨_, _, _, rfl⟩)

/-- Programming begins on an empty keyslot (12 R288). -/
theorem State.fuseRuns_program {b s : State} (slot n : Nat) (h : Mild b s) (he : (s.safe.slot n).state = .empty) :
    Mild b ((s.forgetCut n).fuseRuns (.program slot n)) := by
  refine h.trans ⟨⟨rfl, id, id, fun i => ⟨⟨fun k m e => ?_, fun k m e => ?_, fun c e => ?_⟩, KeysForward.of_fuses rfl⟩⟩, Nat.le_refl _⟩
  · simp only [State.fuseRuns, Option.some.injEq, FuseJob.program.injEq] at e
    obtain ⟨_, rfl⟩ := e
    refine ⟨he, fun c hc => ?_⟩
    have h2 := Option.mem_filter_iff.1 (show c ∈ s.safe.cutKey.filter _ from hc)
    simpa using h2.2
  · simp [State.fuseRuns] at e
  · have h2 := Option.mem_filter_iff.1 (show c ∈ s.safe.cutKey.filter _ from e)
    exact i.cut c h2.1

/-- Revocation begins on an active keyslot (12 R288). -/
theorem State.fuseRuns_revoke {b s : State} (slot n : Nat) (h : Mild b s) (he : (s.safe.slot n).state = .active) :
    Mild b (s.fuseRuns (.revoke slot n)) := by
  refine h.trans ⟨⟨rfl, id, id, fun i => ⟨⟨fun k m e => ?_, fun k m e => ?_, fun c e => i.cut c e⟩,
    KeysForward.of_fuses rfl⟩⟩, Nat.le_refl _⟩
  · simp [State.fuseRuns] at e
  · simp only [State.fuseRuns, Option.some.injEq, FuseJob.revoke.injEq] at e
    obtain ⟨_, rfl⟩ := e
    exact he

/-- A keyslot is programmed (10 R217). -/
theorem State.setKeyslot_program {b s : State} (slot n : Nat) (k : Keyslot) (h : Mild b s)
    (hj : s.safe.fuseJob = some (.program slot n)) : Mild b (s.fuseEnds.setKeyslot n k) := by
  refine h.trans ⟨⟨rfl, id, id, fun i => ?_⟩, Nat.le_refl _⟩
  have hp := i.programming slot n hj
  refine ⟨⟨fun k m e => (by simp [State.setKeyslot, State.fuseEnds] at e), fun k m e => (by simp [State.setKeyslot, State.fuseEnds] at e),
    fun c e => ?_⟩, keysForward_set _ _ n k rfl (by rw [hp.1]; exact Nat.zero_le _) (fun e => absurd hp.1 e)⟩
  have hne := hp.2 c e
  simp only [SafeSt.slot, State.setKeyslot, State.fuseEnds, slot_set]
  rw [if_neg (fun e => hne e.1.symm)]
  exact i.cut c e

/-- A keyslot is revoked (10 R223). -/
theorem State.setKeyslot_revoke {b s : State} (slot n : Nat) (h : Mild b s) (hj : s.safe.fuseJob = some (.revoke slot n)) :
    Mild b (s.fuseEnds.setKeyslot n { s.safe.slot n with state := .revoked }) := by
  refine h.trans ⟨⟨rfl, id, id, fun i => ?_⟩, Nat.le_refl _⟩
  have hp := i.revoking slot n hj
  refine ⟨⟨fun k m e => (by simp [State.setKeyslot, State.fuseEnds] at e), fun k m e => (by simp [State.setKeyslot, State.fuseEnds] at e),
    fun c e => ?_⟩, keysForward_set _ _ n _ rfl (by rw [hp]; exact Nat.le_succ 1) (fun _ => ⟨rfl, rfl⟩)⟩
  have hc := i.cut c e
  have hne : n ≠ c.1 := fun e => by rw [← e, hp] at hc; exact KState.noConfusion hc
  simp only [SafeSt.slot, State.setKeyslot, State.fuseEnds, slot_set]
  rw [if_neg (fun e => hne e.1)]
  exact hc

@[simp] theorem State.idleLanes_calm (b : State) (s : State) (h0 : Half) (h : Calm b s)  :
    Calm b (State.idleLanes s h0) := by
  unfold State.idleLanes
  (try dsimp only)
  (repeat' (first | split | with_reducible refine calm_foldl ?_ (fun _ _ _ => ?_))) <;> simp +contextual (maxDischargeDepth := 40) [*]

@[simp] theorem State.clearChainCounts_calm (b : State) (s : State) (h0 : Half) (h : Calm b s)  :
    Calm b (State.clearChainCounts s h0) := by
  unfold State.clearChainCounts
  (try dsimp only)
  (repeat' (first | split | with_reducible refine calm_foldl ?_ (fun _ _ _ => ?_))) <;> simp +contextual (maxDischargeDepth := 40) [*]

@[simp] theorem State.halfReset_calm (b : State) (s : State) (h0 : Half) (h : Calm b s)  :
    Calm b (State.halfReset s h0) := by
  unfold State.halfReset
  (try dsimp only)
  (repeat' (first | split | with_reducible refine calm_foldl ?_ (fun _ _ _ => ?_))) <;> simp +contextual (maxDischargeDepth := 40) [*]

theorem State.fuseEnds_mild {b s : State} (h : Mild b s) : Mild b s.fuseEnds := mild_endFuse h

/-- A keyslot is set after a calm change as before it. -/
theorem State.setKeyslot_after {s t : State} (k : Calm s t) (n : Nat) (key : Keyslot) :
    Calm (s.setKeyslot n key) (t.setKeyslot n key) :=
  ⟨k.pending, congrArg (fun l => l.set n key) k.fuses, k.cutKey, k.fuseJob, k.onward, k.mem, k.logs⟩

/-- A fuse command that is cut short leaves the keyslots as they were (17 R430). -/
theorem State.cutFuse_mild {b s : State} (h : Mild b s) : Mild b s.cutFuse := by
  unfold State.cutFuse
  split
  · exact h
  · split
    · exact State.fuseEnds_mild h
    · exact State.fuseEnds_mild (h.calm (by simp))
  · rename_i slot key hj
    exact mild_cut h hj _
  · exact State.fuseEnds_mild h

@[simp] theorem State.cutReply_calm (b : State) (s : State) (x1 : FuseJob) (h : Calm b s)  :
    Calm b (State.cutReply s x1) := by
  unfold State.cutReply
  (try dsimp only)
  (repeat' (first | split | with_reducible refine calm_foldl ?_ (fun _ _ _ => ?_))) <;> simp +contextual (maxDischargeDepth := 40) [*]

theorem State.cutBurn_mild {b s : State} (h : Mild b s) : Mild b s.cutBurn := by
  unfold State.cutBurn
  split
  · exact h
  · exact mild_of (State.cutFuse_mild h) (fun _ k => State.cutReply_calm _ _ _ k)

@[simp] theorem State.readBootList_calm (b : State) (s : State) (h : Calm b s)  :
    Calm b (State.readBootList s) := by
  unfold State.readBootList
  (try dsimp only)
  (repeat' (first | split | with_reducible refine calm_foldl ?_ (fun _ _ _ => ?_))) <;> simp +contextual (maxDischargeDepth := 40) [*]

@[simp] theorem State.dropUncommitted_calm (b : State) (s : State) (h : Calm b s)  :
    Calm b (State.dropUncommitted s) := by
  unfold State.dropUncommitted
  (try dsimp only)
  (repeat' (first | split | with_reducible refine calm_foldl ?_ (fun _ _ _ => ?_))) <;> simp +contextual (maxDischargeDepth := 40) [*]

/-- A cold start keeps the keyslots and the log. -/
theorem State.coldStart_keeps {b s : State} (h : Keeps b s) : Keeps b s.coldStart := by
  unfold State.coldStart
  dsimp only
  refine keeps_of ?_ (fun _ k => State.readBootList_calm _ _ k)
  refine keeps_of ?_ (fun _ k => State.onHalf_calm _ _ _ _ k)
  refine keeps_of ?_ (fun _ k => State.onHalf_calm _ _ _ _ k)
  refine keeps_mk (s := ((s.halfReset .west).halfReset .east).clearMailbox) ?_ rfl rfl rfl rfl rfl
  exact h.trans (Calm.keeps (by simp (maxDischargeDepth := 40)))

@[simp] theorem State.keepOut_calm (b : State) (s : State) (h0 : Half) (h : Calm b s)  :
    Calm b (State.keepOut s h0) := by
  unfold State.keepOut
  (try dsimp only)
  (repeat' (first | split | with_reducible refine calm_foldl ?_ (fun _ _ _ => ?_))) <;> simp +contextual (maxDischargeDepth := 40) [*]

/-- A warm restart keeps the keyslots and the log. -/
theorem State.warmStart_keeps {b s : State} (h : Keeps b s) : Keeps b s.warmStart := by
  unfold State.warmStart
  dsimp only
  refine keeps_of ?_ (fun _ k => State.readBootList_calm _ _ k)
  have m : Keeps b s.cutFuse.clearMailbox.dropUncommitted :=
    (h.trans (State.cutFuse_mild (Mild.refl s)).keeps).trans (Calm.keeps (by simp (maxDischargeDepth := 40)))
  generalize s.cutFuse.clearMailbox.dropUncommitted = a at m ⊢
  (repeat' split) <;> refine keeps_mk (m.trans (Calm.keeps ?_)) rfl rfl rfl rfl rfl <;> simp (maxDischargeDepth := 40)

@[simp] theorem State.lmSend_calm (b : State) (s : State) (p : Pair) (code : Nat) (position : Nat) (iflevel : Nat) (alevel : Nat) (serial : U64) (arg : Nat) (h : Calm b s)  :
    Calm b (State.lmSend s p code position iflevel alevel serial arg) := by
  unfold State.lmSend
  (try dsimp only)
  (repeat' (first | split | with_reducible refine calm_foldl ?_ (fun _ _ _ => ?_))) <;> simp +contextual (maxDischargeDepth := 40) [*]

@[simp] theorem State.withdraw_calm (b : State) (s : State) (h : Calm b s)  :
    Calm b (State.withdraw s) := by
  unfold State.withdraw
  (try dsimp only)
  (repeat' (first | split | with_reducible refine calm_foldl ?_ (fun _ _ _ => ?_))) <;> simp +contextual (maxDischargeDepth := 40) [*]

@[simp] theorem State.enterHalt_calm (b : State) (s : State) (h : Calm b s)  :
    Calm b (State.enterHalt s) := by
  unfold State.enterHalt
  (try dsimp only)
  (repeat' (first | split | with_reducible refine calm_foldl ?_ (fun _ _ _ => ?_))) <;> simp +contextual (maxDischargeDepth := 40) [*]

end Sys2Proof.Machine
end

