-- ==== Sys2Proof/Laws/CalmResidency.lean ====
section
/-! SUPPORT. Residency is calm. -/
namespace Sys2Proof.Machine

@[simp] theorem State.fillHead_calm (b : State) (s : State) (h0 : Half) (d : Digest) (share : HeadShare) (bytes : Nat) (h : Calm b s)  :
    Calm b (State.fillHead s h0 d share bytes) := by
  unfold State.fillHead
  (try dsimp only)
  (repeat' (first | split | with_reducible refine calm_foldl ?_ (fun _ _ _ => ?_))) <;> simp +contextual (maxDischargeDepth := 40) [*]

@[simp] theorem State.fillFor_calm (b : State) (s : State) (b0 : Binding) (h : Calm b s)  :
    Calm b (State.fillFor s b0) := by
  unfold State.fillFor
  (try dsimp only)
  (repeat' (first | split | with_reducible refine calm_foldl ?_ (fun _ _ _ => ?_))) <;> simp +contextual (maxDischargeDepth := 40) [*]

@[simp] theorem State.refitHeads_calm (b : State) (s : State) (h0 : Half) (h : Calm b s)  :
    Calm b (State.refitHeads s h0) := by
  unfold State.refitHeads
  (try dsimp only)
  (repeat' (first | split | with_reducible refine calm_foldl ?_ (fun _ _ _ => ?_))) <;> simp +contextual (maxDischargeDepth := 40) [*]

@[simp] theorem State.dropUnnamed_calm (b : State) (s : State) (d : Digest) (h : Calm b s)  :
    Calm b (State.dropUnnamed s d) := by
  unfold State.dropUnnamed
  (try dsimp only)
  (repeat' (first | split | with_reducible refine calm_foldl ?_ (fun _ _ _ => ?_))) <;> simp +contextual (maxDischargeDepth := 40) [*]

@[simp] theorem State.dropIfFree_calm (b : State) (s0 : State) (d : Digest) (h : Calm b s0)  :
    Calm b (State.dropIfFree s0 d) := by
  unfold State.dropIfFree
  (try dsimp only)
  (repeat' (first | split | with_reducible refine calm_foldl ?_ (fun _ _ _ => ?_))) <;> simp +contextual (maxDischargeDepth := 40) [*]

@[simp] theorem State.dropFree_calm (b : State) (s : State) (ds : List Digest) (h : Calm b s)  :
    Calm b (State.dropFree s ds) := by
  unfold State.dropFree
  (try dsimp only)
  (repeat' (first | split | with_reducible refine calm_foldl ?_ (fun _ _ _ => ?_))) <;> simp +contextual (maxDischargeDepth := 40) [*]

@[simp] theorem State.wantVerified_calm (b : State) (s : State) (d : Digest) (h : Calm b s)  :
    Calm b (State.wantVerified s d) := by
  unfold State.wantVerified
  (try dsimp only)
  (repeat' (first | split | with_reducible refine calm_foldl ?_ (fun _ _ _ => ?_))) <;> simp +contextual (maxDischargeDepth := 40) [*]

@[simp] theorem State.loadFinder_calm (b : State) (s : State) (h0 : Half) (b0 : Binding) (x : ImgSet) (h : Calm b s)  :
    Calm b (State.loadFinder s h0 b0 x) := by
  unfold State.loadFinder
  (try dsimp only)
  (repeat' (first | split | with_reducible refine calm_foldl ?_ (fun _ _ _ => ?_))) <;> simp +contextual (maxDischargeDepth := 40) [*]

@[simp] theorem State.loadFinders_calm (b : State) (s : State) (b0 : Binding) (x : ImgSet) (h : Calm b s)  :
    Calm b (State.loadFinders s b0 x) := by
  unfold State.loadFinders
  (try dsimp only)
  (repeat' (first | split | with_reducible refine calm_foldl ?_ (fun _ _ _ => ?_))) <;> simp +contextual (maxDischargeDepth := 40) [*]

@[simp] theorem State.reloadFinder_calm (b : State) (s : State) (h0 : Half) (h : Calm b s)  :
    Calm b (State.reloadFinder s h0) := by
  unfold State.reloadFinder
  (try dsimp only)
  (repeat' (first | split | with_reducible refine calm_foldl ?_ (fun _ _ _ => ?_))) <;> simp +contextual (maxDischargeDepth := 40) [*]

@[simp] theorem State.placeAgain_calm (b : State) (s : State) (h0 : Half) (h : Calm b s)  :
    Calm b (State.placeAgain s h0) := by
  unfold State.placeAgain
  (try dsimp only)
  (repeat' (first | split | with_reducible refine calm_foldl ?_ (fun _ _ _ => ?_))) <;> simp +contextual (maxDischargeDepth := 40) [*]

@[simp] theorem State.reloadRegion_calm (b : State) (s : State) (h0 : Half) (o : FOwner) (second : Bool) (h : Calm b s)  :
    Calm b (State.reloadRegion s h0 o second) := by
  unfold State.reloadRegion
  (try dsimp only)
  (repeat' (first | split | with_reducible refine calm_foldl ?_ (fun _ _ _ => ?_))) <;> simp +contextual (maxDischargeDepth := 40) [*]

@[simp] theorem State.retirePlate_calm (b : State) (s : State) (h0 : Half) (pos : Nat) (h : Calm b s)  :
    Calm b (State.retirePlate s h0 pos) := by
  unfold State.retirePlate
  (try dsimp only)
  (repeat' (first | split | with_reducible refine calm_foldl ?_ (fun _ _ _ => ?_))) <;> simp +contextual (maxDischargeDepth := 40) [*]

@[simp] theorem State.softRepair_calm (b : State) (s : State) (h0 : Half) (e : ColErr) (h : Calm b s)  :
    Calm b (State.softRepair s h0 e) := by
  unfold State.softRepair
  (try dsimp only)
  (repeat' (first | split | with_reducible refine calm_foldl ?_ (fun _ _ _ => ?_))) <;> simp +contextual (maxDischargeDepth := 40) [*]

@[simp] theorem State.countRetired_calm (b : State) (s : State) (h0 : Half) (h : Calm b s)  :
    Calm b (State.countRetired s h0) := by
  unfold State.countRetired
  (try dsimp only)
  (repeat' (first | split | with_reducible refine calm_foldl ?_ (fun _ _ _ => ?_))) <;> simp +contextual (maxDischargeDepth := 40) [*]

@[simp] theorem State.charge_calm (b : State) (s : State) (h0 : Half) (pos : Nat) (h : Calm b s)  :
    Calm b (State.charge s h0 pos) := by
  unfold State.charge
  (try dsimp only)
  (repeat' (first | split | with_reducible refine calm_foldl ?_ (fun _ _ _ => ?_))) <;> simp +contextual (maxDischargeDepth := 40) [*]

@[simp] theorem State.clearedFor_calm (b : State) (s : State) (h0 : Half) (x1 : ClearFor) (h : Calm b s)  :
    Calm b (State.clearedFor s h0 x1) := by
  unfold State.clearedFor
  (try dsimp only)
  (repeat' (first | split | with_reducible refine calm_foldl ?_ (fun _ _ _ => ?_))) <;> simp +contextual (maxDischargeDepth := 40) [*]

@[simp] theorem State.clearDone_calm (b : State) (s : State) (h0 : Half) (h : Calm b s)  :
    Calm b (State.clearDone s h0) := by
  unfold State.clearDone
  (try dsimp only)
  (repeat' (first | split | with_reducible refine calm_foldl ?_ (fun _ _ _ => ?_))) <;> simp +contextual (maxDischargeDepth := 40) [*]

end Sys2Proof.Machine
end

