-- ==== Sys2Proof/Laws/CalmRouteOps.lean ====
section
/-! SUPPORT. Operations of routes are calm. -/
namespace Sys2Proof.Machine

@[simp] theorem State.toMember_calm (b : State) (s : State) (b0 : Binding) (r : Route) (member : Nat) (kind : Nat) (flags : Nat) (step : Nat) (pos : Nat) (body : List Byte) (h : Calm b s)  :
    Calm b (State.toMember s b0 r member kind flags step pos body) := by
  unfold State.toMember
  (try dsimp only)
  (repeat' (first | split | with_reducible refine calm_foldl ?_ (fun _ _ _ => ?_))) <;> simp +contextual (maxDischargeDepth := 40) [*]

@[simp] theorem State.toMembers_calm (b : State) (s : State) (b0 : Binding) (r : Route) (kind : Nat) (flags : Nat) (step : Nat) (pos : Nat) (body : List Byte) (h : Calm b s)  :
    Calm b (State.toMembers s b0 r kind flags step pos body) := by
  unfold State.toMembers
  (try dsimp only)
  (repeat' (first | split | with_reducible refine calm_foldl ?_ (fun _ _ _ => ?_))) <;> simp +contextual (maxDischargeDepth := 40) [*]

@[simp] theorem State.toOwner_calm (b : State) (s : State) (b0 : Binding) (r : Route) (kind : Nat) (flags : Nat) (step : Nat) (pos : Nat) (body : List Byte) (h : Calm b s)  :
    Calm b (State.toOwner s b0 r kind flags step pos body) := by
  unfold State.toOwner
  (try dsimp only)
  (repeat' (first | split | with_reducible refine calm_foldl ?_ (fun _ _ _ => ?_))) <;> simp +contextual (maxDischargeDepth := 40) [*]

@[simp] theorem State.eachHalf_calm (b : State) (s : State) (hs : List Half) (f : HalfSt → HalfSt) (h : Calm b s)  :
    Calm b (State.eachHalf s hs f) := by
  unfold State.eachHalf
  (try dsimp only)
  (repeat' (first | split | with_reducible refine calm_foldl ?_ (fun _ _ _ => ?_))) <;> simp +contextual (maxDischargeDepth := 40) [*]

@[simp] theorem State.freeDrafts_calm (b : State) (s : State) (r : Route) (h : Calm b s)  :
    Calm b (State.freeDrafts s r) := by
  unfold State.freeDrafts
  (try dsimp only)
  (repeat' (first | split | with_reducible refine calm_foldl ?_ (fun _ _ _ => ?_))) <;> simp +contextual (maxDischargeDepth := 40) [*]

@[simp] theorem State.freeStep_calm (b : State) (s : State) (r : Route) (h : Calm b s)  :
    Calm b (State.freeStep s r) := by
  unfold State.freeStep
  (try dsimp only)
  (repeat' (first | split | with_reducible refine calm_foldl ?_ (fun _ _ _ => ?_))) <;> simp +contextual (maxDischargeDepth := 40) [*]

@[simp] theorem State.freeSpent_calm (b : State) (s : State) (r : Route) (h : Calm b s)  :
    Calm b (State.freeSpent s r) := by
  unfold State.freeSpent
  (try dsimp only)
  (repeat' (first | split | with_reducible refine calm_foldl ?_ (fun _ _ _ => ?_))) <;> simp +contextual (maxDischargeDepth := 40) [*]

@[simp] theorem State.checkpoint_calm (b : State) (s : State) (b0 : Binding) (r : Route) (h : Calm b s)  :
    Calm b (State.checkpoint s b0 r) := by
  unfold State.checkpoint
  (try dsimp only)
  (repeat' (first | split | with_reducible refine calm_foldl ?_ (fun _ _ _ => ?_))) <;> simp +contextual (maxDischargeDepth := 40) [*]

@[simp] theorem State.checkpointOf_calm (b : State) (s : State) (r : Route) (h : Calm b s)  :
    Calm b (State.checkpointOf s r) := by
  unfold State.checkpointOf
  (try dsimp only)
  (repeat' (first | split | with_reducible refine calm_foldl ?_ (fun _ _ _ => ?_))) <;> simp +contextual (maxDischargeDepth := 40) [*]

@[simp] theorem State.checkpoints_calm (b : State) (s : State) (h : Calm b s)  :
    Calm b (State.checkpoints s) := by
  unfold State.checkpoints
  (try dsimp only)
  (repeat' (first | split | with_reducible refine calm_foldl ?_ (fun _ _ _ => ?_))) <;> simp +contextual (maxDischargeDepth := 40) [*]

@[simp] theorem State.output_calm (b : State) (s : State) (r : Route) (tok : Option TokEntry) (recs : List OutRec) (more : Bool) (h : Calm b s)  :
    Calm b (State.output s r tok recs more) := by
  unfold State.output
  (try dsimp only)
  (repeat' (first | split | with_reducible refine calm_foldl ?_ (fun _ _ _ => ?_))) <;> simp +contextual (maxDischargeDepth := 40) [*]

@[simp] theorem State.countCopies_calm (b : State) (s : State) (gone : Halves (List Copy)) (h : Calm b s)  :
    Calm b (State.countCopies s gone) := by
  unfold State.countCopies
  (try dsimp only)
  (repeat' (first | split | with_reducible refine calm_foldl ?_ (fun _ _ _ => ?_))) <;> simp +contextual (maxDischargeDepth := 40) [*]

@[simp] theorem State.endRoute_calm (b : State) (s : State) (b0 : Binding) (r : Route) (set : ImgSet) (c : EndCause) (tok : Bool) (more : Bool) (h : Calm b s)  :
    Calm b (State.endRoute s b0 r set c tok more) := by
  unfold State.endRoute
  (try dsimp only)
  (repeat' (first | split | with_reducible refine calm_foldl ?_ (fun _ _ _ => ?_))) <;> simp +contextual (maxDischargeDepth := 40) [*]

@[simp] theorem State.faultRoute_calm (b : State) (s : State) (r : Route) (h : Calm b s)  :
    Calm b (State.faultRoute s r) := by
  unfold State.faultRoute
  (try dsimp only)
  (repeat' (first | split | with_reducible refine calm_foldl ?_ (fun _ _ _ => ?_))) <;> simp +contextual (maxDischargeDepth := 40) [*]

@[simp] theorem State.endBench_calm (b : State) (s : State) (r : Route) (c : EndCause) (h : Calm b s)  :
    Calm b (State.endBench s r c) := by
  unfold State.endBench
  (try dsimp only)
  (repeat' (first | split | with_reducible refine calm_foldl ?_ (fun _ _ _ => ?_))) <;> simp +contextual (maxDischargeDepth := 40) [*]

@[simp] theorem State.dropBench_calm (b : State) (s : State) (i : Nat) (h : Calm b s)  :
    Calm b (State.dropBench s i) := by
  unfold State.dropBench
  (try dsimp only)
  (repeat' (first | split | with_reducible refine calm_foldl ?_ (fun _ _ _ => ?_))) <;> simp +contextual (maxDischargeDepth := 40) [*]

@[simp] theorem State.keepBench_calm (b : State) (s : State) (r : Route) (keep : Bool) (h : Calm b s)  :
    Calm b (State.keepBench s r keep) := by
  unfold State.keepBench
  (try dsimp only)
  (repeat' (first | split | with_reducible refine calm_foldl ?_ (fun _ _ _ => ?_))) <;> simp +contextual (maxDischargeDepth := 40) [*]

@[simp] theorem State.endByHost_calm (b : State) (s : State) (slot : Nat) (handle : Nat) (keep : Bool) (h : Calm b s)  :
    Calm b (State.endByHost s slot handle keep) := by
  unfold State.endByHost
  (try dsimp only)
  (repeat' (first | split | with_reducible refine calm_foldl ?_ (fun _ _ _ => ?_))) <;> simp +contextual (maxDischargeDepth := 40) [*]

@[simp] theorem State.holdPaused_calm (b : State) (s : State) (r : Route) (h : Calm b s)  :
    Calm b (State.holdPaused s r) := by
  unfold State.holdPaused
  (try dsimp only)
  (repeat' (first | split | with_reducible refine calm_foldl ?_ (fun _ _ _ => ?_))) <;> simp +contextual (maxDischargeDepth := 40) [*]

@[simp] theorem State.saveDue_calm (b : State) (s : State) (j : Job) (r : Route) (h : Calm b s)  :
    Calm b (State.saveDue s j r) := by
  unfold State.saveDue
  (try dsimp only)
  (repeat' (first | split | with_reducible refine calm_foldl ?_ (fun _ _ _ => ?_))) <;> simp +contextual (maxDischargeDepth := 40) [*]

@[simp] theorem State.recordDue_calm (b : State) (s : State) (j : Job) (r : Route) (h : Calm b s)  :
    Calm b (State.recordDue s j r) := by
  unfold State.recordDue
  (try dsimp only)
  (repeat' (first | split | with_reducible refine calm_foldl ?_ (fun _ _ _ => ?_))) <;> simp +contextual (maxDischargeDepth := 40) [*]

@[simp] theorem State.markDue_calm (b : State) (s : State) (r : Route) (h : Calm b s)  :
    Calm b (State.markDue s r) := by
  unfold State.markDue
  (try dsimp only)
  (repeat' (first | split | with_reducible refine calm_foldl ?_ (fun _ _ _ => ?_))) <;> simp +contextual (maxDischargeDepth := 40) [*]

@[simp] theorem State.routeJobDue_calm (b : State) (s : State) (j : Job) (h : Calm b s)  :
    Calm b (State.routeJobDue s j) := by
  unfold State.routeJobDue
  (try dsimp only)
  (repeat' (first | split | with_reducible refine calm_foldl ?_ (fun _ _ _ => ?_))) <;> simp +contextual (maxDischargeDepth := 40) [*]

@[simp] theorem State.stopReply_calm (b : State) (s : State) (j : Job) (b0 : Binding) (h : Calm b s)  :
    Calm b (State.stopReply s j b0) := by
  unfold State.stopReply
  (try dsimp only)
  (repeat' (first | split | with_reducible refine calm_foldl ?_ (fun _ _ _ => ?_))) <;> simp +contextual (maxDischargeDepth := 40) [*]

@[simp] theorem State.finishStop_calm (b : State) (s : State) (binding : Nat) (h : Calm b s)  :
    Calm b (State.finishStop s binding) := by
  unfold State.finishStop
  (try dsimp only)
  (repeat' (first | split | with_reducible refine calm_foldl ?_ (fun _ _ _ => ?_))) <;> simp +contextual (maxDischargeDepth := 40) [*]

@[simp] theorem State.finishHalt_calm (b : State) (s : State) (h : Calm b s)  :
    Calm b (State.finishHalt s) := by
  unfold State.finishHalt
  (try dsimp only)
  (repeat' (first | split | with_reducible refine calm_foldl ?_ (fun _ _ _ => ?_))) <;> simp +contextual (maxDischargeDepth := 40) [*]

@[simp] theorem State.settle_calm (b : State) (s : State) (handle : Nat) (h : Calm b s)  :
    Calm b (State.settle s handle) := by
  unfold State.settle
  split
  · exact h
  · rename_i r hr
    dsimp only
    split
    · exact h
    · have k : Calm b (List.foldl (fun t j => t.routeJobDue j) (s.markDue r) (s.mbx.jobs.filter (routeJob handle)).reverse) :=
        calm_foldl (by simp [h]) fun t j ht => by simp [ht]
      generalize List.foldl (fun t j => t.routeJobDue j) (s.markDue r) (s.mbx.jobs.filter (routeJob handle)).reverse = t at k ⊢
      (repeat' split) <;> simp (maxDischargeDepth := 40) [k]

@[simp] theorem State.journalRelease_calm (b : State) (s : State) (b0 : Binding) (r : Route) (x : Release) (cs : List Contact) (h : Calm b s)  :
    Calm b (State.journalRelease s b0 r x cs) := by
  unfold State.journalRelease
  refine calm_foldl_fst ?_ fun p x hp => ?_
  · simp [h]
  · simp [hp]

@[simp] theorem State.freePassed_calm (b : State) (s : State) (r : Route) (next : Nat) (h : Calm b s)  :
    Calm b (State.freePassed s r next) := by
  unfold State.freePassed
  (try dsimp only)
  (repeat' (first | split | with_reducible refine calm_foldl ?_ (fun _ _ _ => ?_))) <;> simp +contextual (maxDischargeDepth := 40) [*]

@[simp] theorem State.afterCommit_calm (b : State) (s : State) (b0 : Binding) (r : Route) (x : Release) (now : Nat) (h : Calm b s)  :
    Calm b (State.afterCommit s b0 r x now) := by
  unfold State.afterCommit
  (try dsimp only)
  (repeat' (first | split | with_reducible refine calm_foldl ?_ (fun _ _ _ => ?_))) <;> simp +contextual (maxDischargeDepth := 40) [*]

@[simp] theorem State.commitRelease_calm (b : State) (s : State) (b0 : Binding) (r : Route) (x : Release) (cs : List Contact) (h : Calm b s)  :
    Calm b (State.commitRelease s b0 r x cs) := by
  unfold State.commitRelease
  (try dsimp only)
  (repeat' (first | split | with_reducible refine calm_foldl ?_ (fun _ _ _ => ?_))) <;> simp +contextual (maxDischargeDepth := 40) [*]

@[simp] theorem State.forcedOnly_calm (b : State) (s : State) (b0 : Binding) (r : Route) (h : Calm b s)  :
    Calm b (State.forcedOnly s b0 r) := by
  unfold State.forcedOnly
  (try dsimp only)
  (repeat' (first | split | with_reducible refine calm_foldl ?_ (fun _ _ _ => ?_))) <;> simp +contextual (maxDischargeDepth := 40) [*]

@[simp] theorem State.opening_calm (b : State) (s : State) (handle : Nat) (h : Calm b s)  :
    Calm b (State.opening s handle) := by
  unfold State.opening
  (try dsimp only)
  (repeat' (first | split | with_reducible refine calm_foldl ?_ (fun _ _ _ => ?_))) <;> simp +contextual (maxDischargeDepth := 40) [*]

@[simp] theorem State.wantMasks_calm (b : State) (s : State) (b0 : Binding) (r : Route) (gs : List Nat) (h : Calm b s)  :
    Calm b (State.wantMasks s b0 r gs) := by
  unfold State.wantMasks
  (try dsimp only)
  (repeat' (first | split | with_reducible refine calm_foldl ?_ (fun _ _ _ => ?_))) <;> simp +contextual (maxDischargeDepth := 40) [*]

end Sys2Proof.Machine
end

