-- ==== Sys2Proof/Laws/CalmAdmission.lean ====
section
/-! SUPPORT. Admission is calm. -/
namespace Sys2Proof.Machine

@[simp] theorem State.sendRefusal_calm (b : State) (s : State) (h0 : Half) (c : Nat) (handle : Nat) (step : Nat) (status : Nat) (h : Calm b s)  :
    Calm b (State.sendRefusal s h0 c handle step status) := by
  unfold State.sendRefusal
  (try dsimp only)
  (repeat' (first | split | with_reducible refine calm_foldl ?_ (fun _ _ _ => ?_))) <;> simp +contextual (maxDischargeDepth := 40) [*]

@[simp] theorem State.refuseEntry_calm (b : State) (s : State) (h0 : Half) (c : Nat) (r : Route) (here : Bool) (bytes : List Byte) (status : Nat) (h : Calm b s)  :
    Calm b (State.refuseEntry s h0 c r here bytes status) := by
  unfold State.refuseEntry
  (try dsimp only)
  (repeat' (first | split | with_reducible refine calm_foldl ?_ (fun _ _ _ => ?_))) <;> simp +contextual (maxDischargeDepth := 40) [*]

@[simp] theorem State.waitAt_calm (b : State) (s : State) (w : WaitEntry) (h : Calm b s)  :
    Calm b (State.waitAt s w) := by
  unfold State.waitAt
  (try dsimp only)
  (repeat' (first | split | with_reducible refine calm_foldl ?_ (fun _ _ _ => ?_))) <;> simp +contextual (maxDischargeDepth := 40) [*]

@[simp] theorem State.journalEntry_calm (b : State) (s : State) (r : Route) (hid : Bool) (bytes : List Byte) (status : Nat) (capture : Bool) (h : Calm b s)  :
    Calm b (State.journalEntry s r hid bytes status capture) := by
  unfold State.journalEntry
  (try dsimp only)
  (repeat' (first | split | with_reducible refine calm_foldl ?_ (fun _ _ _ => ?_))) <;> simp +contextual (maxDischargeDepth := 40) [*]

@[simp] theorem State.endIntake_calm (b : State) (s : State) (r : Route) (h : Calm b s)  :
    Calm b (State.endIntake s r) := by
  unfold State.endIntake
  (try dsimp only)
  (repeat' (first | split | with_reducible refine calm_foldl ?_ (fun _ _ _ => ?_))) <;> simp +contextual (maxDischargeDepth := 40) [*]

@[simp] theorem State.admitNow_calm (b : State) (s : State) (b0 : Binding) (e : Env) (r : Route) (hid : Bool) (bytes : List Byte) (h : Calm b s)  :
    Calm b (State.admitNow s b0 e r hid bytes) := by
  unfold State.admitNow
  (try dsimp only)
  (repeat' (first | split | with_reducible refine calm_foldl ?_ (fun _ _ _ => ?_))) <;> simp +contextual (maxDischargeDepth := 40) [*]

@[simp] theorem State.decideEntry_calm (b : State) (s : State) (w : WaitEntry) (r : Route) (b0 : Binding) (wrong : Bool) (differ : Bool) (h : Calm b s)  :
    Calm b (State.decideEntry s w r b0 wrong differ) := by
  unfold State.decideEntry
  (try dsimp only)
  (repeat' (first | split | with_reducible refine calm_foldl ?_ (fun _ _ _ => ?_))) <;> simp +contextual (maxDischargeDepth := 40) [*]

@[simp] theorem State.admitCopy_calm (b : State) (s : State) (w : WaitEntry) (r : Route) (b0 : Binding) (h : Calm b s)  :
    Calm b (State.admitCopy s w r b0) := by
  unfold State.admitCopy
  (try dsimp only)
  (repeat' (first | split | with_reducible refine calm_foldl ?_ (fun _ _ _ => ?_))) <;> simp +contextual (maxDischargeDepth := 40) [*]

@[simp] theorem State.judge_calm (b : State) (s : State) (w : WaitEntry) (r : Route) (b0 : Binding) (h : Calm b s)  :
    Calm b (State.judge s w r b0) := by
  unfold State.judge
  (try dsimp only)
  (repeat' (first | split | with_reducible refine calm_foldl ?_ (fun _ _ _ => ?_))) <;> simp +contextual (maxDischargeDepth := 40) [*]

@[simp] theorem State.admitEntry_calm (b : State) (s : State) (w : WaitEntry) (h : Calm b s)  :
    Calm b (State.admitEntry s w) := by
  unfold State.admitEntry
  (try dsimp only)
  (repeat' (first | split | with_reducible refine calm_foldl ?_ (fun _ _ _ => ?_))) <;> simp +contextual (maxDischargeDepth := 40) [*]

@[simp] theorem State.takeEntry_calm (b : State) (s : State) (w : WaitEntry) (h : Calm b s)  :
    Calm b (State.takeEntry s w) := by
  unfold State.takeEntry
  (try dsimp only)
  (repeat' (first | split | with_reducible refine calm_foldl ?_ (fun _ _ _ => ?_))) <;> simp +contextual (maxDischargeDepth := 40) [*]

@[simp] theorem State.pairDue_calm (b : State) (s : State) (handle : Nat) (h : Calm b s)  :
    Calm b (State.pairDue s handle) := by
  unfold State.pairDue
  (try dsimp only)
  (repeat' (first | split | with_reducible refine calm_foldl ?_ (fun _ _ _ => ?_))) <;> simp +contextual (maxDischargeDepth := 40) [*]

@[simp] theorem State.readmit_calm (b : State) (s : State) (handle : Nat) (h : Calm b s)  :
    Calm b (State.readmit s handle) := by
  unfold State.readmit
  (repeat' split)
  · exact h
  · exact h
  · exact State.pairDue_calm _ _ _ h
  · exact State.settle_calm _ _ _ (State.pairDue_calm _ _ _ (calm_foldl (by simp [h]) fun t x ht => by simp [ht]))

@[simp] theorem State.readmitHalf_calm (b : State) (s : State) (h0 : Half) (h : Calm b s)  :
    Calm b (State.readmitHalf s h0) := by
  unfold State.readmitHalf
  (try dsimp only)
  (repeat' (first | split | with_reducible refine calm_foldl ?_ (fun _ _ _ => ?_))) <;> simp +contextual (maxDischargeDepth := 40) [*]

@[simp] theorem State.refill_calm (b : State) (s : State) (h : Calm b s)  :
    Calm b (State.refill s) := by
  unfold State.refill
  (try dsimp only)
  (repeat' (first | split | with_reducible refine calm_foldl ?_ (fun _ _ _ => ?_))) <;> simp +contextual (maxDischargeDepth := 40) [*]

@[simp] theorem State.afterRelease_calm (b : State) (s : State) (handle : Nat) (h : Calm b s)  :
    Calm b (State.afterRelease s handle) := by
  unfold State.afterRelease
  (try dsimp only)
  (repeat' (first | split | with_reducible refine calm_foldl ?_ (fun _ _ _ => ?_))) <;> simp +contextual (maxDischargeDepth := 40) [*]

@[simp] theorem State.prepareNow_calm (b : State) (s : State) (b0 : Binding) (r : Route) (p : Prepared) (h : Calm b s)  :
    Calm b (State.prepareNow s b0 r p) := by
  unfold State.prepareNow
  (try dsimp only)
  (repeat' (first | split | with_reducible refine calm_foldl ?_ (fun _ _ _ => ?_))) <;> simp +contextual (maxDischargeDepth := 40) [*]

@[simp] theorem State.prepare_calm (b : State) (s : State) (h0 : Half) (c : Nat) (bytes : List Byte) (h : Calm b s)  :
    Calm b (State.prepare s h0 c bytes) := by
  unfold State.prepare
  (try dsimp only)
  (repeat' (first | split | with_reducible refine calm_foldl ?_ (fun _ _ _ => ?_))) <;> simp +contextual (maxDischargeDepth := 40) [*]

@[simp] theorem State.dropDrafts_calm (b : State) (s : State) (handle : Nat) (h : Calm b s)  :
    Calm b (State.dropDrafts s handle) := by
  unfold State.dropDrafts
  (try dsimp only)
  (repeat' (first | split | with_reducible refine calm_foldl ?_ (fun _ _ _ => ?_))) <;> simp +contextual (maxDischargeDepth := 40) [*]

@[simp] theorem State.slotsGiven_calm (b : State) (s : State) (b0 : Binding) (r : Route) (a : Adm) (h : Calm b s)  :
    Calm b (State.slotsGiven s b0 r a) := by
  unfold State.slotsGiven
  (try dsimp only)
  (repeat' (first | split | with_reducible refine calm_foldl ?_ (fun _ _ _ => ?_))) <;> simp +contextual (maxDischargeDepth := 40) [*]

@[simp] theorem State.giveSlots_calm (b : State) (s : State) (h0 : Half) (h : Calm b s)  :
    Calm b (State.giveSlots s h0) := by
  unfold State.giveSlots
  (try dsimp only)
  (repeat' (first | split | with_reducible refine calm_foldl ?_ (fun _ _ _ => ?_))) <;> simp +contextual (maxDischargeDepth := 40) [*]

@[simp] theorem State.grantChain_calm (b : State) (s : State) (h0 : Half) (c : Nat) (h : Calm b s)  :
    Calm b (State.grantChain s h0 c) := by
  unfold State.grantChain
  (try dsimp only)
  (repeat' (first | split | with_reducible refine calm_foldl ?_ (fun _ _ _ => ?_))) <;> simp +contextual (maxDischargeDepth := 40) [*]

@[simp] theorem State.unblock_calm (b : State) (s : State) (h0 : Half) (h : Calm b s)  :
    Calm b (State.unblock s h0) := by
  unfold State.unblock
  (try dsimp only)
  (repeat' (first | split | with_reducible refine calm_foldl ?_ (fun _ _ _ => ?_))) <;> simp +contextual (maxDischargeDepth := 40) [*]

end Sys2Proof.Machine
end

