-- ==== Sys2Proof/Laws/CalmRecovery.lean ====
section
/-! SUPPORT. Recovery from bad data is calm. -/
namespace Sys2Proof.Machine

@[simp] theorem State.columnSeen_calm (b : State) (s : State) (h0 : Half) (e : ColErr) (h : Calm b s)  :
    Calm b (State.columnSeen s h0 e) := by
  unfold State.columnSeen
  (try dsimp only)
  (repeat' (first | split | with_reducible refine calm_foldl ?_ (fun _ _ _ => ?_))) <;> simp +contextual (maxDischargeDepth := 40) [*]

@[simp] theorem State.refetched_calm (b : State) (s : State) (h0 : Half) (h : Calm b s)  :
    Calm b (State.refetched s h0) := by
  unfold State.refetched
  (try dsimp only)
  (repeat' (first | split | with_reducible refine calm_foldl ?_ (fun _ _ _ => ?_))) <;> simp +contextual (maxDischargeDepth := 40) [*]

@[simp] theorem State.refetchHead_calm (b : State) (s : State) (h0 : Half) (d : Digest) (h : Calm b s)  :
    Calm b (State.refetchHead s h0 d) := by
  unfold State.refetchHead
  (try dsimp only)
  (repeat' (first | split | with_reducible refine calm_foldl ?_ (fun _ _ _ => ?_))) <;> simp +contextual (maxDischargeDepth := 40) [*]

@[simp] theorem State.recordBad_calm (b : State) (s : State) (h0 : Half) (handle : Nat) (h : Calm b s)  :
    Calm b (State.recordBad s h0 handle) := by
  unfold State.recordBad
  (try dsimp only)
  (repeat' (first | split | with_reducible refine calm_foldl ?_ (fun _ _ _ => ?_))) <;> simp +contextual (maxDischargeDepth := 40) [*]

@[simp] theorem State.recoverOwner_calm (b : State) (s : State) (h0 : Half) (x1 : WordOwner) (h : Calm b s)  :
    Calm b (State.recoverOwner s h0 x1) := by
  unfold State.recoverOwner
  (try dsimp only)
  (repeat' (first | split | with_reducible refine calm_foldl ?_ (fun _ _ _ => ?_))) <;> simp +contextual (maxDischargeDepth := 40) [*]

@[simp] theorem State.countCheck_calm (b : State) (s : State) (h0 : Half) (x1 : CheckKind) (h : Calm b s)  :
    Calm b (State.countCheck s h0 x1) := by
  unfold State.countCheck
  (try dsimp only)
  (repeat' (first | split | with_reducible refine calm_foldl ?_ (fun _ _ _ => ?_))) <;> simp +contextual (maxDischargeDepth := 40) [*]

@[simp] theorem State.recoverCheck_calm (b : State) (s : State) (b0 : Binding) (h0 : Half) (x1 : CheckKind) (h : Calm b s)  :
    Calm b (State.recoverCheck s b0 h0 x1) := by
  unfold State.recoverCheck
  (try dsimp only)
  (repeat' (first | split | with_reducible refine calm_foldl ?_ (fun _ _ _ => ?_))) <;> simp +contextual (maxDischargeDepth := 40) [*]

@[simp] theorem State.checkFailed_calm (b : State) (s : State) (b0 : Binding) (h0 : Half) (pos : Nat) (k : CheckKind) (h : Calm b s)  :
    Calm b (State.checkFailed s b0 h0 pos k).2 := by
  unfold State.checkFailed
  (try dsimp only)
  (repeat' (first | split | with_reducible refine calm_foldl ?_ (fun _ _ _ => ?_))) <;> simp +contextual (maxDischargeDepth := 40) [*]

@[simp] theorem State.chargeAll_calm (b : State) (s : State) (l : List (Half × Nat)) (h : Calm b s)  :
    Calm b (State.chargeAll s l) := by
  unfold State.chargeAll
  (try dsimp only)
  (repeat' (first | split | with_reducible refine calm_foldl ?_ (fun _ _ _ => ?_))) <;> simp +contextual (maxDischargeDepth := 40) [*]

@[simp] theorem State.refetchStep_calm (b : State) (s : State) (b0 : Binding) (r : Route) (a : Adm) (h : Calm b s)  :
    Calm b (State.refetchStep s b0 r a) := by
  unfold State.refetchStep
  (try dsimp only)
  (repeat' (first | split | with_reducible refine calm_foldl ?_ (fun _ _ _ => ?_))) <;> simp +contextual (maxDischargeDepth := 40) [*]

@[simp] theorem State.executeAgain_calm (b : State) (s : State) (b0 : Binding) (r : Route) (a : Adm) (charges : List (Half × Nat)) (h : Calm b s)  :
    Calm b (State.executeAgain s b0 r a charges) := by
  unfold State.executeAgain
  (try dsimp only)
  (repeat' (first | split | with_reducible refine calm_foldl ?_ (fun _ _ _ => ?_))) <;> simp +contextual (maxDischargeDepth := 40) [*]

@[simp] theorem State.formAgain_calm (b : State) (s : State) (h0 : Half) (d : Digest) (h : Calm b s)  :
    Calm b (State.formAgain s h0 d) := by
  unfold State.formAgain
  (try dsimp only)
  (repeat' (first | split | with_reducible refine calm_foldl ?_ (fun _ _ _ => ?_))) <;> simp +contextual (maxDischargeDepth := 40) [*]

@[simp] theorem State.columnError_calm (b : State) (s : State) (h0 : Half) (e : ColErr) (h : Calm b s)  :
    Calm b (State.columnError s h0 e) := by
  unfold State.columnError
  (try dsimp only)
  (repeat' (first | split | with_reducible refine calm_foldl ?_ (fun _ _ _ => ?_))) <;> simp +contextual (maxDischargeDepth := 40) [*]

@[simp] theorem State.bankTraffic_calm (b : State) (s : State) (h0 : Half) (h : Calm b s)  :
    Calm b (State.bankTraffic s h0) := by
  unfold State.bankTraffic
  (try dsimp only)
  (repeat' (first | split | with_reducible refine calm_foldl ?_ (fun _ _ _ => ?_))) <;> simp +contextual (maxDischargeDepth := 40) [*]

@[simp] theorem State.placed_calm (b : State) (s : State) (r : Route) (a : Adm) (n : Nat) (h : Calm b s)  :
    Calm b (State.placed s r a n).2 := by
  unfold State.placed
  (try dsimp only)
  (repeat' (first | split | with_reducible refine calm_foldl ?_ (fun _ _ _ => ?_))) <;> simp +contextual (maxDischargeDepth := 40) [*]

end Sys2Proof.Machine
end

