-- ==== Sys2Proof/Laws/CalmStepping.lean ====
section
/-! SUPPORT. The steps of a route are calm. -/
namespace Sys2Proof.Machine

@[simp] theorem State.form_calm (b : State) (s : State) (b0 : Binding) (e : Env) (r : Route) (a : Adm) (h : Calm b s)  :
    Calm b (State.form s b0 e r a) := by
  unfold State.form
  (try dsimp only)
  (repeat' (first | split | with_reducible refine calm_foldl ?_ (fun _ _ _ => ?_))) <;> simp +contextual (maxDischargeDepth := 40) [*]

@[simp] theorem State.ownerRefuses_calm (b : State) (s : State) (b0 : Binding) (r : Route) (a : Adm) (status : Nat) (h : Calm b s)  :
    Calm b (State.ownerRefuses s b0 r a status) := by
  unfold State.ownerRefuses
  (try dsimp only)
  (repeat' (first | split | with_reducible refine calm_foldl ?_ (fun _ _ _ => ?_))) <;> simp +contextual (maxDischargeDepth := 40) [*]

@[simp] theorem State.ownerStep_calm (b : State) (s : State) (b0 : Binding) (e : Env) (r : Route) (a : Adm) (h : Calm b s)  :
    Calm b (State.ownerStep s b0 e r a) := by
  unfold State.ownerStep
  (try dsimp only)
  (repeat' (first | split | with_reducible refine calm_foldl ?_ (fun _ _ _ => ?_))) <;> simp +contextual (maxDischargeDepth := 40) [*]

@[simp] theorem State.memberStep_calm (b : State) (s : State) (b0 : Binding) (e : Env) (r : Route) (a : Adm) (h : Calm b s)  :
    Calm b (State.memberStep s b0 e r a) := by
  unfold State.memberStep
  (try dsimp only)
  (repeat' (first | split | with_reducible refine calm_foldl ?_ (fun _ _ _ => ?_))) <;> simp +contextual (maxDischargeDepth := 40) [*]

@[simp] theorem State.join_calm (b : State) (s : State) (b0 : Binding) (e : Env) (r : Route) (a : Adm) (h : Calm b s)  :
    Calm b (State.join s b0 e r a) := by
  unfold State.join
  (try dsimp only)
  (repeat' (first | split | with_reducible refine calm_foldl ?_ (fun _ _ _ => ?_))) <;> simp +contextual (maxDischargeDepth := 40) [*]

@[simp] theorem State.touchHalf_calm (b : State) (s : State) (b0 : Binding) (e : Env) (xs : List Spot) (h0 : Half) (h : Calm b s)  :
    Calm b (State.touchHalf s b0 e xs h0) := by
  unfold State.touchHalf
  (try dsimp only)
  (repeat' (first | split | with_reducible refine calm_foldl ?_ (fun _ _ _ => ?_))) <;> simp +contextual (maxDischargeDepth := 40) [*]

@[simp] theorem State.touchStep_calm (b : State) (s : State) (b0 : Binding) (e : Env) (r : Route) (a : Adm) (h : Calm b s)  :
    Calm b (State.touchStep s b0 e r a) := by
  unfold State.touchStep
  (try dsimp only)
  (repeat' (first | split | with_reducible refine calm_foldl ?_ (fun _ _ _ => ?_))) <;> simp +contextual (maxDischargeDepth := 40) [*]

@[simp] theorem State.runStep_calm (b : State) (s : State) (b0 : Binding) (r : Route) (a : Adm) (h : Calm b s)  :
    Calm b (State.runStep s b0 r a) := by
  unfold State.runStep
  (try dsimp only)
  (repeat' (first | split | with_reducible refine calm_foldl ?_ (fun _ _ _ => ?_))) <;> simp +contextual (maxDischargeDepth := 40) [*]

@[simp] theorem State.maskReady_calm (b : State) (s : State) (handle : Nat) (h : Calm b s)  :
    Calm b (State.maskReady s handle) := by
  unfold State.maskReady
  (try dsimp only)
  (repeat' (first | split | with_reducible refine calm_foldl ?_ (fun _ _ _ => ?_))) <;> simp +contextual (maxDischargeDepth := 40) [*]

@[simp] theorem State.halfSummary_calm (b : State) (s : State) (handle : Nat) (h : Calm b s)  :
    Calm b (State.halfSummary s handle) := by
  unfold State.halfSummary
  (try dsimp only)
  (repeat' (first | split | with_reducible refine calm_foldl ?_ (fun _ _ _ => ?_))) <;> simp +contextual (maxDischargeDepth := 40) [*]

end Sys2Proof.Machine
end

