-- ==== Sys2Proof/Laws/CalmChecks.lean ====
section
/-! SUPPORT. The checks of a step are calm. -/
namespace Sys2Proof.Machine

@[simp] theorem State.sendSummaries_calm (b : State) (s : State) (b0 : Binding) (r : Route) (a : Adm) (h : Calm b s)  :
    Calm b (State.sendSummaries s b0 r a) := by
  unfold State.sendSummaries
  (try dsimp only)
  (repeat' (first | split | with_reducible refine calm_foldl ?_ (fun _ _ _ => ?_))) <;> simp +contextual (maxDischargeDepth := 40) [*]

@[simp] theorem State.commitStep_calm (b : State) (s : State) (b0 : Binding) (r : Route) (f : Formed) (h : Calm b s)  :
    Calm b (State.commitStep s b0 r f) := by
  unfold State.commitStep
  (try dsimp only)
  (repeat' (first | split | with_reducible refine calm_foldl ?_ (fun _ _ _ => ?_))) <;> simp +contextual (maxDischargeDepth := 40) [*]

@[simp] theorem State.stepFailed_calm (b : State) (s : State) (handle : Nat) (h0 : Half) (pos : Nat) (k : CheckKind) (h : Calm b s)  :
    Calm b (State.stepFailed s handle h0 pos k) := by
  unfold State.stepFailed
  (try dsimp only)
  (repeat' (first | split | with_reducible refine calm_foldl ?_ (fun _ _ _ => ?_))) <;> simp +contextual (maxDischargeDepth := 40) [*]

@[simp] theorem State.stepChecked_calm (b : State) (s : State) (handle : Nat) (res : CheckResult) (h : Calm b s)  :
    Calm b (State.stepChecked s handle res) := by
  unfold State.stepChecked
  (try dsimp only)
  (repeat' (first | split | with_reducible refine calm_foldl ?_ (fun _ _ _ => ?_))) <;> simp +contextual (maxDischargeDepth := 40) [*]

@[simp] theorem State.mirrorRecord_calm (b : State) (s : State) (handle : Nat) (h : Calm b s)  :
    Calm b (State.mirrorRecord s handle) := by
  unfold State.mirrorRecord
  (try dsimp only)
  (repeat' (first | split | with_reducible refine calm_foldl ?_ (fun _ _ _ => ?_))) <;> simp +contextual (maxDischargeDepth := 40) [*]

@[simp] theorem State.releaseCommit_calm (b : State) (s : State) (handle : Nat) (h : Calm b s)  :
    Calm b (State.releaseCommit s handle) := by
  unfold State.releaseCommit
  (try dsimp only)
  (repeat' (first | split | with_reducible refine calm_foldl ?_ (fun _ _ _ => ?_))) <;> simp +contextual (maxDischargeDepth := 40) [*]

@[simp] theorem State.formedAgain_calm (b : State) (s : State) (handle : Nat) (charges : List (Half × Nat)) (h : Calm b s)  :
    Calm b (State.formedAgain s handle charges) := by
  unfold State.formedAgain
  (try dsimp only)
  (repeat' (first | split | with_reducible refine calm_foldl ?_ (fun _ _ _ => ?_))) <;> simp +contextual (maxDischargeDepth := 40) [*]

@[simp] theorem State.tryAgain_calm (b : State) (s : State) (b0 : Binding) (handle : Nat) (h0 : Half) (pos : Nat) (k : CheckKind) (h : Calm b s)  :
    Calm b (State.tryAgain s b0 handle h0 pos k) := by
  unfold State.tryAgain
  (try dsimp only)
  (repeat' (first | split | with_reducible refine calm_foldl ?_ (fun _ _ _ => ?_))) <;> simp +contextual (maxDischargeDepth := 40) [*]

@[simp] theorem State.forcedOnlyRelease_calm (b : State) (s : State) (handle : Nat) (res : CheckResult) (h : Calm b s)  :
    Calm b (State.forcedOnlyRelease s handle res) := by
  unfold State.forcedOnlyRelease
  (try dsimp only)
  (repeat' (first | split | with_reducible refine calm_foldl ?_ (fun _ _ _ => ?_))) <;> simp +contextual (maxDischargeDepth := 40) [*]

end Sys2Proof.Machine
end

