-- ==== Sys2Proof/Laws/CalmPeers.lean ====
section
/-! SUPPORT. Peer entries are calm. -/
namespace Sys2Proof.Machine

@[simp] theorem State.takeNotice_calm (b : State) (s : State) (b0 : Binding) (r : Route) (t : TokEntry) (h : Calm b s)  :
    Calm b (State.takeNotice s b0 r t) := by
  unfold State.takeNotice
  (try dsimp only)
  (repeat' (first | split | with_reducible refine calm_foldl ?_ (fun _ _ _ => ?_))) <;> simp +contextual (maxDischargeDepth := 40) [*]

@[simp] theorem State.ownerTakes_calm (b : State) (s : State) (b0 : Binding) (r : Route) (h : Calm b s)  :
    Calm b (State.ownerTakes s b0 r) := by
  unfold State.ownerTakes
  (try dsimp only)
  (repeat' (first | split | with_reducible refine calm_foldl ?_ (fun _ _ _ => ?_))) <;> simp +contextual (maxDischargeDepth := 40) [*]

@[simp] theorem State.memberTakes_calm (b : State) (s : State) (r : Route) (h : Calm b s)  :
    Calm b (State.memberTakes s r) := by
  unfold State.memberTakes
  (try dsimp only)
  (repeat' (first | split | with_reducible refine calm_foldl ?_ (fun _ _ _ => ?_))) <;> simp +contextual (maxDischargeDepth := 40) [*]

@[simp] theorem State.badEntry_calm (b : State) (s : State) (c : Nat) (h : Calm b s)  :
    Calm b (State.badEntry s c) := by
  unfold State.badEntry
  (try dsimp only)
  (repeat' (first | split | with_reducible refine calm_foldl ?_ (fun _ _ _ => ?_))) <;> simp +contextual (maxDischargeDepth := 40) [*]

@[simp] theorem State.takePeer_calm (b : State) (s : State) (c : Nat) (bytes : List Byte) (h : Calm b s)  :
    Calm b (State.takePeer s c bytes) := by
  unfold State.takePeer
  (try dsimp only)
  (repeat' (first | split | with_reducible refine calm_foldl ?_ (fun _ _ _ => ?_))) <;> simp +contextual (maxDischargeDepth := 40) [*]

@[simp] theorem State.holdGroup_calm (b : State) (s : State) (r : Route) (h : Calm b s)  :
    Calm b (State.holdGroup s r) := by
  unfold State.holdGroup
  (try dsimp only)
  (repeat' (first | split | with_reducible refine calm_foldl ?_ (fun _ _ _ => ?_))) <;> simp +contextual (maxDischargeDepth := 40) [*]

@[simp] theorem State.holdMember_calm (b : State) (s : State) (r : Route) (h : Calm b s)  :
    Calm b (State.holdMember s r) := by
  unfold State.holdMember
  (try dsimp only)
  (repeat' (first | split | with_reducible refine calm_foldl ?_ (fun _ _ _ => ?_))) <;> simp +contextual (maxDischargeDepth := 40) [*]

@[simp] theorem State.holdIfLeft_calm (b : State) (s : State) (handle : Nat) (h : Calm b s)  :
    Calm b (State.holdIfLeft s handle) := by
  unfold State.holdIfLeft
  (try dsimp only)
  (repeat' (first | split | with_reducible refine calm_foldl ?_ (fun _ _ _ => ?_))) <;> simp +contextual (maxDischargeDepth := 40) [*]

@[simp] theorem State.memberGone_calm (b : State) (s : State) (position : Nat) (h : Calm b s)  :
    Calm b (State.memberGone s position) := by
  unfold State.memberGone
  (try dsimp only)
  (repeat' (first | split | with_reducible refine calm_foldl ?_ (fun _ _ _ => ?_))) <;> simp +contextual (maxDischargeDepth := 40) [*]

@[simp] theorem State.retryOpenings_calm (b : State) (s : State) (h : Calm b s)  :
    Calm b (State.retryOpenings s) := by
  unfold State.retryOpenings
  (try dsimp only)
  (repeat' (first | split | with_reducible refine calm_foldl ?_ (fun _ _ _ => ?_))) <;> simp +contextual (maxDischargeDepth := 40) [*]

end Sys2Proof.Machine
end

