-- ==== Sys2Proof/Laws/CalmTakeover.lean ====
section
/-! SUPPORT. Losing a half or a chain is calm. -/
namespace Sys2Proof.Machine

theorem EState.rank_limped (e : EState) : e.rank ≤ e.limped.rank := by cases e <;> decide

@[simp] theorem State.sendResume_calm (b : State) (s : State) (h0 : Half) (rs : List SynRec) (h : Calm b s)  :
    Calm b (State.sendResume s h0 rs) := by
  unfold State.sendResume
  (try dsimp only)
  (repeat' (first | split | with_reducible refine calm_foldl ?_ (fun _ _ _ => ?_))) <;> simp +contextual (maxDischargeDepth := 40) [*]

@[simp] theorem State.resend_calm (b : State) (s : State) (r : Route) (toks : List (List Byte)) (h : Calm b s)  :
    Calm b (State.resend s r toks) := by
  unfold State.resend
  (try dsimp only)
  (repeat' (first | split | with_reducible refine calm_foldl ?_ (fun _ _ _ => ?_))) <;> simp +contextual (maxDischargeDepth := 40) [*]

@[simp] theorem State.retireStack_calm (b : State) (s : State) (h0 : Half) (i : Nat) (h : Calm b s)  :
    Calm b (State.retireStack s h0 i) := by
  unfold State.retireStack
  (try dsimp only)
  (repeat' (first | split | with_reducible refine calm_foldl ?_ (fun _ _ _ => ?_))) <;> simp +contextual (maxDischargeDepth := 40) [*]

@[simp] theorem State.markTaken_calm (b : State) (s : State) (h0 : Half) (h : Calm b s)  :
    Calm b (State.markTaken s h0) := by
  unfold State.markTaken
  (try dsimp only)
  (repeat' (first | split | with_reducible refine calm_foldl ?_ (fun _ _ _ => ?_))) <;> simp +contextual (maxDischargeDepth := 40) [*]

@[simp] theorem State.commonCause_calm (b : State) (s : State) (h : Calm b s)  :
    Calm b (State.commonCause s) := by
  unfold State.commonCause
  (try dsimp only)
  (repeat' (first | split | with_reducible refine calm_foldl ?_ (fun _ _ _ => ?_))) <;> simp +contextual (maxDischargeDepth := 40) [*]

@[simp] theorem State.bothLost_calm (b : State) (s : State) (h : Calm b s)  :
    Calm b (State.bothLost s) := by
  unfold State.bothLost
  (try dsimp only)
  (repeat' (first | split | with_reducible refine calm_foldl ?_ (fun _ _ _ => ?_))) <;> simp +contextual (maxDischargeDepth := 40) [*]

@[simp] theorem State.renameWaiting_calm (b : State) (s : State) (lost : Half) (olds : List Route) (h : Calm b s)  :
    Calm b (State.renameWaiting s lost olds) := by
  unfold State.renameWaiting
  (try dsimp only)
  (repeat' (first | split | with_reducible refine calm_foldl ?_ (fun _ _ _ => ?_))) <;> simp +contextual (maxDischargeDepth := 40) [*]

@[simp] theorem State.refillHeads_calm (b : State) (s : State) (dst : Half) (h : Calm b s)  :
    Calm b (State.refillHeads s dst) := by
  unfold State.refillHeads
  (try dsimp only)
  (repeat' (first | split | with_reducible refine calm_foldl ?_ (fun _ _ _ => ?_))) <;> simp +contextual (maxDischargeDepth := 40) [*]

@[simp] theorem State.resendRoute_calm (b : State) (s : State) (lost : Half) (owed : List Owed) (unsent : List (List Byte)) (old : Route) (h : Calm b s)  :
    Calm b (State.resendRoute s lost owed unsent old) := by
  unfold State.resendRoute
  (try dsimp only)
  (repeat' (first | split | with_reducible refine calm_foldl ?_ (fun _ _ _ => ?_))) <;> simp +contextual (maxDischargeDepth := 40) [*]

@[simp] theorem State.resendOrphans_calm (b : State) (s : State) (lost : Half) (owed : List Owed) (olds : List Route) (h : Calm b s)  :
    Calm b (State.resendOrphans s lost owed olds) := by
  unfold State.resendOrphans
  (try dsimp only)
  (repeat' (first | split | with_reducible refine calm_foldl ?_ (fun _ _ _ => ?_))) <;> simp +contextual (maxDischargeDepth := 40) [*]

@[simp] theorem State.takeRoute_calm (b : State) (s : State) (old : Route) (lost : Half) (h : Calm b s)  :
    Calm b (State.takeRoute s old lost) := by
  unfold State.takeRoute
  (try dsimp only)
  (repeat' (first | split | with_reducible refine calm_foldl ?_ (fun _ _ _ => ?_))) <;> simp +contextual (maxDischargeDepth := 40) [*]

@[simp] theorem State.takeOver_calm (b : State) (s : State) (lost : Half) (h : Calm b s)  :
    Calm b (State.takeOver s lost) := by
  unfold State.takeOver
  (try dsimp only)
  (repeat' (first | split | with_reducible refine calm_foldl ?_ (fun _ _ _ => ?_))) <;> simp +contextual (maxDischargeDepth := 40) [*]

@[simp] theorem State.undoJob_calm (b : State) (s : State) (j : Job) (h : Calm b s)  :
    Calm b (State.undoJob s j) := by
  unfold State.undoJob
  (try dsimp only)
  (repeat' (first | split | with_reducible refine calm_foldl ?_ (fun _ _ _ => ?_))) <;> simp +contextual (maxDischargeDepth := 40) [*]

@[simp] theorem State.restartJob_calm (b : State) (s : State) (j : Job) (h : Calm b s)  :
    Calm b (State.restartJob s j) := by
  unfold State.restartJob
  (try dsimp only)
  (repeat' (first | split | with_reducible refine calm_foldl ?_ (fun _ _ _ => ?_))) <;> simp +contextual (maxDischargeDepth := 40) [*]

@[simp] theorem State.holdCommands_calm (b : State) (s : State) (h : Calm b s)  :
    Calm b (State.holdCommands s) := by
  unfold State.holdCommands
  (try dsimp only)
  (repeat' (first | split | with_reducible refine calm_foldl ?_ (fun _ _ _ => ?_))) <;> simp +contextual (maxDischargeDepth := 40) [*]

@[simp] theorem State.restartJobs_calm (b : State) (s : State) (home : Half) (h : Calm b s)  :
    Calm b (State.restartJobs s home) := by
  unfold State.restartJobs
  (try dsimp only)
  (repeat' (first | split | with_reducible refine calm_foldl ?_ (fun _ _ _ => ?_))) <;> simp +contextual (maxDischargeDepth := 40) [*]

@[simp] theorem State.firmwareStops_calm (b : State) (s : State) (h0 : Half) (h : Calm b s)  :
    Calm b (State.firmwareStops s h0) := by
  unfold State.firmwareStops
  (try dsimp only)
  (repeat' (first | split | with_reducible refine calm_foldl ?_ (fun _ _ _ => ?_))) <;> simp +contextual (maxDischargeDepth := 40) [*]

@[simp] theorem State.halfJobs_calm (b : State) (s : State) (h0 : Half) (h : Calm b s)  :
    Calm b (State.halfJobs s h0) := by
  unfold State.halfJobs
  (try dsimp only)
  (repeat' (first | split | with_reducible refine calm_foldl ?_ (fun _ _ _ => ?_))) <;> simp +contextual (maxDischargeDepth := 40) [*]

@[simp] theorem State.halfGone_calm (b : State) (s : State) (h0 : Half) (cause : Nat) (code : HCode) (h : Calm b s)  :
    Calm b (State.halfGone s h0 cause code) := by
  unfold State.halfGone
  (try dsimp only)
  (repeat' (first | split | with_reducible refine calm_foldl ?_ (fun _ _ _ => ?_))) <;> simp +contextual (maxDischargeDepth := 40) [*]

@[simp] theorem State.toLimp_calm (b : State) (s : State) (h : Calm b s)  :
    Calm b (State.toLimp s) := by
  unfold State.toLimp
  refine calm_mk h ?_ rfl rfl rfl rfl rfl
  exact EState.rank_limped _

@[simp] theorem State.loseHalf_calm (b : State) (s : State) (h0 : Half) (cause : Nat) (code : HCode) (h : Calm b s)  :
    Calm b (State.loseHalf s h0 cause code) := by
  unfold State.loseHalf
  (try dsimp only)
  (repeat' (first | split | with_reducible refine calm_foldl ?_ (fun _ _ _ => ?_))) <;> simp +contextual (maxDischargeDepth := 40) [*]

@[simp] theorem State.loseBoth_calm (b : State) (s : State) (h : Calm b s)  :
    Calm b (State.loseBoth s) := by
  unfold State.loseBoth
  (try dsimp only)
  (repeat' (first | split | with_reducible refine calm_foldl ?_ (fun _ _ _ => ?_))) <;> simp +contextual (maxDischargeDepth := 40) [*]

@[simp] theorem State.requeuePeer_calm (b : State) (s : State) (h0 : Half) (outs : List Out) (h : Calm b s)  :
    Calm b (State.requeuePeer s h0 outs) := by
  unfold State.requeuePeer
  refine calm_foldl_fst h fun p x hp => ?_
  dsimp only
  (repeat' split) <;> simp [hp]

@[simp] theorem State.loseChain_calm (b : State) (s : State) (h0 : Half) (c : Nat) (h : Calm b s)  :
    Calm b (State.loseChain s h0 c) := by
  unfold State.loseChain
  (try dsimp only)
  (repeat' (first | split | with_reducible refine calm_foldl ?_ (fun _ _ _ => ?_))) <;> simp +contextual (maxDischargeDepth := 40) [*]

@[simp] theorem State.payOwed_calm (b : State) (s : State) (o : Owed) (h : Calm b s)  :
    Calm b (State.payOwed s o) := by
  unfold State.payOwed
  (try dsimp only)
  (repeat' (first | split | with_reducible refine calm_foldl ?_ (fun _ _ _ => ?_))) <;> simp +contextual (maxDischargeDepth := 40) [*]

@[simp] theorem State.resumeRoutes_calm (b : State) (s : State) (h : Calm b s)  :
    Calm b (State.resumeRoutes s) := by
  unfold State.resumeRoutes
  (try dsimp only)
  (repeat' (first | split | with_reducible refine calm_foldl ?_ (fun _ _ _ => ?_))) <;> simp +contextual (maxDischargeDepth := 40) [*]

end Sys2Proof.Machine
end

