-- ==== Sys2Proof/Laws/CalmDrain.lean ====
section
/-! SUPPORT. What waits for the end of a step is calm. -/
namespace Sys2Proof.Machine

@[simp] theorem State.takeSlots_calm (b : State) (s : State) (h0 : Half) (h : Calm b s)  :
    Calm b (State.takeSlots s h0) := by
  unfold State.takeSlots
  (try dsimp only)
  (repeat' (first | split | with_reducible refine calm_foldl ?_ (fun _ _ _ => ?_))) <;> simp +contextual (maxDischargeDepth := 40) [*]

@[simp] theorem State.reenter_calm (b : State) (s : State) (h0 : Half) (w : WaitEntry) (h : Calm b s)  :
    Calm b (State.reenter s h0 w) := by
  unfold State.reenter
  (try dsimp only)
  (repeat' (first | split | with_reducible refine calm_foldl ?_ (fun _ _ _ => ?_))) <;> simp +contextual (maxDischargeDepth := 40) [*]

@[simp] theorem State.drained_calm (b : State) (s : State) (j : Job) (h : Calm b s)  :
    Calm b (State.drained s j) := by
  unfold State.drained
  (try dsimp only)
  (repeat' (first | split | with_reducible refine calm_foldl ?_ (fun _ _ _ => ?_))) <;> simp +contextual (maxDischargeDepth := 40) [*]

@[simp] theorem State.drainGo_calm (b : State) (s : State) (h : Calm b s)  :
    Calm b (State.drainGo s) := by
  unfold State.drainGo
  (try dsimp only)
  (repeat' (first | split | with_reducible refine calm_foldl ?_ (fun _ _ _ => ?_))) <;> simp +contextual (maxDischargeDepth := 40) [*]

@[simp] theorem State.replaceSuspects_calm (b : State) (s : State) (h0 : Half) (x1 : List Suspect) (h : Calm b s)  :
    Calm b (State.replaceSuspects s h0 x1) := by
  induction x1 generalizing s with
  | nil => unfold State.replaceSuspects; exact h
  | cons x t ih =>
    unfold State.replaceSuspects
    split
    · exact ih _ h
    · exact ih _ (by simp [h])

@[simp] theorem State.suspectsGo_calm (b : State) (s : State) (h : Calm b s)  :
    Calm b (State.suspectsGo s) := by
  unfold State.suspectsGo
  (try dsimp only)
  (repeat' (first | split | with_reducible refine calm_foldl ?_ (fun _ _ _ => ?_))) <;> simp +contextual (maxDischargeDepth := 40) [*]

@[simp] theorem State.stepEnded_calm (b : State) (s : State) (h : Calm b s)  :
    Calm b (State.stepEnded s) := by
  unfold State.stepEnded
  (try dsimp only)
  (repeat' (first | split | with_reducible refine calm_foldl ?_ (fun _ _ _ => ?_))) <;> simp +contextual (maxDischargeDepth := 40) [*]

end Sys2Proof.Machine
end

