-- ==== Sys2Proof/Laws/CalmStartup.lean ====
section
/-! SUPPORT. Start-up: what is calm, mild, or keeps. -/
namespace Sys2Proof.Machine

theorem EState.rank_healed (e : EState) : e.rank ≤ e.healed.rank := by cases e <;> decide

@[simp] theorem State.bootRefused_calm (b : State) (s : State) (h : Calm b s)  :
    Calm b (State.bootRefused s) := by
  unfold State.bootRefused
  refine calm_mk (s := s.log engineSide 0 0x0001 s.safe.bootPtr.toNat 0 []) (by simp [h]) (by simp) rfl rfl rfl rfl rfl

@[simp] theorem State.bootFetch_calm (b : State) (s : State) (e : BootEntry) (h : Calm b s)  :
    Calm b (State.bootFetch s e) := by
  unfold State.bootFetch
  (try dsimp only)
  (repeat' (first | split | with_reducible refine calm_foldl ?_ (fun _ _ _ => ?_))) <;> simp +contextual (maxDischargeDepth := 40) [*]

@[simp] theorem State.bootFetchAll_calm (b : State) (s : State) (fw : Bool) (h : Calm b s)  :
    Calm b (State.bootFetchAll s fw) := by
  unfold State.bootFetchAll
  (try dsimp only)
  (repeat' (first | split | with_reducible refine calm_foldl ?_ (fun _ _ _ => ?_))) <;> simp +contextual (maxDischargeDepth := 40) [*]

@[simp] theorem State.bootRead_calm (b : State) (s : State) (b0 : List Byte) (h : Calm b s)  :
    Calm b (State.bootRead s b0) := by
  unfold State.bootRead
  (try dsimp only)
  (repeat' (first | split | with_reducible refine calm_foldl ?_ (fun _ _ _ => ?_))) <;> simp +contextual (maxDischargeDepth := 40) [*]

@[simp] theorem State.bootHeaderRead_calm (b : State) (s : State) (b0 : List Byte) (h : Calm b s)  :
    Calm b (State.bootHeaderRead s b0) := by
  unfold State.bootHeaderRead
  (try dsimp only)
  (repeat' (first | split | with_reducible refine calm_foldl ?_ (fun _ _ _ => ?_))) <;> simp +contextual (maxDischargeDepth := 40) [*]

@[simp] theorem State.bootImageRead_calm (b : State) (s : State) (h0 : Half) (d : Digest) (b0 : List Byte) (h : Calm b s)  :
    Calm b (State.bootImageRead s h0 d b0) := by
  unfold State.bootImageRead
  (try dsimp only)
  (repeat' (first | split | with_reducible refine calm_foldl ?_ (fun _ _ _ => ?_))) <;> simp +contextual (maxDischargeDepth := 40) [*]

@[simp] theorem State.moveFwRefs_calm (b : State) (s : State) (h : Calm b s)  :
    Calm b (State.moveFwRefs s) := by
  unfold State.moveFwRefs
  (try dsimp only)
  (repeat' (first | split | with_reducible refine calm_foldl ?_ (fun _ _ _ => ?_))) <;> simp +contextual (maxDischargeDepth := 40) [*]

@[simp] theorem State.firmwareBooted_calm (b : State) (s : State) (h0 : Half) (h : Calm b s)  :
    Calm b (State.firmwareBooted s h0) := by
  unfold State.firmwareBooted
  dsimp only
  split
  · rename_i hr
    have hs : s.eng.state = .reset := by simpa using hr
    split
    · have k : ∀ f, Calm b (s.onHalf h0 f) := fun f => by simp [h]
      split
      · split
        · exact calm_mk (State.log_calm _ _ _ _ _ _ _ _ (k _)) (by simp [hs, EState.rank]) rfl rfl rfl rfl rfl
        · exact State.log_calm _ _ _ _ _ _ _ _ (k _)
      · split
        · exact calm_mk (k _) (by simp [hs, EState.rank]) rfl rfl rfl rfl rfl
        · exact k _
    · exact h
  · (repeat' split) <;> simp (maxDischargeDepth := 40) [h]

@[simp] theorem State.returnFails_calm (b : State) (s : State) (h0 : Half) (h : Calm b s)  :
    Calm b (State.returnFails s h0) := by
  unfold State.returnFails
  (try dsimp only)
  (repeat' (first | split | with_reducible refine calm_foldl ?_ (fun _ _ _ => ?_))) <;> simp +contextual (maxDischargeDepth := 40) [*]

@[simp] theorem State.fwBootTimeout_calm (b : State) (s : State) (h0 : Half) (h : Calm b s)  :
    Calm b (State.fwBootTimeout s h0) := by
  unfold State.fwBootTimeout
  (try dsimp only)
  (repeat' (first | split | with_reducible refine calm_foldl ?_ (fun _ _ _ => ?_))) <;> simp +contextual (maxDischargeDepth := 40) [*]

@[simp] theorem State.holdHalf_calm (b : State) (s : State) (h0 : Half) (h : Calm b s)  :
    Calm b (State.holdHalf s h0) := by
  unfold State.holdHalf
  (try dsimp only)
  (repeat' (first | split | with_reducible refine calm_foldl ?_ (fun _ _ _ => ?_))) <;> simp +contextual (maxDischargeDepth := 40) [*]

/-- A keyslot whose programming was cut short read KS_EMPTY, so it moves forward (18 R444). -/
theorem State.readCut_mild {b s : State} (ok : Bool) (h : Mild b s) : Mild b (s.readCut ok) := by
  unfold State.readCut
  split
  · rename_i c hk
    refine h.trans ⟨⟨rfl, id, id, fun i => ?_⟩, Nat.le_refl _⟩
    have he := i.cut _ hk
    cases ok
    · exact ⟨⟨fun slot j e => ⟨(i.programming slot j e).1, fun c e => (by simp at e)⟩, i.revoking, fun c e => (by simp at e)⟩,
        KeysForward.of_fuses rfl⟩
    · refine ⟨⟨fun slot j e => ?_, fun slot j e => ?_, fun c e => (by simp at e)⟩, keysForward_set _ _ c.1 c.2 rfl ?_ (fun e => absurd he e)⟩
      · have hp := i.programming slot j e
        refine ⟨?_, fun c e => (by simp at e)⟩
        have hne : c.1 ≠ j := hp.2 _ hk
        simp only [SafeSt.slot, if_true, slot_set]
        rw [if_neg (fun e => hne e.1)]
        exact hp.1
      · have hp := i.revoking slot j e
        have hne : c.1 ≠ j := fun e => by rw [e] at he; rw [he] at hp; exact KState.noConfusion hp
        simp only [SafeSt.slot, if_true, slot_set]
        rw [if_neg (fun e => hne e.1)]
        exact hp
      · rw [he]; exact Nat.zero_le _
  · exact h

/-- A census keeps the keyslots, but for a programming that was cut short and reads correctly (18 R444). -/
theorem State.applyCensus_mild {b s : State} (h0 : Half) (c : Census) (h : Mild b s) : Mild b (s.applyCensus h0 c) := by
  unfold State.applyCensus
  exact State.readCut_mild _ (h.calm (calm_foldl (by simp) fun t x ht => by simp [ht]))

theorem State.surveyed_mild {b s : State} (h0 : Half) (c : Census) (h : Mild b s) : Mild b (s.surveyed h0 c) := by
  unfold State.surveyed
  split
  · exact h
  · exact State.applyCensus_mild h0 c h

@[simp] theorem State.holdUnfit_calm (b : State) (s : State) (h0 : Half) (h : Calm b s)  :
    Calm b (State.holdUnfit s h0) := by
  unfold State.holdUnfit
  (try dsimp only)
  (repeat' (first | split | with_reducible refine calm_foldl ?_ (fun _ _ _ => ?_))) <;> simp +contextual (maxDischargeDepth := 40) [*]

theorem State.censusHalf_mild {b s : State} (h0 : Half) (c : Option Census) (h : Mild b s) : Mild b (s.censusHalf h0 c) := by
  unfold State.censusHalf
  (repeat' split)
  all_goals first
    | exact h
    | exact mild_of (State.surveyed_mild h0 _ h) (fun _ k => State.holdUnfit_calm _ _ _ k)
    | exact mild_of (State.applyCensus_mild h0 _ h) (fun _ k => State.onHalf_calm _ _ _ _ k)

@[simp] theorem State.meridianFor_calm (b : State) (s : State) (h0 : Half) (m : Merid) (h : Calm b s)  :
    Calm b (State.meridianFor s h0 m) := by
  unfold State.meridianFor
  (try dsimp only)
  (repeat' (first | split | with_reducible refine calm_foldl ?_ (fun _ _ _ => ?_))) <;> simp +contextual (maxDischargeDepth := 40) [*]

@[simp] theorem State.journalStart_calm (b : State) (s : State) (h : Calm b s)  :
    Calm b (State.journalStart s) := by
  unfold State.journalStart
  (try dsimp only)
  (repeat' (first | split | with_reducible refine calm_foldl ?_ (fun _ _ _ => ?_))) <;> simp +contextual (maxDischargeDepth := 40) [*]

@[simp] theorem State.trainStacks_calm (b : State) (s : State) (h0 : Half) (failed : U16) (warm : Bool) (h : Calm b s)  :
    Calm b (State.trainStacks s h0 failed warm) := by
  unfold State.trainStacks
  (try dsimp only)
  (repeat' (first | split | with_reducible refine calm_foldl ?_ (fun _ _ _ => ?_))) <;> simp +contextual (maxDischargeDepth := 40) [*]

@[simp] theorem State.restoreTrained_calm (b : State) (s : State) (h0 : Half) (failed : U16) (h : Calm b s)  :
    Calm b (State.restoreTrained s h0 failed) := by
  unfold State.restoreTrained
  (try dsimp only)
  (repeat' (first | split | with_reducible refine calm_foldl ?_ (fun _ _ _ => ?_))) <;> simp +contextual (maxDischargeDepth := 40) [*]

@[simp] theorem State.startStacks_calm (b : State) (s : State) (w : U16) (e : U16) (h : Calm b s)  :
    Calm b (State.startStacks s w e) := by
  unfold State.startStacks
  (try dsimp only)
  (repeat' (first | split | with_reducible refine calm_foldl ?_ (fun _ _ _ => ?_))) <;> simp +contextual (maxDischargeDepth := 40) [*]

@[simp] theorem State.holdUntrained_calm (b : State) (s : State) (h0 : Half) (h : Calm b s)  :
    Calm b (State.holdUntrained s h0) := by
  unfold State.holdUntrained
  (try dsimp only)
  (repeat' (first | split | with_reducible refine calm_foldl ?_ (fun _ _ _ => ?_))) <;> simp +contextual (maxDischargeDepth := 40) [*]

@[simp] theorem State.checkCopy_calm (b : State) (s : State) (h0 : Half) (i : Image) (h : Calm b s)  :
    Calm b (State.checkCopy s h0 i) := by
  unfold State.checkCopy
  (try dsimp only)
  (repeat' (first | split | with_reducible refine calm_foldl ?_ (fun _ _ _ => ?_))) <;> simp +contextual (maxDischargeDepth := 40) [*]

@[simp] theorem State.copyRecords_calm (b : State) (s : State) (h0 : Half) (h : Calm b s)  :
    Calm b (State.copyRecords s h0) := by
  unfold State.copyRecords
  (try dsimp only)
  (repeat' (first | split | with_reducible refine calm_foldl ?_ (fun _ _ _ => ?_))) <;> simp +contextual (maxDischargeDepth := 40) [*]

@[simp] theorem State.fromLimp_calm (b : State) (s : State) (h : Calm b s)  :
    Calm b (State.fromLimp s) := by
  unfold State.fromLimp
  refine calm_mk h ?_ rfl rfl rfl rfl rfl
  exact EState.rank_healed _

@[simp] theorem State.returnHalf_calm (b : State) (s : State) (h0 : Half) (h : Calm b s)  :
    Calm b (State.returnHalf s h0) := by
  unfold State.returnHalf
  (try dsimp only)
  (repeat' (first | split | with_reducible refine calm_foldl ?_ (fun _ _ _ => ?_))) <;> simp +contextual (maxDischargeDepth := 40) [*]

@[simp] theorem State.retrainDone_calm (b : State) (s : State) (h : Calm b s)  :
    Calm b (State.retrainDone s) := by
  unfold State.retrainDone
  (try dsimp only)
  (repeat' (first | split | with_reducible refine calm_foldl ?_ (fun _ _ _ => ?_))) <;> simp +contextual (maxDischargeDepth := 40) [*]

theorem State.warmAgain_keeps {b s : State} (h : Keeps b s) : Keeps b s.warmAgain :=
  (State.warmStart_keeps h).trans (Calm.keeps (by simp [State.warmAgain]))

@[simp] theorem State.recoverRoute_calm (b : State) (s : State) (bad : List U32) (r : Route) (h : Calm b s)  :
    Calm b (State.recoverRoute s bad r) := by
  unfold State.recoverRoute
  (try dsimp only)
  (repeat' (first | split | with_reducible refine calm_foldl ?_ (fun _ _ _ => ?_))) <;> simp +contextual (maxDischargeDepth := 40) [*]

@[simp] theorem State.warnFlushed_calm (b : State) (s : State) (f : Flush) (h : Calm b s)  :
    Calm b (State.warnFlushed s f) := by
  unfold State.warnFlushed
  (try dsimp only)
  (repeat' (first | split | with_reducible refine calm_foldl ?_ (fun _ _ _ => ?_))) <;> simp +contextual (maxDischargeDepth := 40) [*]

@[simp] theorem State.hostFlushed_calm (b : State) (s : State) (f : Flush) (h : Calm b s)  :
    Calm b (State.hostFlushed s f) := by
  unfold State.hostFlushed
  (try dsimp only)
  (repeat' (first | split | with_reducible refine calm_foldl ?_ (fun _ _ _ => ?_))) <;> simp +contextual (maxDischargeDepth := 40) [*]

end Sys2Proof.Machine
end

