-- ==== Sys2Proof/Laws/CalmLevel.lean ====
section
/-! SUPPORT. The level tree: what is calm. -/
namespace Sys2Proof.Machine

@[simp] theorem State.goOnStopping_calm (b : State) (s : State) (h : Calm b s)  :
    Calm b (State.goOnStopping s) := by
  unfold State.goOnStopping
  (try dsimp only)
  (repeat' (first | split | with_reducible refine calm_foldl ?_ (fun _ _ _ => ?_))) <;> simp +contextual (maxDischargeDepth := 40) [*]

@[simp] theorem State.enterService_calm (b : State) (s : State) (h : Calm b s)  :
    Calm b (State.enterService s) := by
  unfold State.enterService
  split
  · exact h
  · rename_i hg
    have hs : s.eng.state = .ready := by
      cases hq : s.eng.state <;> simp [hq] at hg <;> rfl
    have k : Calm b s.openService := calm_mk h (by simp only [hs]; split <;> decide) rfl rfl rfl rfl rfl
    split
    · simp (maxDischargeDepth := 40) [k]
    · exact k

@[simp] theorem State.serveAlone_calm (b : State) (s : State) (h : Calm b s)  :
    Calm b (State.serveAlone s) := by
  unfold State.serveAlone
  (try dsimp only)
  (repeat' (first | split | with_reducible refine calm_foldl ?_ (fun _ _ _ => ?_))) <;> simp +contextual (maxDischargeDepth := 40) [*]

@[simp] theorem State.relay_calm (b : State) (s : State) (p : Pair) (code : Nat) (m : LmMsg) (h : Calm b s)  :
    Calm b (State.relay s p code m) := by
  unfold State.relay
  (try dsimp only)
  (repeat' (first | split | with_reducible refine calm_foldl ?_ (fun _ _ _ => ?_))) <;> simp +contextual (maxDischargeDepth := 40) [*]

@[simp] theorem State.relayDown_calm (b : State) (s : State) (code : Nat) (m : LmMsg) (h : Calm b s)  :
    Calm b (State.relayDown s code m) := by
  unfold State.relayDown
  (try dsimp only)
  (repeat' (first | split | with_reducible refine calm_foldl ?_ (fun _ _ _ => ?_))) <;> simp +contextual (maxDischargeDepth := 40) [*]

@[simp] theorem State.learn_calm (b : State) (s : State) (p : Pair) (serial : U64) (h : Calm b s)  :
    Calm b (State.learn s p serial) := by
  unfold State.learn
  (try dsimp only)
  (repeat' (first | split | with_reducible refine calm_foldl ?_ (fun _ _ _ => ?_))) <;> simp +contextual (maxDischargeDepth := 40) [*]

@[simp] theorem State.hear_calm (b : State) (s : State) (h : Calm b s)  :
    Calm b (State.hear s) := by
  unfold State.hear
  (try dsimp only)
  (repeat' (first | split | with_reducible refine calm_foldl ?_ (fun _ _ _ => ?_))) <;> simp +contextual (maxDischargeDepth := 40) [*]

@[simp] theorem State.admitMember_calm (b : State) (s : State) (p : Pair) (m : LmMsg) (h : Calm b s)  :
    Calm b (State.admitMember s p m) := by
  unfold State.admitMember
  (try dsimp only)
  (repeat' (first | split | with_reducible refine calm_foldl ?_ (fun _ _ _ => ?_))) <;> simp +contextual (maxDischargeDepth := 40) [*]

@[simp] theorem State.recordBase_calm (b : State) (s : State) (base : U64) (h : Calm b s)  :
    Calm b (State.recordBase s base) := by
  unfold State.recordBase
  (try dsimp only)
  (repeat' (first | split | with_reducible refine calm_foldl ?_ (fun _ _ _ => ?_))) <;> simp +contextual (maxDischargeDepth := 40) [*]

@[simp] theorem State.maskMember_calm (b : State) (s : State) (pos : Nat) (h : Calm b s)  :
    Calm b (State.maskMember s pos) := by
  unfold State.maskMember
  (try dsimp only)
  (repeat' (first | split | with_reducible refine calm_foldl ?_ (fun _ _ _ => ?_))) <;> simp +contextual (maxDischargeDepth := 40) [*]

@[simp] theorem State.edge_calm (b : State) (s : State) (h : Calm b s)  :
    Calm b (State.edge s) := by
  unfold State.edge
  (try dsimp only)
  (repeat' (first | split | with_reducible refine calm_foldl ?_ (fun _ _ _ => ?_))) <;> simp +contextual (maxDischargeDepth := 40) [*]

@[simp] theorem State.release_calm (b : State) (s : State) (joiners : List Nat) (h : Calm b s)  :
    Calm b (State.release s joiners) := by
  unfold State.release
  (try dsimp only)
  (repeat' (first | split | with_reducible refine calm_foldl ?_ (fun _ _ _ => ?_))) <;> simp +contextual (maxDischargeDepth := 40) [*]

@[simp] theorem State.echoRound_calm (b : State) (s : State) (h : Calm b s)  :
    Calm b (State.echoRound s) := by
  unfold State.echoRound
  (try dsimp only)
  (repeat' (first | split | with_reducible refine calm_foldl ?_ (fun _ _ _ => ?_))) <;> simp +contextual (maxDischargeDepth := 40) [*]

end Sys2Proof.Machine
end

