-- ==== Sys2Proof/Laws/CalmHalves.lean ====
section
/-! SUPPORT. Halves that fail: what is calm, or mild. -/
namespace Sys2Proof.Machine

@[simp] theorem State.mainbandLost_calm (b : State) (s : State) (h : Calm b s)  :
    Calm b (State.mainbandLost s) := by
  unfold State.mainbandLost
  (try dsimp only)
  (repeat' (first | split | with_reducible refine calm_foldl ?_ (fun _ _ _ => ?_))) <;> simp +contextual (maxDischargeDepth := 40) [*]

@[simp] theorem State.heartbeatMissed_calm (b : State) (s : State) (h : Calm b s)  :
    Calm b (State.heartbeatMissed s) := by
  unfold State.heartbeatMissed
  (try dsimp only)
  (repeat' (first | split | with_reducible refine calm_foldl ?_ (fun _ _ _ => ?_))) <;> simp +contextual (maxDischargeDepth := 40) [*]

theorem State.islandFresh_mild {b s : State} (g : Half) (h : Mild b s) : Mild b (s.islandFresh g) :=
  h.trans ⟨⟨rfl, fun x => Mem.clear_wf _ _ _ x, fun _ => ⟨Nat.zero_le _, Nat.zero_le _⟩,
    fun i => ⟨KeysInv.congr (x := s.safe) rfl rfl rfl i, KeysForward.of_fuses rfl⟩⟩, Nat.le_refl _⟩

@[simp] theorem State.islandJoins_calm (b : State) (s : State) (h0 : Half) (h : Calm b s)  :
    Calm b (State.islandJoins s h0) := by
  unfold State.islandJoins
  (try dsimp only)
  (repeat' (first | split | with_reducible refine calm_foldl ?_ (fun _ _ _ => ?_))) <;> simp +contextual (maxDischargeDepth := 40) [*]

theorem State.islandPowers_mild {b s : State} (g : Half) (h : Mild b s) : Mild b (s.islandPowers g) := by
  unfold State.islandPowers
  (repeat' split)
  · exact h
  · exact h.calm (by simp)
  · exact State.islandFresh_mild g (h.calm (by simp))

@[simp] theorem State.slotTakeover_calm (b : State) (s : State) (h0 : Half) (h : Calm b s)  :
    Calm b (State.slotTakeover s h0) := by
  unfold State.slotTakeover
  (try dsimp only)
  (repeat' (first | split | with_reducible refine calm_foldl ?_ (fun _ _ _ => ?_))) <;> simp +contextual (maxDischargeDepth := 40) [*]

@[simp] theorem State.islandDown_calm (b : State) (s : State) (h0 : Half) (h : Calm b s)  :
    Calm b (State.islandDown s h0) := by
  unfold State.islandDown
  (try dsimp only)
  (repeat' (first | split | with_reducible refine calm_foldl ?_ (fun _ _ _ => ?_))) <;> simp +contextual (maxDischargeDepth := 40) [*]

theorem State.fuseGone_mild {b s : State} (g : Half) (h : Mild b s) : Mild b (s.fuseGone g) := by
  unfold State.fuseGone
  exact mild_of (State.cutBurn_mild h) (fun _ j => by simp [j])

@[simp] theorem State.railLost_calm (b : State) (s : State) (h0 : Half) (r : Nat) (h : Calm b s)  :
    Calm b (State.railLost s h0 r) := by
  unfold State.railLost
  (try dsimp only)
  (repeat' (first | split | with_reducible refine calm_foldl ?_ (fun _ _ _ => ?_))) <;> simp +contextual (maxDischargeDepth := 40) [*]

theorem State.railOut_mild {b s : State} (g : Half) (r : Nat) (h : Mild b s) : Mild b (s.railOut g r) := by
  have k : Mild b (s.onHalf g fun x => x.withoutRail r) := h.calm (by simp)
  unfold State.railOut
  dsimp only
  (repeat' split)
  · exact k.calm (by simp)
  · exact k
  · exact State.fuseGone_mild _ k
  · exact k.calm (by simp)

end Sys2Proof.Machine
end

