-- ==== Sys2Proof/Laws/CalmRegisters.lean ====
section
/-! SUPPORT. Registers: what is calm, or keeps. -/
namespace Sys2Proof.Machine

theorem writeBytes_wf (m : Mem) (a : Nat) (be : Byte) (data : U64) (h : m.wf = true) : (writeBytes m a be data).wf = true := by
  unfold writeBytes
  generalize List.range 8 = l
  induction l generalizing m with
  | nil => exact h
  | cons x xs ih =>
    rw [List.foldl_cons]
    apply ih
    split
    · exact Mem.write_wf _ _ _ h
    · exact h

@[simp] theorem State.doneClear_calm (b : State) (s : State) (k : Nat) (be : Byte) (data : U64) (setting : U64) (h : Calm b s)  :
    Calm b (State.doneClear s k be data setting) := by
  unfold State.doneClear
  (try dsimp only)
  (repeat' (first | split | with_reducible refine calm_foldl ?_ (fun _ _ _ => ?_))) <;> simp +contextual (maxDischargeDepth := 40) [*]

/-- The confirmation of a takeover keeps the keyslots and the log. -/
theorem State.takeoverWrite_keeps {b s : State} (p : Path) (be : Byte) (data : U64) (h : Keeps b s) :
    Keeps b (s.takeoverWrite p be data) := by
  unfold State.takeoverWrite
  dsimp only
  split
  · exact State.warmStart_keeps (h.trans (Calm.keeps (by simp)))
  · exact h

@[simp] theorem State.peakWrite_calm (b : State) (s : State) (h0 : Half) (be : Byte) (data : U64) (arriving : Option Byte) (h : Calm b s)  :
    Calm b (State.peakWrite s h0 be data arriving) := by
  unfold State.peakWrite
  (try dsimp only)
  (repeat' (first | split | with_reducible refine calm_foldl ?_ (fun _ _ _ => ?_))) <;> simp +contextual (maxDischargeDepth := 40) [*]

@[simp] theorem State.discardWrite_calm (b : State) (s : State) (h : Calm b s)  :
    Calm b (State.discardWrite s) := by
  unfold State.discardWrite
  (try dsimp only)
  (repeat' (first | split | with_reducible refine calm_foldl ?_ (fun _ _ _ => ?_))) <;> simp +contextual (maxDischargeDepth := 40) [*]

@[simp] theorem State.windowWrite_calm (b : State) (s : State) (o : Nat) (be : Byte) (data : U64) (parityOk : Bool) (h : Calm b s)  :
    Calm b (State.windowWrite s o be data parityOk) := by
  unfold State.windowWrite
  dsimp only
  (repeat' split)
  all_goals first
    | exact h
    | exact State.discardWrite_calm _ _ h
    | exact ⟨h.pending, h.fuses, h.cutKey, h.fuseJob, h.onward, fun x => writeBytes_wf _ _ _ _ (h.mem x), h.logs⟩

@[simp] theorem State.logSelWrite_calm (b : State) (s : State) (be : Byte) (data : U64) (h : Calm b s)  :
    Calm b (State.logSelWrite s be data) := by
  unfold State.logSelWrite
  (try dsimp only)
  (repeat' (first | split | with_reducible refine calm_foldl ?_ (fun _ _ _ => ?_))) <;> simp +contextual (maxDischargeDepth := 40) [*]

@[simp] theorem State.ctlWrite_calm (b : State) (s : State) (h0 : Half) (off : Nat) (be : Byte) (data : U64) (parityOk : Bool) (h : Calm b s)  :
    Calm b (State.ctlWrite s h0 off be data parityOk) := by
  unfold State.ctlWrite
  (try dsimp only)
  (repeat' (first | split | with_reducible refine calm_foldl ?_ (fun _ _ _ => ?_))) <;> simp +contextual (maxDischargeDepth := 40) [*]

theorem State.sideWrite_keeps {b s : State} (h0 : Half) (off : Nat) (data : U64) (h : Keeps b s) :
    Keeps b (s.sideWrite h0 off data) := by
  unfold State.sideWrite
  (repeat' split)
  all_goals first
    | exact h
    | exact State.takeoverWrite_keeps _ _ _ h
    | exact keeps_mk h rfl rfl rfl rfl rfl
    | exact h.trans (Calm.keeps (by simp))

end Sys2Proof.Machine
end

