-- ==== Sys2Proof/Laws/CalmUpkeep.lean ====
section
/-! SUPPORT. Time, temperature and upkeep: what is calm. -/
namespace Sys2Proof.Machine

@[simp] theorem State.noteFuseRail_calm (b : State) (s : State) (h : Calm b s)  :
    Calm b (State.noteFuseRail s) := by
  unfold State.noteFuseRail
  (try dsimp only)
  (repeat' (first | split | with_reducible refine calm_foldl ?_ (fun _ _ _ => ?_))) <;> simp +contextual (maxDischargeDepth := 40) [*]

@[simp] theorem State.holdHot_calm (b : State) (s : State) (h0 : Half) (h : Calm b s)  :
    Calm b (State.holdHot s h0) := by
  unfold State.holdHot
  (try dsimp only)
  (repeat' (first | split | with_reducible refine calm_foldl ?_ (fun _ _ _ => ?_))) <;> simp +contextual (maxDischargeDepth := 40) [*]

@[simp] theorem State.thermal_calm (b : State) (s : State) (h0 : Half) (r : Reading) (h : Calm b s)  :
    Calm b (State.thermal s h0 r) := by
  unfold State.thermal
  (try dsimp only)
  (repeat' (first | split | with_reducible refine calm_foldl ?_ (fun _ _ _ => ?_))) <;> simp +contextual (maxDischargeDepth := 40) [*]

@[simp] theorem State.scrubbed_calm (b : State) (s : State) (h0 : Half) (b0 : BadRegion) (h : Calm b s)  :
    Calm b (State.scrubbed s h0 b0) := by
  unfold State.scrubbed
  (try dsimp only)
  (repeat' (first | split | with_reducible refine calm_foldl ?_ (fun _ _ _ => ?_))) <;> simp +contextual (maxDischargeDepth := 40) [*]

@[simp] theorem State.restoreCleared_calm (b : State) (s : State) (h0 : Half) (h : Calm b s)  :
    Calm b (State.restoreCleared s h0) := by
  unfold State.restoreCleared
  (try dsimp only)
  (repeat' (first | split | with_reducible refine calm_foldl ?_ (fun _ _ _ => ?_))) <;> simp +contextual (maxDischargeDepth := 40) [*]

end Sys2Proof.Machine
end

