-- ==== Sys2Proof/Laws/CalmLinks.lean ====
section
/-! SUPPORT. Frames: what is calm. -/
namespace Sys2Proof.Machine

@[simp] theorem State.badFrame_calm (b : State) (s : State) (h0 : Half) (c : Nat) (typ : Nat) (h : Calm b s)  :
    Calm b (State.badFrame s h0 c typ) := by
  unfold State.badFrame
  (try dsimp only)
  (repeat' (first | split | with_reducible refine calm_foldl ?_ (fun _ _ _ => ?_))) <;> simp +contextual (maxDischargeDepth := 40) [*]

@[simp] theorem State.takeFrame_calm (b : State) (s : State) (h0 : Half) (c : Nat) (typ : Nat) (f : Frame) (use : List Byte → State → State) (h : Calm b s) (huse : ∀ y0 y1, Calm b y1 → Calm b (use y0 y1)) :
    Calm b (State.takeFrame s h0 c typ f use) := by
  unfold State.takeFrame
  (try dsimp only)
  (repeat' (first | split | with_reducible refine calm_foldl ?_ (fun _ _ _ => ?_))) <;> simp +contextual (maxDischargeDepth := 40) [*]

@[simp] theorem State.prtRow_calm (b : State) (s : State) (kind : Nat) (h0 : Half) (c : Nat) (f : Frame) (h : Calm b s)  :
    Calm b (State.prtRow s kind h0 c f) := by
  unfold State.prtRow
  (try dsimp only)
  (repeat' (first | split | with_reducible refine calm_foldl ?_ (fun _ _ _ => ?_))) <;> simp +contextual (maxDischargeDepth := 40) [*]

@[simp] theorem State.bondAll_calm (b : State) (s : State) (h0 : Half) (h : Calm b s)  :
    Calm b (State.bondAll s h0) := by
  unfold State.bondAll
  (try dsimp only)
  (repeat' (first | split | with_reducible refine calm_foldl ?_ (fun _ _ _ => ?_))) <;> simp +contextual (maxDischargeDepth := 40) [*]

@[simp] theorem State.bondOne_calm (b : State) (s : State) (h0 : Half) (lane : Nat) (l : Lane) (h : Calm b s)  :
    Calm b (State.bondOne s h0 lane l) := by
  unfold State.bondOne
  (try dsimp only)
  (repeat' (first | split | with_reducible refine calm_foldl ?_ (fun _ _ _ => ?_))) <;> simp +contextual (maxDischargeDepth := 40) [*]

@[simp] theorem State.takeHello_calm (b : State) (s : State) (h0 : Half) (lane : Nat) (f : Frame) (h : Calm b s)  :
    Calm b (State.takeHello s h0 lane f) := by
  unfold State.takeHello
  (try dsimp only)
  (repeat' (first | split | with_reducible refine calm_foldl ?_ (fun _ _ _ => ?_))) <;> simp +contextual (maxDischargeDepth := 40) [*]

end Sys2Proof.Machine
end

