-- ==== Sys2Proof/Laws/CalmStream.lean ====
section
/-! SUPPORT. Intake: what is calm. -/
namespace Sys2Proof.Machine

@[simp] theorem State.strayRefusal_calm (b : State) (s : State) (h0 : Half) (handle : Nat) (seq : Nat) (expected : Nat) (h : Calm b s)  :
    Calm b (State.strayRefusal s h0 handle seq expected) := by
  unfold State.strayRefusal
  (try dsimp only)
  (repeat' (first | split | with_reducible refine calm_foldl ?_ (fun _ _ _ => ?_))) <;> simp +contextual (maxDischargeDepth := 40) [*]

@[simp] theorem State.refuseRecord_calm (b : State) (s : State) (r : Route) (seq : Nat) (status : Nat) (h : Calm b s)  :
    Calm b (State.refuseRecord s r seq status) := by
  unfold State.refuseRecord
  (try dsimp only)
  (repeat' (first | split | with_reducible refine calm_foldl ?_ (fun _ _ _ => ?_))) <;> simp +contextual (maxDischargeDepth := 40) [*]

@[simp] theorem State.journalIntake_calm (b : State) (s : State) (r : Route) (kind : Nat) (x : InRec) (h : Calm b s)  :
    Calm b (State.journalIntake s r kind x) := by
  unfold State.journalIntake
  (try dsimp only)
  (repeat' (first | split | with_reducible refine calm_foldl ?_ (fun _ _ _ => ?_))) <;> simp +contextual (maxDischargeDepth := 40) [*]

@[simp] theorem State.releasePrompt_calm (b : State) (s : State) (b0 : Binding) (r : Route) (ts : List Nat) (last : Bool) (h : Calm b s)  :
    Calm b (State.releasePrompt s b0 r ts last) := by
  unfold State.releasePrompt
  (try dsimp only)
  (repeat' (first | split | with_reducible refine calm_foldl ?_ (fun _ _ _ => ?_))) <;> simp +contextual (maxDischargeDepth := 40) [*]

@[simp] theorem State.promptEnds_calm (b : State) (s : State) (b0 : Binding) (r : Route) (ts : List Nat) (h : Calm b s)  :
    Calm b (State.promptEnds s b0 r ts) := by
  unfold State.promptEnds
  (try dsimp only)
  (repeat' (first | split | with_reducible refine calm_foldl ?_ (fun _ _ _ => ?_))) <;> simp +contextual (maxDischargeDepth := 40) [*]

@[simp] theorem State.refuseEarly_calm (b : State) (s : State) (h0 : Half) (x : InRec) (h : Calm b s)  :
    Calm b (State.refuseEarly s h0 x) := by
  unfold State.refuseEarly
  (try dsimp only)
  (repeat' (first | split | with_reducible refine calm_foldl ?_ (fun _ _ _ => ?_))) <;> simp +contextual (maxDischargeDepth := 40) [*]

@[simp] theorem State.takeRecord_calm (b : State) (s : State) (h0 : Half) (kind : Nat) (x : InRec) (h : Calm b s)  :
    Calm b (State.takeRecord s h0 kind x) := by
  unfold State.takeRecord
  (try dsimp only)
  (repeat' (first | split | with_reducible refine calm_foldl ?_ (fun _ _ _ => ?_))) <;> simp +contextual (maxDischargeDepth := 40) [*]

@[simp] theorem State.pretokenPassed_calm (b : State) (s : State) (b0 : Binding) (r : Route) (k : Tki) (h : Calm b s)  :
    Calm b (State.pretokenPassed s b0 r k) := by
  unfold State.pretokenPassed
  (try dsimp only)
  (repeat' (first | split | with_reducible refine calm_foldl ?_ (fun _ _ _ => ?_))) <;> simp +contextual (maxDischargeDepth := 40) [*]

@[simp] theorem State.pretoken_calm (b : State) (s : State) (handle : Nat) (res : CheckResult) (h : Calm b s)  :
    Calm b (State.pretoken s handle res) := by
  unfold State.pretoken
  (try dsimp only)
  (repeat' (first | split | with_reducible refine calm_foldl ?_ (fun _ _ _ => ?_))) <;> simp +contextual (maxDischargeDepth := 40) [*]

end Sys2Proof.Machine
end

