-- ==== Sys2Proof/Laws/CalmImages.lean ====
section
/-! SUPPORT. The image store: what is calm. -/
namespace Sys2Proof.Machine

@[simp] theorem State.readJob_calm (b : State) (s : State) (j : Job) (rs : List Region) (h : Calm b s)  :
    Calm b (State.readJob s j rs) := by
  unfold State.readJob
  (try dsimp only)
  (repeat' (first | split | with_reducible refine calm_foldl ?_ (fun _ _ _ => ?_))) <;> simp +contextual (maxDischargeDepth := 40) [*]

@[simp] theorem State.startFetch_calm (b : State) (s : State) (i : Image) (h : Calm b s)  :
    Calm b (State.startFetch s i) := by
  unfold State.startFetch
  (try dsimp only)
  (repeat' (first | split | with_reducible refine calm_foldl ?_ (fun _ _ _ => ?_))) <;> simp +contextual (maxDischargeDepth := 40) [*]

@[simp] theorem State.fetchPart_calm (b : State) (s : State) (h0 : Half) (d : Digest) (part : Nat) (data : List Byte) (h : Calm b s)  :
    Calm b (State.fetchPart s h0 d part data) := by
  unfold State.fetchPart
  (try dsimp only)
  (repeat' (first | split | with_reducible refine calm_foldl ?_ (fun _ _ _ => ?_))) <;> simp +contextual (maxDischargeDepth := 40) [*]

@[simp] theorem State.verifyImage_calm (b : State) (s : State) (i : Image) (h : Calm b s)  :
    Calm b (State.verifyImage s i) := by
  unfold State.verifyImage
  (try dsimp only)
  (repeat' (first | split | with_reducible refine calm_foldl ?_ (fun _ _ _ => ?_))) <;> simp +contextual (maxDischargeDepth := 40) [*]

@[simp] theorem State.loadBegin_calm (b : State) (s : State) (j : Job) (h : Calm b s)  :
    Calm b (State.loadBegin s j) := by
  unfold State.loadBegin
  (try dsimp only)
  (repeat' (first | split | with_reducible refine calm_foldl ?_ (fun _ _ _ => ?_))) <;> simp +contextual (maxDischargeDepth := 40) [*]

@[simp] theorem loadBody_calm (b : State) (slot : Nat) (p : List Byte) (s : State) (h : Calm b s)  :
    Calm b (loadBody slot p s) := by
  unfold loadBody
  (try dsimp only)
  (repeat' (first | split | with_reducible refine calm_foldl ?_ (fun _ _ _ => ?_))) <;> simp +contextual (maxDischargeDepth := 40) [*]

@[simp] theorem State.loadCrc_calm (b : State) (s : State) (j : Job) (h : Calm b s)  :
    Calm b (State.loadCrc s j) := by
  unfold State.loadCrc
  (try dsimp only)
  (repeat' (first | split | with_reducible refine calm_foldl ?_ (fun _ _ _ => ?_))) <;> simp +contextual (maxDischargeDepth := 40) [*]

@[simp] theorem State.loadGo_calm (b : State) (s : State) (j : Job) (h : Calm b s)  :
    Calm b (State.loadGo s j) := by
  unfold State.loadGo
  (try dsimp only)
  (repeat' (first | split | with_reducible refine calm_foldl ?_ (fun _ _ _ => ?_))) <;> simp +contextual (maxDischargeDepth := 40) [*]

@[simp] theorem State.loadHeader_calm (b : State) (s : State) (j : Job) (h : Calm b s)  :
    Calm b (State.loadHeader s j) := by
  unfold State.loadHeader
  (try dsimp only)
  (repeat' (first | split | with_reducible refine calm_foldl ?_ (fun _ _ _ => ?_))) <;> simp +contextual (maxDischargeDepth := 40) [*]

@[simp] theorem State.loadManifest_calm (b : State) (s : State) (j : Job) (h : Calm b s)  :
    Calm b (State.loadManifest s j) := by
  unfold State.loadManifest
  (try dsimp only)
  (repeat' (first | split | with_reducible refine calm_foldl ?_ (fun _ _ _ => ?_))) <;> simp +contextual (maxDischargeDepth := 40) [*]

@[simp] theorem State.abandon_calm (b : State) (s : State) (d : Digest) (h : Calm b s)  :
    Calm b (State.abandon s d) := by
  unfold State.abandon
  (try dsimp only)
  (repeat' (first | split | with_reducible refine calm_foldl ?_ (fun _ _ _ => ?_))) <;> simp +contextual (maxDischargeDepth := 40) [*]

@[simp] theorem releaseBody_calm (b : State) (slot : Nat) (p : List Byte) (s : State) (h : Calm b s)  :
    Calm b (releaseBody slot p s) := by
  unfold releaseBody
  (try dsimp only)
  (repeat' (first | split | with_reducible refine calm_foldl ?_ (fun _ _ _ => ?_))) <;> simp +contextual (maxDischargeDepth := 40) [*]

@[simp] theorem imgQueryBody_calm (b : State) (slot : Nat) (p : List Byte) (s : State) (h : Calm b s)  :
    Calm b (imgQueryBody slot p s) := by
  unfold imgQueryBody
  (try dsimp only)
  (repeat' (first | split | with_reducible refine calm_foldl ?_ (fun _ _ _ => ?_))) <;> simp +contextual (maxDischargeDepth := 40) [*]

@[simp] theorem imgListBody_calm (b : State) (slot : Nat) (p : List Byte) (s : State) (h : Calm b s)  :
    Calm b (imgListBody slot p s) := by
  unfold imgListBody
  (try dsimp only)
  (repeat' (first | split | with_reducible refine calm_foldl ?_ (fun _ _ _ => ?_))) <;> simp +contextual (maxDischargeDepth := 40) [*]

end Sys2Proof.Machine
end

