-- ==== Sys2Proof/Laws/CalmBindings.lean ====
section
/-! SUPPORT. Bindings: what is calm. -/
namespace Sys2Proof.Machine

@[simp] theorem State.startReply_calm (b : State) (s : State) (j : Job) (b0 : Binding) (h : Calm b s)  :
    Calm b (State.startReply s j b0) := by
  unfold State.startReply
  (try dsimp only)
  (repeat' (first | split | with_reducible refine calm_foldl ?_ (fun _ _ _ => ?_))) <;> simp +contextual (maxDischargeDepth := 40) [*]

@[simp] theorem State.nowActive_calm (b : State) (s : State) (b0 : Binding) (h : Calm b s)  :
    Calm b (State.nowActive s b0) := by
  unfold State.nowActive
  (try dsimp only)
  (repeat' (first | split | with_reducible refine calm_foldl ?_ (fun _ _ _ => ?_))) <;> simp +contextual (maxDischargeDepth := 40) [*]

@[simp] theorem State.activate_calm (b : State) (s : State) (b0 : Binding) (j : Job) (h : Calm b s)  :
    Calm b (State.activate s b0 j) := by
  unfold State.activate
  (try dsimp only)
  (repeat' (first | split | with_reducible refine calm_foldl ?_ (fun _ _ _ => ?_))) <;> simp +contextual (maxDischargeDepth := 40) [*]

@[simp] theorem State.cacheMask_calm (b : State) (s : State) (h0 : Half) (k : CacheKey) (h : Calm b s)  :
    Calm b (State.cacheMask s h0 k) := by
  unfold State.cacheMask
  (try dsimp only)
  (repeat' (first | split | with_reducible refine calm_foldl ?_ (fun _ _ _ => ?_))) <;> simp +contextual (maxDischargeDepth := 40) [*]

@[simp] theorem State.createFail_calm (b : State) (s : State) (j : Job) (status : Nat) (o : ObjState) (h : Calm b s)  :
    Calm b (State.createFail s j status o) := by
  unfold State.createFail
  (try dsimp only)
  (repeat' (first | split | with_reducible refine calm_foldl ?_ (fun _ _ _ => ?_))) <;> simp +contextual (maxDischargeDepth := 40) [*]

@[simp] theorem State.createGo_calm (b : State) (s : State) (j : Job) (h : Calm b s)  :
    Calm b (State.createGo s j) := by
  unfold State.createGo
  (try dsimp only)
  (repeat' (first | split | with_reducible refine calm_foldl ?_ (fun _ _ _ => ?_))) <;> simp +contextual (maxDischargeDepth := 40) [*]

@[simp] theorem State.createEnter_calm (b : State) (s : State) (j : Job) (bias : List Byte) (stops : List Byte) (h : Calm b s)  :
    Calm b (State.createEnter s j bias stops) := by
  unfold State.createEnter
  (try dsimp only)
  (repeat' (first | split | with_reducible refine calm_foldl ?_ (fun _ _ _ => ?_))) <;> simp +contextual (maxDischargeDepth := 40) [*]

@[simp] theorem State.createLists_calm (b : State) (s : State) (j : Job) (h : Calm b s)  :
    Calm b (State.createLists s j) := by
  unfold State.createLists
  (try dsimp only)
  (repeat' (first | split | with_reducible refine calm_foldl ?_ (fun _ _ _ => ?_))) <;> simp +contextual (maxDischargeDepth := 40) [*]

@[simp] theorem createBody_calm (b : State) (slot : Nat) (p : List Byte) (s : State) (h : Calm b s)  :
    Calm b (createBody slot p s) := by
  unfold createBody
  (try dsimp only)
  (repeat' (first | split | with_reducible refine calm_foldl ?_ (fun _ _ _ => ?_))) <;> simp +contextual (maxDischargeDepth := 40) [*]

@[simp] theorem State.startGo_calm (b : State) (s : State) (j : Job) (h : Calm b s)  :
    Calm b (State.startGo s j) := by
  unfold State.startGo
  (try dsimp only)
  (repeat' (first | split | with_reducible refine calm_foldl ?_ (fun _ _ _ => ?_))) <;> simp +contextual (maxDischargeDepth := 40) [*]

@[simp] theorem startBody_calm (b : State) (slot : Nat) (p : List Byte) (s : State) (h : Calm b s)  :
    Calm b (startBody slot p s) := by
  unfold startBody
  (try dsimp only)
  (repeat' (first | split | with_reducible refine calm_foldl ?_ (fun _ _ _ => ?_))) <;> simp +contextual (maxDischargeDepth := 40) [*]

@[simp] theorem stopBody_calm (b : State) (slot : Nat) (p : List Byte) (s : State) (h : Calm b s)  :
    Calm b (stopBody slot p s) := by
  unfold stopBody
  (try dsimp only)
  (repeat' (first | split | with_reducible refine calm_foldl ?_ (fun _ _ _ => ?_))) <;> simp +contextual (maxDischargeDepth := 40) [*]

@[simp] theorem State.fenceSyns_calm (b : State) (s : State) (b0 : Binding) (h : Calm b s)  :
    Calm b (State.fenceSyns s b0) := by
  unfold State.fenceSyns
  (try dsimp only)
  (repeat' (first | split | with_reducible refine calm_foldl ?_ (fun _ _ _ => ?_))) <;> simp +contextual (maxDischargeDepth := 40) [*]

@[simp] theorem State.refuseLone_calm (b : State) (s : State) (handle : Nat) (h0 : Half) (h : Calm b s)  :
    Calm b (State.refuseLone s handle h0) := by
  unfold State.refuseLone
  (try dsimp only)
  (repeat' (first | split | with_reducible refine calm_foldl ?_ (fun _ _ _ => ?_))) <;> simp +contextual (maxDischargeDepth := 40) [*]

@[simp] theorem State.refuseWaiting_calm (b : State) (s : State) (handle : Nat) (h : Calm b s)  :
    Calm b (State.refuseWaiting s handle) := by
  unfold State.refuseWaiting
  split
  · exact h
  · refine State.dropDrafts_calm _ _ _ (State.refuseLone_calm _ _ _ _ (State.refuseLone_calm _ _ _ _ (calm_foldl ?_ fun t w ht => ?_)))
    · simp [h]
    · split <;> simp [ht]

@[simp] theorem State.fenceAck_calm (b : State) (s : State) (handle : Nat) (h : Calm b s)  :
    Calm b (State.fenceAck s handle) := by
  unfold State.fenceAck
  (try dsimp only)
  (repeat' (first | split | with_reducible refine calm_foldl ?_ (fun _ _ _ => ?_))) <;> simp +contextual (maxDischargeDepth := 40) [*]

@[simp] theorem State.saveRoute_calm (b : State) (s : State) (b0 : Binding) (r : Route) (h : Calm b s)  :
    Calm b (State.saveRoute s b0 r) := by
  unfold State.saveRoute
  (try dsimp only)
  (repeat' (first | split | with_reducible refine calm_foldl ?_ (fun _ _ _ => ?_))) <;> simp +contextual (maxDischargeDepth := 40) [*]

@[simp] theorem State.saveDone_calm (b : State) (s : State) (j : Job) (b0 : Binding) (r : Route) (h : Calm b s)  :
    Calm b (State.saveDone s j b0 r) := by
  unfold State.saveDone
  (try dsimp only)
  (repeat' (first | split | with_reducible refine calm_foldl ?_ (fun _ _ _ => ?_))) <;> simp +contextual (maxDischargeDepth := 40) [*]

@[simp] theorem State.benchWritten_calm (b : State) (s : State) (handle : Nat) (h : Calm b s)  :
    Calm b (State.benchWritten s handle) := by
  unfold State.benchWritten
  (try dsimp only)
  (repeat' (first | split | with_reducible refine calm_foldl ?_ (fun _ _ _ => ?_))) <;> simp +contextual (maxDischargeDepth := 40) [*]

@[simp] theorem State.saveWritten_calm (b : State) (s : State) (j : Job) (h : Calm b s)  :
    Calm b (State.saveWritten s j) := by
  unfold State.saveWritten
  (try dsimp only)
  (repeat' (first | split | with_reducible refine calm_foldl ?_ (fun _ _ _ => ?_))) <;> simp +contextual (maxDischargeDepth := 40) [*]

@[simp] theorem State.saveFailed_calm (b : State) (s : State) (j : Job) (h : Calm b s)  :
    Calm b (State.saveFailed s j) := by
  unfold State.saveFailed
  (try dsimp only)
  (repeat' (first | split | with_reducible refine calm_foldl ?_ (fun _ _ _ => ?_))) <;> simp +contextual (maxDischargeDepth := 40) [*]

@[simp] theorem State.endHeld_calm (b : State) (s : State) (b0 : Binding) (set : ImgSet) (c : EndCause) (h : Calm b s)  :
    Calm b (State.endHeld s b0 set c) := by
  unfold State.endHeld
  (try dsimp only)
  (repeat' (first | split | with_reducible refine calm_foldl ?_ (fun _ _ _ => ?_))) <;> simp +contextual (maxDischargeDepth := 40) [*]

@[simp] theorem State.startAgain_calm (b : State) (s : State) (b0 : Binding) (h : Calm b s)  :
    Calm b (State.startAgain s b0) := by
  unfold State.startAgain
  (try dsimp only)
  (repeat' (first | split | with_reducible refine calm_foldl ?_ (fun _ _ _ => ?_))) <;> simp +contextual (maxDischargeDepth := 40) [*]

@[simp] theorem State.swapFail_calm (b : State) (s : State) (j : Job) (b0 : Binding) (x : ImgSet) (status : Nat) (h : Calm b s)  :
    Calm b (State.swapFail s j b0 x status) := by
  unfold State.swapFail
  (try dsimp only)
  (repeat' (first | split | with_reducible refine calm_foldl ?_ (fun _ _ _ => ?_))) <;> simp +contextual (maxDischargeDepth := 40) [*]

@[simp] theorem State.swapCommit_calm (b : State) (s : State) (j : Job) (b0 : Binding) (x : ImgSet) (hold : Bool) (h : Calm b s)  :
    Calm b (State.swapCommit s j b0 x hold) := by
  unfold State.swapCommit
  (try dsimp only)
  (repeat' (first | split | with_reducible refine calm_foldl ?_ (fun _ _ _ => ?_))) <;> simp +contextual (maxDischargeDepth := 40) [*]

@[simp] theorem State.swapGo_calm (b : State) (s : State) (j : Job) (h : Calm b s)  :
    Calm b (State.swapGo s j) := by
  unfold State.swapGo
  (try dsimp only)
  (repeat' (first | split | with_reducible refine calm_foldl ?_ (fun _ _ _ => ?_))) <;> simp +contextual (maxDischargeDepth := 40) [*]

@[simp] theorem swapBody_calm (b : State) (slot : Nat) (p : List Byte) (s : State) (h : Calm b s)  :
    Calm b (swapBody slot p s) := by
  unfold swapBody
  (try dsimp only)
  (repeat' (first | split | with_reducible refine calm_foldl ?_ (fun _ _ _ => ?_))) <;> simp +contextual (maxDischargeDepth := 40) [*]

@[simp] theorem State.stopFill_calm (b : State) (s : State) (b0 : Binding) (h : Calm b s)  :
    Calm b (State.stopFill s b0) := by
  unfold State.stopFill
  (try dsimp only)
  (repeat' (first | split | with_reducible refine calm_foldl ?_ (fun _ _ _ => ?_))) <;> simp +contextual (maxDischargeDepth := 40) [*]

@[simp] theorem retireBody_calm (b : State) (slot : Nat) (p : List Byte) (s : State) (h : Calm b s)  :
    Calm b (retireBody slot p s) := by
  unfold retireBody
  (try dsimp only)
  (repeat' (first | split | with_reducible refine calm_foldl ?_ (fun _ _ _ => ?_))) <;> simp +contextual (maxDischargeDepth := 40) [*]

@[simp] theorem bndQueryBody_calm (b : State) (slot : Nat) (p : List Byte) (s : State) (h : Calm b s)  :
    Calm b (bndQueryBody slot p s) := by
  unfold bndQueryBody
  (try dsimp only)
  (repeat' (first | split | with_reducible refine calm_foldl ?_ (fun _ _ _ => ?_))) <;> simp +contextual (maxDischargeDepth := 40) [*]

@[simp] theorem State.imageGo_calm (b : State) (s : State) (d : Digest) (h : Calm b s)  :
    Calm b (State.imageGo s d) := by
  unfold State.imageGo
  (try dsimp only)
  (repeat' (first | split | with_reducible refine calm_foldl ?_ (fun _ _ _ => ?_))) <;> simp +contextual (maxDischargeDepth := 40) [*]

end Sys2Proof.Machine
end

