-- ==== Sys2Proof/Laws/CalmRoutes.lean ====
section
/-! SUPPORT. Commands of routes: what is calm. -/
namespace Sys2Proof.Machine

@[simp] theorem State.addRoute_calm (b : State) (s : State) (i : Nat) (r : Route) (h : Calm b s)  :
    Calm b (State.addRoute s i r) := by
  unfold State.addRoute
  (try dsimp only)
  (repeat' (first | split | with_reducible refine calm_foldl ?_ (fun _ _ _ => ?_))) <;> simp +contextual (maxDischargeDepth := 40) [*]

@[simp] theorem openBody_calm (b : State) (slot : Nat) (p : List Byte) (s : State) (h : Calm b s)  :
    Calm b (openBody slot p s) := by
  unfold openBody
  (try dsimp only)
  (repeat' (first | split | with_reducible refine calm_foldl ?_ (fun _ _ _ => ?_))) <;> simp +contextual (maxDischargeDepth := 40) [*]

@[simp] theorem State.routeWait_calm (b : State) (s : State) (slot : Nat) (p : List Byte) (handle : Nat) (h : Calm b s)  :
    Calm b (State.routeWait s slot p handle) := by
  unfold State.routeWait
  (try dsimp only)
  (repeat' (first | split | with_reducible refine calm_foldl ?_ (fun _ _ _ => ?_))) <;> simp +contextual (maxDischargeDepth := 40) [*]

@[simp] theorem pauseBody_calm (b : State) (slot : Nat) (p : List Byte) (s : State) (h : Calm b s)  :
    Calm b (pauseBody slot p s) := by
  unfold pauseBody
  (try dsimp only)
  (repeat' (first | split | with_reducible refine calm_foldl ?_ (fun _ _ _ => ?_))) <;> simp +contextual (maxDischargeDepth := 40) [*]

@[simp] theorem saveBody_calm (b : State) (slot : Nat) (p : List Byte) (s : State) (h : Calm b s)  :
    Calm b (saveBody slot p s) := by
  unfold saveBody
  (try dsimp only)
  (repeat' (first | split | with_reducible refine calm_foldl ?_ (fun _ _ _ => ?_))) <;> simp +contextual (maxDischargeDepth := 40) [*]

@[simp] theorem endBody_calm (b : State) (slot : Nat) (p : List Byte) (s : State) (h : Calm b s)  :
    Calm b (endBody slot p s) := by
  unfold endBody
  (try dsimp only)
  (repeat' (first | split | with_reducible refine calm_foldl ?_ (fun _ _ _ => ?_))) <;> simp +contextual (maxDischargeDepth := 40) [*]

@[simp] theorem State.resumeMarks_calm (b : State) (s : State) (r : Route) (moved : Bool) (rebase : Bool) (h : Calm b s)  :
    Calm b (State.resumeMarks s r moved rebase) := by
  unfold State.resumeMarks
  (try dsimp only)
  (repeat' (first | split | with_reducible refine calm_foldl ?_ (fun _ _ _ => ?_))) <;> simp +contextual (maxDischargeDepth := 40) [*]

@[simp] theorem State.resumeDone_calm (b : State) (s : State) (slot : Nat) (b0 : Binding) (r : Route) (moved : Bool) (rebase : Bool) (h : Calm b s)  :
    Calm b (State.resumeDone s slot b0 r moved rebase) := by
  unfold State.resumeDone
  (try dsimp only)
  (repeat' (first | split | with_reducible refine calm_foldl ?_ (fun _ _ _ => ?_))) <;> simp +contextual (maxDischargeDepth := 40) [*]

@[simp] theorem State.resumePaused_calm (b : State) (s : State) (slot : Nat) (b0 : Binding) (r : Route) (h : Calm b s)  :
    Calm b (State.resumePaused s slot b0 r) := by
  unfold State.resumePaused
  (try dsimp only)
  (repeat' (first | split | with_reducible refine calm_foldl ?_ (fun _ _ _ => ?_))) <;> simp +contextual (maxDischargeDepth := 40) [*]

@[simp] theorem State.resumeSaved_calm (b : State) (s : State) (slot : Nat) (b0 : Binding) (r : Route) (p : List Byte) (h : Calm b s)  :
    Calm b (State.resumeSaved s slot b0 r p) := by
  unfold State.resumeSaved
  (try dsimp only)
  (repeat' (first | split | with_reducible refine calm_foldl ?_ (fun _ _ _ => ?_))) <;> simp +contextual (maxDischargeDepth := 40) [*]

@[simp] theorem resumeBody_calm (b : State) (slot : Nat) (p : List Byte) (s : State) (h : Calm b s)  :
    Calm b (resumeBody slot p s) := by
  unfold resumeBody
  (try dsimp only)
  (repeat' (first | split | with_reducible refine calm_foldl ?_ (fun _ _ _ => ?_))) <;> simp +contextual (maxDischargeDepth := 40) [*]

@[simp] theorem State.resumeRead_calm (b : State) (s : State) (j : Job) (h : Calm b s)  :
    Calm b (State.resumeRead s j) := by
  unfold State.resumeRead
  (try dsimp only)
  (repeat' (first | split | with_reducible refine calm_foldl ?_ (fun _ _ _ => ?_))) <;> simp +contextual (maxDischargeDepth := 40) [*]

@[simp] theorem rtQueryBody_calm (b : State) (slot : Nat) (p : List Byte) (s : State) (h : Calm b s)  :
    Calm b (rtQueryBody slot p s) := by
  unfold rtQueryBody
  (try dsimp only)
  (repeat' (first | split | with_reducible refine calm_foldl ?_ (fun _ _ _ => ?_))) <;> simp +contextual (maxDischargeDepth := 40) [*]

@[simp] theorem discardBody_calm (b : State) (slot : Nat) (p : List Byte) (s : State) (h : Calm b s)  :
    Calm b (discardBody slot p s) := by
  unfold discardBody
  (try dsimp only)
  (repeat' (first | split | with_reducible refine calm_foldl ?_ (fun _ _ _ => ?_))) <;> simp +contextual (maxDischargeDepth := 40) [*]

@[simp] theorem exportBody_calm (b : State) (slot : Nat) (p : List Byte) (s : State) (h : Calm b s)  :
    Calm b (exportBody slot p s) := by
  unfold exportBody
  (try dsimp only)
  (repeat' (first | split | with_reducible refine calm_foldl ?_ (fun _ _ _ => ?_))) <;> simp +contextual (maxDischargeDepth := 40) [*]

end Sys2Proof.Machine
end

