-- ==== Sys2Proof/Laws/CalmEngine.lean ====
section
/-! SUPPORT. Engine commands: what is calm. -/
namespace Sys2Proof.Machine

/-- `engine.drain` and `engine.serve` are for engines that serve (12 R268). -/
theorem rank_of_valid {c : Nat} {e : EState} (hc : c = cDrain ∨ c = cServe) (h : validIn c e = true) : e.rank ≤ 4 := by
  rcases hc with rfl | rfl <;> revert h <;> cases e <;> decide

@[simp] theorem bare_calm (b : State) (slot : Nat) (p : List Byte) (s : State) (t : State) (h : Calm b s) (h1 : Calm b t)  :
    Calm b (bare slot p s t) := by
  unfold bare
  (try dsimp only)
  (repeat' (first | split | with_reducible refine calm_foldl ?_ (fun _ _ _ => ?_))) <;> simp +contextual (maxDischargeDepth := 40) [*]

@[simp] theorem engQueryBody_calm (b : State) (slot : Nat) (p : List Byte) (s : State) (h : Calm b s)  :
    Calm b (engQueryBody slot p s) := by
  unfold engQueryBody
  (try dsimp only)
  (repeat' (first | split | with_reducible refine calm_foldl ?_ (fun _ _ _ => ?_))) <;> simp +contextual (maxDischargeDepth := 40) [*]

@[simp] theorem configureBody_calm (b : State) (slot : Nat) (p : List Byte) (s : State) (h : Calm b s)  :
    Calm b (configureBody slot p s) := by
  unfold configureBody
  split
  · exact State.commitOk_calm _ _ _ _ _ (calm_mk h (Nat.le_refl _) rfl rfl rfl rfl rfl)
  · exact State.refuse_calm _ _ _ _ _ h

theorem State.withState_calm {b s : State} (e : EState) (h : Calm b s) (he : s.eng.state.rank ≤ e.rank) :
    Calm b (s.withState e) := calm_mk h he rfl rfl rfl rfl rfl

theorem drainBody_calm {b s : State} (slot : Nat) (p : List Byte) (h : Calm b s) (hs : s.eng.state.rank ≤ 4) :
    Calm b (drainBody slot p s) := by
  have k := State.withState_calm .drain h hs
  simp [drainBody, h, k]

theorem serveBody_calm {b s : State} (slot : Nat) (p : List Byte) (h : Calm b s) (hs : s.eng.state.rank ≤ 4) :
    Calm b (serveBody slot p s) := by
  have k := State.withState_calm s.servingState h (Nat.le_trans hs (by unfold State.servingState; split <;> decide))
  simp [serveBody, h, k]

@[simp] theorem State.haltNow_calm (b : State) (s : State) (slot : Nat) (h : Calm b s)  :
    Calm b (State.haltNow s slot) := by
  unfold State.haltNow
  have k := State.withState_calm .halt h (by cases s.eng.state <;> decide)
  simp (maxDischargeDepth := 40) [k]

@[simp] theorem State.haltSaving_calm (b : State) (s : State) (slot : Nat) (p : List Byte) (h : Calm b s)  :
    Calm b (State.haltSaving s slot p) := by
  unfold State.haltSaving
  (try dsimp only)
  (repeat' (first | split | with_reducible refine calm_foldl ?_ (fun _ _ _ => ?_))) <;> simp +contextual (maxDischargeDepth := 40) [*]

@[simp] theorem haltBody_calm (b : State) (slot : Nat) (p : List Byte) (s : State) (h : Calm b s)  :
    Calm b (haltBody slot p s) := by
  unfold haltBody
  (try dsimp only)
  (repeat' (first | split | with_reducible refine calm_foldl ?_ (fun _ _ _ => ?_))) <;> simp +contextual (maxDischargeDepth := 40) [*]

@[simp] theorem restartBody_calm (b : State) (slot : Nat) (p : List Byte) (s : State) (h : Calm b s)  :
    Calm b (restartBody slot p s) := by
  unfold restartBody
  (try dsimp only)
  (repeat' (first | split | with_reducible refine calm_foldl ?_ (fun _ _ _ => ?_))) <;> simp +contextual (maxDischargeDepth := 40) [*]

end Sys2Proof.Machine
end

