-- ==== Sys2Proof/Laws/CalmDiag.lean ====
section
/-! SUPPORT. Diagnostic commands: what is calm. -/
namespace Sys2Proof.Machine

@[simp] theorem countersBody_calm (b : State) (slot : Nat) (p : List Byte) (s : State) (h : Calm b s)  :
    Calm b (countersBody slot p s) := by
  unfold countersBody
  (try dsimp only)
  (repeat' (first | split | with_reducible refine calm_foldl ?_ (fun _ _ _ => ?_))) <;> simp +contextual (maxDischargeDepth := 40) [*]

@[simp] theorem censusBody_calm (b : State) (slot : Nat) (p : List Byte) (s : State) (h : Calm b s)  :
    Calm b (censusBody slot p s) := by
  unfold censusBody
  (try dsimp only)
  (repeat' (first | split | with_reducible refine calm_foldl ?_ (fun _ _ _ => ?_))) <;> simp +contextual (maxDischargeDepth := 40) [*]

@[simp] theorem residencyBody_calm (b : State) (slot : Nat) (p : List Byte) (s : State) (h : Calm b s)  :
    Calm b (residencyBody slot p s) := by
  unfold residencyBody
  (try dsimp only)
  (repeat' (first | split | with_reducible refine calm_foldl ?_ (fun _ _ _ => ?_))) <;> simp +contextual (maxDischargeDepth := 40) [*]

@[simp] theorem State.wakeHalf_calm (b : State) (s : State) (p : List Byte) (h : Calm b s)  :
    Calm b (State.wakeHalf s p) := by
  unfold State.wakeHalf
  (try dsimp only)
  (repeat' (first | split | with_reducible refine calm_foldl ?_ (fun _ _ _ => ?_))) <;> simp +contextual (maxDischargeDepth := 40) [*]

@[simp] theorem bankReadBody_calm (b : State) (slot : Nat) (p : List Byte) (s : State) (h : Calm b s)  :
    Calm b (bankReadBody slot p s) := by
  unfold bankReadBody
  (try dsimp only)
  (repeat' (first | split | with_reducible refine calm_foldl ?_ (fun _ _ _ => ?_))) <;> simp +contextual (maxDischargeDepth := 40) [*]

@[simp] theorem bankWriteBody_calm (b : State) (slot : Nat) (p : List Byte) (s : State) (h : Calm b s)  :
    Calm b (bankWriteBody slot p s) := by
  unfold bankWriteBody
  (try dsimp only)
  (repeat' (first | split | with_reducible refine calm_foldl ?_ (fun _ _ _ => ?_))) <;> simp +contextual (maxDischargeDepth := 40) [*]

@[simp] theorem State.markRoutes_calm (b : State) (s : State) (depends : Binding → Bool) (h : Calm b s)  :
    Calm b (State.markRoutes s depends) := by
  unfold State.markRoutes
  (try dsimp only)
  (repeat' (first | split | with_reducible refine calm_foldl ?_ (fun _ _ _ => ?_))) <;> simp +contextual (maxDischargeDepth := 40) [*]

@[simp] theorem State.writeRegion_calm (b : State) (s : State) (p : List Byte) (c : List Byte) (data : List Byte) (h : Calm b s)  :
    Calm b (State.writeRegion s p c data) := by
  unfold State.writeRegion
  (try dsimp only)
  (repeat' (first | split | with_reducible refine calm_foldl ?_ (fun _ _ _ => ?_))) <;> simp +contextual (maxDischargeDepth := 40) [*]

@[simp] theorem State.bankWritten_calm (b : State) (s : State) (j : Job) (h : Calm b s)  :
    Calm b (State.bankWritten s j) := by
  unfold State.bankWritten
  (try dsimp only)
  (repeat' (first | split | with_reducible refine calm_foldl ?_ (fun _ _ _ => ?_))) <;> simp +contextual (maxDischargeDepth := 40) [*]

@[simp] theorem contactBody_calm (b : State) (slot : Nat) (p : List Byte) (s : State) (h : Calm b s)  :
    Calm b (contactBody slot p s) := by
  unfold contactBody
  (try dsimp only)
  (repeat' (first | split | with_reducible refine calm_foldl ?_ (fun _ _ _ => ?_))) <;> simp +contextual (maxDischargeDepth := 40) [*]

@[simp] theorem jexportBody_calm (b : State) (slot : Nat) (p : List Byte) (s : State) (h : Calm b s)  :
    Calm b (jexportBody slot p s) := by
  unfold jexportBody
  (try dsimp only)
  (repeat' (first | split | with_reducible refine calm_foldl ?_ (fun _ _ _ => ?_))) <;> simp +contextual (maxDischargeDepth := 40) [*]

@[simp] theorem State.exported_calm (b : State) (s : State) (data : List Byte) (h : Calm b s)  :
    Calm b (State.exported s data) := by
  unfold State.exported
  (try dsimp only)
  (repeat' (first | split | with_reducible refine calm_foldl ?_ (fun _ _ _ => ?_))) <;> simp +contextual (maxDischargeDepth := 40) [*]

@[simp] theorem selftestBody_calm (b : State) (slot : Nat) (p : List Byte) (s : State) (h : Calm b s)  :
    Calm b (selftestBody slot p s) := by
  unfold selftestBody
  (try dsimp only)
  (repeat' (first | split | with_reducible refine calm_foldl ?_ (fun _ _ _ => ?_))) <;> simp +contextual (maxDischargeDepth := 40) [*]

@[simp] theorem State.retireSpare_calm (b : State) (s : State) (h0 : Half) (h : Calm b s)  :
    Calm b (State.retireSpare s h0) := by
  unfold State.retireSpare
  (try dsimp only)
  (repeat' (first | split | with_reducible refine calm_foldl ?_ (fun _ _ _ => ?_))) <;> simp +contextual (maxDischargeDepth := 40) [*]

@[simp] theorem State.retireFailed_calm (b : State) (s : State) (h0 : Half) (x1 : Nat) (h : Calm b s)  :
    Calm b (State.retireFailed s h0 x1) := by
  induction x1 generalizing s with
  | zero => exact h
  | succ n ih =>
    unfold State.retireFailed
    exact ih _ (State.retirePlate_calm _ _ _ _ (State.takeFree_calm _ _ _ h))

@[simp] theorem State.selftestDone_calm (b : State) (s : State) (h0 : Half) (failed : Nat) (h : Calm b s)  :
    Calm b (State.selftestDone s h0 failed) := by
  unfold State.selftestDone
  (try dsimp only)
  (repeat' (first | split | with_reducible refine calm_foldl ?_ (fun _ _ _ => ?_))) <;> simp +contextual (maxDischargeDepth := 40) [*]

@[simp] theorem snapshotBody_calm (b : State) (slot : Nat) (p : List Byte) (s : State) (h : Calm b s)  :
    Calm b (snapshotBody slot p s) := by
  unfold snapshotBody
  (try dsimp only)
  (repeat' (first | split | with_reducible refine calm_foldl ?_ (fun _ _ _ => ?_))) <;> simp +contextual (maxDischargeDepth := 40) [*]

end Sys2Proof.Machine
end

