-- ==== Sys2Proof/Laws/CalmService.lean ====
section
/-! SUPPORT. Service commands: what is calm, or mild. -/
namespace Sys2Proof.Machine

@[simp] theorem rescueStatusBody_calm (b : State) (slot : Nat) (p : List Byte) (s : State) (h : Calm b s)  :
    Calm b (rescueStatusBody slot p s) := by
  unfold rescueStatusBody
  (try dsimp only)
  (repeat' (first | split | with_reducible refine calm_foldl ?_ (fun _ _ _ => ?_))) <;> simp +contextual (maxDischargeDepth := 40) [*]

@[simp] theorem logReadBody_calm (b : State) (slot : Nat) (p : List Byte) (s : State) (h : Calm b s)  :
    Calm b (logReadBody slot p s) := by
  unfold logReadBody
  (try dsimp only)
  (repeat' (first | split | with_reducible refine calm_foldl ?_ (fun _ _ _ => ?_))) <;> simp +contextual (maxDischargeDepth := 40) [*]

@[simp] theorem State.startFlush_calm (b : State) (s : State) (slot : Nat) (g : Region) (h : Calm b s)  :
    Calm b (State.startFlush s slot g) := by
  unfold State.startFlush
  (try dsimp only)
  (repeat' (first | split | with_reducible refine calm_foldl ?_ (fun _ _ _ => ?_))) <;> simp +contextual (maxDischargeDepth := 40) [*]

@[simp] theorem flushStartBody_calm (b : State) (slot : Nat) (p : List Byte) (s : State) (h : Calm b s)  :
    Calm b (flushStartBody slot p s) := by
  unfold flushStartBody
  (try dsimp only)
  (repeat' (first | split | with_reducible refine calm_foldl ?_ (fun _ _ _ => ?_))) <;> simp +contextual (maxDischargeDepth := 40) [*]

@[simp] theorem flushPollBody_calm (b : State) (slot : Nat) (p : List Byte) (s : State) (h : Calm b s)  :
    Calm b (flushPollBody slot p s) := by
  unfold flushPollBody
  (try dsimp only)
  (repeat' (first | split | with_reducible refine calm_foldl ?_ (fun _ _ _ => ?_))) <;> simp +contextual (maxDischargeDepth := 40) [*]

@[simp] theorem State.quiesce_calm (b : State) (s : State) (h0 : Half) (c : Nat) (h : Calm b s)  :
    Calm b (State.quiesce s h0 c) := by
  unfold State.quiesce
  (try dsimp only)
  (repeat' (first | split | with_reducible refine calm_foldl ?_ (fun _ _ _ => ?_))) <;> simp +contextual (maxDischargeDepth := 40) [*]

@[simp] theorem quiesceBody_calm (b : State) (slot : Nat) (p : List Byte) (s : State) (h : Calm b s)  :
    Calm b (quiesceBody slot p s) := by
  unfold quiesceBody
  (try dsimp only)
  (repeat' (first | split | with_reducible refine calm_foldl ?_ (fun _ _ _ => ?_))) <;> simp +contextual (maxDischargeDepth := 40) [*]

@[simp] theorem State.pauseGroups_calm (b : State) (s : State) (h : Calm b s)  :
    Calm b (State.pauseGroups s) := by
  unfold State.pauseGroups
  (try dsimp only)
  (repeat' (first | split | with_reducible refine calm_foldl ?_ (fun _ _ _ => ?_))) <;> simp +contextual (maxDischargeDepth := 40) [*]

@[simp] theorem withdrawBody_calm (b : State) (slot : Nat) (p : List Byte) (s : State) (h : Calm b s)  :
    Calm b (withdrawBody slot p s) := by
  unfold withdrawBody
  (try dsimp only)
  (repeat' (first | split | with_reducible refine calm_foldl ?_ (fun _ _ _ => ?_))) <;> simp +contextual (maxDischargeDepth := 40) [*]

@[simp] theorem halfCommand_calm (b : State) (n : Nat) (bad : State → Half → Option ObjState) (go : Nat → List Byte → Half → State → State) (slot : Nat) (p : List Byte) (s : State) (h : Calm b s) (hgo : ∀ y0 y1 y2 y3, Calm b y3 → Calm b (go y0 y1 y2 y3)) :
    Calm b (halfCommand n bad go slot p s) := by
  unfold halfCommand
  (try dsimp only)
  (repeat' (first | split | with_reducible refine calm_foldl ?_ (fun _ _ _ => ?_))) <;> simp +contextual (maxDischargeDepth := 40) [*]

@[simp] theorem State.resetHalf_calm (b : State) (s : State) (h0 : Half) (h : Calm b s)  :
    Calm b (State.resetHalf s h0) := by
  unfold State.resetHalf
  (try dsimp only)
  (repeat' (first | split | with_reducible refine calm_foldl ?_ (fun _ _ _ => ?_))) <;> simp +contextual (maxDischargeDepth := 40) [*]

@[simp] theorem halfResetBody_calm (b : State) (x1 : Nat) (x2 : List Byte) (x3 : State) (h : Calm b x3)  :
    Calm b (halfResetBody x1 x2 x3) := by
  unfold halfResetBody
  (try dsimp only)
  (repeat' (first | split | with_reducible refine calm_foldl ?_ (fun _ _ _ => ?_))) <;> simp +contextual (maxDischargeDepth := 40) [*]

@[simp] theorem fuseStatusBody_calm (b : State) (slot : Nat) (p : List Byte) (s : State) (h : Calm b s)  :
    Calm b (fuseStatusBody slot p s) := by
  unfold fuseStatusBody
  (try dsimp only)
  (repeat' (first | split | with_reducible refine calm_foldl ?_ (fun _ _ _ => ?_))) <;> simp +contextual (maxDischargeDepth := 40) [*]

@[simp] theorem halfDrainBody_calm (b : State) (x1 : Nat) (x2 : List Byte) (x3 : State) (h : Calm b x3)  :
    Calm b (halfDrainBody x1 x2 x3) := by
  unfold halfDrainBody
  (try dsimp only)
  (repeat' (first | split | with_reducible refine calm_foldl ?_ (fun _ _ _ => ?_))) <;> simp +contextual (maxDischargeDepth := 40) [*]

@[simp] theorem State.returnBegins_calm (b : State) (s : State) (h0 : Half) (h : Calm b s)  :
    Calm b (State.returnBegins s h0) := by
  unfold State.returnBegins
  (try dsimp only)
  (repeat' (first | split | with_reducible refine calm_foldl ?_ (fun _ _ _ => ?_))) <;> simp +contextual (maxDischargeDepth := 40) [*]

@[simp] theorem halfServeBody_calm (b : State) (x1 : Nat) (x2 : List Byte) (x3 : State) (h : Calm b x3)  :
    Calm b (halfServeBody x1 x2 x3) := by
  unfold halfServeBody
  (try dsimp only)
  (repeat' (first | split | with_reducible refine calm_foldl ?_ (fun _ _ _ => ?_))) <;> simp +contextual (maxDischargeDepth := 40) [*]

@[simp] theorem suspectsBody_calm (b : State) (x1 : Nat) (x2 : List Byte) (x3 : State) (h : Calm b x3)  :
    Calm b (suspectsBody x1 x2 x3) := by
  unfold suspectsBody
  (try dsimp only)
  (repeat' (first | split | with_reducible refine calm_foldl ?_ (fun _ _ _ => ?_))) <;> simp +contextual (maxDischargeDepth := 40) [*]

@[simp] theorem State.burnDone_calm (b : State) (s : State) (slot : Nat) (h0 : Half) (n : Nat) (h : Calm b s)  :
    Calm b (State.burnDone s slot h0 n) := by
  unfold State.burnDone
  (try dsimp only)
  (repeat' (first | split | with_reducible refine calm_foldl ?_ (fun _ _ _ => ?_))) <;> simp +contextual (maxDischargeDepth := 40) [*]

@[simp] theorem State.setLeft_calm (b : State) (s : State) (slot : Nat) (n : Nat) (h : Calm b s)  :
    Calm b (State.setLeft s slot n) := by
  unfold State.setLeft
  (try dsimp only)
  (repeat' (first | split | with_reducible refine calm_foldl ?_ (fun _ _ _ => ?_))) <;> simp +contextual (maxDischargeDepth := 40) [*]

theorem State.startBurn_mild {b s : State} (slot : Nat) (p : List Byte) (g : Half) (h : Mild b s) :
    Mild b (s.startBurn slot p g) := by
  unfold State.startBurn
  dsimp only
  split
  · exact h.calm (by simp)
  · split
    · exact h.calm (by simp)
    · exact mild_of (State.fuseRuns_burn _ _ _ (h.calm (State.begin_calm _ _ _ _ _ (Calm.refl s)))) (fun _ k => State.setLeft_calm _ _ _ _ k)

theorem fuseBurnBody_mild {b s : State} (slot : Nat) (p : List Byte) (h : Mild b s) : Mild b (fuseBurnBody slot p s) := by
  have r : ∀ st o, Mild b (s.refuse slot st o) := fun st o => h.calm (by simp)
  unfold fuseBurnBody halfCommand
  (repeat' split)
  all_goals first
    | exact r _ _
    | exact State.startBurn_mild _ _ _ h

@[simp] theorem stackRetireBody_calm (b : State) (x1 : Nat) (x2 : List Byte) (x3 : State) (h : Calm b x3)  :
    Calm b (stackRetireBody x1 x2 x3) := by
  unfold stackRetireBody
  (try dsimp only)
  (repeat' (first | split | with_reducible refine calm_foldl ?_ (fun _ _ _ => ?_))) <;> simp +contextual (maxDischargeDepth := 40) [*]

@[simp] theorem stackRestoreBody_calm (b : State) (x1 : Nat) (x2 : List Byte) (x3 : State) (h : Calm b x3)  :
    Calm b (stackRestoreBody x1 x2 x3) := by
  unfold stackRestoreBody
  (try dsimp only)
  (repeat' (first | split | with_reducible refine calm_foldl ?_ (fun _ _ _ => ?_))) <;> simp +contextual (maxDischargeDepth := 40) [*]

@[simp] theorem State.freeLanes_calm (b : State) (s : State) (h0 : Half) (c : Nat) (h : Calm b s)  :
    Calm b (State.freeLanes s h0 c) := by
  unfold State.freeLanes
  (try dsimp only)
  (repeat' (first | split | with_reducible refine calm_foldl ?_ (fun _ _ _ => ?_))) <;> simp +contextual (maxDischargeDepth := 40) [*]

@[simp] theorem retrainBody_calm (b : State) (x1 : Nat) (x2 : List Byte) (x3 : State) (h : Calm b x3)  :
    Calm b (retrainBody x1 x2 x3) := by
  unfold retrainBody
  (try dsimp only)
  (repeat' (first | split | with_reducible refine calm_foldl ?_ (fun _ _ _ => ?_))) <;> simp +contextual (maxDischargeDepth := 40) [*]

theorem keyProgramBody_mild {b s : State} (slot : Nat) (p : List Byte) (h : Mild b s) : Mild b (keyProgramBody slot p s) := by
  have r : ∀ st o, Mild b (s.refuse slot st o) := fun st o => h.calm (by simp)
  unfold keyProgramBody
  dsimp only
  (repeat' split)
  all_goals first
    | exact r _ _
    | exact State.fuseRuns_program _ _ (h.calm (State.begin_calm _ _ _ _ _ (Calm.refl s))) (Decidable.not_not.1 (by assumption))

theorem keyRevokeBody_mild {b s : State} (slot : Nat) (p : List Byte) (h : Mild b s) : Mild b (keyRevokeBody slot p s) := by
  have r : ∀ st o, Mild b (s.refuse slot st o) := fun st o => h.calm (by simp)
  unfold keyRevokeBody
  dsimp only
  (repeat' split)
  all_goals first
    | exact r _ _
    | exact State.fuseRuns_revoke _ _ (h.calm (State.begin_calm _ _ _ _ _ (Calm.refl s))) (Decidable.not_not.1 (by assumption))

@[simp] theorem State.markRevoked_calm (b : State) (s : State) (n : Nat) (h : Calm b s)  :
    Calm b (State.markRevoked s n) := by
  unfold State.markRevoked
  (try dsimp only)
  (repeat' (first | split | with_reducible refine calm_foldl ?_ (fun _ _ _ => ?_))) <;> simp +contextual (maxDischargeDepth := 40) [*]

@[simp] theorem State.revokeReply_calm (b : State) (s : State) (slot : Nat) (ds : List Digest) (h : Calm b s)  :
    Calm b (State.revokeReply s slot ds) := by
  unfold State.revokeReply
  (try dsimp only)
  (repeat' (first | split | with_reducible refine calm_foldl ?_ (fun _ _ _ => ?_))) <;> simp +contextual (maxDischargeDepth := 40) [*]

theorem State.revoked_mild {b s : State} (slot n : Nat) (h : Mild b s) (hj : s.safe.fuseJob = some (.revoke slot n)) :
    Mild b (s.revoked slot n) := by
  unfold State.revoked
  dsimp only
  have c : Calm s ((s.commitOnce slot).markRevoked n) := by simp
  have e : s.keyslot n = ((s.commitOnce slot).markRevoked n).safe.slot n := by
    show s.safe.fuses.getD n Keyslot.reset = _
    rw [← c.fuses]
    rfl
  have m : Mild b ((((s.commitOnce slot).markRevoked n).fuseEnds).setKeyslot n { s.keyslot n with state := .revoked }) := by
    rw [e]
    exact State.setKeyslot_revoke slot n (h.calm c) (c.fuseJob.trans hj)
  split
  · exact mild_of m (fun _ k => State.revokeReply_calm _ _ _ _ (State.log_calm _ _ _ _ _ _ _ _ k))
  · exact mild_of m (fun _ k => State.revokeReply_calm _ _ _ _ k)

theorem State.burned_mild {b s : State} (slot : Nat) (g : Half) (n : Nat) (ok : Bool) (h : Mild b s) :
    Mild b (s.burned slot g n ok) := by
  unfold State.burned
  split
  · exact mild_of (State.fuseEnds_mild h) (fun _ k => State.burnDone_calm _ _ _ _ _ k)
  · dsimp only
    have c : ∀ f, Mild b ((s.commitOnce slot).onHalf g f) := fun f => h.calm (by simp)
    split
    · exact mild_of (State.fuseEnds_mild (c _)) (fun _ k => State.burnDone_calm _ _ _ _ _ k)
    · exact mild_of (State.fuseRuns_burn _ _ _ (c _)) (fun _ k => State.setLeft_calm _ _ _ _ k)

theorem State.programmed_mild {b s : State} (slot n : Nat) (ok : Bool) (h : Mild b s)
    (hj : s.safe.fuseJob = some (.program slot n)) : Mild b (s.programmed slot n ok) := by
  unfold State.programmed
  dsimp only
  split
  · exact State.fuseEnds_mild h
  · split
    · refine mild_of ?_ (fun _ k => State.complete_calm _ _ _ _ _ k)
      exact (State.setKeyslot_program slot n _ h hj).calm (State.setKeyslot_after (by simp) n _)
    · exact mild_of (State.fuseEnds_mild h) (fun _ k => State.fail_calm _ _ _ _ _ k)

@[simp] theorem fwStageBody_calm (b : State) (slot : Nat) (p : List Byte) (s : State) (h : Calm b s)  :
    Calm b (fwStageBody slot p s) := by
  unfold fwStageBody
  (try dsimp only)
  (repeat' (first | split | with_reducible refine calm_foldl ?_ (fun _ _ _ => ?_))) <;> simp +contextual (maxDischargeDepth := 40) [*]

@[simp] theorem State.runStaged_calm (b : State) (s : State) (slot : Nat) (p : List Byte) (h0 : Half) (d : Digest) (h : Calm b s)  :
    Calm b (State.runStaged s slot p h0 d) := by
  unfold State.runStaged
  (try dsimp only)
  (repeat' (first | split | with_reducible refine calm_foldl ?_ (fun _ _ _ => ?_))) <;> simp +contextual (maxDischargeDepth := 40) [*]

@[simp] theorem fwActivateBody_calm (b : State) (x1 : Nat) (x2 : List Byte) (x3 : State) (h : Calm b x3)  :
    Calm b (fwActivateBody x1 x2 x3) := by
  refine halfCommand_calm _ _ _ _ _ _ _ h fun k p g t ht => ?_
  (repeat' split) <;> simp (maxDischargeDepth := 40) [ht]

@[simp] theorem rejoinBody_calm (b : State) (slot : Nat) (p : List Byte) (s : State) (h : Calm b s)  :
    Calm b (rejoinBody slot p s) := by
  unfold rejoinBody
  (try dsimp only)
  (repeat' (first | split | with_reducible refine calm_foldl ?_ (fun _ _ _ => ?_))) <;> simp +contextual (maxDischargeDepth := 40) [*]

@[simp] theorem flushTargetBody_calm (b : State) (slot : Nat) (p : List Byte) (s : State) (h : Calm b s)  :
    Calm b (flushTargetBody slot p s) := by
  unfold flushTargetBody
  (try dsimp only)
  (repeat' (first | split | with_reducible refine calm_foldl ?_ (fun _ _ _ => ?_))) <;> simp +contextual (maxDischargeDepth := 40) [*]

end Sys2Proof.Machine
end

