-- ==== Sys2Proof/Laws/CalmHostMem.lean ====
section
/-! SUPPORT. Host memory: what is calm; and what every command's body is. -/
namespace Sys2Proof.Machine

/-- Every command's body is mild where the command is valid. -/
theorem bodies_mild : ∀ x ∈ bodies, ∀ k p (b t : State), Mild b t → validIn x.1 t.eng.state = true → Mild b (x.2 k p t) := by
  unfold bodies
  refine List.forall_mem_append.2 ⟨?_, ?_⟩
  all_goals
    repeat' (first | refine List.forall_mem_cons.2 ⟨?_, ?_⟩ | exact List.forall_mem_nil _)
  all_goals
    intro k p b t h hv
    first
    | with_reducible exact keyProgramBody_mild _ _ h
    | with_reducible exact keyRevokeBody_mild _ _ h
    | with_reducible exact fuseBurnBody_mild _ _ h
    | with_reducible exact h.calm (drainBody_calm _ _ (Calm.refl t) (rank_of_valid (.inl rfl) hv))
    | with_reducible exact h.calm (serveBody_calm _ _ (Calm.refl t) (rank_of_valid (.inr rfl) hv))
    | (refine h.calm ?_; dsimp only; (try split) <;> simp; done)

theorem bodyOf_mild (code k : Nat) (p : List Byte) {b t : State} (h : Mild b t) (hv : validIn code t.eng.state = true) :
    Mild b (bodyOf code k p t) := by
  unfold bodyOf
  cases hf : bodies.find? (fun b => b.1 == code) with
  | none => exact h
  | some x =>
    have h1 := List.mem_of_find?_eq_some hf
    have h2 := List.find?_some hf
    have h3 : x.1 = code := by simpa using h2
    exact bodies_mild x h1 k p b t h (h3 ▸ hv)

@[simp] theorem State.gathered_calm (b : State) (s : State) (j : Job) (h : Calm b s)  :
    Calm b (State.gathered s j) := by
  unfold State.gathered
  (try dsimp only)
  (repeat' (first | split | with_reducible refine calm_foldl ?_ (fun _ _ _ => ?_))) <;> simp +contextual (maxDischargeDepth := 40) [*]

@[simp] theorem State.waitServer_calm (b : State) (s : State) (j : Job) (h : Calm b s)  :
    Calm b (State.waitServer s j) := by
  unfold State.waitServer
  (try dsimp only)
  (repeat' (first | split | with_reducible refine calm_foldl ?_ (fun _ _ _ => ?_))) <;> simp +contextual (maxDischargeDepth := 40) [*]

@[simp] theorem State.partRead_calm (b : State) (s : State) (slot : Nat) (part : Nat) (data : List Byte) (h : Calm b s)  :
    Calm b (State.partRead s slot part data) := by
  unfold State.partRead
  (try dsimp only)
  (repeat' (first | split | with_reducible refine calm_foldl ?_ (fun _ _ _ => ?_))) <;> simp +contextual (maxDischargeDepth := 40) [*]

@[simp] theorem State.written_calm (b : State) (s : State) (j : Job) (data : List Byte) (h : Calm b s)  :
    Calm b (State.written s j data) := by
  unfold State.written
  (try dsimp only)
  (repeat' (first | split | with_reducible refine calm_foldl ?_ (fun _ _ _ => ?_))) <;> simp +contextual (maxDischargeDepth := 40) [*]

@[simp] theorem State.partWritten_calm (b : State) (s : State) (slot : Nat) (data : List Byte) (h : Calm b s)  :
    Calm b (State.partWritten s slot data) := by
  unfold State.partWritten
  (try dsimp only)
  (repeat' (first | split | with_reducible refine calm_foldl ?_ (fun _ _ _ => ?_))) <;> simp +contextual (maxDischargeDepth := 40) [*]

@[simp] theorem State.accessDone_calm (b : State) (s : State) (a : MiAcc) (data : List Byte) (h : Calm b s)  :
    Calm b (State.accessDone s a data) := by
  unfold State.accessDone
  (try dsimp only)
  (repeat' (first | split | with_reducible refine calm_foldl ?_ (fun _ _ _ => ?_))) <;> simp +contextual (maxDischargeDepth := 40) [*]

@[simp] theorem State.hostIo_calm (b : State) (s : State) (addr : Nat) (h : Calm b s)  :
    Calm b (State.hostIo s addr) := by
  unfold State.hostIo
  (try dsimp only)
  (repeat' (first | split | with_reducible refine calm_foldl ?_ (fun _ _ _ => ?_))) <;> simp +contextual (maxDischargeDepth := 40) [*]

@[simp] theorem State.bootImageFailed_calm (b : State) (s : State) (d : Digest) (h : Calm b s)  :
    Calm b (State.bootImageFailed s d) := by
  unfold State.bootImageFailed
  (try dsimp only)
  (repeat' (first | split | with_reducible refine calm_foldl ?_ (fun _ _ _ => ?_))) <;> simp +contextual (maxDischargeDepth := 40) [*]

@[simp] theorem State.fetchFailed_calm (b : State) (s : State) (d : Digest) (h : Calm b s)  :
    Calm b (State.fetchFailed s d) := by
  unfold State.fetchFailed
  (try dsimp only)
  (repeat' (first | split | with_reducible refine calm_foldl ?_ (fun _ _ _ => ?_))) <;> simp +contextual (maxDischargeDepth := 40) [*]

@[simp] theorem State.jobFailed_calm (b : State) (s : State) (j : Job) (addr : Nat) (h : Calm b s)  :
    Calm b (State.jobFailed s j addr) := by
  unfold State.jobFailed
  (try dsimp only)
  (repeat' (first | split | with_reducible refine calm_foldl ?_ (fun _ _ _ => ?_))) <;> simp +contextual (maxDischargeDepth := 40) [*]

@[simp] theorem State.partFailed_calm (b : State) (s : State) (slot : Nat) (addr : Nat) (h : Calm b s)  :
    Calm b (State.partFailed s slot addr) := by
  unfold State.partFailed
  (try dsimp only)
  (repeat' (first | split | with_reducible refine calm_foldl ?_ (fun _ _ _ => ?_))) <;> simp +contextual (maxDischargeDepth := 40) [*]

@[simp] theorem State.accessFailed_calm (b : State) (s : State) (a : MiAcc) (h : Calm b s)  :
    Calm b (State.accessFailed s a) := by
  unfold State.accessFailed
  (try dsimp only)
  (repeat' (first | split | with_reducible refine calm_foldl ?_ (fun _ _ _ => ?_))) <;> simp +contextual (maxDischargeDepth := 40) [*]

@[simp] theorem State.serveJob_calm (b : State) (s : State) (j : Job) (h : Calm b s)  :
    Calm b (State.serveJob s j) := by
  unfold State.serveJob
  (try dsimp only)
  (repeat' (first | split | with_reducible refine calm_foldl ?_ (fun _ _ _ => ?_))) <;> simp +contextual (maxDischargeDepth := 40) [*]

@[simp] theorem State.serveDue_calm (b : State) (s : State) (h : Calm b s)  :
    Calm b (State.serveDue s) := by
  unfold State.serveDue
  (try dsimp only)
  (repeat' (first | split | with_reducible refine calm_foldl ?_ (fun _ _ _ => ?_))) <;> simp +contextual (maxDischargeDepth := 40) [*]

@[simp] theorem State.response_calm (b : State) (s : State) (h0 : Half) (tag : Nat) (data : List Byte) (parityOk : Bool) (err : Bool) (h : Calm b s)  :
    Calm b (State.response s h0 tag data parityOk err) := by
  unfold State.response
  (try dsimp only)
  (repeat' (first | split | with_reducible refine calm_foldl ?_ (fun _ _ _ => ?_))) <;> simp +contextual (maxDischargeDepth := 40) [*]

end Sys2Proof.Machine
end

