-- ==== Sys2Proof/Laws/Mailbox.lean ====
section
/-! SUPPORT. What the mailbox does, once for every command: what a row of a command leaves alone, and what a reply writes. -/
namespace Sys2Proof.Machine

/-! ### Commands that are mild in the states in which they are valid -/

theorem State.start_mild {b s : State} (slot : Nat) (body : Nat → List Byte → State → State) (h : Mild b s)
    (hbody : ∀ p, validIn (s.sealCode slot) s.eng.state = true → Mild b (body slot p s)) : Mild b (s.start slot body) := by
  unfold State.start
  split
  · exact hbody _ (by assumption)
  · exact h.calm (by simp)

theorem State.consider_mild {b s : State} (slot : Nat) (body : Nat → List Byte → State → State) (h : Mild b s)
    (hbody : ∀ p t, Mild b t → validIn (s.sealCode slot) t.eng.state = true → Mild b (body slot p t)) :
    Mild b (s.consider slot body) := by
  have hn : Mild b (s.notice slot) := h.calm (by simp)
  have hc : (s.notice slot).sealCode slot = s.sealCode slot := by
    unfold State.notice State.sealCode State.reqNat State.reqBytes
    rw [State.journal_mbx]
  unfold State.consider
  dsimp only
  (repeat' split)
  all_goals first
    | exact hn.calm (by simp)
    | exact State.start_mild slot body hn (fun p hv => hbody p _ hn (hc ▸ hv))

/-- A mailbox row whose body is mild where the command is valid is mild. -/
theorem runMailbox_mild {b s : State} {code : Nat} {sel : List Byte → Bool} {body : Nat → List Byte → State → State} (slot : Byte)
    (h : Mild b s) (hbody : ∀ k p t, Mild b t → validIn code t.eng.state = true → Mild b (body k p t)) :
    Mild b (runMailbox code sel body slot s) := by
  unfold runMailbox
  split
  · rename_i hs
    have hc : s.sealCode slot.toNat = code := by
      simp only [Bool.and_eq_true, beq_iff_eq] at hs
      exact hs.1.2
    exact State.consider_mild _ body h (fun p t ht hv => hbody _ p t ht (hc ▸ hv))
  · exact h

/-! ### Little-endian fields -/

@[simp] theorem toLe_length (n v : Nat) : (toLe n v).length = n := by
  induction n generalizing v with
  | zero => rfl
  | succ n ih => simp [toLe, ih]

theorem leNat_toLe (n v : Nat) : leNat (toLe n v) = v % 256 ^ n := by
  induction n generalizing v with
  | zero => simp [toLe, leNat, Nat.mod_one]
  | succ n ih =>
    simp only [toLe, leNat, ih, BitVec.toNat_ofNat]
    rw [show (256 : Nat) ^ (n + 1) = 256 * 256 ^ n by rw [Nat.pow_succ, Nat.mul_comm], Nat.mod_mul]

theorem leNat_toLe_of_lt {n v : Nat} (h : v < 256 ^ n) : leNat (toLe n v) = v := by rw [leNat_toLe, Nat.mod_eq_of_lt h]

theorem leNat_lt (b : List Byte) : leNat b < 256 ^ b.length := by
  induction b with
  | nil => simp [leNat]
  | cons x t ih =>
    have := x.isLt
    simp only [leNat, List.length_cons, Nat.pow_succ]
    omega

/-! ### Windows of a byte memory -/

theorem Mem.readN_congr {m n : Mem} {a k : Nat} (h : ∀ i, i < k → m.read (a + i) = n.read (a + i)) :
    m.readN a k = n.readN a k := by
  unfold Mem.readN
  apply List.map_congr_left
  intro i hi
  exact h i (List.mem_range.mp hi)

/-- A window that lies in what has been written reads it. -/
theorem Mem.readN_writeAll (m : Mem) (a off k : Nat) (bs : List Byte) (h : m.wf = true) (hk : off + k ≤ bs.length) :
    (m.writeAll a bs).readN (a + off) k = (bs.drop off).take k := by
  unfold Mem.readN
  apply List.ext_getElem
  · simp; omega
  · intro i h1 h2
    have hi : i < k := by simpa using h1
    simp only [List.getElem_map, List.getElem_range, List.getElem_take, List.getElem_drop]
    rw [Mem.read_writeAll _ _ _ _ h, if_pos (by omega)]
    rw [List.getD_eq_getElem?_getD, List.getElem?_eq_getElem (by omega)]
    simp only [Option.getD_some]
    congr 1
    omega

/-! ### Tables -/

@[simp] theorem Tab.get?_put {α : Type} (t : Tab α) (i j : Nat) (v : α) :
    (t.put i v).get? j = if i = j then some v else t.get? j := by
  induction t with
  | nil => simp [Tab.put, Tab.get?]
  | cons c t ih =>
    obtain ⟨k, w⟩ := c
    unfold Tab.put
    split
    · simp [Tab.get?]
    · split
      · rename_i h
        subst h
        simp only [Tab.get?]
        split <;> rfl
      · simp only [Tab.get?, ih]
        split
        · rename_i hk hj
          rw [if_neg (by omega)]
        · rfl

theorem State.lastOf_put (s : State) (l : Tab Nat) (k j v : Nat) (m : MbxSt) :
    ({ s with mbx := { m with last := l.put k v } } : State).lastOf j =
      if k = j then v else ({ s with mbx := { m with last := l } } : State).lastOf j := by
  unfold State.lastOf
  simp only [Tab.get?_put]
  split <;> rfl

/-! ### What a reply writes -/

/-- A number with one byte's worth of bits. -/
theorem leNat_one (b : Byte) : leNat [b] = b.toNat := by simp [leNat]

theorem replyHead_length (status code seq rlen : Nat) (o : ObjState) (jrec time : Nat) :
    (replyHead status code seq rlen o jrec time).length = 32 := by simp [replyHead, zeros]

/-- A field of the reply header. -/
theorem replyHead_field (status code seq rlen : Nat) (o : ObjState) (jrec time : Nat) (x : List Byte) :
    let f := replyHead status code seq rlen o jrec time ++ x
    (f.drop 0).take 4 = toLe 4 seq ∧ (f.drop 4).take 2 = toLe 2 code ∧ (f.drop 6).take 2 = toLe 2 status ∧
    (f.drop 8).take 2 = toLe 2 rlen ∧ (f.drop 10).take 1 = toLe 1 o.kind ∧ (f.drop 11).take 1 = toLe 1 o.state ∧
    (f.drop 16).take 8 = toLe 8 time ∧ f.drop 32 = x := by
  simp [replyHead, toLe, zeros]

/-- What stands in the request half after a reply, but for the OWN bit; and all that lies outside the slot. -/
theorem answer_mem_read (m : Mem) (base : Nat) (full : List Byte) (a : Nat) (v : Byte) (h : m.wf = true) :
    (((m.clear (base + 0x800) (base + 0x1000)).writeAll (base + 0x800) full).write (base + 7) v).read a =
      if a = base + 7 then v
      else if base + 0x800 ≤ a ∧ a < base + 0x800 + full.length then full.getD (a - (base + 0x800)) 0
      else if base + 0x800 ≤ a ∧ a < base + 0x1000 then Mem.unlisted else m.read a := by
  rw [Mem.read_write _ _ _ _ (Mem.writeAll_wf _ _ _ (Mem.clear_wf _ _ _ h)), Mem.read_writeAll _ _ _ _ (Mem.clear_wf _ _ _ h),
    Mem.read_clear]

/-- The window of a reply reads the reply. -/
theorem answer_mem_readN (m : Mem) (base : Nat) (full : List Byte) (off k : Nat) (v : Byte) (h : m.wf = true)
    (hl : full.length ≤ 0x800) (hk : off + k ≤ full.length) :
    Mem.readN (((m.clear (base + 0x800) (base + 0x1000)).writeAll (base + 0x800) full).write (base + 7) v) (base + (0x800 + off)) k =
      (full.drop off).take k := by
  unfold Mem.readN
  apply List.ext_getElem
  · simp; omega
  · intro i h1 h2
    have hi : i < k := by simpa using h1
    have e : base + (0x800 + off) + i - (base + 0x800) = off + i := by omega
    simp only [List.getElem_map, List.getElem_range, List.getElem_take, List.getElem_drop]
    rw [answer_mem_read _ _ _ _ _ h, if_neg (by omega), if_pos (by omega), e, List.getD_eq_getElem?_getD,
      List.getElem?_eq_getElem (by omega)]
    rfl

/-- A request field is as before the reply when it does not hold byte 7. -/
theorem answer_mem_request (m : Mem) (base : Nat) (full : List Byte) (off k : Nat) (v : Byte) (h : m.wf = true)
    (hl : full.length ≤ 0x800) (hk : off + k ≤ 7 ∨ (8 ≤ off ∧ off + k ≤ 0x800)) :
    Mem.readN (((m.clear (base + 0x800) (base + 0x1000)).writeAll (base + 0x800) full).write (base + 7) v) (base + off) k =
      m.readN (base + off) k := by
  apply Mem.readN_congr
  intro i hi
  rw [answer_mem_read _ _ _ _ _ h, if_neg (by omega), if_neg (by omega), if_neg (by omega)]

/-- A reply, once and for all: what an answer leaves in the slot, in the flags and in LAST, and what it leaves alone. -/
theorem State.answer_answered {s u : State} (slot : Byte) (status : Nat) (o : ObjState) (payload : List Byte) (last : Bool)
    (hw : u.mbx.mem.wf = true) (hm : u.mbx.mem = s.mbx.mem) (ht : u.time = s.time)
    (hdn : ∀ k, k ≠ slot.toNat → u.mbx.done.getLsbD k = s.mbx.done.getLsbD k) (hl : ∀ k, u.lastOf k = s.lastOf k)
    (hi : u.mbx.irqEn = s.mbx.irqEn) (hk : u.mbx.taken = s.mbx.taken)
    (hc : (u.mbx.discarded, u.mbx.busy, u.mbx.takeovers) = (s.mbx.discarded, s.mbx.busy, s.mbx.takeovers))
    (hs : status < 65536) (ho : o.kind < 256 ∧ o.state < 256) (hp : payload.length ≤ 2016) :
    Answered s (u.answer slot.toNat status o payload last) slot status o payload last := by
  have hslot := slot.isLt
  have e1 : ∀ off k, s.reqNat slot.toNat off k = u.reqNat slot.toNat off k := fun off k => by
    unfold State.reqNat State.reqBytes; rw [hm]
  unfold State.answer
  dsimp only
  generalize (if u.journals then ((u.jr.after (u.slotHalf slot.toNat == .east) slot.toNat).number (u.slotHalf slot.toNat == .east)).1 else 0) = jrec
  have hf := replyHead_field status (u.sealCode slot.toNat) (u.sealSeq slot.toNat) payload.length o jrec u.time.toNat payload
  have hlen := replyHead_length status (u.sealCode slot.toNat) (u.sealSeq slot.toNat) payload.length o jrec u.time.toNat
  have hsq : u.sealSeq slot.toNat < 256 ^ 4 := by
    have := leNat_lt (u.reqBytes slot.toNat 0 4)
    simpa [State.sealSeq, State.reqNat, State.reqBytes, Mem.readN] using this
  have hcd : u.sealCode slot.toNat < 256 ^ 2 := by
    have := leNat_lt (u.reqBytes slot.toNat 4 2)
    simpa [State.sealCode, State.reqNat, State.reqBytes, Mem.readN] using this
  generalize replyHead status (u.sealCode slot.toNat) (u.sealSeq slot.toNat) payload.length o jrec u.time.toNat = hd at hf hlen
  have hful : (hd ++ payload).length ≤ 0x800 := by simp [hlen]; omega
  obtain ⟨f1, f2, f3, f4, f5, f6, f7, f8⟩ := hf
  have hl2 : (hd ++ payload).length = 32 + payload.length := by simp [hlen]
  have rd : ∀ w off k v, w = 0x800 + off → off + k ≤ 32 + payload.length → Mem.readN
      (((u.mbx.mem.clear (slotBase slot.toNat + 0x800) (slotBase slot.toNat + 0x1000)).writeAll (slotBase slot.toNat + 0x800)
        (hd ++ payload)).write (slotBase slot.toNat + 7) v) (slotBase slot.toNat + w) k = ((hd ++ payload).drop off).take k :=
    fun w off k v hw' hk => hw' ▸ answer_mem_readN u.mbx.mem (slotBase slot.toNat) (hd ++ payload) off k v hw hful (hl2 ▸ hk)
  have g3 : status < 256 ^ 2 := by omega
  have g4 : payload.length < 256 ^ 2 := by omega
  have g5 : o.kind < 256 ^ 1 := by omega
  have g6 : o.state < 256 ^ 1 := by omega
  have g7 : u.time.toNat < 256 ^ 8 := by have := u.time.isLt; omega
  have es : u.sealSeq slot.toNat = s.sealSeq slot.toNat := (e1 0 4).symm
  have ec : u.sealCode slot.toNat = s.sealCode slot.toNat := (e1 4 2).symm
  constructor
  case seq =>
    rw [← es]
    simp only [State.reqNat, State.reqBytes]
    rw [rd 0x800 0 4 _ rfl (by omega), f1, leNat_toLe_of_lt hsq]
  case code =>
    rw [← ec]
    simp only [State.reqNat, State.reqBytes]
    rw [rd 0x804 4 2 _ rfl (by omega), f2, leNat_toLe_of_lt hcd]
  case status =>
    simp only [State.reqNat, State.reqBytes]
    rw [rd 0x806 6 2 _ rfl (by omega), f3, leNat_toLe_of_lt g3]
  case rlen =>
    simp only [State.reqNat, State.reqBytes]
    rw [rd 0x808 8 2 _ rfl (by omega), f4, leNat_toLe_of_lt g4]
  case kind =>
    simp only [State.reqNat, State.reqBytes]
    rw [rd 0x80A 10 1 _ rfl (by omega), f5, leNat_toLe_of_lt g5]
  case state =>
    simp only [State.reqNat, State.reqBytes]
    rw [rd 0x80B 11 1 _ rfl (by omega), f6, leNat_toLe_of_lt g6]
  case time =>
    simp only [State.reqNat, State.reqBytes]
    rw [rd 0x810 16 8 _ rfl (by omega), f7, leNat_toLe_of_lt g7, ht]
  case payload =>
    simp only [State.reqBytes]
    rw [rd 0x820 32 _ _ rfl (by omega), f8, List.take_length]
  case own =>
    simp only [State.sealOwn, State.reqNat, State.reqBytes, Mem.readN, List.range_one, List.map_cons, List.map_nil, leNat_one, Nat.add_zero]
    rw [answer_mem_read _ _ _ _ _ hw, if_pos rfl, bitOf, BitVec.testBit_toNat]
    simp
  case memory =>
    intro a h1 h2
    rw [answer_mem_read _ _ _ _ _ hw, if_neg h1, if_neg (by omega), if_neg (by omega), hm]
  case flag => simp [hslot]
  case flags =>
    intro k h
    have hk1 : (1#256 <<< slot.toNat).getLsbD k = false := by
      rcases Nat.lt_or_ge k 256 with h1 | h1
      · rw [BitVec.getLsbD_shiftLeft, BitVec.getLsbD_one]
        simp; omega
      · exact BitVec.getLsbD_of_ge _ _ h1
    rw [BitVec.getLsbD_or, hk1, Bool.or_false, State.journal_mbx, hdn k h]
  case lastOf =>
    cases last
    · rw [if_neg (by decide), ← hl]
      simp only [State.lastOf, State.journal_mbx, Bool.false_eq_true, if_false]
    · rw [if_pos rfl, ← es]
      simp [State.lastOf]
  case lasts =>
    intro k h
    rw [← hl k]
    cases last
    · simp only [State.lastOf, State.journal_mbx, Bool.false_eq_true, if_false]
    · simp only [State.lastOf, State.journal_mbx, if_true, Tab.get?_put]
      rw [if_neg (fun e => h e.symm)]
  case job => simp [State.jobOf]
  case irqEn => rw [State.journal_mbx]; exact hi
  case taken => rw [State.journal_mbx]; exact hk
  case counters => rw [State.journal_mbx]; exact hc

/-- The mailbox of a state is another one's but for what runs and what waits. -/
def SameBox (s u : State) : Prop := { u.mbx with jobs := s.mbx.jobs, waits := s.mbx.waits } = s.mbx

theorem SameBox.refl (s : State) : SameBox s s := rfl

theorem SameBox.of_eq {s u : State} (h : u.mbx = s.mbx) : SameBox s u := by unfold SameBox; rw [h]

theorem SameBox.mem {s u : State} (h : SameBox s u) : u.mbx.mem = s.mbx.mem := by have := congrArg MbxSt.mem h; exact this

/-- A completion replies. -/
theorem State.reply_replied {s u : State} (slot : Byte) (status : Nat) (o : ObjState) (payload : List Byte)
    (hw : s.mbx.mem.wf = true) (hb : SameBox s u) (ht : u.time = s.time) (hs : status < 65536)
    (ho : o.kind < 256 ∧ o.state < 256) (hp : payload.length ≤ 2016) :
    Replied s (u.reply slot.toNat status o payload) slot status o payload := by
  have hm := hb.mem
  have hd := congrArg MbxSt.done hb
  have hl := congrArg MbxSt.last hb
  have hi := congrArg MbxSt.irqEn hb
  have hk := congrArg MbxSt.taken hb
  have h1 := congrArg MbxSt.discarded hb
  have h2 := congrArg MbxSt.busy hb
  have h3 := congrArg MbxSt.takeovers hb
  dsimp only at hd hl hi hk h1 h2 h3
  exact State.answer_answered slot status o payload true (hm ▸ hw) hm ht (fun _ _ => by rw [hd])
    (fun _ => by unfold State.lastOf; rw [hl]) hi hk (by rw [h1, h2, h3]) hs ho hp

/-- A refusal replies without a payload. -/
theorem State.refuse_replied {s u : State} (slot : Byte) (status : Nat) (o : ObjState) (hw : s.mbx.mem.wf = true)
    (hb : SameBox s u) (ht : u.time = s.time) (hs : status < 65536) (ho : o.kind < 256 ∧ o.state < 256) :
    Replied s (u.refuse slot.toNat status o) slot status o [] :=
  State.reply_replied slot status o [] hw hb ht hs ho (by simp)

/-! ### What stays -/

/-- Nothing changes but the journal and the marks of the commands that run. -/
def OnlyJournal (s t : State) : Prop := { t with jr := s.jr, mbx := { t.mbx with jobs := s.mbx.jobs } } = s

theorem OnlyJournal.refl (s : State) : OnlyJournal s s := rfl

theorem OnlyJournal.trans {s t u : State} (h1 : OnlyJournal s t) (h2 : OnlyJournal t u) : OnlyJournal s u := by
  rcases s with ⟨_, _, _, _, ⟨⟩⟩
  rcases t with ⟨_, _, _, _, ⟨⟩⟩
  rcases u with ⟨_, _, _, _, ⟨⟩⟩
  simp_all [OnlyJournal]

theorem State.journal_only (s : State) (h : Half) (k i : Nat) (b : List Byte) : OnlyJournal s (s.journal h k i b) := by
  unfold State.journal; split <;> rfl

theorem State.notice_only (s : State) (k : Nat) : OnlyJournal s (s.notice k) := State.journal_only ..

theorem State.commit_only (s : State) (k : Nat) : OnlyJournal s (s.commit k) := by
  unfold State.commit State.journal
  split <;> rfl

/-- The mailbox after journal records is the one before, but for the marks of what runs. -/
theorem OnlyJournal.box {s t : State} (h : OnlyJournal s t) : { t.mbx with jobs := s.mbx.jobs } = s.mbx :=
  congrArg State.mbx h

/-- A reply changes the mailbox, the journal, and what the slot had outstanding. -/
theorem State.answer_only (s : State) (k : Byte) (st : Nat) (o : ObjState) (p : List Byte) (l : Bool) :
    OnlyReply s (s.answer k.toNat st o p l) k := by
  unfold State.answer
  dsimp only
  generalize replyHead _ _ _ _ _ _ _ ++ p = x
  have := State.journal_only s (s.slotHalf k.toNat) 3 k.toNat x
  generalize s.journal (s.slotHalf k.toNat) 3 k.toNat x = t at this ⊢
  rcases s with ⟨_, _, _, _, ⟨⟩⟩
  rcases t with ⟨_, _, _, _, ⟨⟩⟩
  simp_all [OnlyReply, OnlyJournal]

theorem OnlyReply.of_journal {s t u : State} {k : Byte} (h1 : OnlyJournal s t) (h2 : OnlyReply t u k) : OnlyReply s u k := by
  rcases s with ⟨_, _, _, _, ⟨⟩⟩
  rcases t with ⟨_, _, _, _, ⟨⟩⟩
  rcases u with ⟨_, _, _, _, ⟨⟩⟩
  simp_all [OnlyReply, OnlyJournal]

theorem State.reply_only (s : State) (k : Byte) (st : Nat) (o : ObjState) (p : List Byte) :
    OnlyReply s (s.reply k.toNat st o p) k := State.answer_only ..

theorem State.refuse_only (s : State) (k : Byte) (st : Nat) (o : ObjState) : OnlyReply s (s.refuse k.toNat st o) k :=
  State.answer_only ..

@[simp] theorem State.notice_mbx (s : State) (k : Nat) : (s.notice k).mbx = s.mbx := State.journal_mbx ..
@[simp] theorem State.notice_eng (s : State) (k : Nat) : (s.notice k).eng = s.eng := State.journal_eng ..
@[simp] theorem State.notice_time (s : State) (k : Nat) : (s.notice k).time = s.time := State.journal_time ..
@[simp] theorem State.commit_box (s : State) (k : Nat) : { (s.commit k).mbx with jobs := s.mbx.jobs } = s.mbx :=
  (State.commit_only s k).box
@[simp] theorem State.commit_mem (s : State) (k : Nat) : (s.commit k).mbx.mem = s.mbx.mem := by
  have := congrArg MbxSt.mem (State.commit_box s k)
  exact this
@[simp] theorem State.commit_eng (s : State) (k : Nat) : (s.commit k).eng = s.eng := by unfold State.commit; simp
@[simp] theorem State.commit_time (s : State) (k : Nat) : (s.commit k).time = s.time := by unfold State.commit; simp

/-! ### A row of the table -/

theorem Asked.not_row {s : State} {slot : Byte} {code : Nat} {p : List Byte} (h : Asked s slot code p)
    (sel : List Byte → Bool) (body : Nat → List Byte → State → State) (hp : sel p = true) :
    runMailbox code sel body slot s = s.consider slot.toNat body := by
  unfold runMailbox
  rw [if_pos]
  simp [h.unnoticed, h.asks, h.payload, hp]

/-- A granted request runs its command's body, after the journal's copy. -/
theorem Granted.run {s : State} {slot : Byte} {code : Nat} {p : List Byte} (h : Granted s slot code p)
    (sel : List Byte → Bool) (body : Nat → List Byte → State → State) (hp : sel p = true) :
    runMailbox code sel body slot s = body slot.toNat p (s.notice slot.toNat) := by
  have hn : (s.notice slot.toNat).mbx = s.mbx := State.notice_mbx ..
  have rb : ∀ off n, (s.notice slot.toNat).reqBytes slot.toNat off n = s.reqBytes slot.toNat off n := fun off n => by
    unfold State.reqBytes; rw [hn]
  have r : ∀ off n, (s.notice slot.toNat).reqNat slot.toNat off n = s.reqNat slot.toNat off n := fun off n => by
    unfold State.reqNat; rw [rb]
  have l : ∀ k, (s.notice slot.toNat).lastOf k = s.lastOf k := fun k => by unfold State.lastOf; rw [hn]
  have e1 : (s.notice slot.toNat).sealSeq slot.toNat = s.sealSeq slot.toNat := r ..
  have e2 : (s.notice slot.toNat).sealCode slot.toNat = s.sealCode slot.toNat := r ..
  have e3 : (s.notice slot.toNat).expectedSeq slot.toNat = s.expectedSeq slot.toNat := by unfold State.expectedSeq; rw [l]
  have e4 : (s.notice slot.toNat).row2 slot.toNat = s.row2 slot.toNat := by
    unfold State.row2 State.sealCode State.reqPlen State.afterValid State.afterSlot; simp only [r, rb]
  have e5 : (s.notice slot.toNat).afterMet slot.toNat = s.afterMet slot.toNat := by
    unfold State.afterMet State.afterValid State.afterSlot State.afterSeq; simp only [r, l]
  have e6 : (s.notice slot.toNat).reqPayload slot.toNat = p := by
    rw [← h.payload]; unfold State.reqPayload State.reqPlen; simp only [r, rb]
  have hl : listed code = true := by
    have hv := h.valid
    unfold validIn at hv
    unfold listed
    rw [List.any_eq_true] at hv ⊢
    obtain ⟨r, hr, hb⟩ := hv
    exact ⟨r, hr, (Bool.and_eq_true ..▸ hb).1⟩
  rw [h.toAsked.not_row sel body hp]
  unfold State.consider State.start
  dsimp only
  rw [e1, e2, e3, e4, e5, e6, h.asks, if_neg (by rw [h.turn]; simp), hl, h.form, if_neg (by simp), h.after, if_neg (by simp),
    State.notice_eng, h.valid, if_pos rfl]

end Sys2Proof.Machine
end

