-- ==== Sys2Proof/Laws/Commands.lean ====
section
/-! SUPPORT. Every command completes with a next state. What a command keeps in it: `mild` where the engine does not restart, `keeps`
where it may. -/
namespace Sys2Proof.Machine

/-- A flush's state is no concern of what is kept. -/
theorem calm_flush {b s : State} (h : Calm b s) (n : Nat) : Calm b { s with safe := { s.safe with flush := n } } :=
  calm_mk h (Nat.le_refl _) rfl rfl rfl rfl rfl

theorem execEngineQuery_mild {b s : State} (slot : Byte) (h : Mild b s) : ∃ t, execEngineQuery slot s = .next t ∧ Mild b t := by
  refine ⟨_, rfl, ?_⟩
  exact runMailbox_mild slot h (fun k p t ht _ => ht.calm (by simp))

theorem execEngineConfigure_mild {b s : State} (slot : Byte) (h : Mild b s) : ∃ t, execEngineConfigure slot s = .next t ∧ Mild b t := by
  refine ⟨_, rfl, ?_⟩
  exact runMailbox_mild slot h (fun k p t ht _ => ht.calm (by simp))

theorem execEngineDrain_mild {b s : State} (slot : Byte) (h : Mild b s) : ∃ t, execEngineDrain slot s = .next t ∧ Mild b t := by
  refine ⟨_, rfl, ?_⟩
  exact runMailbox_mild slot h (fun k p t ht hv => ht.calm (drainBody_calm _ _ (Calm.refl t) (rank_of_valid (by simp) hv)))

theorem execEngineServe_mild {b s : State} (slot : Byte) (h : Mild b s) : ∃ t, execEngineServe slot s = .next t ∧ Mild b t := by
  refine ⟨_, rfl, ?_⟩
  exact runMailbox_mild slot h (fun k p t ht hv => ht.calm (serveBody_calm _ _ (Calm.refl t) (rank_of_valid (by simp) hv)))

theorem execEngineHalt_mild {b s : State} (slot : Byte) (h : Mild b s) : ∃ t, execEngineHalt slot s = .next t ∧ Mild b t := by
  refine ⟨_, rfl, ?_⟩
  exact runMailbox_mild slot h (fun k p t ht _ => ht.calm (by simp))

theorem execEngineRestart_mild {b s : State} (slot : Byte) (h : Mild b s) : ∃ t, execEngineRestart slot s = .next t ∧ Mild b t := by
  refine ⟨_, rfl, ?_⟩
  exact runMailbox_mild slot h (fun k p t ht _ => ht.calm (by simp))

theorem execImageLoad_mild {b s : State} (slot : Byte) (h : Mild b s) : ∃ t, execImageLoad slot s = .next t ∧ Mild b t := by
  refine ⟨_, rfl, ?_⟩
  exact runMailbox_mild slot h (fun k p t ht _ => ht.calm (by simp))

theorem execImageRelease_mild {b s : State} (slot : Byte) (h : Mild b s) : ∃ t, execImageRelease slot s = .next t ∧ Mild b t := by
  refine ⟨_, rfl, ?_⟩
  exact runMailbox_mild slot h (fun k p t ht _ => ht.calm (by simp))

theorem execImageQuery_mild {b s : State} (slot : Byte) (h : Mild b s) : ∃ t, execImageQuery slot s = .next t ∧ Mild b t := by
  refine ⟨_, rfl, ?_⟩
  exact runMailbox_mild slot h (fun k p t ht _ => ht.calm (by simp))

theorem execImageList_mild {b s : State} (slot : Byte) (h : Mild b s) : ∃ t, execImageList slot s = .next t ∧ Mild b t := by
  refine ⟨_, rfl, ?_⟩
  exact runMailbox_mild slot h (fun k p t ht _ => ht.calm (by simp))

theorem execBindingCreate_mild {b s : State} (slot : Byte) (h : Mild b s) : ∃ t, execBindingCreate slot s = .next t ∧ Mild b t := by
  refine ⟨_, rfl, ?_⟩
  exact runMailbox_mild slot h (fun k p t ht _ => ht.calm (by simp))

theorem execBindingStart_mild {b s : State} (slot : Byte) (h : Mild b s) : ∃ t, execBindingStart slot s = .next t ∧ Mild b t := by
  refine ⟨_, rfl, ?_⟩
  exact runMailbox_mild slot h (fun k p t ht _ => ht.calm (by simp))

theorem execBindingStop_mild {b s : State} (slot : Byte) (h : Mild b s) : ∃ t, execBindingStop slot s = .next t ∧ Mild b t := by
  refine ⟨_, rfl, ?_⟩
  exact runMailbox_mild slot h (fun k p t ht _ => ht.calm (by simp))

theorem execBindingSwap_mild {b s : State} (slot : Byte) (h : Mild b s) : ∃ t, execBindingSwap slot s = .next t ∧ Mild b t := by
  refine ⟨_, rfl, ?_⟩
  exact runMailbox_mild slot h (fun k p t ht _ => ht.calm (by simp))

theorem execBindingRetire_mild {b s : State} (slot : Byte) (h : Mild b s) : ∃ t, execBindingRetire slot s = .next t ∧ Mild b t := by
  refine ⟨_, rfl, ?_⟩
  exact runMailbox_mild slot h (fun k p t ht _ => ht.calm (by simp))

theorem execBindingQuery_mild {b s : State} (slot : Byte) (h : Mild b s) : ∃ t, execBindingQuery slot s = .next t ∧ Mild b t := by
  refine ⟨_, rfl, ?_⟩
  exact runMailbox_mild slot h (fun k p t ht _ => ht.calm (by simp))

theorem execRouteOpen_mild {b s : State} (slot : Byte) (h : Mild b s) : ∃ t, execRouteOpen slot s = .next t ∧ Mild b t := by
  refine ⟨_, rfl, ?_⟩
  exact runMailbox_mild slot h (fun k p t ht _ => ht.calm (by simp))

theorem execRoutePause_mild {b s : State} (slot : Byte) (h : Mild b s) : ∃ t, execRoutePause slot s = .next t ∧ Mild b t := by
  refine ⟨_, rfl, ?_⟩
  exact runMailbox_mild slot h (fun k p t ht _ => ht.calm (by simp))

theorem execRouteSave_mild {b s : State} (slot : Byte) (h : Mild b s) : ∃ t, execRouteSave slot s = .next t ∧ Mild b t := by
  refine ⟨_, rfl, ?_⟩
  exact runMailbox_mild slot h (fun k p t ht _ => ht.calm (by simp))

theorem execRouteResume_mild {b s : State} (slot : Byte) (h : Mild b s) : ∃ t, execRouteResume slot s = .next t ∧ Mild b t := by
  refine ⟨_, rfl, ?_⟩
  exact runMailbox_mild slot h (fun k p t ht _ => ht.calm (by simp))

theorem execRouteEnd_mild {b s : State} (slot : Byte) (h : Mild b s) : ∃ t, execRouteEnd slot s = .next t ∧ Mild b t := by
  refine ⟨_, rfl, ?_⟩
  exact runMailbox_mild slot h (fun k p t ht _ => ht.calm (by simp))

theorem execRouteQuery_mild {b s : State} (slot : Byte) (h : Mild b s) : ∃ t, execRouteQuery slot s = .next t ∧ Mild b t := by
  refine ⟨_, rfl, ?_⟩
  exact runMailbox_mild slot h (fun k p t ht _ => ht.calm (by simp))

theorem execRouteDiscard_mild {b s : State} (slot : Byte) (h : Mild b s) : ∃ t, execRouteDiscard slot s = .next t ∧ Mild b t := by
  refine ⟨_, rfl, ?_⟩
  exact runMailbox_mild slot h (fun k p t ht _ => ht.calm (by simp))

theorem execRouteExport_mild {b s : State} (slot : Byte) (h : Mild b s) : ∃ t, execRouteExport slot s = .next t ∧ Mild b t := by
  refine ⟨_, rfl, ?_⟩
  exact runMailbox_mild slot h (fun k p t ht _ => ht.calm (by simp))

theorem execDiagCounters_mild {b s : State} (slot : Byte) (h : Mild b s) : ∃ t, execDiagCounters slot s = .next t ∧ Mild b t := by
  refine ⟨_, rfl, ?_⟩
  exact runMailbox_mild slot h (fun k p t ht _ => ht.calm (by simp))

theorem execDiagCensus_mild {b s : State} (slot : Byte) (h : Mild b s) : ∃ t, execDiagCensus slot s = .next t ∧ Mild b t := by
  refine ⟨_, rfl, ?_⟩
  exact runMailbox_mild slot h (fun k p t ht _ => ht.calm (by simp))

theorem execDiagResidency_mild {b s : State} (slot : Byte) (h : Mild b s) : ∃ t, execDiagResidency slot s = .next t ∧ Mild b t := by
  refine ⟨_, rfl, ?_⟩
  exact runMailbox_mild slot h (fun k p t ht _ => ht.calm (by simp))

theorem execDiagBankRead_mild {b s : State} (slot : Byte) (h : Mild b s) : ∃ t, execDiagBankRead slot s = .next t ∧ Mild b t := by
  refine ⟨_, rfl, ?_⟩
  exact runMailbox_mild slot h (fun k p t ht _ => ht.calm (by simp))

theorem execDiagBankWrite_mild {b s : State} (slot : Byte) (h : Mild b s) : ∃ t, execDiagBankWrite slot s = .next t ∧ Mild b t := by
  refine ⟨_, rfl, ?_⟩
  exact runMailbox_mild slot h (fun k p t ht _ => ht.calm (by simp))

theorem execDiagContactRead_mild {b s : State} (slot : Byte) (h : Mild b s) : ∃ t, execDiagContactRead slot s = .next t ∧ Mild b t := by
  refine ⟨_, rfl, ?_⟩
  exact runMailbox_mild slot h (fun k p t ht _ => ht.calm (by simp))

theorem execDiagJournalExport_mild {b s : State} (slot : Byte) (h : Mild b s) : ∃ t, execDiagJournalExport slot s = .next t ∧ Mild b t := by
  refine ⟨_, rfl, ?_⟩
  exact runMailbox_mild slot h (fun k p t ht _ => ht.calm (by simp))

theorem execDiagSelftest_mild {b s : State} (slot : Byte) (h : Mild b s) : ∃ t, execDiagSelftest slot s = .next t ∧ Mild b t := by
  refine ⟨_, rfl, ?_⟩
  exact runMailbox_mild slot h (fun k p t ht _ => ht.calm (by simp))

theorem execDiagSnapshot_mild {b s : State} (slot : Byte) (h : Mild b s) : ∃ t, execDiagSnapshot slot s = .next t ∧ Mild b t := by
  refine ⟨_, rfl, ?_⟩
  exact runMailbox_mild slot h (fun k p t ht _ => ht.calm (by simp))

theorem execServiceRescueStatus_mild {b s : State} (slot : Byte) (h : Mild b s) : ∃ t, execServiceRescueStatus slot s = .next t ∧ Mild b t := by
  refine ⟨_, rfl, ?_⟩
  exact runMailbox_mild slot h (fun k p t ht _ => ht.calm (by simp))

theorem execServiceLogRead_mild {b s : State} (slot : Byte) (h : Mild b s) : ∃ t, execServiceLogRead slot s = .next t ∧ Mild b t := by
  refine ⟨_, rfl, ?_⟩
  exact runMailbox_mild slot h (fun k p t ht _ => ht.calm (by simp))

theorem execServiceJournalFlushStart_mild {b s : State} (slot : Byte) (h : Mild b s) : ∃ t, execServiceJournalFlushStart slot s = .next t ∧ Mild b t := by
  refine ⟨_, rfl, ?_⟩
  exact runMailbox_mild slot h (fun k p t ht _ => ht.calm (by simp))

theorem execServiceJournalFlushPoll_mild {b s : State} (slot : Byte) (h : Mild b s) : ∃ t, execServiceJournalFlushPoll slot s = .next t ∧ Mild b t := by
  refine ⟨_, rfl, ?_⟩
  exact runMailbox_mild slot h (fun k p t ht _ => ht.calm (by simp))

theorem execServiceQuiesceLanes_mild {b s : State} (slot : Byte) (h : Mild b s) : ∃ t, execServiceQuiesceLanes slot s = .next t ∧ Mild b t := by
  refine ⟨_, rfl, ?_⟩
  exact runMailbox_mild slot h (fun k p t ht _ => ht.calm (by simp))

theorem execServiceLevelWithdraw_mild {b s : State} (slot : Byte) (h : Mild b s) : ∃ t, execServiceLevelWithdraw slot s = .next t ∧ Mild b t := by
  refine ⟨_, rfl, ?_⟩
  exact runMailbox_mild slot h (fun k p t ht _ => ht.calm (by simp))

theorem execServiceHalfReset_mild {b s : State} (slot : Byte) (h : Mild b s) : ∃ t, execServiceHalfReset slot s = .next t ∧ Mild b t := by
  refine ⟨_, rfl, ?_⟩
  exact runMailbox_mild slot h (fun k p t ht _ => ht.calm (by simp))

theorem execServiceFuseStatus_mild {b s : State} (slot : Byte) (h : Mild b s) : ∃ t, execServiceFuseStatus slot s = .next t ∧ Mild b t := by
  refine ⟨_, rfl, ?_⟩
  exact runMailbox_mild slot h (fun k p t ht _ => ht.calm (by simp))

theorem execServiceHalfDrain_mild {b s : State} (slot : Byte) (h : Mild b s) : ∃ t, execServiceHalfDrain slot s = .next t ∧ Mild b t := by
  refine ⟨_, rfl, ?_⟩
  exact runMailbox_mild slot h (fun k p t ht _ => ht.calm (by simp))

theorem execServiceHalfServe_mild {b s : State} (slot : Byte) (h : Mild b s) : ∃ t, execServiceHalfServe slot s = .next t ∧ Mild b t := by
  refine ⟨_, rfl, ?_⟩
  exact runMailbox_mild slot h (fun k p t ht _ => ht.calm (by simp))

theorem execServiceRetireSuspects_mild {b s : State} (slot : Byte) (h : Mild b s) : ∃ t, execServiceRetireSuspects slot s = .next t ∧ Mild b t := by
  refine ⟨_, rfl, ?_⟩
  exact runMailbox_mild slot h (fun k p t ht _ => ht.calm (by simp))

theorem execServiceFuseBurn_mild {b s : State} (slot : Byte) (h : Mild b s) : ∃ t, execServiceFuseBurn slot s = .next t ∧ Mild b t := by
  refine ⟨_, rfl, ?_⟩
  exact runMailbox_mild slot h (fun k p t ht _ => fuseBurnBody_mild _ _ ht)

theorem execServiceStackRetire_mild {b s : State} (slot : Byte) (h : Mild b s) : ∃ t, execServiceStackRetire slot s = .next t ∧ Mild b t := by
  refine ⟨_, rfl, ?_⟩
  exact runMailbox_mild slot h (fun k p t ht _ => ht.calm (by simp))

theorem execServiceStackRestore_mild {b s : State} (slot : Byte) (h : Mild b s) : ∃ t, execServiceStackRestore slot s = .next t ∧ Mild b t := by
  refine ⟨_, rfl, ?_⟩
  exact runMailbox_mild slot h (fun k p t ht _ => ht.calm (by simp))

theorem execServiceChainRetrain_mild {b s : State} (slot : Byte) (h : Mild b s) : ∃ t, execServiceChainRetrain slot s = .next t ∧ Mild b t := by
  refine ⟨_, rfl, ?_⟩
  exact runMailbox_mild slot h (fun k p t ht _ => ht.calm (by simp))

theorem execServiceKeyslotProgram_mild {b s : State} (slot : Byte) (h : Mild b s) : ∃ t, execServiceKeyslotProgram slot s = .next t ∧ Mild b t := by
  refine ⟨_, rfl, ?_⟩
  exact runMailbox_mild slot h (fun k p t ht _ => keyProgramBody_mild _ _ ht)

theorem execServiceKeyslotRevoke_mild {b s : State} (slot : Byte) (h : Mild b s) : ∃ t, execServiceKeyslotRevoke slot s = .next t ∧ Mild b t := by
  refine ⟨_, rfl, ?_⟩
  exact runMailbox_mild slot h (fun k p t ht _ => keyRevokeBody_mild _ _ ht)

theorem execServiceFwStage_mild {b s : State} (slot : Byte) (h : Mild b s) : ∃ t, execServiceFwStage slot s = .next t ∧ Mild b t := by
  refine ⟨_, rfl, ?_⟩
  exact runMailbox_mild slot h (fun k p t ht _ => ht.calm (by simp))

theorem execServiceFwActivate_mild {b s : State} (slot : Byte) (h : Mild b s) : ∃ t, execServiceFwActivate slot s = .next t ∧ Mild b t := by
  refine ⟨_, rfl, ?_⟩
  exact runMailbox_mild slot h (fun k p t ht _ => ht.calm (by simp))

theorem execServiceLevelRejoin_mild {b s : State} (slot : Byte) (h : Mild b s) : ∃ t, execServiceLevelRejoin slot s = .next t ∧ Mild b t := by
  refine ⟨_, rfl, ?_⟩
  exact runMailbox_mild slot h (fun k p t ht _ => ht.calm (by simp))

theorem execServiceFlushTarget_mild {b s : State} (slot : Byte) (h : Mild b s) : ∃ t, execServiceFlushTarget slot s = .next t ∧ Mild b t := by
  refine ⟨_, rfl, ?_⟩
  exact runMailbox_mild slot h (fun k p t ht _ => ht.calm (by simp))

theorem execAfterWaitExpired_mild {b s : State} (slot : Byte) (h : Mild b s) : ∃ t, execAfterWaitExpired slot s = .next t ∧ Mild b t := by
  unfold execAfterWaitExpired
  refine ⟨_, rfl, h.calm ?_⟩
  (try dsimp only)
  (repeat' (first | split | with_reducible refine calm_foldl ?_ (fun _ _ _ => ?_))) <;> simp +contextual (maxDischargeDepth := 40) [*]

theorem execMbxDoneClear_mild {b s : State} (h0 : Half) (k : BitVec 2) (be : Byte) (data : U64) (setting : U64) (h : Mild b s) : ∃ t, execMbxDoneClear h0 k be data setting s = .next t ∧ Mild b t := by
  unfold execMbxDoneClear
  refine ⟨_, rfl, h.calm ?_⟩
  (try dsimp only)
  (repeat' (first | split | with_reducible refine calm_foldl ?_ (fun _ _ _ => ?_))) <;> simp +contextual (maxDischargeDepth := 40) [*]

theorem execSafeLogLatch_mild {b s : State} (path : Path) (h : Mild b s) : ∃ t, execSafeLogLatch path s = .next t ∧ Mild b t := by
  unfold execSafeLogLatch
  refine ⟨_, rfl, h.calm ?_⟩
  (try dsimp only)
  (repeat' (first | split | with_reducible refine calm_foldl ?_ (fun _ _ _ => ?_))) <;> simp +contextual (maxDischargeDepth := 40) [*]

theorem execPeakClr_mild {b s : State} (path : Path) (h0 : Half) (be : Byte) (data : U64) (arriving : Option Byte) (h : Mild b s) : ∃ t, execPeakClr path h0 be data arriving s = .next t ∧ Mild b t := by
  unfold execPeakClr
  refine ⟨_, rfl, h.calm ?_⟩
  (try dsimp only)
  (repeat' (first | split | with_reducible refine calm_foldl ?_ (fun _ _ _ => ?_))) <;> simp +contextual (maxDischargeDepth := 40) [*]

theorem execSidebandSetOffset_mild {b s : State} (h0 : Half) (off : U16) (h : Mild b s) : ∃ t, execSidebandSetOffset h0 off s = .next t ∧ Mild b t := by
  unfold execSidebandSetOffset
  refine ⟨_, rfl, h.calm ?_⟩
  (try dsimp only)
  (repeat' (first | split | with_reducible refine calm_foldl ?_ (fun _ _ _ => ?_))) <;> simp +contextual (maxDischargeDepth := 40) [*]

theorem execHid_mild {b s : State} (h0 : Half) (chain : BitVec 4) (f : Frame) (h : Mild b s) : ∃ t, execHid h0 chain f s = .next t ∧ Mild b t := by
  unfold execHid
  refine ⟨_, rfl, h.calm ?_⟩
  (try dsimp only)
  (repeat' (first | split | with_reducible refine calm_foldl ?_ (fun _ _ _ => ?_))) <;> simp +contextual (maxDischargeDepth := 40) [*]

theorem execLgt_mild {b s : State} (h0 : Half) (chain : BitVec 4) (f : Frame) (h : Mild b s) : ∃ t, execLgt h0 chain f s = .next t ∧ Mild b t := by
  unfold execLgt
  refine ⟨_, rfl, h.calm ?_⟩
  (try dsimp only)
  (repeat' (first | split | with_reducible refine calm_foldl ?_ (fun _ _ _ => ?_))) <;> simp +contextual (maxDischargeDepth := 40) [*]

theorem execDrf_mild {b s : State} (h0 : Half) (chain : BitVec 4) (f : Frame) (h : Mild b s) : ∃ t, execDrf h0 chain f s = .next t ∧ Mild b t := by
  unfold execDrf
  refine ⟨_, rfl, h.calm ?_⟩
  (try dsimp only)
  (repeat' (first | split | with_reducible refine calm_foldl ?_ (fun _ _ _ => ?_))) <;> simp +contextual (maxDischargeDepth := 40) [*]

theorem execPkSummary_mild {b s : State} (h0 : Half) (chain : BitVec 4) (f : Frame) (h : Mild b s) : ∃ t, execPkSummary h0 chain f s = .next t ∧ Mild b t := by
  unfold execPkSummary
  refine ⟨_, rfl, h.calm ?_⟩
  (try dsimp only)
  (repeat' (first | split | with_reducible refine calm_foldl ?_ (fun _ _ _ => ?_))) <;> simp +contextual (maxDischargeDepth := 40) [*]

theorem execPkZmax_mild {b s : State} (h0 : Half) (chain : BitVec 4) (f : Frame) (h : Mild b s) : ∃ t, execPkZmax h0 chain f s = .next t ∧ Mild b t := by
  unfold execPkZmax
  refine ⟨_, rfl, h.calm ?_⟩
  (try dsimp only)
  (repeat' (first | split | with_reducible refine calm_foldl ?_ (fun _ _ _ => ?_))) <;> simp +contextual (maxDischargeDepth := 40) [*]

theorem execPkZret_mild {b s : State} (h0 : Half) (chain : BitVec 4) (f : Frame) (h : Mild b s) : ∃ t, execPkZret h0 chain f s = .next t ∧ Mild b t := by
  unfold execPkZret
  refine ⟨_, rfl, h.calm ?_⟩
  (try dsimp only)
  (repeat' (first | split | with_reducible refine calm_foldl ?_ (fun _ _ _ => ?_))) <;> simp +contextual (maxDischargeDepth := 40) [*]

theorem execPkCands_mild {b s : State} (h0 : Half) (chain : BitVec 4) (f : Frame) (h : Mild b s) : ∃ t, execPkCands h0 chain f s = .next t ∧ Mild b t := by
  unfold execPkCands
  refine ⟨_, rfl, h.calm ?_⟩
  (try dsimp only)
  (repeat' (first | split | with_reducible refine calm_foldl ?_ (fun _ _ _ => ?_))) <;> simp +contextual (maxDischargeDepth := 40) [*]

theorem execPkRelease_mild {b s : State} (h0 : Half) (chain : BitVec 4) (f : Frame) (h : Mild b s) : ∃ t, execPkRelease h0 chain f s = .next t ∧ Mild b t := by
  unfold execPkRelease
  refine ⟨_, rfl, h.calm ?_⟩
  (try dsimp only)
  (repeat' (first | split | with_reducible refine calm_foldl ?_ (fun _ _ _ => ?_))) <;> simp +contextual (maxDischargeDepth := 40) [*]

theorem execHalfSummary_mild {b s : State} (handle : U32) (h : Mild b s) : ∃ t, execHalfSummary handle s = .next t ∧ Mild b t := by
  unfold execHalfSummary
  refine ⟨_, rfl, h.calm ?_⟩
  (try dsimp only)
  (repeat' (first | split | with_reducible refine calm_foldl ?_ (fun _ _ _ => ?_))) <;> simp +contextual (maxDischargeDepth := 40) [*]

theorem execAck_mild {b s : State} (h0 : Half) (chain : BitVec 4) (f : Frame) (h : Mild b s) : ∃ t, execAck h0 chain f s = .next t ∧ Mild b t := by
  unfold execAck
  refine ⟨_, rfl, h.calm ?_⟩
  (try dsimp only)
  (repeat' (first | split | with_reducible refine calm_foldl ?_ (fun _ _ _ => ?_))) <;> simp +contextual (maxDischargeDepth := 40) [*]

theorem execNak_mild {b s : State} (h0 : Half) (chain : BitVec 4) (f : Frame) (h : Mild b s) : ∃ t, execNak h0 chain f s = .next t ∧ Mild b t := by
  unfold execNak
  refine ⟨_, rfl, h.calm ?_⟩
  (try dsimp only)
  (repeat' (first | split | with_reducible refine calm_foldl ?_ (fun _ _ _ => ?_))) <;> simp +contextual (maxDischargeDepth := 40) [*]

theorem execCrd_mild {b s : State} (h0 : Half) (chain : BitVec 4) (f : Frame) (h : Mild b s) : ∃ t, execCrd h0 chain f s = .next t ∧ Mild b t := by
  unfold execCrd
  refine ⟨_, rfl, h.calm ?_⟩
  (try dsimp only)
  (repeat' (first | split | with_reducible refine calm_foldl ?_ (fun _ _ _ => ?_))) <;> simp +contextual (maxDischargeDepth := 40) [*]

theorem execHello_mild {b s : State} (h0 : Half) (lane : BitVec 4) (f : Frame) (h : Mild b s) : ∃ t, execHello h0 lane f s = .next t ∧ Mild b t := by
  unfold execHello
  refine ⟨_, rfl, h.calm ?_⟩
  (try dsimp only)
  (repeat' (first | split | with_reducible refine calm_foldl ?_ (fun _ _ _ => ?_))) <;> simp +contextual (maxDischargeDepth := 40) [*]

theorem execReplayTimeout_mild {b s : State} (h0 : Half) (chain : BitVec 4) (h : Mild b s) : ∃ t, execReplayTimeout h0 chain s = .next t ∧ Mild b t := by
  unfold execReplayTimeout
  refine ⟨_, rfl, h.calm ?_⟩
  (try dsimp only)
  (repeat' (first | split | with_reducible refine calm_foldl ?_ (fun _ _ _ => ?_))) <;> simp +contextual (maxDischargeDepth := 40) [*]

theorem execChainReplayTimeout_mild {b s : State} (h0 : Half) (chain : BitVec 4) (h : Mild b s) : ∃ t, execChainReplayTimeout h0 chain s = .next t ∧ Mild b t := by
  unfold execChainReplayTimeout
  refine ⟨_, rfl, h.calm ?_⟩
  (try dsimp only)
  (repeat' (first | split | with_reducible refine calm_foldl ?_ (fun _ _ _ => ?_))) <;> simp +contextual (maxDischargeDepth := 40) [*]

theorem execLaneDropOut_mild {b s : State} (h0 : Half) (lane : BitVec 4) (h : Mild b s) : ∃ t, execLaneDropOut h0 lane s = .next t ∧ Mild b t := by
  unfold execLaneDropOut
  refine ⟨_, rfl, h.calm ?_⟩
  (try dsimp only)
  (repeat' (first | split | with_reducible refine calm_foldl ?_ (fun _ _ _ => ?_))) <;> simp +contextual (maxDischargeDepth := 40) [*]

theorem execPeerUnreachable_mild {b s : State} (position : Byte) (h : Mild b s) : ∃ t, execPeerUnreachable position s = .next t ∧ Mild b t := by
  unfold execPeerUnreachable
  refine ⟨_, rfl, h.calm ?_⟩
  (try dsimp only)
  (repeat' (first | split | with_reducible refine calm_foldl ?_ (fun _ _ _ => ?_))) <;> simp +contextual (maxDischargeDepth := 40) [*]

theorem execMaskReady_mild {b s : State} (handle : U32) (h : Mild b s) : ∃ t, execMaskReady handle s = .next t ∧ Mild b t := by
  unfold execMaskReady
  refine ⟨_, rfl, h.calm ?_⟩
  (try dsimp only)
  (repeat' (first | split | with_reducible refine calm_foldl ?_ (fun _ _ _ => ?_))) <;> simp +contextual (maxDischargeDepth := 40) [*]

theorem execStepChecked_mild {b s : State} (handle : U32) (r : CheckResult) (h : Mild b s) : ∃ t, execStepChecked handle r s = .next t ∧ Mild b t := by
  unfold execStepChecked
  refine ⟨_, rfl, h.calm ?_⟩
  (try dsimp only)
  (repeat' (first | split | with_reducible refine calm_foldl ?_ (fun _ _ _ => ?_))) <;> simp +contextual (maxDischargeDepth := 40) [*]

theorem execMirrorRecord_mild {b s : State} (handle : U32) (h : Mild b s) : ∃ t, execMirrorRecord handle s = .next t ∧ Mild b t := by
  unfold execMirrorRecord
  refine ⟨_, rfl, h.calm ?_⟩
  (try dsimp only)
  (repeat' (first | split | with_reducible refine calm_foldl ?_ (fun _ _ _ => ?_))) <;> simp +contextual (maxDischargeDepth := 40) [*]

theorem execReleaseCommit_mild {b s : State} (handle : U32) (h : Mild b s) : ∃ t, execReleaseCommit handle s = .next t ∧ Mild b t := by
  unfold execReleaseCommit
  refine ⟨_, rfl, h.calm ?_⟩
  (try dsimp only)
  (repeat' (first | split | with_reducible refine calm_foldl ?_ (fun _ _ _ => ?_))) <;> simp +contextual (maxDischargeDepth := 40) [*]

theorem execForcedOnlyRelease_mild {b s : State} (c : Checked) (h : Mild b s) : ∃ t, execForcedOnlyRelease c s = .next t ∧ Mild b t := by
  unfold execForcedOnlyRelease
  refine ⟨_, rfl, h.calm ?_⟩
  (try dsimp only)
  (repeat' (first | split | with_reducible refine calm_foldl ?_ (fun _ _ _ => ?_))) <;> simp +contextual (maxDischargeDepth := 40) [*]

theorem execLatentSlotTimeout_mild {b s : State} (handle : U32) (h : Mild b s) : ∃ t, execLatentSlotTimeout handle s = .next t ∧ Mild b t := by
  unfold execLatentSlotTimeout
  refine ⟨_, rfl, h.calm ?_⟩
  (try dsimp only)
  (repeat' (first | split | with_reducible refine calm_foldl ?_ (fun _ _ _ => ?_))) <;> simp +contextual (maxDischargeDepth := 40) [*]

theorem execLatentSlotFreed_mild {b s : State} (h0 : Half) (h : Mild b s) : ∃ t, execLatentSlotFreed h0 s = .next t ∧ Mild b t := by
  unfold execLatentSlotFreed
  refine ⟨_, rfl, h.calm ?_⟩
  (try dsimp only)
  (repeat' (first | split | with_reducible refine calm_foldl ?_ (fun _ _ _ => ?_))) <;> simp +contextual (maxDischargeDepth := 40) [*]

theorem execAdmissionRoomFreed_mild {b s : State} (h0 : Half) (h : Mild b s) : ∃ t, execAdmissionRoomFreed h0 s = .next t ∧ Mild b t := by
  unfold execAdmissionRoomFreed
  refine ⟨_, rfl, h.calm ?_⟩
  (try dsimp only)
  (repeat' (first | split | with_reducible refine calm_foldl ?_ (fun _ _ _ => ?_))) <;> simp +contextual (maxDischargeDepth := 40) [*]

theorem execMaskFetchDone_mild {b s : State} (h0 : Half) (digest : Digest) (state : U32) (h : Mild b s) : ∃ t, execMaskFetchDone h0 digest state s = .next t ∧ Mild b t := by
  unfold execMaskFetchDone
  refine ⟨_, rfl, h.calm ?_⟩
  (try dsimp only)
  (repeat' (first | split | with_reducible refine calm_foldl ?_ (fun _ _ _ => ?_))) <;> simp +contextual (maxDischargeDepth := 40) [*]

theorem execClearDone_mild {b s : State} (h0 : Half) (h : Mild b s) : ∃ t, execClearDone h0 s = .next t ∧ Mild b t := by
  unfold execClearDone
  refine ⟨_, rfl, h.calm ?_⟩
  (try dsimp only)
  (repeat' (first | split | with_reducible refine calm_foldl ?_ (fun _ _ _ => ?_))) <;> simp +contextual (maxDischargeDepth := 40) [*]

theorem execHeadFillDone_mild {b s : State} (h0 : Half) (digest : Digest) (h : Mild b s) : ∃ t, execHeadFillDone h0 digest s = .next t ∧ Mild b t := by
  unfold execHeadFillDone
  refine ⟨_, rfl, h.calm ?_⟩
  (try dsimp only)
  (repeat' (first | split | with_reducible refine calm_foldl ?_ (fun _ _ _ => ?_))) <;> simp +contextual (maxDischargeDepth := 40) [*]

theorem execInText_mild {b s : State} (h0 : Half) (r : InRec) (h : Mild b s) : ∃ t, execInText h0 r s = .next t ∧ Mild b t := by
  unfold execInText
  refine ⟨_, rfl, h.calm ?_⟩
  (try dsimp only)
  (repeat' (first | split | with_reducible refine calm_foldl ?_ (fun _ _ _ => ?_))) <;> simp +contextual (maxDischargeDepth := 40) [*]

theorem execInTokens_mild {b s : State} (h0 : Half) (r : InRec) (h : Mild b s) : ∃ t, execInTokens h0 r s = .next t ∧ Mild b t := by
  unfold execInTokens
  refine ⟨_, rfl, h.calm ?_⟩
  (try dsimp only)
  (repeat' (first | split | with_reducible refine calm_foldl ?_ (fun _ _ _ => ?_))) <;> simp +contextual (maxDischargeDepth := 40) [*]

theorem execInEnd_mild {b s : State} (h0 : Half) (r : InRec) (h : Mild b s) : ∃ t, execInEnd h0 r s = .next t ∧ Mild b t := by
  unfold execInEnd
  refine ⟨_, rfl, h.calm ?_⟩
  (try dsimp only)
  (repeat' (first | split | with_reducible refine calm_foldl ?_ (fun _ _ _ => ?_))) <;> simp +contextual (maxDischargeDepth := 40) [*]

theorem execPretokenTokenised_mild {b s : State} (handle : U32) (r : CheckResult) (h : Mild b s) : ∃ t, execPretokenTokenised handle r s = .next t ∧ Mild b t := by
  unfold execPretokenTokenised
  refine ⟨_, rfl, h.calm ?_⟩
  (try dsimp only)
  (repeat' (first | split | with_reducible refine calm_foldl ?_ (fun _ _ _ => ?_))) <;> simp +contextual (maxDischargeDepth := 40) [*]

theorem execInBeatParityError_mild {b s : State} (h0 : Half) (depth : BitVec 4) (h : Mild b s) : ∃ t, execInBeatParityError h0 depth s = .next t ∧ Mild b t := by
  unfold execInBeatParityError
  refine ⟨_, rfl, h.calm ?_⟩
  (try dsimp only)
  (repeat' (first | split | with_reducible refine calm_foldl ?_ (fun _ _ _ => ?_))) <;> simp +contextual (maxDischargeDepth := 40) [*]

theorem execStrOutNak_mild {b s : State} (h0 : Half) (depth : BitVec 4) (h : Mild b s) : ∃ t, execStrOutNak h0 depth s = .next t ∧ Mild b t := by
  unfold execStrOutNak
  refine ⟨_, rfl, h.calm ?_⟩
  (try dsimp only)
  (repeat' (first | split | with_reducible refine calm_foldl ?_ (fun _ _ _ => ?_))) <;> simp +contextual (maxDischargeDepth := 40) [*]

theorem execHalfDownReport_mild {b s : State} (h0 : Half) (h : Mild b s) : ∃ t, execHalfDownReport h0 s = .next t ∧ Mild b t := by
  unfold execHalfDownReport
  refine ⟨_, rfl, h.calm ?_⟩
  (try dsimp only)
  (repeat' (first | split | with_reducible refine calm_foldl ?_ (fun _ _ _ => ?_))) <;> simp +contextual (maxDischargeDepth := 40) [*]

theorem execMainbandLost_mild {b s : State} (h : Mild b s) : ∃ t, execMainbandLost  s = .next t ∧ Mild b t := by
  unfold execMainbandLost
  refine ⟨_, rfl, h.calm ?_⟩
  (try dsimp only)
  (repeat' (first | split | with_reducible refine calm_foldl ?_ (fun _ _ _ => ?_))) <;> simp +contextual (maxDischargeDepth := 40) [*]

theorem execMeridianLaneDrop_mild {b s : State} (toEast : Bool) (lane : BitVec 4) (h : Mild b s) : ∃ t, execMeridianLaneDrop toEast lane s = .next t ∧ Mild b t := by
  unfold execMeridianLaneDrop
  refine ⟨_, rfl, h.calm ?_⟩
  (try dsimp only)
  (repeat' (first | split | with_reducible refine calm_foldl ?_ (fun _ _ _ => ?_))) <;> simp +contextual (maxDischargeDepth := 40) [*]

theorem execLinkSilent_mild {b s : State} (westAlive : Bool) (h : Mild b s) : ∃ t, execLinkSilent westAlive s = .next t ∧ Mild b t := by
  unfold execLinkSilent
  refine ⟨_, rfl, h.calm ?_⟩
  (try dsimp only)
  (repeat' (first | split | with_reducible refine calm_foldl ?_ (fun _ _ _ => ?_))) <;> simp +contextual (maxDischargeDepth := 40) [*]

theorem execPartnerSilent_mild {b s : State} (h : Mild b s) : ∃ t, execPartnerSilent  s = .next t ∧ Mild b t := by
  unfold execPartnerSilent
  refine ⟨_, rfl, h.calm ?_⟩
  (try dsimp only)
  (repeat' (first | split | with_reducible refine calm_foldl ?_ (fun _ _ _ => ?_))) <;> simp +contextual (maxDischargeDepth := 40) [*]

theorem execHeartbeatResumed_mild {b s : State} (h : Mild b s) : ∃ t, execHeartbeatResumed  s = .next t ∧ Mild b t := by
  unfold execHeartbeatResumed
  refine ⟨_, rfl, h.calm ?_⟩
  (try dsimp only)
  (repeat' (first | split | with_reducible refine calm_foldl ?_ (fun _ _ _ => ?_))) <;> simp +contextual (maxDischargeDepth := 40) [*]

theorem execSafelightHeartbeatMissed_mild {b s : State} (h : Mild b s) : ∃ t, execSafelightHeartbeatMissed  s = .next t ∧ Mild b t := by
  unfold execSafelightHeartbeatMissed
  refine ⟨_, rfl, h.calm ?_⟩
  (try dsimp only)
  (repeat' (first | split | with_reducible refine calm_foldl ?_ (fun _ _ _ => ?_))) <;> simp +contextual (maxDischargeDepth := 40) [*]

theorem execSlotTakeover_mild {b s : State} (h0 : Half) (h : Mild b s) : ∃ t, execSlotTakeover h0 s = .next t ∧ Mild b t := by
  unfold execSlotTakeover
  refine ⟨_, rfl, h.calm ?_⟩
  (try dsimp only)
  (repeat' (first | split | with_reducible refine calm_foldl ?_ (fun _ _ _ => ?_))) <;> simp +contextual (maxDischargeDepth := 40) [*]

theorem execSlotTakeback_mild {b s : State} (h0 : Half) (h : Mild b s) : ∃ t, execSlotTakeback h0 s = .next t ∧ Mild b t := by
  unfold execSlotTakeback
  refine ⟨_, rfl, h.calm ?_⟩
  (try dsimp only)
  (repeat' (first | split | with_reducible refine calm_foldl ?_ (fun _ _ _ => ?_))) <;> simp +contextual (maxDischargeDepth := 40) [*]

theorem execFirmwareFault_mild {b s : State} (h0 : Half) (h : Mild b s) : ∃ t, execFirmwareFault h0 s = .next t ∧ Mild b t := by
  unfold execFirmwareFault
  refine ⟨_, rfl, h.calm ?_⟩
  (try dsimp only)
  (repeat' (first | split | with_reducible refine calm_foldl ?_ (fun _ _ _ => ?_))) <;> simp +contextual (maxDischargeDepth := 40) [*]

theorem execFwBootTimeout_mild {b s : State} (h0 : Half) (h : Mild b s) : ∃ t, execFwBootTimeout h0 s = .next t ∧ Mild b t := by
  unfold execFwBootTimeout
  refine ⟨_, rfl, h.calm ?_⟩
  (try dsimp only)
  (repeat' (first | split | with_reducible refine calm_foldl ?_ (fun _ _ _ => ?_))) <;> simp +contextual (maxDischargeDepth := 40) [*]

theorem execSafeRstNRelease_mild {b s : State} (datum : Bool) (addrW addrE : BitVec 2) (h : Mild b s) : ∃ t, execSafeRstNRelease datum addrW addrE s = .next t ∧ Mild b t := by
  unfold execSafeRstNRelease
  refine ⟨_, rfl, h.calm ?_⟩
  (try dsimp only)
  (repeat' (first | split | with_reducible refine calm_foldl ?_ (fun _ _ _ => ?_))) <;> simp +contextual (maxDischargeDepth := 40) [*]

theorem execFirmwareBooted_mild {b s : State} (h0 : Half) (h : Mild b s) : ∃ t, execFirmwareBooted h0 s = .next t ∧ Mild b t := by
  unfold execFirmwareBooted
  refine ⟨_, rfl, h.calm ?_⟩
  (try dsimp only)
  (repeat' (first | split | with_reducible refine calm_foldl ?_ (fun _ _ _ => ?_))) <;> simp +contextual (maxDischargeDepth := 40) [*]

theorem execMeridianTrained_mild {b s : State} (toEast toWest : U16) (h : Mild b s) : ∃ t, execMeridianTrained toEast toWest s = .next t ∧ Mild b t := by
  unfold execMeridianTrained
  refine ⟨_, rfl, h.calm ?_⟩
  (try dsimp only)
  (repeat' (first | split | with_reducible refine calm_foldl ?_ (fun _ _ _ => ?_))) <;> simp +contextual (maxDischargeDepth := 40) [*]

theorem execStacksTrained_mild {b s : State} (w e : U16) (h : Mild b s) : ∃ t, execStacksTrained w e s = .next t ∧ Mild b t := by
  unfold execStacksTrained
  refine ⟨_, rfl, h.calm ?_⟩
  (try dsimp only)
  (repeat' (first | split | with_reducible refine calm_foldl ?_ (fun _ _ _ => ?_))) <;> simp +contextual (maxDischargeDepth := 40) [*]

theorem execChainsTrained_mild {b s : State} (h : Mild b s) : ∃ t, execChainsTrained  s = .next t ∧ Mild b t := by
  unfold execChainsTrained
  refine ⟨_, rfl, h.calm ?_⟩
  (try dsimp only)
  (repeat' (first | split | with_reducible refine calm_foldl ?_ (fun _ _ _ => ?_))) <;> simp +contextual (maxDischargeDepth := 40) [*]

theorem execRouteStatesRecovered_mild {b s : State} (bad : List U32) (h : Mild b s) : ∃ t, execRouteStatesRecovered bad s = .next t ∧ Mild b t := by
  unfold execRouteStatesRecovered
  refine ⟨_, rfl, h.calm ?_⟩
  (try dsimp only)
  (repeat' (first | split | with_reducible refine calm_foldl ?_ (fun _ _ _ => ?_))) <;> simp +contextual (maxDischargeDepth := 40) [*]

theorem execCommonCauseFault_mild {b s : State} (h : Mild b s) : ∃ t, execCommonCauseFault  s = .next t ∧ Mild b t := by
  unfold execCommonCauseFault
  refine ⟨_, rfl, h.calm ?_⟩
  (try dsimp only)
  (repeat' (first | split | with_reducible refine calm_foldl ?_ (fun _ _ _ => ?_))) <;> simp +contextual (maxDischargeDepth := 40) [*]

theorem execJournalFlushDone_mild {b s : State} (h : Mild b s) : ∃ t, execJournalFlushDone  s = .next t ∧ Mild b t := by
  unfold execJournalFlushDone
  refine ⟨_, rfl, h.calm ?_⟩
  (try dsimp only)
  (repeat' (first | split | with_reducible refine calm_foldl ?_ (fun _ _ _ => ?_))) <;> simp +contextual (maxDischargeDepth := 40) [*]

theorem execLmAnnounce_mild {b s : State} (p : Pair) (m : LmMsg) (h : Mild b s) : ∃ t, execLmAnnounce p m s = .next t ∧ Mild b t := by
  unfold execLmAnnounce
  refine ⟨_, rfl, h.calm ?_⟩
  (try dsimp only)
  (repeat' (first | split | with_reducible refine calm_foldl ?_ (fun _ _ _ => ?_))) <;> simp +contextual (maxDischargeDepth := 40) [*]

theorem execLmAdmit_mild {b s : State} (p : Pair) (m : LmMsg) (h : Mild b s) : ∃ t, execLmAdmit p m s = .next t ∧ Mild b t := by
  unfold execLmAdmit
  refine ⟨_, rfl, h.calm ?_⟩
  (try dsimp only)
  (repeat' (first | split | with_reducible refine calm_foldl ?_ (fun _ _ _ => ?_))) <;> simp +contextual (maxDischargeDepth := 40) [*]

theorem execLmRefuse_mild {b s : State} (p : Pair) (m : LmMsg) (h : Mild b s) : ∃ t, execLmRefuse p m s = .next t ∧ Mild b t := by
  unfold execLmRefuse
  refine ⟨_, rfl, h.calm ?_⟩
  (try dsimp only)
  (repeat' (first | split | with_reducible refine calm_foldl ?_ (fun _ _ _ => ?_))) <;> simp +contextual (maxDischargeDepth := 40) [*]

theorem execLmBase_mild {b s : State} (p : Pair) (m : LmMsg) (h : Mild b s) : ∃ t, execLmBase p m s = .next t ∧ Mild b t := by
  unfold execLmBase
  refine ⟨_, rfl, h.calm ?_⟩
  (try dsimp only)
  (repeat' (first | split | with_reducible refine calm_foldl ?_ (fun _ _ _ => ?_))) <;> simp +contextual (maxDischargeDepth := 40) [*]

theorem execLmEcho_mild {b s : State} (p : Pair) (m : LmMsg) (h : Mild b s) : ∃ t, execLmEcho p m s = .next t ∧ Mild b t := by
  unfold execLmEcho
  refine ⟨_, rfl, h.calm ?_⟩
  (try dsimp only)
  (repeat' (first | split | with_reducible refine calm_foldl ?_ (fun _ _ _ => ?_))) <;> simp +contextual (maxDischargeDepth := 40) [*]

theorem execLmWithdraw_mild {b s : State} (p : Pair) (m : LmMsg) (h : Mild b s) : ∃ t, execLmWithdraw p m s = .next t ∧ Mild b t := by
  unfold execLmWithdraw
  refine ⟨_, rfl, h.calm ?_⟩
  (try dsimp only)
  (repeat' (first | split | with_reducible refine calm_foldl ?_ (fun _ _ _ => ?_))) <;> simp +contextual (maxDischargeDepth := 40) [*]

theorem execAnnounceTimer_mild {b s : State} (h : Mild b s) : ∃ t, execAnnounceTimer  s = .next t ∧ Mild b t := by
  unfold execAnnounceTimer
  refine ⟨_, rfl, h.calm ?_⟩
  (try dsimp only)
  (repeat' (first | split | with_reducible refine calm_foldl ?_ (fun _ _ _ => ?_))) <;> simp +contextual (maxDischargeDepth := 40) [*]

theorem execDatumCheckDone_mild {b s : State} (h : Mild b s) : ∃ t, execDatumCheckDone  s = .next t ∧ Mild b t := by
  unfold execDatumCheckDone
  refine ⟨_, rfl, h.calm ?_⟩
  (try dsimp only)
  (repeat' (first | split | with_reducible refine calm_foldl ?_ (fun _ _ _ => ?_))) <;> simp +contextual (maxDischargeDepth := 40) [*]

theorem execFormation_mild {b s : State} (h : Mild b s) : ∃ t, execFormation  s = .next t ∧ Mild b t := by
  unfold execFormation
  refine ⟨_, rfl, h.calm ?_⟩
  (try dsimp only)
  (repeat' (first | split | with_reducible refine calm_foldl ?_ (fun _ _ _ => ?_))) <;> simp +contextual (maxDischargeDepth := 40) [*]

theorem execBarrierReleaseTimer_mild {b s : State} (h : Mild b s) : ∃ t, execBarrierReleaseTimer  s = .next t ∧ Mild b t := by
  unfold execBarrierReleaseTimer
  refine ⟨_, rfl, h.calm ?_⟩
  (try dsimp only)
  (repeat' (first | split | with_reducible refine calm_foldl ?_ (fun _ _ _ => ?_))) <;> simp +contextual (maxDischargeDepth := 40) [*]

theorem execLevelRelease_mild {b s : State} (h : Mild b s) : ∃ t, execLevelRelease  s = .next t ∧ Mild b t := by
  unfold execLevelRelease
  refine ⟨_, rfl, h.calm ?_⟩
  (try dsimp only)
  (repeat' (first | split | with_reducible refine calm_foldl ?_ (fun _ _ _ => ?_))) <;> simp +contextual (maxDischargeDepth := 40) [*]

theorem execMemberSilent_mild {b s : State} (position : Byte) (h : Mild b s) : ∃ t, execMemberSilent position s = .next t ∧ Mild b t := by
  unfold execMemberSilent
  refine ⟨_, rfl, h.calm ?_⟩
  (try dsimp only)
  (repeat' (first | split | with_reducible refine calm_foldl ?_ (fun _ _ _ => ?_))) <;> simp +contextual (maxDischargeDepth := 40) [*]

theorem execDatumAbsent_mild {b s : State} (h : Mild b s) : ∃ t, execDatumAbsent  s = .next t ∧ Mild b t := by
  unfold execDatumAbsent
  refine ⟨_, rfl, h.calm ?_⟩
  (try dsimp only)
  (repeat' (first | split | with_reducible refine calm_foldl ?_ (fun _ _ _ => ?_))) <;> simp +contextual (maxDischargeDepth := 40) [*]

theorem execCalibrationDone_mild {b s : State} (position : Byte) (pathNs : U16) (ok : Bool) (h : Mild b s) : ∃ t, execCalibrationDone position pathNs ok s = .next t ∧ Mild b t := by
  unfold execCalibrationDone
  refine ⟨_, rfl, h.calm ?_⟩
  (try dsimp only)
  (repeat' (first | split | with_reducible refine calm_foldl ?_ (fun _ _ _ => ?_))) <;> simp +contextual (maxDischargeDepth := 40) [*]

theorem execTimeFrame_mild {b s : State} (h0 : Half) (time : U64) (crc : Byte) (h : Mild b s) : ∃ t, execTimeFrame h0 time crc s = .next t ∧ Mild b t := by
  unfold execTimeFrame
  refine ⟨_, rfl, h.calm ?_⟩
  (try dsimp only)
  (repeat' (first | split | with_reducible refine calm_foldl ?_ (fun _ _ _ => ?_))) <;> simp +contextual (maxDischargeDepth := 40) [*]

theorem execTimeInputTimeout_mild {b s : State} (h0 : Half) (h : Mild b s) : ∃ t, execTimeInputTimeout h0 s = .next t ∧ Mild b t := by
  unfold execTimeInputTimeout
  refine ⟨_, rfl, h.calm ?_⟩
  (try dsimp only)
  (repeat' (first | split | with_reducible refine calm_foldl ?_ (fun _ _ _ => ?_))) <;> simp +contextual (maxDischargeDepth := 40) [*]

theorem execThermalReading_mild {b s : State} (h0 : Half) (r : Reading) (h : Mild b s) : ∃ t, execThermalReading h0 r s = .next t ∧ Mild b t := by
  unfold execThermalReading
  refine ⟨_, rfl, h.calm ?_⟩
  (try dsimp only)
  (repeat' (first | split | with_reducible refine calm_foldl ?_ (fun _ _ _ => ?_))) <;> simp +contextual (maxDischargeDepth := 40) [*]

theorem execFinderStopTimeout_mild {b s : State} (h0 : Half) (h : Mild b s) : ∃ t, execFinderStopTimeout h0 s = .next t ∧ Mild b t := by
  unfold execFinderStopTimeout
  refine ⟨_, rfl, h.calm ?_⟩
  (try dsimp only)
  (repeat' (first | split | with_reducible refine calm_foldl ?_ (fun _ _ _ => ?_))) <;> simp +contextual (maxDischargeDepth := 40) [*]

theorem execRefresh_mild {b s : State} (h0 : Half) (errs : List ColErr) (h : Mild b s) : ∃ t, execRefresh h0 errs s = .next t ∧ Mild b t := by
  unfold execRefresh
  refine ⟨_, rfl, h.calm ?_⟩
  (try dsimp only)
  (repeat' (first | split | with_reducible refine calm_foldl ?_ (fun _ _ _ => ?_))) <;> simp +contextual (maxDischargeDepth := 40) [*]

theorem execFinderScrub_mild {b s : State} (h0 : Half) (bad : List BadRegion) (h : Mild b s) : ∃ t, execFinderScrub h0 bad s = .next t ∧ Mild b t := by
  unfold execFinderScrub
  refine ⟨_, rfl, h.calm ?_⟩
  (try dsimp only)
  (repeat' (first | split | with_reducible refine calm_foldl ?_ (fun _ _ _ => ?_))) <;> simp +contextual (maxDischargeDepth := 40) [*]

theorem execSuspectExpiry_mild {b s : State} (h0 : Half) (pos : BitVec 7) (h : Mild b s) : ∃ t, execSuspectExpiry h0 pos s = .next t ∧ Mild b t := by
  unfold execSuspectExpiry
  refine ⟨_, rfl, h.calm ?_⟩
  (try dsimp only)
  (repeat' (first | split | with_reducible refine calm_foldl ?_ (fun _ _ _ => ?_))) <;> simp +contextual (maxDischargeDepth := 40) [*]

theorem execStackFault_mild {b s : State} (h0 : Half) (stack : BitVec 4) (h : Mild b s) : ∃ t, execStackFault h0 stack s = .next t ∧ Mild b t := by
  unfold execStackFault
  refine ⟨_, rfl, h.calm ?_⟩
  (try dsimp only)
  (repeat' (first | split | with_reducible refine calm_foldl ?_ (fun _ _ _ => ?_))) <;> simp +contextual (maxDischargeDepth := 40) [*]

theorem execStackRebuilt_mild {b s : State} (h0 : Half) (stack : BitVec 4) (h : Mild b s) : ∃ t, execStackRebuilt h0 stack s = .next t ∧ Mild b t := by
  unfold execStackRebuilt
  refine ⟨_, rfl, h.calm ?_⟩
  (try dsimp only)
  (repeat' (first | split | with_reducible refine calm_foldl ?_ (fun _ _ _ => ?_))) <;> simp +contextual (maxDischargeDepth := 40) [*]

theorem execImageFetchDone_mild {b s : State} (digest : Digest) (h : Mild b s) : ∃ t, execImageFetchDone digest s = .next t ∧ Mild b t := by
  unfold execImageFetchDone
  refine ⟨_, rfl, h.calm ?_⟩
  (try dsimp only)
  (repeat' (first | split | with_reducible refine calm_foldl ?_ (fun _ _ _ => ?_))) <;> simp +contextual (maxDischargeDepth := 40) [*]

theorem execImageVerifyDone_mild {b s : State} (digest : Digest) (h : Mild b s) : ∃ t, execImageVerifyDone digest s = .next t ∧ Mild b t := by
  unfold execImageVerifyDone
  refine ⟨_, rfl, h.calm ?_⟩
  (try dsimp only)
  (repeat' (first | split | with_reducible refine calm_foldl ?_ (fun _ _ _ => ?_))) <;> simp +contextual (maxDischargeDepth := 40) [*]

theorem execFenceAck_mild {b s : State} (binding : U32) (h : Mild b s) : ∃ t, execFenceAck binding s = .next t ∧ Mild b t := by
  unfold execFenceAck
  refine ⟨_, rfl, h.calm ?_⟩
  (try dsimp only)
  (repeat' (first | split | with_reducible refine calm_foldl ?_ (fun _ _ _ => ?_))) <;> simp +contextual (maxDischargeDepth := 40) [*]

theorem execBenchmarkWritten_mild {b s : State} (handle : U32) (h : Mild b s) : ∃ t, execBenchmarkWritten handle s = .next t ∧ Mild b t := by
  unfold execBenchmarkWritten
  refine ⟨_, rfl, h.calm ?_⟩
  (try dsimp only)
  (repeat' (first | split | with_reducible refine calm_foldl ?_ (fun _ _ _ => ?_))) <;> simp +contextual (maxDischargeDepth := 40) [*]

theorem execMiResponse_mild {b s : State} (h0 : Half) (tag : Byte) (data : List Byte) (parityOk err : Bool) (h : Mild b s) : ∃ t, execMiResponse h0 tag data parityOk err s = .next t ∧ Mild b t := by
  unfold execMiResponse
  refine ⟨_, rfl, h.calm ?_⟩
  (try dsimp only)
  (repeat' (first | split | with_reducible refine calm_foldl ?_ (fun _ _ _ => ?_))) <;> simp +contextual (maxDischargeDepth := 40) [*]

theorem execMiTimeout_mild {b s : State} (h0 : Half) (tag : Byte) (h : Mild b s) : ∃ t, execMiTimeout h0 tag s = .next t ∧ Mild b t := by
  unfold execMiTimeout
  refine ⟨_, rfl, h.calm ?_⟩
  (try dsimp only)
  (repeat' (first | split | with_reducible refine calm_foldl ?_ (fun _ _ _ => ?_))) <;> simp +contextual (maxDischargeDepth := 40) [*]

theorem execFrameDiscarded_mild {b s : State} (h0 : Half) (chain : BitVec 4) (ftype : Byte) (f : Frame) (h : Mild b s) : ∃ t, execFrameDiscarded h0 chain ftype f s = .next t ∧ Mild b t := by
  unfold execFrameDiscarded
  refine ⟨_, rfl, h.calm ?_⟩
  (try dsimp only)
  (repeat' (first | split | with_reducible refine calm_foldl ?_ (fun _ _ _ => ?_))) <;> simp +contextual (maxDischargeDepth := 40) [*]

theorem execUnlistedCommandCode_mild {b s : State} (slot : Byte) (h : Mild b s) : ∃ t, execUnlistedCommandCode slot s = .next t ∧ Mild b t := by
  unfold execUnlistedCommandCode
  refine ⟨_, rfl, h.calm ?_⟩
  (try dsimp only)
  (repeat' (first | split | with_reducible refine calm_foldl ?_ (fun _ _ _ => ?_))) <;> simp +contextual (maxDischargeDepth := 40) [*]

theorem execReservedKindRecord_mild {b s : State} (h0 : Half) (kind : Byte) (r : InRec) (h : Mild b s) : ∃ t, execReservedKindRecord h0 kind r s = .next t ∧ Mild b t := by
  unfold execReservedKindRecord
  refine ⟨_, rfl, h.calm ?_⟩
  (try dsimp only)
  (repeat' (first | split | with_reducible refine calm_foldl ?_ (fun _ _ _ => ?_))) <;> simp +contextual (maxDischargeDepth := 40) [*]

theorem execStackClearDone_mild {b s : State} (h0 : Half) (h : Mild b s) : ∃ t, execStackClearDone h0 s = .next t ∧ Mild b t := by
  unfold execStackClearDone
  refine ⟨_, rfl, h.calm ?_⟩
  (try dsimp only)
  (repeat' (first | split | with_reducible refine calm_foldl ?_ (fun _ _ _ => ?_))) <;> simp +contextual (maxDischargeDepth := 40) [*]

theorem execSelftestDone_mild {b s : State} (h0 : Half) (failed : U16) (h : Mild b s) : ∃ t, execSelftestDone h0 failed s = .next t ∧ Mild b t := by
  unfold execSelftestDone
  refine ⟨_, rfl, h.calm ?_⟩
  (try dsimp only)
  (repeat' (first | split | with_reducible refine calm_foldl ?_ (fun _ _ _ => ?_))) <;> simp +contextual (maxDischargeDepth := 40) [*]

theorem execAfterDependencyMet_mild {b s : State} (slot : Byte) (h : Mild b s) : ∃ t, execAfterDependencyMet slot s = .next t ∧ Mild b t := by
  refine ⟨_, rfl, ?_⟩
  split
  · refine State.start_mild _ _ (h.calm (by simp)) fun p hv => ?_
    exact bodyOf_mild _ _ _ (h.calm (by simp)) hv
  · exact h

theorem execRegisterWrite_keeps {b s : State} (path : Path) (off : BitVec 24) (be : Byte) (data : U64) (parityOk : Bool) (h : Keeps b s) : ∃ t, execRegisterWrite path off be data parityOk s = .next t ∧ Keeps b t := by
  refine ⟨_, rfl, ?_⟩
  split
  · exact h.trans (Calm.keeps (by simp))
  · exact State.sideWrite_keeps _ _ _ h

theorem execSafeTakeoverConfirm_keeps {b s : State} (path : Path) (be : Byte) (data : U64) (h : Keeps b s) : ∃ t, execSafeTakeoverConfirm path be data s = .next t ∧ Keeps b t :=
  ⟨_, rfl, State.takeoverWrite_keeps _ _ _ h⟩

theorem execCoreRstNAssert_keeps {b s : State} (h : Keeps b s) : ∃ t, execCoreRstNAssert s = .next t ∧ Keeps b t := by
  unfold execCoreRstNAssert
  refine ⟨_, rfl, ?_⟩
  have m : Keeps b ((s.cutFuse.dropUncommitted.idleLanes .west).idleLanes .east) :=
    (h.trans (State.cutFuse_mild (Mild.refl s)).keeps).trans (Calm.keeps (by simp (maxDischargeDepth := 9)))
  exact keeps_mk m rfl rfl rfl rfl rfl

theorem execCoreRailsRemoved_keeps {b s : State} (h : Keeps b s) : ∃ t, execCoreRailsRemoved s = .next t ∧ Keeps b t := by
  unfold execCoreRailsRemoved
  refine ⟨_, rfl, ?_⟩
  have m : Keeps b ((s.cutFuse.idleLanes .west).idleLanes .east) :=
    (h.trans (State.cutFuse_mild (Mild.refl s)).keeps).trans (Calm.keeps (by simp))
  exact keeps_mk m rfl rfl rfl rfl rfl

theorem execCoreRstNRelease_keeps {b s : State} (h : Keeps b s) : ∃ t, execCoreRstNRelease s = .next t ∧ Keeps b t := by
  refine ⟨_, rfl, ?_⟩
  split
  · exact State.coldStart_keeps h
  · exact h

theorem execCensusDone_mild {b s : State} (w e : Option Census) (h : Mild b s) : ∃ t, execCensusDone w e s = .next t ∧ Mild b t := by
  unfold execCensusDone
  refine ⟨_, rfl, ?_⟩
  have m := State.censusHalf_mild .east e (State.censusHalf_mild .west w h)
  split
  · exact mild_of m (fun _ k => calm_mk k (Nat.le_refl _) rfl rfl rfl rfl rfl)
  · exact m

theorem execBootSetVerified_mild {b s : State} (h : Mild b s) : ∃ t, execBootSetVerified s = .next t ∧ Mild b t := by
  unfold execBootSetVerified
  refine ⟨_, rfl, ?_⟩
  split
  · rename_i hg
    have hs : s.eng.state = .survey := by
      simp only [Bool.and_eq_true, beq_iff_eq] at hg
      exact hg.1.1.1.2
    have m : Calm s { s with eng := { s.eng with state := .ready, phase := .ready } } :=
      calm_mk (Calm.refl s) (by simp [hs, EState.rank]) rfl rfl rfl rfl rfl
    dsimp only
    split
    · refine h.calm (calm_foldl m fun t x ht => calm_foldl ht fun u y hu => by simp [hu])
    · exact h.calm m
  · exact h

theorem execWarmRestart_keeps {b s : State} (h : Keeps b s) : ∃ t, execWarmRestart s = .next t ∧ Keeps b t := by
  unfold execWarmRestart
  refine ⟨_, rfl, ?_⟩
  split
  · exact State.warmAgain_keeps (keeps_mk h rfl rfl rfl rfl rfl)
  · exact h

theorem execRailOutOfRange_mild {b s : State} (h0 : Half) (rail : BitVec 4) (h : Mild b s) : ∃ t, execRailOutOfRange h0 rail s = .next t ∧ Mild b t := by
  refine ⟨_, rfl, ?_⟩
  split
  · exact State.railOut_mild _ _ h
  · exact h

theorem execVddFuseRemoved_mild {b s : State} (h : Mild b s) : ∃ t, execVddFuseRemoved s = .next t ∧ Mild b t :=
  ⟨_, rfl, mild_of (State.cutBurn_mild h) (fun _ j => by simp [j])⟩

theorem execSupplyWarnN_mild {b s : State} (h : Mild b s) : ∃ t, execSupplyWarnN s = .next t ∧ Mild b t := by
  unfold execSupplyWarnN
  refine ⟨_, rfl, ?_⟩
  split
  · exact h
  · have m : Mild b s.cutBurn.holdCommands.dropUncommitted := mild_of (State.cutBurn_mild h) (fun _ j => by simp [j])
    dsimp only
    generalize s.cutBurn.holdCommands.dropUncommitted = a at m ⊢
    refine mild_of m (fun c j => ?_)
    apply State.withdraw_calm
    apply State.idleLanes_calm
    apply State.idleLanes_calm
    (repeat' split)
    all_goals first
      | (simp (maxDischargeDepth := 40) [j]; done)
      | (refine calm_flush (s := ({ a with safe := { a.safe with warn := true } } : State).log engineSide 0 0x000E 0 0 []) ?_ 3
         refine State.log_calm _ _ _ _ _ _ _ _ ?_
         exact calm_mk j (Nat.le_refl _) rfl rfl rfl rfl rfl)

theorem execSupplyWarnNRelease_keeps {b s : State} (railsOk : Bool) (h : Keeps b s) : ∃ t, execSupplyWarnNRelease railsOk s = .next t ∧ Keeps b t := by
  unfold execSupplyWarnNRelease
  refine ⟨_, rfl, ?_⟩
  split
  · dsimp only
    split
    · exact State.warmAgain_keeps (keeps_mk h rfl rfl rfl rfl rfl)
    · exact keeps_mk h rfl rfl rfl rfl rfl
  · exact h

theorem execFuseBurnDone_mild {b s : State} (ok : Bool) (h : Mild b s) : ∃ t, execFuseBurnDone ok s = .next t ∧ Mild b t := by
  unfold execFuseBurnDone
  refine ⟨_, rfl, ?_⟩
  split
  · exact h
  · exact State.burned_mild _ _ _ _ h
  · exact State.programmed_mild _ _ _ h (by assumption)
  · split
    · exact State.revoked_mild _ _ h (by assumption)
    · exact mild_of (State.fuseEnds_mild h) (fun _ k => State.fail_calm _ _ _ _ _ k)

theorem execSafelightIslandPowerUp_mild {b s : State} (h0 : Half) (h : Mild b s) : ∃ t, execSafelightIslandPowerUp h0 s = .next t ∧ Mild b t := by
  exact ⟨_, rfl, mild_of (State.islandPowers_mild h0 h) (fun _ k => State.serveDue_calm _ _ k)⟩

end Sys2Proof.Machine
end

