-- ==== Sys2Proof/Laws/PerInstr.lean ====
section
/-! SUPPORT. A fact about every command: a row of the mailbox catalogue acts on a code that the catalogue lists. -/
namespace Sys2Proof.Laws.Catalogue
open Sys2Proof.Machine

/-- The code of a command's mailbox row is listed (12 R263). -/
def Statement (i : Instr) : Prop := ∀ x, rowOf i = some x → listed x.code = true

theorem engineQuery slot : Statement (.engineQuery slot) := fun x h => by cases h <;> rfl
theorem engineConfigure slot : Statement (.engineConfigure slot) := fun x h => by cases h <;> rfl
theorem engineDrain slot : Statement (.engineDrain slot) := fun x h => by cases h <;> rfl
theorem engineServe slot : Statement (.engineServe slot) := fun x h => by cases h <;> rfl
theorem engineHalt slot : Statement (.engineHalt slot) := fun x h => by cases h <;> rfl
theorem engineRestart slot : Statement (.engineRestart slot) := fun x h => by cases h <;> rfl
theorem imageLoad slot : Statement (.imageLoad slot) := fun x h => by cases h <;> rfl
theorem imageRelease slot : Statement (.imageRelease slot) := fun x h => by cases h <;> rfl
theorem imageQuery slot : Statement (.imageQuery slot) := fun x h => by cases h <;> rfl
theorem imageList slot : Statement (.imageList slot) := fun x h => by cases h <;> rfl
theorem bindingCreate slot : Statement (.bindingCreate slot) := fun x h => by cases h <;> rfl
theorem bindingStart slot : Statement (.bindingStart slot) := fun x h => by cases h <;> rfl
theorem bindingStop slot : Statement (.bindingStop slot) := fun x h => by cases h <;> rfl
theorem bindingSwap slot : Statement (.bindingSwap slot) := fun x h => by cases h <;> rfl
theorem bindingRetire slot : Statement (.bindingRetire slot) := fun x h => by cases h <;> rfl
theorem bindingQuery slot : Statement (.bindingQuery slot) := fun x h => by cases h <;> rfl
theorem routeOpen slot : Statement (.routeOpen slot) := fun x h => by cases h <;> rfl
theorem routePause slot : Statement (.routePause slot) := fun x h => by cases h <;> rfl
theorem routeSave slot : Statement (.routeSave slot) := fun x h => by cases h <;> rfl
theorem routeResume slot : Statement (.routeResume slot) := fun x h => by cases h <;> rfl
theorem routeEnd slot : Statement (.routeEnd slot) := fun x h => by cases h <;> rfl
theorem routeQuery slot : Statement (.routeQuery slot) := fun x h => by cases h <;> rfl
theorem routeDiscard slot : Statement (.routeDiscard slot) := fun x h => by cases h <;> rfl
theorem routeExport slot : Statement (.routeExport slot) := fun x h => by cases h <;> rfl
theorem diagCounters slot : Statement (.diagCounters slot) := fun x h => by cases h <;> rfl
theorem diagCensus slot : Statement (.diagCensus slot) := fun x h => by cases h <;> rfl
theorem diagResidency slot : Statement (.diagResidency slot) := fun x h => by cases h <;> rfl
theorem diagBankRead slot : Statement (.diagBankRead slot) := fun x h => by cases h <;> rfl
theorem diagBankWrite slot : Statement (.diagBankWrite slot) := fun x h => by cases h <;> rfl
theorem diagContactRead slot : Statement (.diagContactRead slot) := fun x h => by cases h <;> rfl
theorem diagJournalExport slot : Statement (.diagJournalExport slot) := fun x h => by cases h <;> rfl
theorem diagSelftest slot : Statement (.diagSelftest slot) := fun x h => by cases h <;> rfl
theorem diagSnapshot slot : Statement (.diagSnapshot slot) := fun x h => by cases h <;> rfl
theorem serviceRescueStatus slot : Statement (.serviceRescueStatus slot) := fun x h => by cases h <;> rfl
theorem serviceLogRead slot : Statement (.serviceLogRead slot) := fun x h => by cases h <;> rfl
theorem serviceJournalFlushStart slot : Statement (.serviceJournalFlushStart slot) := fun x h => by cases h <;> rfl
theorem serviceJournalFlushPoll slot : Statement (.serviceJournalFlushPoll slot) := fun x h => by cases h <;> rfl
theorem serviceQuiesceLanes slot : Statement (.serviceQuiesceLanes slot) := fun x h => by cases h <;> rfl
theorem serviceLevelWithdraw slot : Statement (.serviceLevelWithdraw slot) := fun x h => by cases h <;> rfl
theorem serviceHalfReset slot : Statement (.serviceHalfReset slot) := fun x h => by cases h <;> rfl
theorem serviceFuseStatus slot : Statement (.serviceFuseStatus slot) := fun x h => by cases h <;> rfl
theorem serviceHalfDrain slot : Statement (.serviceHalfDrain slot) := fun x h => by cases h <;> rfl
theorem serviceHalfServe slot : Statement (.serviceHalfServe slot) := fun x h => by cases h <;> rfl
theorem serviceRetireSuspects slot : Statement (.serviceRetireSuspects slot) := fun x h => by cases h <;> rfl
theorem serviceFuseBurn slot : Statement (.serviceFuseBurn slot) := fun x h => by cases h <;> rfl
theorem serviceStackRetire slot : Statement (.serviceStackRetire slot) := fun x h => by cases h <;> rfl
theorem serviceStackRestore slot : Statement (.serviceStackRestore slot) := fun x h => by cases h <;> rfl
theorem serviceChainRetrain slot : Statement (.serviceChainRetrain slot) := fun x h => by cases h <;> rfl
theorem serviceKeyslotProgram slot : Statement (.serviceKeyslotProgram slot) := fun x h => by cases h <;> rfl
theorem serviceKeyslotRevoke slot : Statement (.serviceKeyslotRevoke slot) := fun x h => by cases h <;> rfl
theorem serviceFwStage slot : Statement (.serviceFwStage slot) := fun x h => by cases h <;> rfl
theorem serviceFwActivate slot : Statement (.serviceFwActivate slot) := fun x h => by cases h <;> rfl
theorem serviceLevelRejoin slot : Statement (.serviceLevelRejoin slot) := fun x h => by cases h <;> rfl
theorem serviceFlushTarget slot : Statement (.serviceFlushTarget slot) := fun x h => by cases h <;> rfl
theorem afterDependencyMet slot : Statement (.afterDependencyMet slot) := fun x h => by cases h <;> rfl
theorem afterWaitExpired slot : Statement (.afterWaitExpired slot) := fun x h => by cases h <;> rfl
theorem registerWrite path off be data parityOk : Statement (.registerWrite path off be data parityOk) := fun x h => by cases h <;> rfl
theorem mbxDoneClear h k be data setting : Statement (.mbxDoneClear h k be data setting) := fun x h => by cases h <;> rfl
theorem safeTakeoverConfirm path be data : Statement (.safeTakeoverConfirm path be data) := fun x h => by cases h <;> rfl
theorem safeLogLatch path : Statement (.safeLogLatch path) := fun x h => by cases h <;> rfl
theorem peakClr path h be data arriving : Statement (.peakClr path h be data arriving) := fun x h => by cases h <;> rfl
theorem sidebandSetOffset h off : Statement (.sidebandSetOffset h off) := fun x h => by cases h <;> rfl
theorem hid h chain f : Statement (.hid h chain f) := fun x h => by cases h <;> rfl
theorem lgt h chain f : Statement (.lgt h chain f) := fun x h => by cases h <;> rfl
theorem drf h chain f : Statement (.drf h chain f) := fun x h => by cases h <;> rfl
theorem pkSummary h chain f : Statement (.pkSummary h chain f) := fun x h => by cases h <;> rfl
theorem pkZmax h chain f : Statement (.pkZmax h chain f) := fun x h => by cases h <;> rfl
theorem pkZret h chain f : Statement (.pkZret h chain f) := fun x h => by cases h <;> rfl
theorem pkCands h chain f : Statement (.pkCands h chain f) := fun x h => by cases h <;> rfl
theorem pkRelease h chain f : Statement (.pkRelease h chain f) := fun x h => by cases h <;> rfl
theorem halfSummary handle : Statement (.halfSummary handle) := fun x h => by cases h <;> rfl
theorem ack h chain f : Statement (.ack h chain f) := fun x h => by cases h <;> rfl
theorem nak h chain f : Statement (.nak h chain f) := fun x h => by cases h <;> rfl
theorem crd h chain f : Statement (.crd h chain f) := fun x h => by cases h <;> rfl
theorem hello h lane f : Statement (.hello h lane f) := fun x h => by cases h <;> rfl
theorem replayTimeout h chain : Statement (.replayTimeout h chain) := fun x h => by cases h <;> rfl
theorem chainReplayTimeout h chain : Statement (.chainReplayTimeout h chain) := fun x h => by cases h <;> rfl
theorem laneDropOut h lane : Statement (.laneDropOut h lane) := fun x h => by cases h <;> rfl
theorem peerUnreachable position : Statement (.peerUnreachable position) := fun x h => by cases h <;> rfl
theorem maskReady handle : Statement (.maskReady handle) := fun x h => by cases h <;> rfl
theorem stepChecked handle r : Statement (.stepChecked handle r) := fun x h => by cases h <;> rfl
theorem mirrorRecord handle : Statement (.mirrorRecord handle) := fun x h => by cases h <;> rfl
theorem releaseCommit handle : Statement (.releaseCommit handle) := fun x h => by cases h <;> rfl
theorem forcedOnlyRelease handle : Statement (.forcedOnlyRelease handle) := fun x h => by cases h <;> rfl
theorem latentSlotTimeout handle : Statement (.latentSlotTimeout handle) := fun x h => by cases h <;> rfl
theorem latentSlotFreed h : Statement (.latentSlotFreed h) := fun x h => by cases h <;> rfl
theorem admissionRoomFreed h : Statement (.admissionRoomFreed h) := fun x h => by cases h <;> rfl
theorem maskFetchDone h digest state : Statement (.maskFetchDone h digest state) := fun x h => by cases h <;> rfl
theorem clearDone h : Statement (.clearDone h) := fun x h => by cases h <;> rfl
theorem headFillDone h digest : Statement (.headFillDone h digest) := fun x h => by cases h <;> rfl
theorem inText h r : Statement (.inText h r) := fun x h => by cases h <;> rfl
theorem inTokens h r : Statement (.inTokens h r) := fun x h => by cases h <;> rfl
theorem inEnd h r : Statement (.inEnd h r) := fun x h => by cases h <;> rfl
theorem pretokenTokenised handle agree : Statement (.pretokenTokenised handle agree) := fun x h => by cases h <;> rfl
theorem inBeatParityError h depth : Statement (.inBeatParityError h depth) := fun x h => by cases h <;> rfl
theorem strOutNak h depth : Statement (.strOutNak h depth) := fun x h => by cases h <;> rfl
theorem halfDownReport h : Statement (.halfDownReport h) := fun x h => by cases h <;> rfl
theorem mainbandLost : Statement .mainbandLost := fun x h => by cases h
theorem meridianLaneDrop toEast lane : Statement (.meridianLaneDrop toEast lane) := fun x h => by cases h <;> rfl
theorem linkSilent westAlive : Statement (.linkSilent westAlive) := fun x h => by cases h <;> rfl
theorem partnerSilent : Statement .partnerSilent := fun x h => by cases h
theorem heartbeatResumed : Statement .heartbeatResumed := fun x h => by cases h
theorem safelightHeartbeatMissed : Statement .safelightHeartbeatMissed := fun x h => by cases h
theorem slotTakeover h : Statement (.slotTakeover h) := fun x h => by cases h <;> rfl
theorem slotTakeback h : Statement (.slotTakeback h) := fun x h => by cases h <;> rfl
theorem firmwareFault h : Statement (.firmwareFault h) := fun x h => by cases h <;> rfl
theorem fwBootTimeout h : Statement (.fwBootTimeout h) := fun x h => by cases h <;> rfl
theorem safeRstNRelease datum addrW addrE : Statement (.safeRstNRelease datum addrW addrE) := fun x h => by cases h <;> rfl
theorem coreRstNAssert : Statement .coreRstNAssert := fun x h => by cases h
theorem coreRstNRelease : Statement .coreRstNRelease := fun x h => by cases h
theorem firmwareBooted h : Statement (.firmwareBooted h) := fun x h => by cases h <;> rfl
theorem censusDone w e : Statement (.censusDone w e) := fun x h => by cases h <;> rfl
theorem meridianTrained toEast toWest : Statement (.meridianTrained toEast toWest) := fun x h => by cases h <;> rfl
theorem stacksTrained w e : Statement (.stacksTrained w e) := fun x h => by cases h <;> rfl
theorem chainsTrained : Statement .chainsTrained := fun x h => by cases h
theorem bootSetVerified : Statement .bootSetVerified := fun x h => by cases h
theorem warmRestart : Statement .warmRestart := fun x h => by cases h
theorem routeStatesRecovered bad : Statement (.routeStatesRecovered bad) := fun x h => by cases h <;> rfl
theorem commonCauseFault : Statement .commonCauseFault := fun x h => by cases h
theorem railOutOfRange h rail : Statement (.railOutOfRange h rail) := fun x h => by cases h <;> rfl
theorem coreRailsRemoved : Statement .coreRailsRemoved := fun x h => by cases h
theorem vddFuseRemoved : Statement .vddFuseRemoved := fun x h => by cases h
theorem supplyWarnN : Statement .supplyWarnN := fun x h => by cases h
theorem journalFlushDone : Statement .journalFlushDone := fun x h => by cases h
theorem supplyWarnNRelease railsOk : Statement (.supplyWarnNRelease railsOk) := fun x h => by cases h <;> rfl
theorem lmAnnounce p m : Statement (.lmAnnounce p m) := fun x h => by cases h <;> rfl
theorem lmAdmit p m : Statement (.lmAdmit p m) := fun x h => by cases h <;> rfl
theorem lmRefuse p m : Statement (.lmRefuse p m) := fun x h => by cases h <;> rfl
theorem lmBase p m : Statement (.lmBase p m) := fun x h => by cases h <;> rfl
theorem lmEcho p m : Statement (.lmEcho p m) := fun x h => by cases h <;> rfl
theorem lmWithdraw p m : Statement (.lmWithdraw p m) := fun x h => by cases h <;> rfl
theorem announceTimer : Statement .announceTimer := fun x h => by cases h
theorem datumCheckDone : Statement .datumCheckDone := fun x h => by cases h
theorem formation : Statement .formation := fun x h => by cases h
theorem barrierReleaseTimer : Statement .barrierReleaseTimer := fun x h => by cases h
theorem levelRelease : Statement .levelRelease := fun x h => by cases h
theorem memberSilent position : Statement (.memberSilent position) := fun x h => by cases h <;> rfl
theorem datumAbsent : Statement .datumAbsent := fun x h => by cases h
theorem calibrationDone position pathNs ok : Statement (.calibrationDone position pathNs ok) := fun x h => by cases h <;> rfl
theorem timeFrame h time crc : Statement (.timeFrame h time crc) := fun x h => by cases h <;> rfl
theorem timeInputTimeout h : Statement (.timeInputTimeout h) := fun x h => by cases h <;> rfl
theorem thermalReading h r : Statement (.thermalReading h r) := fun x h => by cases h <;> rfl
theorem finderStopTimeout h : Statement (.finderStopTimeout h) := fun x h => by cases h <;> rfl
theorem refresh h errs : Statement (.refresh h errs) := fun x h => by cases h <;> rfl
theorem finderScrub h bad : Statement (.finderScrub h bad) := fun x h => by cases h <;> rfl
theorem suspectExpiry h pos : Statement (.suspectExpiry h pos) := fun x h => by cases h <;> rfl
theorem stackFault h stack : Statement (.stackFault h stack) := fun x h => by cases h <;> rfl
theorem stackRebuilt h stack : Statement (.stackRebuilt h stack) := fun x h => by cases h <;> rfl
theorem imageFetchDone digest : Statement (.imageFetchDone digest) := fun x h => by cases h <;> rfl
theorem imageVerifyDone digest : Statement (.imageVerifyDone digest) := fun x h => by cases h <;> rfl
theorem fenceAck binding : Statement (.fenceAck binding) := fun x h => by cases h <;> rfl
theorem benchmarkWritten handle : Statement (.benchmarkWritten handle) := fun x h => by cases h <;> rfl
theorem miResponse h tag data parityOk err : Statement (.miResponse h tag data parityOk err) := fun x h => by cases h <;> rfl
theorem miTimeout h tag : Statement (.miTimeout h tag) := fun x h => by cases h <;> rfl
theorem frameDiscarded h chain ftype f : Statement (.frameDiscarded h chain ftype f) := fun x h => by cases h <;> rfl
theorem unlistedCommandCode slot : Statement (.unlistedCommandCode slot) := fun x h => by cases h <;> rfl
theorem reservedKindRecord h kind r : Statement (.reservedKindRecord h kind r) := fun x h => by cases h <;> rfl
theorem stackClearDone h : Statement (.stackClearDone h) := fun x h => by cases h <;> rfl
theorem fuseBurnDone ok : Statement (.fuseBurnDone ok) := fun x h => by cases h <;> rfl
theorem selftestDone h failed : Statement (.selftestDone h failed) := fun x h => by cases h <;> rfl
theorem safelightIslandPowerUp h : Statement (.safelightIslandPowerUp h) := fun x h => by cases h <;> rfl

end Sys2Proof.Laws.Catalogue
end

