-- ==== Sys2Proof/Laws/Replies.lean ====
section
/-! SUPPORT. Replies of commands: the lengths of what they carry, what the journal's copies leave alone, and how a command that
replies answers. -/
namespace Sys2Proof.Machine

/-! ### The journal's copies -/

@[simp] theorem State.notice_half (s : State) (k : Nat) : (s.notice k).half = s.half := by unfold State.notice; simp
@[simp] theorem State.notice_safe (s : State) (k : Nat) : (s.notice k).safe = s.safe := by unfold State.notice; simp
@[simp] theorem State.notice_mi (s : State) (k : Nat) : (s.notice k).mi = s.mi := by unfold State.notice; simp
@[simp] theorem State.notice_chains (s : State) (k : Nat) : (s.notice k).chains = s.chains := by unfold State.notice; simp
@[simp] theorem State.notice_lanes (s : State) (k : Nat) : (s.notice k).lanes = s.lanes := by unfold State.notice; simp
@[simp] theorem State.notice_img (s : State) (k : Nat) : (s.notice k).img = s.img := by unfold State.notice; simp
@[simp] theorem State.notice_bnd (s : State) (k : Nat) : (s.notice k).bnd = s.bnd := by unfold State.notice; simp
@[simp] theorem State.notice_bndGen (s : State) (k : Nat) : (s.notice k).bndGen = s.bndGen := by unfold State.notice; simp
@[simp] theorem State.notice_rt (s : State) (k : Nat) : (s.notice k).rt = s.rt := by unfold State.notice; simp
@[simp] theorem State.notice_rtGen (s : State) (k : Nat) : (s.notice k).rtGen = s.rtGen := by unfold State.notice; simp
@[simp] theorem State.notice_bench (s : State) (k : Nat) : (s.notice k).bench = s.bench := by unfold State.notice; simp
@[simp] theorem State.notice_level (s : State) (k : Nat) : (s.notice k).level = s.level := by unfold State.notice; simp
@[simp] theorem State.notice_str (s : State) (k : Nat) : (s.notice k).str = s.str := by unfold State.notice; simp
@[simp] theorem State.notice_free (s : State) (k : Nat) : (s.notice k).free = s.free := by unfold State.notice; simp
@[simp] theorem State.commit_half (s : State) (k : Nat) : (s.commit k).half = s.half := by unfold State.commit; simp
@[simp] theorem State.commit_safe (s : State) (k : Nat) : (s.commit k).safe = s.safe := by unfold State.commit; simp
@[simp] theorem State.commit_mi (s : State) (k : Nat) : (s.commit k).mi = s.mi := by unfold State.commit; simp
@[simp] theorem State.commit_img (s : State) (k : Nat) : (s.commit k).img = s.img := by unfold State.commit; simp
@[simp] theorem State.commit_bnd (s : State) (k : Nat) : (s.commit k).bnd = s.bnd := by unfold State.commit; simp
@[simp] theorem State.commit_rt (s : State) (k : Nat) : (s.commit k).rt = s.rt := by unfold State.commit; simp
@[simp] theorem State.commit_bench (s : State) (k : Nat) : (s.commit k).bench = s.bench := by unfold State.commit; simp
@[simp] theorem State.commit_chains (s : State) (k : Nat) : (s.commit k).chains = s.chains := by unfold State.commit; simp
@[simp] theorem State.commit_level (s : State) (k : Nat) : (s.commit k).level = s.level := by unfold State.commit; simp
@[simp] theorem State.notice_host (s : State) (k : Nat) : (s.notice k).jr.host = s.jr.host := by
  unfold State.notice State.journal
  split
  · simp only [JrSt.add, JrSt.after, JrSt.number]
    (repeat' split) <;> rfl
  · rfl

theorem State.notice_obj (s : State) (k : Nat) : engineObj (s.notice k) = engineObj s := by unfold engineObj; rw [State.notice_eng]

theorem engineObj_lt (s : State) : (engineObj s).kind < 256 ∧ (engineObj s).state < 256 := by
  unfold engineObj; cases s.eng.state <;> decide

/-! ### Lengths -/

@[simp] theorem zeros_length (n : Nat) : (zeros n).length = n := by simp [zeros]

theorem flatMap_length {α β : Type} (l : List α) (f : α → List β) (n : Nat) (h : ∀ x, (f x).length = n) :
    (l.flatMap f).length = l.length * n := by
  induction l with
  | nil => simp
  | cons a t ih => simp only [List.flatMap_cons, List.length_append, h, ih, List.length_cons, Nat.add_mul, Nat.one_mul, Nat.add_comm]

@[simp] theorem digestBytes_length (d : Digest) : (digestBytes d).length = 48 := by simp [digestBytes, toBe]

@[simp] theorem keyslotBytes_length (k : Keyslot) : (keyslotBytes k).length = 64 := by simp [keyslotBytes]

theorem State.queryReply_length (s : State) : s.queryReply.length = 560 := by
  unfold State.queryReply State.identity
  rw [List.length_append, flatMap_length _ _ 64 (fun _ => keyslotBytes_length _)]
  simp

@[simp] theorem counts_length (n : Nat) (l : List Nat) : (counts n l).length = n := by simp [counts]

theorem State.counterSet_length (s : State) (n : Nat) : (s.counterSet n).length ≤ 128 := by
  have e : ∀ h, ((List.range 16).flatMap fun c => counts 4 (s.chain h c).cnt).length = 64 := fun h =>
    flatMap_length _ _ 4 (fun _ => counts_length ..)
  unfold State.counterSet
  dsimp only
  (repeat' split) <;> simp only [List.length_append, counts_length, List.length_cons, List.length_nil, List.flatMap_cons,
    List.flatMap_nil, e] <;> omega

/-! ### A command that replies -/

/-- A command whose effect is a reply after journal records answers. -/
theorem Answers.of_reply {c : Instr} {s s1 u : State} {k : Byte} {st : Nat} {o : ObjState} {p : List Byte} (hw : s.mbx.mem.wf = true)
    (he : exec c s = .next (u.reply k.toNat st o p)) (hu : OnlyJournal s1 u) (hb : SameBox s s1) (ht : s1.time = s.time)
    (hst : st < 65536) (ho : o.kind < 256 ∧ o.state < 256) (hp : p.length ≤ 2016) : Answers c s s1 k st o p := by
  refine ⟨_, he, State.reply_replied k st o p hw ?_ ?_ hst ho hp, OnlyReply.of_journal hu (State.reply_only ..)⟩
  · unfold SameBox at hb ⊢
    rw [← hb, ← hu.box]
  · have := congrArg State.time hu
    exact Eq.trans this ht

end Sys2Proof.Machine
end

