-- ==== Sys2Proof/WellFormed.lean ====
section
/-! DEFINITION. Which commands can be sent: the shapes that the ports themselves fix. -/
namespace Sys2Proof

/-- A frame has the payload bytes its FLITS field gives, at most 64 flits of 256 bytes (16 R389). -/
def Frame.wf (f : Frame) : Bool := decide (f.flits.toNat ≤ 64) && f.payload.length == 256 * f.flits.toNat

/-- A stream record carries LEN payload bytes (07 R162). -/
def InRec.wf (r : InRec) : Bool := r.payload.length == r.len.toNat

/-- Byte enables that leave no byte out, or a write through a path that has them: the sideband writes whole
registers (19 R462). -/
def beWf : Path → Byte → Bool
  | .control _, _ => true
  | .sideband _, be => be == 0xFF#8

/-- A register access is to an aligned 64-bit word; the sideband's offsets have 16 bits (17 R414, 19 R462). -/
def offWf : Path → BitVec 24 → Bool
  | .control _, off => off.toNat % 8 == 0
  | .sideband _, off => off.toNat % 8 == 0 && decide (off.toNat < 0x10000)

/-- Positions without a plate are named once each (09 R190). -/
def Census.wf (c : Census) : Bool := decide c.empty.Nodup

def optWf {α : Type} (f : α → Bool) : Option α → Bool
  | none => true
  | some x => f x

/-- The well-formed commands. -/
def Instr.wf : Instr → Bool
  | .registerWrite p off be _ _ => offWf p off && beWf p be
  | .safeTakeoverConfirm p be _ => beWf p be
  | .peakClr p _ be _ _ => beWf p be
  | .hid _ _ f => f.wf
  | .lgt _ _ f => f.wf
  | .drf _ _ f => f.wf
  | .pkSummary _ _ f => f.wf
  | .pkZmax _ _ f => f.wf
  | .pkZret _ _ f => f.wf
  | .pkCands _ _ f => f.wf
  | .pkRelease _ _ f => f.wf
  | .ack _ _ f => f.wf
  | .nak _ _ f => f.wf
  | .crd _ _ f => f.wf
  | .hello _ _ f => f.wf
  | .frameDiscarded _ _ _ f => f.wf
  | .inText _ r => r.wf
  | .inTokens _ r => r.wf
  | .inEnd _ r => r.wf
  | .reservedKindRecord _ _ r => r.wf
  | .railOutOfRange _ rail => decide (rail.toNat < 9)
  | .peerUnreachable p => decide (p.toNat < 64)
  | .memberSilent p => decide (p.toNat < 64)
  | .calibrationDone p _ _ => decide (p.toNat < 64)
  | .censusDone w e => optWf Census.wf w && optWf Census.wf e
  | _ => true

end Sys2Proof
end

