-- ==== Sys2Proof/Tests/Slice0.lean ====
section
/-! SUPPORT. Tests: ill-formed commands that the checks refuse; for each statement, states and operands that meet the hypotheses
of its clauses; and single steps on small states, with values taken from the spec. -/
namespace Sys2Proof.Tests
open Sys2Proof Sys2Proof.Machine
set_option Elab.async false

/-! ### Small states -/

/-- A half that serves. -/
def tHalf : HalfSt := { HalfSt.reset with code := .up, fw := .running, phase := .up }

/-- A step chain that is up, with room for every class. -/
def tChain : Chain := { Chain.reset with kind := .accel, limit := (100, 100, 100), granted := (64, 64, 64) }

def tChains (c : Chain) : Halves (List Chain) := ⟨c :: List.replicate 15 .reset, c :: List.replicate 15 .reset⟩

/-- An engine in SERVICE with a step chain 0 on each half, and nothing stored. -/
def tServe : State :=
  { State.reset with eng := { EngSt.reset with state := .service, phase := .up, coreRst := false, safeRst := false, serial := 77 }
                     half := ⟨tHalf, tHalf⟩
                     merid := ⟨0xFFFF, 0xFFFF, true, false⟩
                     chains := tChains tChain
                     level := { LvSt.reset with alone := true, ready := true }
                     time := 1000 }

/-- A request with the next sequence number stands sealed in a slot. -/
def tAsk (s : State) (slot : Byte) (code : Nat) (p : List Byte) : State :=
  { s with mbx := { s.mbx with mem := s.mbx.mem.writeAll (slotBase slot.toNat)
                                 (toLe 4 (s.expectedSeq slot.toNat) ++ toLe 2 code ++ [0, 0x80] ++ zeros 2 ++ toLe 2 p.length ++
                                   zeros 20 ++ p) } }

/-- Whether a request is granted, computed. -/
def tGranted (s : State) (k : Byte) (code : Nat) (p : List Byte) : Bool :=
  s.unnoticed k.toNat && (s.sealCode k.toNat == code) && (s.reqPayload k.toNat == p) && s.mbx.mem.wf &&
    (s.sealSeq k.toNat == s.expectedSeq k.toNat) && s.row2 k.toNat && s.afterMet k.toNat && validIn code s.eng.state

theorem granted_of {s : State} {k : Byte} {code : Nat} {p : List Byte} (h : tGranted s k code p = true) : Granted s k code p := by
  simp only [tGranted, Bool.and_eq_true, beq_iff_eq] at h
  exact ⟨⟨h.1.1.1.1.1.1.1, h.1.1.1.1.1.1.2, h.1.1.1.1.1.2, h.1.1.1.1.2⟩, h.1.1.1.2, h.1.1.2, h.1.2, h.2⟩

/-- A granted request, with what else a clause asks of its state. -/
theorem meets {s : State} {k : Byte} {code : Nat} {p : List Byte} {P : Prop} [Decidable P]
    (h : (tGranted s k code p && decide P) = true) : Granted s k code p ∧ P := by
  rw [Bool.and_eq_true, decide_eq_true_eq] at h
  exact ⟨granted_of h.1, h.2⟩

/-- The same with a further fact. -/
theorem meetsAnd {s : State} {k : Byte} {code : Nat} {p : List Byte} {P Q : Prop} [Decidable P]
    (h : (tGranted s k code p && decide P) = true) (q : Q) : Granted s k code p ∧ P ∧ Q := ⟨(meets h).1, (meets h).2, q⟩

/-- A descriptor of a region: 1 inbound, 2 outbound (11 R251). -/
def tDesc (dir len : Nat) : List Byte := toLe 8 640 ++ toLe 8 len ++ zeros 8 ++ toLe 1 dir ++ zeros 7

/-- A container with one section (10 R213, R214). -/
def tBox (typ kind off : Nat) (key digest : Digest) (body : List Byte) : List Byte :=
  [0x47, 0x57, 0x52, 0x4E] ++ toLe 2 1 ++ toLe 1 typ ++ zeros 1 ++ toLe 8 (off + body.length) ++ toLe 8 64 ++ toLe 4 208 ++ zeros 4 ++
  toLe 8 320 ++ toLe 8 2304 ++ zeros 16 ++
  [0x47, 0x57, 0x4D, 0x46] ++ toLe 1 typ ++ zeros 1 ++ toLe 2 1 ++ toLe 4 5 ++ toLe 4 9 ++ digestBytes key ++ zeros 64 ++
  toLe 4 kind ++ zeros 4 ++ toLe 8 off ++ toLe 8 body.length ++ zeros 8 ++ digestBytes digest ++ zeros (off - 272) ++ body

/-- The header of a tokeniser of four tokens, whose end token is 3, and nothing else of it. -/
def tTki : List Byte := tBox 1 kThdr 320 0 0 (toLe 4 4 ++ zeros 8 ++ toLe 4 3 ++ zeros 48)

/-- The same with one token, whose forced run no step ends. -/
def tOneTok : List Byte := tBox 1 kThdr 320 0 0 (toLe 4 1 ++ zeros 8 ++ toLe 4 3 ++ zeros 48)

/-- A verified image with the same bytes on both halves. -/
def tImage (d : Digest) (t : IType) (c : List Byte) : Image :=
  { digest := d, typ := t, state := .verified, vstatus := stOk, hostRef := true, total := c.length, copies := ⟨c, c⟩, src := []
    refetch := ⟨false, false⟩ }

/-- An image set of a tokeniser alone: the logits come in from outside. -/
def tSet : ImgSet := { tki := 1, hdi := 0, csi := 0, sli := 0, infmt := 0x01, pin := false, one := false, half := .west }

/-- A greedy profile (12 R272). -/
def tProfile : List Byte := zeros 4 ++ toLe 4 0x3F800000 ++ zeros 12 ++ toLe 4 0x3F800000 ++ zeros 40

def tBind : Binding :=
  { (default : Binding) with handle := 65538, state := .active, set := tSet, shards := 1, profile := tProfile }

/-- A route of the binding on chain 0 of West, at rest. -/
def tRoute : Route :=
  { (default : Route) with handle := 262149, binding := 65538, state := .open, salt := 9, limit := 100, oflags := 4, chains := ⟨some 0, none⟩
                           rel := ⟨⟨0, [], .counts []⟩, ⟨[], []⟩, 0, 0, 0⟩, rebasedAt := 0xFFFFFFFF }

/-- The engine with the tokeniser, the binding and the route. -/
def tRun : State :=
  { tServe with img := Tab.put [] 1 (tImage 1 .tki tTki), bnd := Tab.put [] 2 tBind, bndGen := Tab.put [] 2 1
                rt := Tab.put [] 5 tRoute, rtGen := Tab.put [] 5 1 }

/-- The same with a route of other fields. -/
def tWith (f : Route → Route) : State := { tRun with rt := Tab.put [] 5 (f tRoute) }

/-- The same with a binding of other fields. -/
def tBound (f : Binding → Binding) : State := { tRun with bnd := Tab.put [] 2 (f tBind) }

/-! ### The hypotheses of the statements are met -/

theorem test_meets_EngineReports :
    Granted (tAsk tServe 3 cQuery []) 3 cQuery [] ∧ Granted (tAsk tServe 3 cCensus []) 3 cCensus [] ∧
    (let p := toLe 2 6 ++ zeros 6
     Granted (tAsk tServe 200 cCounters p) 200 cCounters p ∧ p.length = 8 ∧ u16At p 0 ≤ 6 ∧ zeroAt p 2 6 = true) ∧
    Granted (tAsk tServe 255 cRescue []) 255 cRescue [] ∧ Granted (tAsk tServe 255 cFuseStatus []) 255 cFuseStatus [] ∧
    (let p := toLe 1 1 ++ zeros 39
     Granted (tAsk tServe 3 cFlush p) 3 cFlush p ∧ u8At p 0 = 1 ∧ p.length = 40 ∧ zeroAt p 1 39 = true) :=
  ⟨granted_of (by decide +kernel), granted_of (by decide +kernel), meets (by decide +kernel), granted_of (by decide +kernel),
    granted_of (by decide +kernel), meets (by decide +kernel)⟩

theorem test_meets_ObjectReports :
    (let s := tAsk tRun 3 cImgQuery (digestBytes 1)
     let p := digestBytes 1
     Granted s 3 cImgQuery p ∧ s.image (digestAt p 0) = some (tImage 1 .tki tTki) ∧ p.length = 48) ∧
    (let p := toLe 1 1 ++ zeros 7 ++ digestBytes 2
     let i := tImage 2 .hdi (zeros 8)
     let s := tAsk { tRun with img := Tab.put tRun.img 2 i } 3 cResidency p
     Granted s 3 cResidency p ∧ s.image (digestAt p 8) = some i ∧ p.length = 56 ∧ zeroAt p 1 7 = true ∧
       (i.typ = .hdi ∧ u8At p 0 = 1 ∨ i.typ = .csi ∧ u8At p 0 = 2)) ∧
    (let p := toLe 4 65538 ++ zeros 44
     let s := tAsk tRun 3 cBndQuery p
     Granted s 3 cBndQuery p ∧ s.binding (u32At p 0) = some tBind ∧ p.length = 48 ∧ u32At p 4 = 0 ∧ zeroAt p 0xC 4 = true ∧
       zeroAt p 0x10 32 = true) ∧
    (let p := toLe 4 262149 ++ zeros 4
     let s := tAsk tRun 3 cRtQuery p
     Granted s 3 cRtQuery p ∧ s.route (u32At p 0) = some tRoute ∧ p.length = 8 ∧ zeroAt p 4 4 = true) :=
  ⟨meets (by decide +kernel), meets (by decide +kernel), meets (by decide +kernel), meets (by decide +kernel)⟩

theorem test_meets_ListsGoToHostMemory :
    (let p := zeros 16 ++ tDesc 2 64
     Granted (tAsk tRun 3 cImgList p) 3 cImgList p ∧ p.length = 48 ∧ zeroAt p 1 3 = true ∧ zeroAt p 8 8 = true ∧
       (descAt p 0x10).okOut = true ∧ (u8At p 0 = 0 ∨ (IType.ofCode (u8At p 0)).isSome)) ∧
    (let p := toLe 4 65538 ++ toLe 4 1 ++ zeros 8 ++ tDesc 2 16
     let s := tAsk (tBound fun b => { b with state := .stopped }) 3 cBndQuery p
     Granted s 3 cBndQuery p ∧ s.binding (u32At p 0) = some { tBind with state := .stopped } ∧ p.length = 48 ∧ u32At p 4 = 1 ∧
       zeroAt p 0xC 4 = true ∧ (descAt p 0x10).okOut = true) ∧
    (let p := toLe 1 2 ++ zeros 15 ++ tDesc 2 16
     Granted (tAsk tRun 3 cSnapshot p) 3 cSnapshot p ∧ p.length = 48 ∧ u8At p 0 ≤ 2 ∧ zeroAt p 1 3 = true ∧ zeroAt p 8 8 = true ∧
       (descAt p 0x10).okOut = true) ∧
    (let p := toLe 4 9 ++ zeros 12 ++ tDesc 2 64
     Granted (tAsk tRun 3 cContact p) 3 cContact p ∧ p.length = 48 ∧ zeroAt p 0xC 4 = true ∧ (descAt p 0x10).okOut = true) ∧
    (let p := zeros 8 ++ toLe 4 5 ++ zeros 4 ++ tDesc 2 4096
     Granted (tAsk tRun 3 cJExport p) 3 cJExport p ∧ p.length = 48 ∧ zeroAt p 0xC 4 = true ∧ (descAt p 0x10).okOut = true) ∧
    (let p := zeros 4 ++ toLe 4 256 ++ zeros 8 ++ tDesc 2 64
     Granted (tAsk tRun 255 cLogRead p) 255 cLogRead p ∧ p.length = 48 ∧ 1 ≤ u32At p 4 ∧ u32At p 4 ≤ 256 ∧ zeroAt p 8 8 = true ∧
       (descAt p 0x10).okOut = true) ∧
    (let p := toLe 4 262151 ++ zeros 12 ++ tDesc 2 64
     let e : BenchEnt := ⟨262151, 262149, zeros 64⟩
     let s := tAsk { tRun with bench := Tab.put [] 7 e } 3 cExport p
     Granted s 3 cExport p ∧ s.benchAt (u32At p 0) = some e ∧ p.length = 48 ∧ zeroAt p 4 12 = true ∧ (descAt p 0x10).okOut = true ∧
       e.bytes.length ≤ (descAt p 0x10).len) :=
  ⟨meets (by decide +kernel), meets (by decide +kernel), meets (by decide +kernel), meets (by decide +kernel),
    meets (by decide +kernel), meets (by decide +kernel), meets (by decide +kernel)⟩

/-- A job of slot 3. -/
def tJob (code : Nat) (body : List Byte) : Job := { (default : Job) with slot := 3, code := code, body := body, arg := 65538 }

def tJobs (s : State) (js : List Job) : State := { s with mbx := { s.mbx with jobs := js } }

/-- The payload of `binding.create` for the set of the tokeniser, at handle 1 of index 9. -/
def tCreate (bias stops : Nat) : List Byte :=
  toLe 4 65545 ++ zeros 4 ++ toLe 1 1 ++ zeros 2 ++ toLe 1 1 ++ zeros 4 ++ digestBytes 1 ++ zeros 144 ++
    (tProfile.take 32 ++ toLe 2 bias ++ zeros 30) ++ toLe 1 stops ++ zeros 15 ++
    (if bias = 0 then zeros 32 else tDesc 0x81 (8 * bias)) ++ (if stops = 0 then zeros 32 else tDesc 0x81 (264 * stops))

theorem test_meets_CommandsFetchTheirRegions :
    (let p := toLe 4 1 ++ toLe 1 1 ++ zeros 3 ++ tDesc 0x81 64
     Granted (tAsk tRun 3 cLoad p) 3 cLoad p ∧ p.length = 8 + 32 * u8At p 4 ∧ 1 ≤ u8At p 4 ∧ u8At p 4 ≤ 64 ∧ u32At p 0 ≤ 1 ∧
       zeroAt p 5 3 = true ∧ (loadDescs p).all Desc.okIn = true) ∧
    (let p := tCreate 2 64
     let s := tAsk tRun 3 cCreate p
     Granted s 3 cCreate p ∧ ¬(s.eng.state = .drain ∧ bitOf (u32At p 4) 0 = true) ∧ s.bnd.get? (u32At p 0 % 65536) = none ∧
       s.imagesFault (createSet s p) = none ∧ createArgOk s p = true ∧ s.typesOk (createSet s p) = true ∧
       s.anyRevoked (createSet s p) = false ∧ u16At p 0xF0 ≠ 0 ∧ u8At p 0x110 ≠ 0) ∧
    (let p := toLe 4 65538 ++ toLe 4 2 ++ zeros 24 ++ tDesc 0x81 192
     let s := tAsk tRun 3 cResume p
     Granted s 3 cResume p ∧ s.binding (u32At p 0) = some tBind ∧ tBind.state = .active ∧ bitOf (u32At p 4) 1 = true ∧
       resumeFormOk p = true) ∧
    (let p := toLe 1 1 ++ zeros 15 ++ digestBytes 1 ++ tDesc 0x81 384
     let s := tAsk tRun 3 cBankWrite p
     Granted s 3 cBankWrite p ∧ bankNamed p = true ∧ ((s.bankRegion p).any fun c => bankArgOk p c.length true) = true) :=
  ⟨meets (by decide +kernel), meets (by decide +kernel), meets (by decide +kernel), meets (by decide +kernel)⟩

/-- An access of the memory initiator for a job of slot 3. -/
def tAcc (write : Bool) (p : Purpose) : MiAcc := ⟨.west, 5, write, 640, 2, [], p, false⟩

theorem test_meets_HostMemoryAnswers :
    (let a := tAcc true (.job 3 0)
     let j := tJob cImgList []
     let s := { tJobs tRun [j] with mi := [a] }
     s.mbx.mem.wf = true ∧ s.access .west 5 = some a ∧ s.jobOf 3 = some j ∧ (s.objOf j.obj).kind < 256 ∧ (s.objOf j.obj).state < 256 ∧
       (s.slotServer 3).isSome = true ∧ a.write = true ∧ j.code ≠ cJExport ∧ j.code ≠ cSave ∧ j.reply.length ≤ 2016) ∧
    (let a := tAcc false (.job 3 0)
     let j := { tJob cLoad [] with left := 2, parts := [[], []] }
     let s := { tJobs tRun [j] with mi := [a] }
     s.access .west 5 = some a ∧ s.jobOf 3 = some j ∧ a.write = false ∧ [1#8, 2].length = a.len ∧ 2 ≤ j.left ∧ a.retried = false) ∧
    (let a := tAcc false (.job 3 0)
     let j := { tJob cCreate ((tCreate 1 0).set 0x138 1) with left := 1, parts := [[]] }
     let s := { tJobs tRun [j] with mi := [{ a with len := 8 }] }
     s.access .west 5 = some { a with len := 8 } ∧ s.jobOf 3 = some j ∧ (s.slotServer 3).isSome = true ∧ j.left = 1 ∧
       j.code = cCreate ∧ u16At j.body 0xF0 ≠ 0 ∧ (descAt j.body 0x120).crcOk ((j.parts.set 0 (1 :: zeros 7)).headD []) = false) ∧
    (let a := tAcc true (.job 3 0)
     let j := tJob cImgList []
     let s := { tJobs tRun [j] with mi := [a], eng := { tRun.eng with state := .reset } }
     s.mbx.mem.wf = true ∧ s.access .west 5 = some a ∧ s.jobOf 3 = some j ∧ s.slotServer 3 = none) ∧
    (let a := tAcc false (.fetch 2 0)
     let i := { tImage 2 .csi [] with state := .fetching, src := [⟨640, 2⟩] }
     let s := { tRun with img := Tab.put tRun.img 2 i, mi := [a] }
     s.access .west 5 = some a ∧ s.image 2 = some i ∧ i.src[0 + 1]? = none ∧ [1#8, 2].length = a.len) :=
  ⟨by decide +kernel, by decide +kernel, by decide +kernel, by decide +kernel, by decide +kernel⟩

theorem test_meets_SettingsTakeEffect :
    (let p := toLe 4 7 ++ [1, 105, 0, 0] ++ toLe 2 200 ++ toLe 2 1000 ++ zeros 4
     Granted (tAsk tRun 3 cConfigure p) 3 cConfigure p ∧ configureOk p = true) ∧
    (let p := zeros 8 ++ tDesc 2 4096
     Granted (tAsk tRun 3 cFlushTarget p) 3 cFlushTarget p ∧ p.length = 40 ∧ zeroAt p 0 8 = true ∧
       (descOf (slice p 8 32)).okOut = true) ∧
    (let p := zeros 32 ++ toLe 8 2
     Granted (tAsk tRun 3 cFlushTarget p) 3 cFlushTarget p ∧ p.length = 40 ∧ zeroAt p 0 8 = true ∧
       emptyDesc (slice p 8 32) = true) ∧
    (let p := zeros 8 ++ digestBytes 2
     let i := tImage 2 .fwi (zeros 64)
     let s := tAsk { tRun with img := Tab.put tRun.img 2 i } 3 cFwStage p
     Granted s 3 cFwStage p ∧ p.length = 56 ∧ zeroAt p 1 7 = true ∧ s.image (digestAt p 8) = some i ∧ i.typ = .fwi ∧
       i.state = .verified) ∧
    (let p := zeros 8
     let s := tAsk { tRun with level := { tRun.level with acts := true } } 3 cRejoin p
     Granted s 3 cRejoin p ∧ p.length = 8 ∧ zeroAt p 1 7 = true ∧ s.level.acts = true) :=
  ⟨meets (by decide +kernel), meets (by decide +kernel), meets (by decide +kernel), meets (by decide +kernel),
    meets (by decide +kernel)⟩

theorem test_meets_EngineChangesState :
    Granted (tAsk tRun 3 cDrain []) 3 cDrain [] ∧
    (let s := tAsk { tRun with eng := { tRun.eng with state := .drain } } 3 cServe []
     Granted s 3 cServe [] ∧ s.half.w.serves = true ∧ s.half.e.serves = true) ∧
    (let s := tAsk { tRun with eng := { tRun.eng with state := .drain, limp := true }, half := ⟨tHalf, HalfSt.reset⟩ } 3 cServe []
     Granted s 3 cServe [] ∧ (s.half.w.serves = false ∨ s.half.e.serves = false)) ∧
    Granted (tAsk { tRun with eng := { tRun.eng with state := .halt } } 3 cRestart []) 3 cRestart [] :=
  ⟨granted_of (by decide +kernel), meets (by decide +kernel), meets (by decide +kernel), granted_of (by decide +kernel)⟩

/-- The same engine in DRAIN. -/
def tDrain : State := { tRun with eng := { tRun.eng with state := .drain } }

theorem test_meets_HaltQuiesces :
    (let p := zeros 8
     let s := tAsk tDrain 3 cHalt p
     Granted s 3 cHalt p ∧ p.length = 8 ∧ zeroAt p 4 4 = true ∧ s.mbx.jobs = [] ∧ s.mbx.waits = [] ∧ u32At p 0 = 0 ∧
       s.rt.vals.find? (fun r => r.state == .running) = none) ∧
    (let p := toLe 4 1 ++ zeros 4
     let s := tAsk { tDrain with rt := Tab.put [] 5 { tRoute with state := .saved } } 3 cHalt p
     Granted s 3 cHalt p ∧ p.length = 8 ∧ zeroAt p 4 4 = true ∧ s.mbx.jobs = [] ∧ s.mbx.waits = [] ∧ u32At p 0 = 1 ∧
       s.bnd.vals.all (fun b => b.state != .stopping) = true ∧
       s.rt.vals.all (fun r => (r.state == .ended || r.state == .saved) && !r.markDue) = true) ∧
    (let p := zeros 8
     let s := tAsk { tDrain with rt := Tab.put [] 5 { tRoute with state := .running } } 3 cHalt p
     Granted s 3 cHalt p ∧ p.length = 8 ∧ zeroAt p 4 4 = true ∧ u32At p 0 = 0 ∧
       s.rt.vals.find? (fun r => r.state == .running) = some { tRoute with state := .running }) :=
  ⟨meets (by decide +kernel), meets (by decide +kernel), meets (by decide +kernel)⟩

theorem test_meets_ReleaseDropsUnreferencedImages :
    (let p := digestBytes 1
     let s := tAsk tRun 3 cRelease p
     Granted s 3 cRelease p ∧ p.length = 48 ∧ s.image (digestAt p 0) = some (tImage 1 .tki tTki) ∧ s.fwRefs 1 + s.bindRefs 1 ≠ 0) ∧
    (let p := digestBytes 2
     let i := tImage 2 .csi (zeros 64)
     let s := tAsk { tRun with img := Tab.put tRun.img 2 i } 3 cRelease p
     Granted s 3 cRelease p ∧ p.length = 48 ∧ s.image (digestAt p 0) = some i ∧ s.fwRefs i.digest + s.bindRefs i.digest = 0 ∧
       s.loading i.digest = false) :=
  ⟨meets (by decide +kernel), meets (by decide +kernel)⟩

theorem test_meets_BindingsMove :
    (let p := tCreate 0 0
     let s := tAsk tRun 3 cCreate p
     let b := createBinding s p [] []
     Granted s 3 cCreate p ∧ s.bnd.get? (u32At p 0 % 65536) = none ∧ s.imagesFault b.set = none ∧ createArgOk s p = true ∧
       s.typesOk b.set = true ∧ s.anyRevoked b.set = false ∧ u16At p 0xF0 = 0 ∧ u8At p 0x110 = 0 ∧ bitOf (u32At p 4) 0 = false ∧
       (s.setBinding b).creationStatus b = stOk ∧ b.set.digests = [1] ∧ s.image 1 = some (tImage 1 .tki tTki)) ∧
    (let p := toLe 4 65538 ++ zeros 4
     let b := { tBind with state := .stopped }
     let s := tAsk (tBound fun _ => b) 3 cStart p
     Granted s 3 cStart p ∧ s.binding (u32At p 0) = some b ∧ (∀ j ∈ s.mbx.jobs, j.arg ≠ b.handle) ∧ p.length = 8 ∧ zeroAt p 4 4 = true ∧
       (b.state = .verified ∨ b.state = .stopped) ∧ b.set.pin = false ∧ s.anyRevoked b.set = false ∧ b.set.digests = [1] ∧
       s.image 1 = some (tImage 1 .tki tTki)) ∧
    (let p := toLe 4 65538 ++ toLe 4 1 ++ zeros 8 ++ tDesc 2 16
     let s := tAsk tRun 3 cStop p
     Granted s 3 cStop p ∧ s.binding (u32At p 0) = some tBind ∧ s.mbx.jobs = [] ∧ tBind.state = .active ∧ tBind.fence = .none ∧
       p.length = 48 ∧ zeroAt p 8 8 = true ∧ listArgOk p = true) ∧
    (let p := toLe 4 65538 ++ toLe 4 1 ++ toLe 1 0x13 ++ zeros 7 ++ digestBytes 1 ++ zeros 144
     let b := { tBind with state := .stopped }
     let s := tAsk (tBound fun _ => b) 3 cSwap p
     let x := swapSet s b p
     Granted s 3 cSwap p ∧ s.binding (u32At p 0) = some b ∧ s.mbx.jobs = [] ∧ b.state = .stopped ∧ b.starting = false ∧
       s.imagesFault x = none ∧ swapArgOk p = true ∧ s.typesOk x = true ∧ s.anyRevoked x = false ∧ bitOf (u32At p 4) 0 = true ∧
       (s.setBinding { b with state := .swapping, newSet := some (x, true) }).creationStatus
         { b with state := .swapping, newSet := some (x, true), set := x } = stOk ∧ x.digests = [1] ∧
       s.image 1 = some (tImage 1 .tki tTki)) ∧
    (let p := toLe 4 65538 ++ zeros 4
     let b := { tBind with state := .verified }
     let s := tAsk (tBound fun _ => b) 3 cRetire p
     Granted s 3 cRetire p ∧ s.binding (u32At p 0) = some b ∧ s.mbx.jobs = [] ∧ (b.state = .verified ∨ b.state = .stopped) ∧
       p.length = 8 ∧ zeroAt p 4 4 = true) :=
  ⟨meets (by decide +kernel), meets (by decide +kernel), meets (by decide +kernel), meets (by decide +kernel),
    meets (by decide +kernel)⟩

theorem test_meets_OpenEntersRoute :
    let p := toLe 4 65538 ++ toLe 4 4 ++ zeros 12 ++ toLe 4 7 ++ zeros 8 ++ toLe 4 0xFFFFFFFF ++ toLe 2 0 ++ toLe 2 0xFFFF ++ zeros 8
    let s := tAsk { tRun with rt := [] } 3 cOpen p
    let r := (s.notice 3).newRoute tBind (s.routeHandle 0) p (chainsAt p 0x24) .west
    Granted s 3 cOpen p ∧ s.mbx.jobs = [] ∧ s.binding (u32At p 0) = some tBind ∧ tBind.state = .active ∧
      s.openArgOk tBind p = true ∧ s.freeRoute = some 0 ∧ s.chainPlan tBind (chainsAt p 0x24) = some .west ∧
      s.groupHeld tBind = false ∧ r.intakeFlag = false ∧ s.searchWaits tBind r = false ∧
      s.dataGone tBind r [r.rel.pos.g] = false ∧ 1 ≤ (allowed (s.envFor tBind r) r.rel.pos).length :=
  meets (by decide +kernel)

theorem test_meets_RestingRoutesMove :
    (tRun.mbx.jobs = [] ∧ tRun.binding tRoute.binding = some tBind ∧ tRoute.adm = none ∧ tRoute.forcedMore = false ∧
      tRoute.saving = false ∧ tRoute.markDue = false ∧ tRoute.pauseDue = false ∧ tBind.state = .active) ∧
    (let p := toLe 4 262149 ++ zeros 4
     let s := tAsk tRun 3 cPause p
     Granted s 3 cPause p ∧ s.route (u32At p 0) = some tRoute ∧ p.length = 8 ∧ zeroAt p 4 4 = true ∧
       (tRoute.state = .open ∨ tRoute.state = .running)) ∧
    (let p := toLe 4 262149 ++ zeros 44
     let s := tAsk tRun 3 cSave p
     Granted s 3 cSave p ∧ s.route (u32At p 0) = some tRoute ∧ saveArgOk p = true ∧ bitOf (u32At p 4) 0 = false ∧
       s.benchRoom tBind tRoute = true) ∧
    (let p := toLe 4 262149 ++ toLe 4 1
     let s := tAsk tRun 3 cEnd p
     Granted s 3 cEnd p ∧ s.route (u32At p 0) = some tRoute ∧ p.length = 8 ∧ u32At p 4 ≤ 1) ∧
    (let p := toLe 4 65538 ++ zeros 4 ++ toLe 4 262149 ++ zeros 52
     let r := { tRoute with state := .paused }
     let s := tAsk (tWith fun _ => r) 3 cResume p
     Granted s 3 cResume p ∧ s.binding (u32At p 0) = some tBind ∧ s.route (u32At p 8) = some r ∧ r.state = .paused ∧
       r.entries = [] ∧ r.copies = ⟨[], []⟩ ∧ r.openDue = false ∧ s.groupHeld tBind = false ∧ bitOf (u32At p 4) 1 = false ∧
       resumeFormOk p = true ∧ pausedFormOk tBind r p = true) :=
  ⟨by decide +kernel, meets (by decide +kernel), meets (by decide +kernel), meets (by decide +kernel), meets (by decide +kernel)⟩

theorem test_meets_BenchmarksComeAndGo :
    (let p := toLe 4 262151 ++ zeros 4
     let e : BenchEnt := ⟨262151, 262149, zeros 64⟩
     let s := tAsk { (tWith fun r => { r with bench := some 262151 }) with bench := Tab.put [] 7 e } 3 cDiscard p
     Granted s 3 cDiscard p ∧ s.benchAt (u32At p 0) = some e ∧ p.length = 8 ∧ zeroAt p 4 4 = true ∧
       s.route e.route = some { tRoute with bench := some 262151 } ∧ tRoute.state ≠ .saved) ∧
    (let p := toLe 4 262151 ++ zeros 4
     let e : BenchEnt := ⟨262151, 262149, zeros 64⟩
     let r := { tRoute with bench := some 262151, state := .saved }
     let s := tAsk { (tWith fun _ => r) with bench := Tab.put [] 7 e } 3 cDiscard p
     Granted s 3 cDiscard p ∧ s.benchAt (u32At p 0) = some e ∧ s.route e.route = some r ∧ r.bench = some e.handle) ∧
    (let r := { tRoute with saving := true }
     let j := { tJob cSave [] with arg := 262149, stage := 1 }
     let s := tJobs (tWith fun _ => r) [j]
     s.mbx.mem.wf = true ∧ (s.slotServer 3).isSome = true ∧ s.route 262149 = some r ∧ s.binding r.binding = some tBind ∧
       r.saving = true ∧ r.adm = none ∧ r.forcedMore = false ∧ r.markDue = false ∧ tBind.state = .active ∧
       freeIndex s.bench = some 0 ∧ s.mbx.jobs = [j] ∧ j.slot = 3 ∧ j.code = cSave ∧ j.arg = r.handle ∧ j.stage = 1 ∧
       bitOf (u32At j.body 4) 0 = false) :=
  ⟨meets (by decide +kernel), meets (by decide +kernel), by decide +kernel⟩

theorem test_meets_BankReadsAndSelftests :
    (let p := toLe 1 1 ++ zeros 15 ++ digestBytes 1 ++ tDesc 2 384
     let s := tAsk tRun 3 cBankRead p
     Granted s 3 cBankRead p ∧ bankNamed p = true ∧ ((s.bankRegion p).any fun c => bankArgOk p c.length false) = true ∧ u8At p 0 = 1) ∧
    (let p := toLe 1 2 ++ zeros 3 ++ toLe 4 262149 ++ zeros 56 ++ tDesc 2 64
     let s := tAsk tRun 3 cBankRead p
     Granted s 3 cBankRead p ∧ bankNamed p = true ∧ ((s.bankRegion p).any fun c => bankArgOk p c.length false) = true ∧
       u8At p 0 ≠ 1) ∧
    (let p := toLe 1 1 ++ zeros 15 ++ digestBytes 2 ++ tDesc 0x81 2
     let a := tAcc false (.job 3 0)
     let i := tImage 2 .csi (zeros 64)
     let j := { tJob cBankWrite p with left := 1, parts := [[]] }
     let s := { tJobs tRun [j] with mi := [a], img := Tab.put tRun.img 2 i }
     s.mbx.mem.wf = true ∧ s.access .west 5 = some a ∧ a.len = 2 ∧ s.jobOf 3 = some j ∧ (s.slotServer 3).isSome = true ∧
       (descAt j.body 0x40).crcOk [1, 2] = true ∧ u8At j.body 0 = 1 ∧ s.image (digestAt j.body 0x10) = some i ∧
       s.bankRegion j.body = some (zeros 64) ∧ ∀ b ∈ s.bnd.vals, b.set.digests.contains (digestAt j.body 0x10) = false) ∧
    (let p := zeros 8
     let s := tAsk tRun 3 cSelftest p
     Granted s 3 cSelftest p ∧ p.length = 8 ∧ u8At p 0 ≤ 2 ∧ u8At p 1 ≤ 1 ∧ zeroAt p 2 6 = true ∧ s.testing = false ∧
       u8At p 0 = 0) ∧
    (let p := toLe 1 2 ++ toLe 1 1 ++ zeros 6
     let s := tAsk { tRun with eng := { tRun.eng with state := .limp, limp := true }
                               half := ⟨tHalf, { tHalf with code := .drained, fw := .stopped }⟩ } 3 cSelftest p
     Granted s 3 cSelftest p ∧ p.length = 8 ∧ u8At p 0 ≤ 2 ∧ u8At p 1 ≤ 1 ∧ zeroAt p 2 6 = true ∧ s.testing = false ∧
       (s.hs .east).code = .drained ∧ s.eng.state = .limp) ∧
    (let j := { tJob cSelftest (zeros 8) with arg := 8 }
     let s := tJobs tRun [j]
     s.mbx.mem.wf = true ∧ (s.slotServer 3).isSome = true ∧ s.jobOf 3 = some j ∧
       s.mbx.jobs.find? (fun j => j.code == cSelftest && Half.ofCode (u8At j.body 1) == .west) = some j ∧ u8At j.body 0 = 0) :=
  ⟨meets (by decide +kernel), meets (by decide +kernel), by decide +kernel, meets (by decide +kernel), meets (by decide +kernel),
    by decide +kernel⟩

/-- A journal record. -/
def tRec (n : Nat) : JRec := { number := n, kind := 1, east := false, payload := zeros 8, time := 0, subject := 0 }

theorem test_meets_FlushesWriteTheJournal :
    (let p := zeros 8 ++ tDesc 2 4096
     let s := tAsk { tRun with jr := { JrSt.reset with recs := [tRec 0, tRec 1], next := 2 } } 3 cFlush p
     Granted s 3 cFlush p ∧ u8At p 0 ≠ 1 ∧ p.length = 40 ∧ zeroAt p 0 8 = true ∧ (descAt p 8).okOut = true ∧ s.jr.host = none ∧
       exportRecs s.jr.recs.length (descAt p 8).len s.jr.unflushed ≠ []) ∧
    (let f : Flush := ⟨⟨640, 4096⟩, [0, 1], 0, 2, 128, false⟩
     let s := { tRun with jr := { JrSt.reset with host := some f } }
     s.jr.warn = none ∧ s.jr.host = some f ∧ f.done = false ∧ s.mi = []) ∧
    (let f : Flush := ⟨⟨640, 4096⟩, [0, 1], 0, 2, 128, false⟩
     let s := { tRun with jr := { JrSt.reset with warn := some f }, safe := { tRun.safe with flush := 1 } }
     s.jr.warn = some f ∧ f.done = false ∧ s.safe.flush = 1 ∧ s.mi = []) :=
  ⟨meets (by decide +kernel), by decide +kernel, by decide +kernel⟩

theorem test_meets_ChainCommands :
    (let p := toLe 4 0x10001
     Granted (tAsk tRun 3 cQuiesce p) 3 cQuiesce p ∧ p.length = 4) ∧
    (let s := tAsk tRun 3 cWithdraw []
     Granted s 3 cWithdraw [] ∧ s.mbx.jobs = [] ∧ s.rt.vals = [tRoute] ∧ s.binding tRoute.binding = some tBind ∧ tBind.shards ≤ 1) ∧
    (let b := { tBind with shards := 2 }
     let s := tAsk (tBound fun _ => b) 3 cWithdraw []
     Granted s 3 cWithdraw [] ∧ s.mbx.jobs = [] ∧ s.rt = [(routeIndex tRoute.handle, tRoute)] ∧ s.binding tRoute.binding = some b ∧
       1 < b.shards ∧ tRoute.state = .open ∧ tRoute.entries = [] ∧ tRoute.copies = ⟨[], []⟩ ∧ tRoute.markDue = false ∧
       tRoute.saving = false ∧ b.state = .active ∧ tRoute.forcedMore = false ∧ tRoute.adm = none) ∧
    (let b := { tBind with shards := 2 }
     let r := { tRoute with forcedMore := true }
     let s := tAsk { tWith (fun _ => r) with bnd := Tab.put [] 2 b } 3 cWithdraw []
     Granted s 3 cWithdraw [] ∧ s.rt = [(routeIndex r.handle, r)] ∧ s.binding r.binding = some b ∧ owns b r = true ∧
       r.forcedMore = true) ∧
    (let p := toLe 1 1 ++ toLe 1 15 ++ zeros 6
     Granted (tAsk tRun 3 cRetrain p) 3 cRetrain p ∧ u8At p 0 ≤ 1 ∧ u8At p 1 ≤ 15 ∧ p.length = 8 ∧ zeroAt p 2 6 = true) ∧
    (let j := tJob cRetrain (zeros 8)
     let s := tJobs tRun [j]
     s.mbx.mem.wf = true ∧ s.mbx.jobs = [j] ∧ (s.slotServer 3).isSome = true ∧ s.eng.phase ≠ .chains ∧ s.half.w.phase ≠ .chains ∧
       s.half.e.phase ≠ .chains) :=
  ⟨meets (by decide +kernel), meets (by decide +kernel), meets (by decide +kernel), meets (by decide +kernel),
    meets (by decide +kernel), by decide +kernel⟩

/-- One half in another condition, and the engine in LIMP. -/
def tLimp (h : Half) (f : HalfSt → HalfSt) : State :=
  { tRun.onHalf h f with eng := { tRun.eng with state := .limp, limp := true } }

theorem test_meets_HalfCommands :
    (let p := toLe 1 1 ++ zeros 7
     u8At p 0 ≤ 1 ∧ p.length = 8 ∧ zeroAt p 1 7 = true) ∧
    (let p := toLe 1 1 ++ zeros 7
     let s := tAsk (tLimp .east fun x => { x with code := .drained }) 255 cHalfReset p
     Granted s 255 cHalfReset p ∧ (s.hs .east).serves = false ∧ s.eng.state ≠ .reset) ∧
    (let p := toLe 1 1 ++ zeros 7
     let s := tAsk { tRun with rt := [] } 3 cHalfReset p
     Granted s 3 cHalfReset p ∧ s.eng.state ≠ .reset ∧ s.bothServe = true ∧ s.serving = true ∧ s.mbx.jobs = [] ∧ s.mbx.waits = [] ∧
       s.rt = []) ∧
    (let p := zeros 8
     let s := tAsk (tWith fun r => { r with adm := some default }) 3 cHalfDrain p
     Granted s 3 cHalfDrain p ∧ s.bothServe = true ∧ s.halfBusy = false ∧
       ∃ r ∈ s.rt.vals, r.adm.isSome = true ∧ s.holds .west r = true) ∧
    (let p := zeros 8
     let s := tAsk { tRun with rt := [] } 3 cHalfDrain p
     Granted s 3 cHalfDrain p ∧ s.bothServe = true ∧ s.halfBusy = false ∧ s.rt = [] ∧ s.mbx.jobs = [] ∧ (s.hs .west).waiting = [] ∧
       s.mbx.taken.get .west = false) ∧
    (let p := toLe 1 1 ++ zeros 7
     let s := tAsk (tLimp .east fun x => { x with code := .down, fw := .stopped, phase := .held, needsSurvey := true }) 3 cHalfServe p
     Granted s 3 cHalfServe p ∧ (s.hs .east).serves = false ∧ (s.hs .east).hold = false ∧ s.halfBusy = false ∧
       (s.hs .east).phase = .held ∧ (s.hs .east).needsSurvey = true) ∧
    (let p := toLe 1 1 ++ zeros 7
     let s := tAsk (tLimp .east fun x =>
       { x with code := .drained, fw := .stopped, phase := .held, hold := true, tj := 99 }) 3 cHalfServe p
     Granted s 3 cHalfServe p ∧ (s.hs .east).serves = false ∧ (s.hs .east).hold = true ∧ (s.hs .east).tj.toInt < 100 ∧
       s.halfBusy = false ∧ (s.hs .east).phase = .held ∧ (s.hs .east).needsSurvey = false ∧ s.verified s.eng.staged = false) :=
  ⟨by decide +kernel, meets (by decide +kernel), meets (by decide +kernel), meets (by decide +kernel), meets (by decide +kernel),
    meets (by decide +kernel), meets (by decide +kernel)⟩

theorem test_meets_SuspectPlates :
    (let p := zeros 8
     let s := tAsk tRun 3 cSuspects p
     Granted s 3 cSuspects p ∧ p.length = 8 ∧ zeroAt p 1 7 = true ∧ s.eng.state ≠ .limp ∧ (s.hs .west).suspects = []) ∧
    (let p := toLe 1 1 ++ zeros 7
     let x : Suspect := ⟨5, 1000⟩
     let s := tAsk (tLimp .east fun y => { y with code := .down, suspects := [x], spare := 1 }) 3 cSuspects p
     Granted s 3 cSuspects p ∧ s.eng.state = .limp ∧ Half.east ≠ s.survivor ∧ (s.hs .east).suspects = [x] ∧
       0 < (s.hs .east).spare ∧ s.busySuspect .east x.pos = false) :=
  ⟨meets (by decide +kernel), meets (by decide +kernel)⟩

theorem test_meets_StacksLeaveAndReturn :
    (let p := toLe 1 1 ++ toLe 1 15 ++ zeros 6
     let s := tAsk tRun 3 cStackRetire p
     Granted s 3 cStackRetire p ∧ u8At p 0 ≤ 1 ∧ u8At p 1 ≤ 15 ∧ p.length = 8 ∧ zeroAt p 2 6 = true ∧ s.eng.state ≠ .limp ∧
       (s.hs .east).stackMask.getLsbD (u8At p 1) = true) ∧
    (let p := zeros 8
     let s := tAsk (tRun.onHalf .west fun x => { x with stackMask := 0xFFFE }) 3 cStackRetire p
     Granted s 3 cStackRetire p ∧ (s.hs .west).stackMask.getLsbD (u8At p 1) = false) ∧
    (let p := zeros 8
     let s := tAsk tRun 3 cStackRestore p
     Granted s 3 cStackRestore p ∧ (s.hs .west).rebuild = [] ∧ s.jobOn cStackRestore .west = none ∧
       (s.hs .west).stackMask.getLsbD (u8At p 1) = true) ∧
    (let p := zeros 8
     let s := tAsk (tRun.onHalf .west fun x => { x with stackMask := 0xFFFE }) 3 cStackRestore p
     Granted s 3 cStackRestore p ∧ (s.hs .west).rebuild = [] ∧ s.jobOn cStackRestore .west = none ∧
       (s.hs .west).stackMask.getLsbD (u8At p 1) = false) ∧
    (let s := tRun.onHalf .west fun x => { x with stackMask := 0xFFFE, rebuild := [(0, 5)] }
     (s.hs .west).stackMask.getLsbD (15#4).toNat = true ∧ (s.hs .west).stackMask.getLsbD (0#4).toNat = false ∧
       ∃ n ∈ [5], ((0#4).toNat, n) ∈ (s.hs .west).rebuild) ∧
    (let j := { tJob cStackRestore (zeros 8) with stage := 1 }
     let s := tJobs tRun [j]
     s.mbx.mem.wf = true ∧ s.jobOn cStackRestore .west = some j ∧ (s.slotServer 3).isSome = true ∧
       s.jobOn cStackRestore .east = none) :=
  ⟨meets (by decide +kernel), meets (by decide +kernel), meets (by decide +kernel), meets (by decide +kernel), by decide +kernel,
    by decide +kernel⟩

/-- The engine with VDD_FUSE up. -/
def tFuse (f : SafeSt → SafeSt) : State := { tRun with safe := f { tRun.safe with fuseV := true } }

theorem test_meets_FuseCommands :
    (tRun.safe.fuseV = false ∧
      (let p := zeros 8; Granted (tAsk tRun 3 cFuseBurn p) 3 cFuseBurn p ∧ u8At p 0 ≤ 1) ∧
      Granted (tAsk tRun 3 cKeyProgram []) 3 cKeyProgram [] ∧ Granted (tAsk tRun 3 cKeyRevoke []) 3 cKeyRevoke []) ∧
    (let p := zeros 8
     let s := tAsk (tFuse fun x => { x with fuseJob := some (.program 3 7) }) 4 cFuseBurn p
     Granted s 4 cFuseBurn p ∧ s.safe.fuseV = true ∧ s.safe.fuseJob ≠ none ∧ p.length = 8 ∧ zeroAt p 1 7 = true) ∧
    (let p := zeros 8
     let s := tAsk (tFuse id) 3 cFuseBurn p
     Granted s 3 cFuseBurn p ∧ s.safe.fuseV = true ∧ s.safe.fuseJob = none ∧ p.length = 8 ∧ zeroAt p 1 7 = true ∧
       (s.hs .west).pendingRepairs = []) ∧
    (let p := toLe 1 1 ++ zeros 7
     let s := tAsk ((tFuse id).onHalf .east fun x => { x with pendingRepairs := [⟨false, 0, 9⟩], left := 1 }) 3 cFuseBurn p
     Granted s 3 cFuseBurn p ∧ s.safe.fuseV = true ∧ s.safe.fuseJob = none ∧ u8At p 0 ≤ 1 ∧ (s.hs .east).pendingRepairs ≠ [] ∧
       (s.hs .east).left ≠ 0) ∧
    (let p := toLe 1 7 ++ toLe 1 1 ++ zeros 6 ++ digestBytes 5
     let s := tAsk (tFuse id) 3 cKeyProgram p
     Granted s 3 cKeyProgram p ∧ s.safe.fuseV = true ∧ s.safe.fuseJob = none ∧ u8At p 0 ≤ 7 ∧ (s.keyslot 7).state = .empty ∧
       p.length = 56 ∧ u8At p 1 ≤ 1 ∧ zeroAt p 2 6 = true) ∧
    (let p := toLe 1 7 ++ zeros 7 ++ tDesc 2 640
     let s := tAsk (tFuse fun x => { x with fuses := x.fuses.set 7 ⟨5, 1, .active⟩ }) 3 cKeyRevoke p
     Granted s 3 cKeyRevoke p ∧ s.safe.fuseV = true ∧ s.safe.fuseJob = none ∧ u8At p 0 ≤ 7 ∧ (s.keyslot 7).state = .active ∧
       s.fwSigned 7 s.eng.fwRun = none ∧ p.length = 40 ∧ zeroAt p 1 7 = true ∧ (descAt p 8).okOut = true) ∧
    (let j := tJob cKeyProgram (zeros 56)
     let s := tJobs (tFuse fun x => { x with fuseJob := some (.program 3 7) }) [j]
     s.mbx.mem.wf = true ∧ s.jobOf 3 = some j ∧ (s.slotServer 3).isSome = true ∧ s.safe.fuseJob = some (.program 3 7)) ∧
    (let j := tJob cKeyRevoke (zeros 40)
     let s := tJobs (tFuse fun x => { x with fuseJob := some (.revoke 3 7) }) [j]
     s.mbx.mem.wf = true ∧ s.jobOf 3 = some j ∧ (s.slotServer 3).isSome = true ∧ s.safe.fuseJob = some (.revoke 3 7) ∧
       7 < s.safe.fuses.length) ∧
    (let j := { tJob cFuseBurn (zeros 8) with left := 1 }
     let s := tJobs ((tFuse fun x => { x with fuseJob := some (.burn 3 .west 0) }).onHalf .west fun x =>
       { x with pendingRepairs := [⟨false, 0, 9⟩] }) [j]
     s.mbx.mem.wf = true ∧ s.jobOf 3 = some j ∧ (s.slotServer 3).isSome = true ∧ s.safe.fuseJob = some (.burn 3 .west 0) ∧
       (s.hs .west).pendingRepairs = ⟨false, 0, 9⟩ :: [] ∧ j.left = 1) ∧
    tRun.safe.fuseJob = none :=
  ⟨⟨by decide +kernel, meets (by decide +kernel), granted_of (by decide +kernel), granted_of (by decide +kernel)⟩,
    meets (by decide +kernel), meets (by decide +kernel), meets (by decide +kernel), meets (by decide +kernel),
    meets (by decide +kernel), by decide +kernel, by decide +kernel, by decide +kernel, by decide +kernel⟩

/-- The interface level that a firmware image declares is free (log 9): where it is the engine's, an activation completes. -/
theorem test_meets_FirmwareRestarts_activate (hl : Config.fwiLevel (manifest (zeros 64)) = ifLevel) :
    let i := tImage 2 .fwi (zeros 64)
    let p := toLe 1 1 ++ zeros 7
    let s := tAsk { tRun with img := Tab.put tRun.img 2 i, eng := { tRun.eng with staged := some 2 } } 3 cFwActivate p
    Granted s 3 cFwActivate p ∧ (Half.east = Half.ofCode (u8At p 0) ∧ u8At p 0 ≤ 1 ∧ p.length = 8 ∧ zeroAt p 1 7 = true ∧
      s.eng.state ≠ .limp ∧ (s.hs .east).serves = true ∧ s.eng.staged = some 2 ∧ s.image 2 = some i ∧ i.state = .verified ∧
      s.imageBytes 2 = zeros 64 ∧ s.mbx.jobs = []) ∧ Config.fwiLevel (manifest (zeros 64)) = ifLevel :=
  meetsAnd (by decide +kernel) hl

/-- A cold start that boots firmware. -/
def tBoot : State :=
  { State.reset with eng := { EngSt.reset with coreRst := false, safeRst := false, phase := .firmware, fwRun := some 2
                                               fwFall := some 3 }
                     img := Tab.put (Tab.put [] 2 (tImage 2 .fwi (zeros 64))) 3 (tImage 3 .fwi (zeros 64)) }

theorem test_meets_FirmwareRestarts :
    (tBoot.bootChoice .west = some 2 ∧ tBoot.mbx.jobs = [] ∧ tBoot.eng.state = .reset ∧ tBoot.eng.phase = .firmware ∧
      (tBoot.hs .west).code = .inReset ∧ (tBoot.hs .west).fw = .booting ∧ tBoot.eng.fwRun = some 2 ∧ (tBoot.hs .west).bootTries < 2) ∧
    (let s := tBoot.onHalf .west fun x => { x with bootTries := 2 }
     s.eng.state = .reset ∧ s.eng.phase = .firmware ∧ (s.hs .west).code = .inReset ∧ (s.hs .west).fw = .booting ∧
       2 ≤ (s.hs .west).bootTries ∧ s.eng.fwFall = some 3 ∧ s.verified (some 3) = true ∧ s.bootChoice .west ≠ some 3) ∧
    (let s := { (tBoot.onHalf .west fun x => { x with bootTries := 2 }) with eng := { tBoot.eng with fwFall := none } }
     2 ≤ (s.hs .west).bootTries ∧ s.verified s.eng.fwFall = false) ∧
    (let s := { (tLimp .east fun x => { x with code := .inReset, phase := .firmware }) with img := tBoot.img }
     let t := { s with eng := { s.eng with fwRun := some 2 } }
     t.bootChoice .east = some 2 ∧ t.eng.state ≠ .reset ∧ (t.hs .east).phase = .firmware ∧ (t.hs .east).code ≠ .drained) ∧
    (let j := tJob cFwActivate (zeros 8)
     let s := tJobs (tRun.onHalf .west fun x => { x with code := .fwRestart, fw := .booting }) [j]
     s.eng.state ≠ .reset ∧ (s.hs .west).phase ≠ .firmware ∧ (s.hs .west).code = .fwRestart ∧ s.eng.staged = none ∧
       s.mbx.mem.wf = true ∧ s.mbx.jobs = [j] ∧ j.target = .west ∧ j.due = false ∧
       ((s.onHalf .west fun x => { x with code := .up, fw := .running, bootTries := 0 }).slotServer 3).isSome = true) ∧
    ((tRun.hs .west).fw = .running ∧ (tRun.hs .west).code = .up ∧ tRun.mbx.jobs = []) ∧
    (let j := tJob cImgList []
     let s := tJobs (tRun.onHalf .west fun x => { x with code := .fwRestart, fw := .booting }) [j]
     (s.hs .west).fw ≠ .running ∧ (s.hs .east).fw = .running ∧ (s.hs .east).serves = true ∧ s.mbx.taken.get .west = false ∧
       j.due = false ∧ j.slot ≠ 255 ∧ homeHalf j.slot = .west ∧ j.committed = false ∧ s.fuseSlot ≠ some j.slot ∧ j.code ≠ cStop ∧
       j.code ≠ cSave ∧ j.code ≠ cStart) ∧
    (let s := { tRun with mbx := { tRun.mbx with taken := ⟨true, false⟩ } }
     (s.hs .west).fw = .running ∧ (s.hs .west).serves = true ∧ s.mbx.taken.get .west = true ∧ s.eng.staged = none ∧
       s.mbx.jobs = []) :=
  ⟨by decide +kernel, by decide +kernel, by decide +kernel, by decide +kernel, by decide +kernel, by decide +kernel,
    by decide +kernel, by decide +kernel⟩

theorem test_meets_WaitingAndUnlistedRequests :
    (let w (s : State) : State := { s with mbx := { s.mbx with waits := [⟨3, 0⟩] } }
     let a (c : Nat) : State := w (tAsk tRun 3 c [])
     let m := (((a cDrain).mbx.mem.write (slotBase 3 + 8) 4).write (slotBase 3 + 9) 0x80).write (slotBase 3 + 0xC) 1
     let late := { a cDrain with mbx := { (a cDrain).mbx with mem := m } }
     late.mbx.mem.wf = true ∧ (late.waitOf 3).isSome = true ∧ (late.slotServer 3).isSome = true ∧ late.afterMet 3 = false ∧
       (∀ c ∈ [cDrain, cQuery, cRestart], (a c).mbx.mem.wf = true ∧ ((a c).waitOf 3).isSome = true ∧
         ((a c).slotServer 3).isSome = true ∧ (a c).afterMet 3 = true ∧ (a c).sealCode 3 = c) ∧
       validIn cDrain tRun.eng.state = true ∧ validIn cQuery tRun.eng.state = true ∧ validIn cRestart tRun.eng.state = false ∧
       (a cDrain).reqPayload 3 = [] ∧ validIn cServe .drain = true ∧ tRun.bothServe = true ∧ (a cDrain).warned 3 = false ∧
       ({ a cDrain with safe := { tRun.safe with warn := true } } : State).warned 3 = true) ∧
    (let s := tAsk tRun 3 0x0999 []
     s.mbx.mem.wf = true ∧ s.unnoticed 3 = true ∧ listed (s.sealCode 3) = false ∧ s.sealSeq 3 = s.expectedSeq 3) ∧
    (let s := tAsk tRun 3 0x0999 []
     let t := { s with mbx := { s.mbx with last := Tab.put s.mbx.last 3 7 } }
     t.mbx.mem.wf = true ∧ t.unnoticed 3 = true ∧ listed (t.sealCode 3) = false ∧ t.sealSeq 3 ≠ t.expectedSeq 3) := by
  decide +kernel

theorem test_meets_RegisterWritesTakeEffect :
    (∀ h, tRun.ctlUp h = true ∧ tRun.portUp h = true ∧ tRun.sideUp h = true) ∧ tRun.mbx.mem.wf = true ∧ tRun.sealOwn 254 = false ∧
    (BitVec.ofNat 24 (mbxWindow + 0x1000 * 254 + 0x7F8)).toNat = mbxWindow + 0x1000 * 254 + 0x7F8 ∧
    (BitVec.ofNat 24 (mbxWindow + 0x1000 * 255 + 0x800)).toNat = mbxWindow + 0x1000 * 255 + 0x800 ∧
    (tAsk tRun 254 cQuery []).sealOwn 254 = true := by
  refine ⟨fun h => ?_, ?_⟩
  · cases h <;> decide +kernel
  · decide +kernel

theorem test_meets_CompletionFlags : tRun.mbx.mem.wf = true ∧ tRun.ctlUp .west = true := by decide +kernel

theorem test_meets_SafelightRegisters :
    (tRun.pathUp (.control .west) = true ∧ tRun.pathUp (.sideband .east) = true) ∧
    ((0x80#8).getLsbD 7 = true ∧ (0x8000000000000000#64).getLsbD 63 = true) ∧ (0x7F#8).getLsbD 7 = false ∧
    (let e : LogEnt := { (default : LogEnt) with number := 6, src := 1 }
     let s := { tRun with safe := { tRun.safe with logs := ⟨[e], []⟩, logSel := 0x100000006 } }
     s.pathUp (.control .west) = true ∧ (∀ e ∈ s.safe.logs.get .west, s.safe.logSel.toNat = e.number + 2 ^ 32 * e.src ∧
       e.number < 2 ^ 32)) ∧
    (let e : LogEnt := { (default : LogEnt) with number := 6, src := 1 }
     let s := { tRun with safe := { tRun.safe with logs := ⟨[e], []⟩, logSel := 6 } }
     ∀ e ∈ s.safe.logs.get .west, e.number % 2 ^ 32 ≠ s.safe.logSel.toNat % 2 ^ 32 ∨ e.src ≠ s.safe.logSel.toNat / 2 ^ 32) ∧
    (let e : LogEnt := { (default : LogEnt) with number := 6, src := 1 }
     let s := ({ tRun with safe := { tRun.safe with logs := ⟨[e], []⟩ } } : State).onHalf .west fun x => { x with latchCtl := e.bytes }
     s.ctlUp .west = true ∧ (s.safe.logs.get .west).map (·.bytes) = [(s.hs .west).latchCtl] ∧
       ((tRun.safe.logs.get .west).all fun f => f.bytes != e.bytes) = true) := by
  decide +kernel

theorem test_meets_TakeoverIsConfirmed :
    let s := tFuse fun x => { x with waiting := true }
    s.sideUp .east = true ∧ s.safe.waiting = true ∧ (3#8).toNat % 4 = 3 ∧ (0xFFFF0C0F#64).toNat % 2 ^ 16 = 0x0C0F ∧
      s.half.w.safeUp = true ∧ tRun.safe.waiting = false := by decide +kernel

/-- A frame with the CRC that its bytes give (16 R391). -/
def tFrame (typ : Nat) (fflags : Byte) (seq : U32) (harg : U64) (payload : List Byte) : Frame :=
  let f : Frame := ⟨fflags, BitVec.ofNat 16 (payload.length / 256), seq, harg, payload, 0⟩
  { f with crc := crc32c (frameBytes typ f) }

/-- A frame of one flit with one entry, and number 0. -/
def tOne (typ : Nat) (entry : List Byte) : Frame := tFrame typ 0 0 1 (padTo 256 entry)

theorem oneEntry {s : State} {h : Half} {c typ : Nat} {f : Frame} {b : List Byte}
    (x : ((s.chain h c).up && decide ((s.chain h c).judge typ f = .accepted) &&
      decide ((s.chain h c).entries typ f = some ([b], none))) = true) : OneEntry s h c typ f b := by
  simp only [Bool.and_eq_true, decide_eq_true_eq] at x
  exact ⟨x.1.1, x.1.2, x.2⟩

def tEnv : Env := tRun.envFor tBind tRoute

/-- An LGT entry of the route's step 0: four F32 logits and one draft (16 R396, R397). -/
def tLgt : List Byte :=
  toLe 4 262149 ++ toLe 4 0 ++ toLe 1 1 ++ toLe 1 0x01 ++ zeros 2 ++ toLe 4 4 ++ toLe 4 48 ++ zeros 12 ++ toLe 4 2 ++ zeros 12 ++
    (toLe 4 0x3F800000 ++ zeros 12) ++ (toLe 4 0x3F800000 ++ zeros 12)

theorem test_meets_EntriesAreAdmitted :
    OneEntry tRun .west (0#4).toNat ftLgt (tOne ftLgt tLgt) tLgt ∧ Admissible tRun .west (0#4).toNat false tLgt tRoute tBind tEnv :=
  ⟨oneEntry (by decide +kernel), by decide +kernel, by decide +kernel, by decide +kernel, by decide +kernel, by decide +kernel,
    by decide +kernel, by decide +kernel, by decide +kernel, by decide +kernel, by decide +kernel, rfl, by decide +kernel,
    fun _ => by decide +kernel, by decide +kernel, by decide +kernel⟩

/-- A DRF entry with one draft (16 R398). -/
def tDrf (step : Nat) : List Byte := toLe 4 262149 ++ toLe 4 step ++ toLe 1 1 ++ zeros 7 ++ toLe 4 2 ++ zeros 12

theorem test_meets_DraftsArePrepared :
    OneEntry tRun .west (0#4).toNat ftDrf (tOne ftDrf (tDrf 0)) (tDrf 0) ∧
    OneEntry tRun .west (0#4).toNat ftDrf (tOne ftDrf (tDrf 7)) (tDrf 7) ∧
    (tRun.route (u32At (tDrf 0) 0) = some tRoute ∧ tRun.route (u32At (tDrf 7) 0) = some tRoute ∧ tRun.binding tRoute.binding = some tBind ∧ u32At (tDrf 0) 4 = tRoute.next ∧ u32At (tDrf 7) 4 ≠ tRoute.next ∧
      tRoute.state = .open ∧ tRoute.saving = false ∧ tRoute.adm = none ∧ tBind.state = .active ∧ tBind.fence = .none ∧
      u8At (tDrf 0) 8 = 1 ∧ tRoute.chains.get .west = some (0#4).toNat) :=
  ⟨oneEntry (by decide +kernel), oneEntry (by decide +kernel), by decide +kernel⟩

/-- A peer chain 0 on both halves, and a binding of two shards of which this engine has shard 0. -/
def tPeers (owner : Bool) : State :=
  { tRun with chains := tChains { tChain with kind := .peer }
              bnd := Tab.put [] 2 { tBind with shards := 2 }
              rt := Tab.put [] 5 { tRoute with oflags := if owner then 4 else 0 } }

def tPrt (kind : Nat) (body : List Byte) : List Byte := prtEntry kind 1 0 0 65538 9 0 0 body

/-- A release notice of token 2, and one of an end without tokens. -/
def tNotice (toks : List Nat) (e : EndCause) : List Byte :=
  (({ (default : TokEntry) with handle := 1, toks := toks, ranges := toks.map fun _ => false, ending := e }) : TokEntry).bytes

theorem test_meets_PeersExchange_owner :
    let r := { tRoute with oflags := 4 }
    let bd := { tBind with shards := 2 }
    let s := tPeers true
    (s.mbx.jobs = [] ∧ s.routeBySalt 65538 9 = some r ∧ s.binding r.binding = some bd ∧ owns bd r = true ∧ r.adm = none ∧
      r.next ≤ 0 - 0 ∧ s.rt = [(routeIndex r.handle, r)] ∧ (r.state = .open ∨ r.state = .running) ∧ 1 ∈ memberShards bd ∧
      r.entries = [] ∧ r.copies = ⟨[], []⟩ ∧ r.markDue = false ∧ r.saving = false ∧ bd.state = .active) ∧
    (let b := tPrt pkSummary (zeros 16)
     OneEntry s .west (0#4).toNat ftPrt (tOne ftPrt b) b ∧ pBinding b = 65538 ∧ pSalt b = 9 ∧ pKind b = pkSummary ∧
       pDst b = s.level.position ∧ r.skips (pSrc b) = false) ∧
    (let b := tPrt pkZmax (zeros 16)
     OneEntry s .west (0#4).toNat ftPrt (tOne ftPrt b) b ∧ pKind b = pkZmax) ∧
    (let b := tPrt pkCands (zeros 16)
     OneEntry s .west (0#4).toNat ftPrt (tOne ftPrt b) b ∧ pKind b = pkCands) ∧
    (let b := tPrt pkSummary (zeros 0x1C ++ toLe 2 stState ++ zeros 18)
     let q := { r with skip := [(pSrc b, 1)] }
     OneEntry s .west (0#4).toNat ftPrt (tOne ftPrt b) b ∧ pKind b = pkSummary ∧ q.skips (pSrc b) = true ∧
       (⟨pKind b, pSrc b, pStep b - pPos b, pPos b, pFlags b, pBody b⟩ : PeerRec).refuses q.next = true) :=
  ⟨by decide +kernel, ⟨oneEntry (by decide +kernel), by decide +kernel⟩, ⟨oneEntry (by decide +kernel), by decide +kernel⟩,
    ⟨oneEntry (by decide +kernel), by decide +kernel⟩, ⟨oneEntry (by decide +kernel), by decide +kernel⟩⟩

/-- The position of a group's member is free (log 33): at one that a byte holds, the routes pause. -/
theorem test_meets_PeersExchange_position (p : Byte) (h : Config.memberPosition 65538 1 = p.toNat) :
    1 ∈ memberShards { tBind with shards := 2 } ∧ Config.memberPosition tBind.handle 1 = p.toNat := ⟨by decide +kernel, h⟩

theorem test_meets_PeersExchange_member :
    let r := { tRoute with oflags := 0 }
    let bd := { tBind with shards := 2 }
    let s := tPeers false
    (s.mbx.jobs = [] ∧ s.routeBySalt 65538 9 = some r ∧ s.binding r.binding = some bd ∧ owns bd r = false ∧ r.adm = none ∧
      r.entries = [] ∧ r.copies = ⟨[], []⟩ ∧ r.markDue = false ∧ r.saving = false ∧ r.pauseDue = false ∧ bd.state = .active) ∧
    (let b := tPrt pkZret (zeros 16)
     OneEntry s .west (0#4).toNat ftPrt (tOne ftPrt b) b ∧ pKind b = pkZret) ∧
    (let b := tPrt pkRelease (tNotice [] .host)
     let n := tokOfBytes (pBody b)
     OneEntry s .west (0#4).toNat ftPrt (tOne ftPrt b) b ∧ pKind b = pkRelease ∧ n.step = r.next ∧ n.toks = [] ∧ n.ending ≠ .none) ∧
    (let b := tPrt pkRelease (tNotice [2] .none)
     let n := tokOfBytes (pBody b)
     OneEntry s .west (0#4).toNat ftPrt (tOne ftPrt b) b ∧ pKind b = pkRelease ∧ n.step = r.next ∧ n.ending = .none ∧
       n.ranges.length = n.toks.length ∧ n.toks ≠ []) :=
  ⟨by decide +kernel, ⟨oneEntry (by decide +kernel), by decide +kernel⟩, ⟨oneEntry (by decide +kernel), by decide +kernel⟩,
    ⟨oneEntry (by decide +kernel), by decide +kernel⟩⟩

theorem test_meets_AcknowledgementsAndCredits :
    (let x := tRun.chain .west 0
     x.up = true ∧ x.wait = [] ∧ x.paused = false ∧ x.replay = []) ∧
    (let f := tFrame ftAck 0 0 0 []
     ctlFrameOk ftAck f = true ∧ fHello f = false ∧ fNak f = false) ∧
    (let f := tFrame ftAck 4 0 0 []
     ctlFrameOk ftAck f = true ∧ fHello f = false ∧ fNak f = true) ∧
    (let f := tFrame ftCrd 0 0 (101 * 2 ^ 32 + 2) []
     ctlFrameOk ftCrd f = true ∧ fCrdClass f ≤ 2 ∧ (fCrdLimit f + 2 ^ 32 - trip (tRun.chain .west 0).limit (fCrdClass f)) % 2 ^ 32 < 2 ^ 31) ∧
    (let f := tFrame ftCrd 0 0 (99 * 2 ^ 32 + 2) []
     ctlFrameOk ftCrd f = true ∧ fCrdClass f ≤ 2 ∧
       2 ^ 31 ≤ (fCrdLimit f + 2 ^ 32 - trip (tRun.chain .west 0).limit (fCrdClass f)) % 2 ^ 32) ∧
    (let s := { tRun with chains := tChains { tChain with replay := [⟨0, ⟨ftTok, 0, 1, zeros 256, 5⟩⟩] } }
     (s.chain .west 0).up = true ∧ (s.chain .west 0).replay ≠ [] ∧ (s.chain .west 0).paused = false) := by decide +kernel

theorem test_meets_DiscardedFrames :
    (tRun.chain .west 0).up = true ∧ (tRun.chain .west 0).nakked = false ∧
    frameCrcOk ftTok { tOne ftTok (zeros 32) with crc := 0 } = false ∧
    (let f := tFrame ftLgt 0 1 1 (zeros 256)
     let x := tRun.chain .west 0
     ftLgt ≠ ftAck ∧ ftLgt ≠ ftCrd ∧ frameCrcOk ftLgt f = true ∧ f.seq ≠ x.expected ∧ 2 ^ 31 < (x.expected - f.seq).toNat) ∧
    (let f := tFrame ftLgt 0 0xFFFFFFFF 1 (zeros 256)
     let x := tRun.chain .west 0
     frameCrcOk ftLgt f = true ∧ f.seq ≠ x.expected ∧ (x.expected - f.seq).toNat ≤ 2 ^ 31) ∧
    (let s := { tRun with chains := tChains { tChain with nakked := true } }
     (s.chain .west 0).up = true ∧ (s.chain .west 0).nakked = true) := by decide +kernel

/-- The engine with no lane up. -/
def tDark : State := { tRun with chains := ⟨List.replicate 16 .reset, List.replicate 16 .reset⟩ }

theorem test_meets_LanesAndChains :
    (tDark.mayTrain .west = true ∧ tDark.lanes.get .west = List.replicate 16 Lane.reset ∧ (tDark.chains.get .west).length = 16 ∧
      (∀ x ∈ tDark.chains.get .west, x.kind = .none)) ∧
    (helloOk (tFrame ftAck 8 0 0x0F01 []) = true ∧ helloOk (tFrame ftAck 8 0 0x0002 []) = true ∧
      helloOk (tFrame ftAck 8 0 0x0003 []) = true ∧ helloOk (tFrame ftAck 8 0 0xFF03 []) = true) ∧
    (let l : Lane := { Lane.reset with mode := .up, member := some 0 }
     let s := { tRun with lanes := ⟨l :: l :: List.replicate 14 Lane.reset, List.replicate 16 Lane.reset⟩ }
     (s.lanes.get .west)[0]? = some l ∧ l.member = some 0 ∧ (s.lanes.get .west)[1]? = some l) ∧
    (let l : Lane := { Lane.reset with mode := .up, member := some 0 }
     let s := { tRun with lanes := ⟨l :: List.replicate 15 Lane.reset, List.replicate 16 Lane.reset⟩
                          chains := tChains { tChain with kind := .peer } }
     (s.lanes.get .west)[0]? = some l ∧ l.member = some 0 ∧ (s.chain .west 0).kind = .peer ∧
       ((s.lanes.get .west).drop 1).all (fun m => m.member != some 0) = true) ∧
    (let c := { tChain with replay := [⟨0, ⟨ftTok, 0, 1, zeros 256, 5⟩⟩] }
     let s := { tRun with chains := tChains { c with kind := .peer } }
     (s.chain .west 0).up = true ∧ (s.chain .west 0).replay ≠ [] ∧ (s.chain .west 0).kind = .peer) ∧
    (let c := { tChain with replay := [⟨0, ⟨ftTok, 0, 1, zeros 256, 5⟩⟩] }
     let s := { tRun with chains := tChains c }
     let t := s.onChain .west 1 fun _ => tChain
     (t.chain .west 0).up = true ∧ (t.chain .west 0).replay ≠ [] ∧ (t.chain .west 0).isStep = true ∧
       (List.range 16).find? (fun c => c != 0 && (t.chain .west c).stepUp) = some 1) :=
  ⟨by decide +kernel, by decide +kernel, by decide +kernel, by decide +kernel, by decide +kernel, by decide +kernel⟩

/-- The route with an admitted step of one position. -/
def tAdm (f : Adm → Adm) : Route :=
  { tRoute with state := .running, ran := true,
                adm := some (f { (default : Adm) with body := zeros 16, env := tEnv, execs := 1, phase := .waitMask }) }

/-- Its admitted step. -/
def tStep (f : Adm → Adm) : Adm := f { (default : Adm) with body := zeros 16, env := tEnv, execs := 1, phase := .waitMask }

def tAt (f : Adm → Adm) : State := { tRun with rt := Tab.put [] 5 (tAdm f) }

def tFormed : Formed := formStep tEnv (tAdm id) (tStep id) (wholesOf tEnv tBind (tAdm id) (tStep id))

theorem test_meets_StepsAreComputed :
    (let a := tStep id
     let s := tAt id
     let gs := statesOf a.env (tAdm id) a.drafts
     s.mbx.jobs = [] ∧ s.admitted 262149 = some (tAdm id, tBind, a) ∧ a.phase = .waitMask ∧ s.serving = true ∧
       s.imagesReady tBind.set = true ∧ s.searchWaits tBind (tAdm id) = false ∧ s.dataGone tBind (tAdm id) gs = false ∧
       s.headGone tBind (tAdm id) = false ∧ s.masksHeld tBind (tAdm id) gs = true ∧ a.env.headE.isSome = false ∧ tBind.shards ≤ 1) ∧
    (let f := fun a : Adm => { a with env := { a.env with headE := some [] } }
     let s := tAt f
     let gs := statesOf (tStep f).env (tAdm f) (tStep f).drafts
     s.admitted 262149 = some (tAdm f, tBind, tStep f) ∧ (tStep f).phase = .waitMask ∧ s.dataGone tBind (tAdm f) gs = false ∧
       s.masksHeld tBind (tAdm f) gs = true ∧ (tStep f).env.headE.isSome = true) ∧
    (let f := fun a : Adm => { a with phase := .waitHalf }
     (tAt f).admitted 262149 = some (tAdm f, tBind, tStep f) ∧ (tStep f).phase = .waitHalf) :=
  ⟨by decide +kernel, by decide +kernel, by decide +kernel⟩

theorem test_meets_StepsAreChecked :
    (let f := fun a : Adm => { a with phase := .formed, formed := some tFormed }
     let s := tAt f
     let a := tStep f
     s.mbx.jobs = [] ∧ s.admitted 262149 = some (tAdm f, tBind, a) ∧ a.phase = .formed ∧ owns tBind (tAdm f) = true ∧
       a.formed = some tFormed ∧ stepSound tBind (tAdm f) a tFormed = true ∧ s.bothServe = true ∧ a.execs < 4 ∧
       sparesRecords .residue) ∧
    (let o := tStep fun a => { a with body := zeros 4 ++ toLe 4 0x3F800000 ++ zeros 8 }
     let x := formStep tEnv (tAdm id) o (wholesOf tEnv tBind (tAdm id) o)
     let f := fun a : Adm => { a with phase := .formed, formed := some x }
     (tAt f).admitted 262149 = some (tAdm f, tBind, tStep f) ∧ stepSound tBind (tAdm f) (tStep f) x = false ∧ (tStep f).execs < 4) ∧
    (let f := fun a : Adm => { a with phase := .formed }
     let b := { tBind with shards := 2 }
     let r := { tAdm f with oflags := 0 }
     let s := { tAt f with rt := Tab.put [] 5 r, bnd := Tab.put [] 2 b, chains := tChains { tChain with kind := .peer } }
     s.admitted 262149 = some (r, b, tStep f) ∧ owns b r = false ∧ memberSound r (tStep f) = true ∧ (tStep f).charges = [] ∧
       s.peerChains (s.peerHalf r.half) ≠ [] ∧ (spotsOf (tStep f).env r (tStep f)).length = 1) ∧
    (let f := fun a : Adm => { a with phase := .formed, execs := 4 }
     let s := tAt f
     s.admitted 262149 = some (tAdm f, tBind, tStep f) ∧ 4 ≤ (tStep f).execs ∧ tBind.state = .active ∧ (tAdm f).entries = [] ∧
       (tAdm f).markDue = false ∧ (tAdm f).saving = false ∧ (tAdm f).forcedMore = false) ∧
    (let f := fun a : Adm => { a with phase := .written, formed := some tFormed }
     (tAt f).admitted 262149 = some (tAdm f, tBind, tStep f) ∧ (tStep f).phase = .written ∧ (tStep f).formed = some tFormed ∧
       (tAt f).bothServe = true) := by
  refine ⟨⟨by decide +kernel, by decide +kernel, by decide +kernel, by decide +kernel, by decide +kernel, by decide +kernel,
    by decide +kernel, by decide +kernel, ?_⟩, by decide +kernel, by decide +kernel, by decide +kernel, by decide +kernel⟩
  intro e n h
  cases h

theorem test_meets_ReleasesCommit :
    (let f := fun a : Adm => { a with phase := .acked, formed := some tFormed }
     let s := tAt f
     let r := tAdm f
     s.mbx.jobs = [] ∧ s.route 262149 = some r ∧ s.binding r.binding = some tBind ∧ tBind.shards ≤ 1 ∧ tBind.state = .active ∧
       r.entries = [] ∧ r.copies = ⟨[], []⟩ ∧ r.markDue = false ∧ r.saving = false ∧ passed s.time.toNat r.deadline = false ∧
       r.adm = some (tStep f) ∧ (tStep f).formed = some tFormed ∧ tFormed.release.after = .goes ∧
       tFormed.release.grow.taken ≠ [] ∧ (tStep f).phase = .acked) ∧
    (let f := fun a : Adm => { a with phase := .formed, formed := some tFormed }
     let s := { tAt f with half := ⟨tHalf, HalfSt.reset⟩ }
     s.route 262149 = some (tAdm f) ∧ (tAdm f).adm = some (tStep f) ∧ (tStep f).formed = some tFormed ∧
       (tStep f).phase = .formed ∧ s.bothServe = false ∧ (tStep f).charges = [] ∧
       stepSound tBind (tAdm f) (tStep f) tFormed = true) ∧
    (let r := { tRoute with forcedMore := true, limit := 2000 }
     let s := { tWith (fun _ => r) with img := Tab.put [] 1 (tImage 1 .tki tOneTok) }
     let e := s.envFor tBind r
     let x := forcedRelease e r.limit r.rel
     s.route 262149 = some r ∧ s.binding r.binding = some tBind ∧ r.forcedMore = true ∧ r.state = .open ∧ r.adm = none ∧
       s.serving = true ∧ s.blocked r = false ∧ s.searchWaits tBind r = false ∧ r.tried = [] ∧ forcedSound e r = true ∧
       x.after = .forcedMore ∧ x.grow.taken ≠ [] ∧ s.dataGone tBind r (x.grow.taken.map fun t => t.before.pos.g) = false) :=
  ⟨by decide +kernel, by decide +kernel, by decide +kernel⟩

theorem test_meets_SlotsRoomAndCaches :
    tRun.route (262149#32).toNat = some tRoute ∧
    (let f := fun a : Adm => { a with phase := .waitSlots }
     let s := tAt f
     s.rt = [(routeIndex (tAdm f).handle, tAdm f)] ∧ s.binding (tAdm f).binding = some tBind ∧ (tAdm f).adm = some (tStep f) ∧
       (tStep f).phase = .waitSlots ∧ (s.routeHalves (tAdm f)).all (fun g => s.slotRoom g (tStep f).drafts.length) = true) ∧
    (let p : Prepared := ⟨.west, 0, [⟨2, 0⟩], false, []⟩
     let r := { tRoute with drafts := some p }
     let s := tWith fun _ => r
     s.rt = [(routeIndex r.handle, r)] ∧ r.adm = none ∧ r.drafts = some p ∧ p.held = false ∧ s.slotRoom .west p.drafts.length = true) ∧
    ((tRun.hs .west).waiting = [] ∧ ∀ r ∈ tRun.rt.vals, r.outBytes = 0 ∧ r.entries = [] ∧ r.copies = ⟨[], []⟩) ∧
    (let r := { tRoute with outBytes := 64, spent := 16 }
     let s := tWith fun _ => r
     s.rt = [(routeIndex r.handle, r)] ∧ s.holds .west r = true ∧ r.outBytes ≠ 0 ∧ s.outputsLeft r = true ∧ r.entries = [] ∧
       r.copies = ⟨[], []⟩ ∧ (s.hs .west).waiting = []) ∧
    (let k : CacheKey := ⟨1, (3#32).toNat⟩
     let s := tRun.onHalf .west fun x => { x with maskFetch := [k] }
     k ∈ (s.hs .west).maskFetch ∧ (s.image 1).isSome = true ∧ s.imageGone .west 1 = false ∧
       ((s.hs .west).maskCache.filter fun x => (s.pinnedMasks .west).contains x.key).length < (s.hs .west).maskBanks * maskPerBank) ∧
    (let s := tRun.onHalf .west fun x => { x with clears := [⟨.head 1 1 0, 64⟩] }
     (s.hs .west).clears = ⟨.head 1 1 0, 64⟩ :: [] ∧ s.mbx.jobs = [] ∧ ∀ r ∈ s.rt.vals, r.openDue = false) ∧
    (tRun.imageGone .west 1 = false ∧ ∀ b ∈ tRun.bnd.vals, b.starting = false) ∧
    (let b := { tBind with starting := true, set := { tSet with hdi := 2, infmt := 0, pin := true } }
     let s := (tBound fun _ => b).onHalf .west fun x => { x with heads := [⟨2, ⟨1, 0, true⟩, true, false, 0, []⟩] }
     let t := { (s.onHalf .east fun x => { x with heads := [⟨2, ⟨1, 0, true⟩, true, true, 0, []⟩] }) with
       img := Tab.put tRun.img 2 (tImage 2 .hdi (zeros 64)) }
     let a := t.onHalf .west fun x => { x with heads := x.heads.map fun y =>
       if y.digest = 2 ∧ y.cleared = true then { y with resident := true, rows := t.imageOn .west 2 } else y }
     t.imageGone .west 2 = false ∧ t.mbx.jobs = [] ∧ t.bnd = [(bindingIndex b.handle, b)] ∧ b.starting = true ∧
       b.state ≠ .swapping ∧ b.set.hdi = 2 ∧ a.headResident b = true) :=
  ⟨by decide +kernel, by decide +kernel, by decide +kernel, by decide +kernel, by decide +kernel, by decide +kernel, by decide +kernel,
    by decide +kernel, by decide +kernel⟩

/-- The entry of EntriesAreAdmitted, waiting for room. -/
def tWaits : State := tRun.onHalf .west fun x => { x with waiting := [⟨.west, 0, false, tLgt⟩] }

theorem test_meets_SlotsRoomAndCaches_entry :
    (tWaits.hs .west).waiting = [⟨.west, 0, false, tLgt⟩] ∧
    Admissible tWaits .west 0 false tLgt tRoute tBind (tWaits.envFor tBind tRoute) :=
  ⟨by decide +kernel, by decide +kernel, by decide +kernel, by decide +kernel, by decide +kernel, by decide +kernel, by decide +kernel,
    by decide +kernel, by decide +kernel, by decide +kernel, by decide +kernel, rfl, by decide +kernel, fun _ => by decide +kernel,
    by decide +kernel, by decide +kernel⟩

/-- The route with its intake open, on the West stream. -/
def tIntake : Route := { tRoute with oflags := 5 }

def tRecord (len seq : Nat) (payload : List Byte) : InRec := ⟨262149, 0, 0, BitVec.ofNat 32 len, BitVec.ofNat 32 seq, payload⟩

theorem test_meets_RecordsAreTaken :
    (let s := tWith fun _ => tIntake
     s.mbx.jobs = [] ∧ s.streamUp .west = true ∧ s.route 262149 = some tIntake ∧ s.binding tIntake.binding = some tBind ∧
       tIntake.intakeFlag = true ∧ tIntake.state = .open ∧ tIntake.saving = false ∧ tIntake.intakeEnded = false ∧
       tIntake.adm = none ∧ tBind.state = .active ∧ tIntake.stream = .west ∧ tIntake.inSeq = 0 ∧ tIntake.promptN = 0) ∧
    (recFormOk kText (tRecord 2 0 [0x61, 0x62]) = true ∧
      intakeText tIntake.intake + (recPayload (tRecord 2 0 [0x61, 0x62])).length ≤ 2 ^ 26) ∧
    (let x := tRecord 4 0 [3, 0, 0, 0]
     recFormOk kTokens x = true ∧
       (∀ t ∈ words32 (recPayload x), t < (tkiOf ((tWith fun _ => tIntake).imageOn .west tBind.set.tki)).vocab) ∧
       intakeToks tIntake.intake + (recPayload x).length / 4 ≤ 2 ^ 20) ∧
    (let s := tWith fun _ => tIntake
     recFormOk kEnd (tRecord 0 0 []) = true ∧ tIntake.intake = [] ∧ (tIntake.entries, tIntake.copies) = ([], ⟨[], []⟩) ∧
       (tIntake.markDue, tIntake.pauseDue, tIntake.saving, tIntake.forcedMore) = (false, false, false, false) ∧
       s.searchWaits tBind tIntake = false ∧ s.dataGone tBind tIntake [tIntake.rel.pos.g] = false ∧
       2 ≤ (allowed (s.envFor tBind tIntake) tIntake.rel.pos).length) ∧
    (let r := { tIntake with intake := [.toks [1]] }
     r.intake ≠ [] ∧ (tkiOf ((tWith fun _ => r).imageOn .west tBind.set.tki)).prompt true r.intake ≠ []) ∧
    (let s := tWith fun _ => tIntake
     let x := tRecord 2 1 [0x61, 0x62]
     x.seq.toNat ≠ tIntake.inSeq ∧ tIntake.waitRecs = [] ∧
       (s.str.get .west).room (streamRecord tIntake.handle 0x82 0 stArg (topOut (2 ^ 32) tIntake.outSeq)
         (toLe 4 x.seq.toNat ++ toLe 4 tIntake.inSeq)) = true) :=
  ⟨by decide +kernel, by decide +kernel, by decide +kernel, by decide +kernel, by decide +kernel, by decide +kernel⟩

theorem test_meets_PretokensAreReleased :
    let r := { tIntake with intake := [.toks [1, 2]] }
    let s := tWith fun _ => r
    let k := tkiOf (s.imageOn r.half tBind.set.tki)
    s.mbx.jobs = [] ∧ s.route 262149 = some r ∧ s.binding r.binding = some tBind ∧ tBind.state = .active ∧ r.state = .open ∧
      r.saving = false ∧ r.promptOpen = true ∧ r.adm = none ∧ r.intake ≠ [] ∧ s.tokeniserWaits tBind r = false ∧
      s.safe.warn = false ∧
      s.imageGone r.half tBind.set.tki = false ∧ intakeAgrees k r.intakeEnded r.intake r.promptN r.promptDigest = true ∧
      nextGroup (k.groupsFrom r.intakeEnded r.intake []) r.promptN = some (⟨none, [1, 2]⟩, [1, 2]) ∧ r.tried = [] ∧
      k.spells ⟨none, [1, 2]⟩ = true ∧ r.intakeEnded = false ∧ r.tries < 3 ∧
      (let q := { r with intakeEnded := true }
       let t := tWith fun _ => q
       nextGroup (k.groupsFrom true q.intake []) q.promptN = some (⟨none, [1, 2]⟩, [1, 2]) ∧
         promptDone k { q with promptN := q.promptN + 2 } = true ∧ q.forcedMore = false ∧ t.searchWaits tBind q = false ∧
         t.dataGone tBind q [q.rel.pos.g] = false ∧ 2 ≤ (allowed (t.envFor tBind q) q.rel.pos).length) ∧
      owns tBind r = true ∧ ({ r with oflags := 7 } : Route).deliver = true ∧ r.chains.get r.half = some 0 ∧
      0 < (s.chains.get r.half).length := by decide +kernel

theorem test_meets_BeatsAreSentAgain :
    tRun.streamUp .west = true ∧
    (let s := { tRun with str := ⟨{ StrSt.reset with last := [[default]] }, StrSt.reset⟩ }
     (0#4).toNat < (s.str.get .west).last.length) := by decide +kernel

/-- The engine with no route. -/
def tIdle : State := { tRun with rt := [] }

theorem test_meets_HalvesAreLost :
    Quiet tIdle ∧
    (tIdle.merid.trained = true ∧ tIdle.half.w.heartbeat = true ∧ tIdle.half.e.heartbeat = true) ∧
    (4 ≤ countBits 16 (0xFFFF#16 &&& ~~~(1#16 <<< 15)).toNat ∧ countBits 16 (0x000F#16 &&& ~~~(1#16 <<< 3)).toNat < 4) ∧
    (let s := tIdle.onHalf .east fun x => { x with rate := 3 }
     (s.hs .east).rate = 3 ∧ (s.hs .west).rate ≠ 3 ∧ s.bothServe = true ∧ s.serving = true) ∧
    (4#4).toNat ∈ [rRet, rMem, rCore, rPhy, rHbm, rPort] ∧
    (let s := tIdle.onHalf .east fun x => { x with hot := 9 }
     let r : Reading := ⟨120, 0, 0x1FF, 750, 800, 10⟩
     (s.hs .east).safeUp = true ∧ r.railOk.getLsbD rCore = true ∧ r.tj ≠ 0x80 ∧ 120 ≤ r.tj.toInt ∧ 9 ≤ (s.hs .east).hot ∧
       (s.hs .east).hold = false ∧ (s.hs .west).hold = false ∧ s.bothServe = true ∧ s.serving = true) := by
  refine ⟨⟨by decide +kernel, by decide +kernel, rfl, rfl, rfl⟩, ?_⟩
  decide +kernel

theorem test_meets_RoutesGoOnAtTheSurvivor :
    tRun.bothServe = true ∧ tRun.serving = true ∧ tRun.mbx.jobs = [] ∧ tRun.rt = [(routeIndex tRoute.handle, tRoute)] ∧
      tRun.binding tRoute.binding = some tBind ∧ tBind.state = .active ∧ tRoute.moves = true ∧ tRoute.half = .west ∧
      tRoute.adm = none ∧ NothingWaits tRoute ∧ tRoute.forcedMore = false ∧ tRoute.chains.get .east = none ∧
      (tRun.hs .east).waiting = [] := by
  refine ⟨?_, ?_, ?_, ?_, ?_, ?_, ?_, ?_, ?_, ⟨rfl, rfl, rfl, rfl, rfl⟩, ?_, ?_, ?_⟩ <;> decide +kernel

theorem test_meets_SafelightControllers :
    (let s := tRun.onHalf .east fun x => { x with code := .inReset }
     let t := s.onHalf .west fun x => { x with heartbeat := false }
     t.half.e.code = .inReset ∧ t.half.w.heartbeat = false ∧ t.half.e.safeUp = true ∧ t.safe.waiting = false) ∧
    (tRun.half.w.safeUp = true ∧ tRun.half.e.safeUp = true ∧ tRun.mbx.jobs = []) ∧
    (let s := tRun.onHalf .west fun x => { x with safeUp := false }
     (s.hs .west).safeUp = false ∧ (s.hs .east).safeUp = true ∧ (s.hs .east).heartbeat = true ∧
       s.safe.logs.w.length + s.safe.logs.e.length ≤ logRing ∧
       ((s.onHalf .east fun x => { x with safeUp := false }).hs .east).safeUp = false) := by decide +kernel

theorem test_meets_ResetsAndColdStarts :
    tRun.safe.fuseJob = none ∧
    (let s := { State.reset with eng := { EngSt.reset with safeRst := false }, safe := { SafeSt.reset with bootPtr := 64 } }
     s.eng.coreRst = true ∧ s.eng.safeRst = false ∧ 64 ≤ s.safe.bootPtr.toNat) ∧
    (let s := { State.reset with eng := { EngSt.reset with safeRst := false } }
     s.eng.coreRst = true ∧ s.eng.safeRst = false ∧ s.safe.bootPtr = 0) := by decide +kernel

theorem test_meets_WarmRestarts :
    (tRun.eng.state ≠ .off ∧ tRun.eng.state ≠ .reset ∧ tRun.mbx.jobs = [] ∧ tRun.mbx.waits = []) ∧
    (let s := { tRun with eng := { tRun.eng with state := .halt, restartDue := true } }
     s.eng.restartDue = true ∧ s.half.w.hold = false ∧ s.half.e.hold = false ∧ s.safe.fuseJob = none ∧
       ∀ b ∈ s.bnd.vals, b.state ≠ .loading ∧ b.newSet = none) := by decide +kernel

theorem test_meets_SupplyWarnings :
    (tRun.safe.warn = false ∧ tRun.safe.fuseJob = none ∧ tRun.eng.state = .service ∧ tRun.safe.target = none) ∧
    (let s := tFuse fun x => { x with target := some ⟨640, 4096⟩ }
     s.safe.warn = false ∧ s.safe.fuseJob = none ∧ s.eng.state = .service ∧ s.safe.target = some ⟨640, 4096⟩) ∧
    (let s := { tRun with eng := { tRun.eng with state := .reset, warm := true, coreRst := false } }
     s.safe.warn = false ∧ s.eng.state = .reset ∧ s.eng.warm = true ∧ s.eng.coreRst = false) ∧
    (let s := tFuse fun x => { x with warn := true }
     s.safe.warn = true ∧ s.eng.state ≠ .off ∧ s.eng.state ≠ .reset ∧ s.safe.fuseJob = none) := by decide +kernel

/-- A start in SURVEY, at one of its steps. -/
def tSurvey (p : Phase) (warm : Bool) : State :=
  { tIdle with eng := { tIdle.eng with state := .survey, phase := p, warm := warm } }

theorem test_meets_StartsGoThroughTheirSteps :
    (∀ p ∈ [Phase.census, .meridian, .stackTrain, .chains, .bootSet], ∀ w ∈ [false, true],
      (tSurvey p w).eng.state = .survey ∧ (tSurvey p w).half.w.code = .up ∧ (tSurvey p w).half.e.code = .up ∧
        (tSurvey p w).eng.phase = p ∧ (tSurvey p w).eng.warm = w) ∧
    (let c : Census := ⟨(List.range 32).map (BitVec.ofNat 7), 0, 0, [], [], true⟩
     c.wf = true ∧ c.failed = [] ∧ c.empty.length ≤ 32) ∧
    (4 ≤ countBits 16 (0x000F#16).toNat ∧ countBits 16 (0x0007#16).toNat < 4) ∧
    (let s := (tSurvey .chains false).onHalf .west fun x => { x with emptyPos := List.range 32, stackMask := 0x0FFF }
     s.half.w.emptyPos.length ≤ 32 ∧ s.half.e.emptyPos.length ≤ 32 ∧ 12 ≤ countBits 16 s.half.w.stackMask.toNat ∧
       12 ≤ countBits 16 s.half.e.stackMask.toNat ∧ (s.lowestStep .east).isSome = true ∧ (s.lowestStep .west).isSome = true) ∧
    (let s := (tSurvey .chains false).onChain .west 0 fun _ => Chain.reset
     (s.lowestStep .east).isSome = true ∧ s.lowestStep .west = none ∧ s.peerChains .west = []) ∧
    (let s := (tSurvey .bootSet true).onHalf .west fun x => { x with tj := 20 }
     let t := s.onHalf .east fun x => { x with tj := 20 }
     t.half.w.warmEnough = true ∧ t.half.e.warmEnough = true ∧ t.eng.boot = [] ∧ t.eng.recovered = false) :=
  ⟨by decide +kernel, by decide +kernel, by decide +kernel, by decide +kernel, by decide +kernel, by decide +kernel⟩

/-- A level message with the CRC that its fields give (15 R363). -/
def tMsg (code : Nat) (position iflevel alevel : Byte) (serial : U64) (arg : U16) : LmMsg :=
  let m : LmMsg := ⟨position, iflevel, alevel, serial, arg, 0⟩
  { m with crc := lmCrc code m }

/-- The datum engine with 62 members. -/
def tDatum : State :=
  { tIdle with level := { tIdle.level with strap := true, acts := true, alone := false, formed := true
                                           members := (List.range 62).map fun n => ⟨n + 2, 1000 + n, 0, true⟩ } }

theorem test_meets_LevelMessages :
    (let m := tMsg lmAnnounceCode 0xFF (BitVec.ofNat 8 ifLevel) (BitVec.ofNat 8 aLevel) 5 0
     tDatum.half.w.safeUp = true ∧ m.crc = lmCrc lmAnnounceCode m ∧ m.arg = 0 ∧ tDatum.level.acts = true ∧ tDatum.serving = true ∧
       (∀ x ∈ tDatum.level.members, x.serial ≠ m.serial.toNat) ∧ m.iflevel.toNat = ifLevel ∧ m.alevel.toNat = aLevel ∧
       tDatum.level.members.length < 63 ∧ m.position = 0xFF ∧ freePosition tDatum.level.members 0xFF = some 1) ∧
    (let m := tMsg lmAnnounceCode 0xFF (BitVec.ofNat 8 (ifLevel + 1)) (BitVec.ofNat 8 aLevel) 5 0
     m.crc = lmCrc lmAnnounceCode m ∧ m.iflevel.toNat ≠ ifLevel) ∧
    (tRun.level.acts = false ∧ tRun.level.strap = false) ∧
    (let m := tMsg lmAdmitCode 63 1 1 77 64
     m.crc = lmCrc lmAdmitCode m ∧ m.serial = tRun.eng.serial ∧ tRun.mbx.jobs = []) ∧
    (let j := tJob cRejoin (zeros 8)
     let s := tJobs tRun [j]
     s.mbx.mem.wf = true ∧ s.mbx.jobs = [j] ∧ j.code = cRejoin ∧ j.slot = (3#8).toNat ∧ (s.slotServer 3).isSome = true) ∧
    (let m := tMsg lmRefuseCode 0xFF 1 1 77 1
     m.crc = lmCrc lmRefuseCode m ∧ m.serial = tRun.eng.serial ∧ tRun.bothServe = true ∧ tRun.eng.warm = false) ∧
    (let m := tMsg lmBaseCode 0 1 1 9 0
     let s := { tRun with level := { tRun.level with alone := false } }
     m.crc = lmCrc lmBaseCode m ∧ s.level.alone = false) ∧
    (let m := tMsg lmEchoCode 0 1 1 0 0
     m.crc = lmCrc lmEchoCode m ∧ m.arg.toNat = tRun.level.echo) ∧
    (let m := tMsg lmWithdrawCode 63 1 1 0 0
     m.crc = lmCrc lmWithdrawCode m ∧ tDatum.level.acts = true ∧ tDatum.mbx.jobs = [] ∧ tDatum.rt = []) :=
  ⟨by decide +kernel, by decide +kernel, by decide +kernel, by decide +kernel, by decide +kernel, by decide +kernel,
    by decide +kernel, by decide +kernel, by decide +kernel⟩

/-- The engine READY, with other fields of the level tree. -/
def tReady (f : LvSt → LvSt) : State :=
  { tIdle with eng := { tIdle.eng with state := .ready, phase := .ready }, level := f LvSt.reset }

theorem test_meets_LevelTimers :
    (let s := tReady fun l => { l with strap := true, checking := true }
     s.half.w.safeUp = true ∧ s.level.checking = true ∧ s.level.strap = true) ∧
    (let s := tReady id
     s.level.checking = false ∧ s.level.acts = false ∧ s.level.member = false ∧ s.level.refused = false ∧ s.eng.state = .ready ∧
       s.level.position = 0 ∧ s.eng.warm = false ∧ s.bothServe = true) ∧
    (let s := tReady fun l => { l with member := true, delay := some 0, position := 1 }
     s.half.w.safeUp = true ∧ s.level.acts = false ∧ s.level.member = true ∧ s.level.delay = some 0 ∧ s.eng.state = .ready ∧
       s.eng.warm = false ∧ s.bothServe = true) ∧
    (let s := tReady fun l => { l with acts := true }
     s.level.acts = true ∧ s.eng.state = .ready ∧ s.level.formed = false ∧ s.eng.warm = false ∧ s.bothServe = true ∧
       s.level.base ≠ 0xFFFFFFFFFFFFFFFF ∧
       (let t := { s with eng := { s.eng with warm := true } }
        t.eng.warm = true ∧ t.eng.recovered = false)) ∧
    (tDatum.level.acts = true ∧ tDatum.level.formed = true ∧ tDatum.serving = true ∧ tDatum.level.withdrawn = false ∧
      tDatum.mbx.jobs = [] ∧ tDatum.rt = []) ∧
    ((0#8).toNat = tRun.level.position ∧ (1000#16).toNat ≤ 1000 ∧ 1000 < (1001#16).toNat) :=
  ⟨by decide +kernel, by decide +kernel, by decide +kernel, by decide +kernel, by decide +kernel, by decide +kernel⟩

theorem test_meets_TimeAndTemperature :
    (tRun.hs .west).safeUp = true ∧ crc8Bits (1001000#64).toNat = (BitVec.ofNat 8 (crc8Bits 1001000)).toNat ∧
    ((1001000#64).toInt - tRun.time.toInt).natAbs ≤ 1000000 ∧ 1000000 < ((1001001#64).toInt - tRun.time.toInt).natAbs ∧
    crc8Bits (1001001#64).toNat = (BitVec.ofNat 8 (crc8Bits 1001001)).toNat ∧ crc8Bits 0 ≠ (1#8).toNat ∧
    (∀ t ∈ [92#8, 94#8, 95#8, 105#8, 115#8, 119#8, 125#8],
      (⟨t, 0, 0x1FF, 750, 800, 10⟩ : Reading).railOk.getLsbD rCore = true ∧ t ≠ 0x80 ∧
        (t.toInt < 120 ∨ (tRun.hs .west).hot < 9) ∧ (tRun.hs .west).rate ≠ 3) := by decide +kernel

theorem test_meets_UpkeepRepairs :
    (6 < (tRun.hs .west).faults.length ∧ tRun.mbx.jobs = [] ∧ (tRun.hs .west).colErrs = [] ∧
      (let e : ColErr := ⟨false, 0, 9, true, 1, .formed⟩
       1 ≤ (tRun.hs .west).groupLeft e ∧ columnOf e ∉ (tRun.hs .west).pendingRepairs ∧ columnOf e ∉ (tRun.hs .west).burnt) ∧
      (tRun.hs .west).groupLeft ⟨true, 35, 9, true, 0, .formed⟩ = 0) ∧
    (tIdle.rt = [] ∧ tIdle.mbx.jobs = [] ∧ 6 < (tIdle.hs .west).faults.length ∧ (tIdle.hs .west).colErrs = []) ∧
    (let b : BadRegion := ⟨2, false⟩
     let s := tIdle.onHalf .west fun x => { x with regions := [{ (default : FRegion) with runs := [{ (default : FRun) with owner := .image 2 }] }] }
     (s.hs .west).regions.any (fun r => r.has (.image b.digest)) = true ∧ s.rt = [] ∧
       (tIdle.hs .west).regions.any (fun r => r.has (.image b.digest)) = false) := by decide +kernel

/-- The signature of `tFwi` under the key of 1952 zeros, which has the secret 0: a response z of zeros, and the commitment hash of w1 = 0
(computed with another implementation of FIPS 204). -/
def tSig : List Byte :=
  toLe 48 0x82DB6263F20F59BEE567139A1067210903BBF647172AA55975F7042043B50F6F028FEA46E16883A46178392DBAF6E4CB ++
  (List.replicate 640 [0x00#8, 0x00#8, 0x08#8, 0x00#8, 0x80#8]).flatten ++ zeros 61

/-- A firmware image that verifies: a section of 64 zeros under the key of 1952 zeros. -/
def tFwi : List Byte :=
  let c := tBox 0x10 0x46 5632 (sha384 (zeros 1952)) (sha384 (zeros 64)) (zeros 64)
  c.take 2304 ++ tSig ++ c.drop 5613

/-- The keyslots of an engine that has the key in slot 0. -/
def tKeys : List Keyslot := [⟨sha384 (zeros 1952), 0, .active⟩]

/-- FIPS 202: SHAKE128 and SHAKE256 of the empty string. -/
theorem test_shake :
    (shake 168 1 []).take 8 = [0x7F, 0x9C, 0x2B, 0xA4, 0xE8, 0x8F, 0x82, 0x7D] ∧
      (shake 136 1 []).take 8 = [0x46, 0xB9, 0xDD, 0x2B, 0x0B, 0xA8, 0x8D, 0x13] := by decide +kernel

/-- The product of X and X^255 is -1 in the ring, through the transform. -/
theorem test_ntt :
    let x (i : Nat) : Poly := (List.replicate 256 0).set i 1
    (Poly.mul (x 1).ntt (x 255).ntt).inv = (List.replicate 256 0).set 0 (mlQ - 1) := by decide +kernel

/-- The zero polynomial. -/
def tZero : Poly := List.replicate 256 0

/-- What the rows of the commitment of `tSig` are computed from: its hints, its response and the key's t1. -/
theorem tSig_parts :
    hintRows (slice tSig 3248 61) = some (List.replicate 6 []) ∧
      ((List.range 5).map fun i => (coeffs 20 (slice tSig (48 + 640 * i) 640)).map fun x => (mlGamma1 + (mlQ - x)) % mlQ) =
        List.replicate 5 tZero ∧
      (List.replicate 5 tZero).map Poly.ntt = List.replicate 5 tZero ∧ coeffs 10 (zeros 320) = tZero ∧
      (zeros 1952).take 32 = zeros 32 := by decide +kernel

/-- The commitment is 0, row by row. -/
def tRow (r : Nat) : List Byte := w1Row (zeros 32) (List.replicate 5 tZero) (sampleInBall (tSig.take 48)).ntt tZero r []

theorem tRow_0 : tRow 0 = zeros 128 := by decide +kernel
theorem tRow_1 : tRow 1 = zeros 128 := by decide +kernel
theorem tRow_2 : tRow 2 = zeros 128 := by decide +kernel
theorem tRow_3 : tRow 3 = zeros 128 := by decide +kernel
theorem tRow_4 : tRow 4 = zeros 128 := by decide +kernel
theorem tRow_5 : tRow 5 = zeros 128 := by decide +kernel

theorem tSig_hash :
    hashH 48 (hashH 64 (hashH 64 (zeros 1952) ++ [0#8] ++ toLe 1 gwernoContext.length ++ gwernoContext ++ manifest tFwi) ++ zeros 768) =
      tSig.take 48 := by decide +kernel

theorem tSig_row (r : Nat) (h : slice (zeros 1952) (32 + 320 * r) 320 = zeros 320) (k : (List.replicate 6 ([] : List Nat)).getD r [] = []) :
    w1Row ((zeros 1952).take 32) (List.replicate 5 tZero) (sampleInBall (tSig.take 48)).ntt
      (coeffs 10 (slice (zeros 1952) (32 + 320 * r) 320)) r ((List.replicate 6 []).getD r []) = tRow r := by
  rw [h, k, tSig_parts.2.2.2.1, tSig_parts.2.2.2.2, tRow]

theorem tSig_rows :
    ((List.range 6).flatMap fun r => w1Row ((zeros 1952).take 32) (List.replicate 5 tZero) (sampleInBall (tSig.take 48)).ntt
      (coeffs 10 (slice (zeros 1952) (32 + 320 * r) 320)) r ((List.replicate 6 []).getD r [])) = zeros 768 := by
  rw [show List.range 6 = [0, 1, 2, 3, 4, 5] from rfl]
  simp only [List.flatMap_cons, List.flatMap_nil]
  rw [tSig_row 0 (by decide +kernel) rfl, tSig_row 1 (by decide +kernel) rfl, tSig_row 2 (by decide +kernel) rfl,
    tSig_row 3 (by decide +kernel) rfl, tSig_row 4 (by decide +kernel) rfl, tSig_row 5 (by decide +kernel) rfl,
    tRow_0, tRow_1, tRow_2, tRow_3, tRow_4, tRow_5]
  decide +kernel

/-- 10 R216: ML-DSA-65 accepts the image's signature. -/
theorem test_signature : mldsaVerify (zeros 1952) (manifest tFwi) gwernoContext tSig = true := by
  have h := tSig_parts
  unfold mldsaVerify
  simp only [h.1, h.2.1]
  rw [h.2.2.1, tSig_rows, tSig_hash]
  decide +kernel

theorem tFwi_checks :
    (structureOk tFwi && (slice tFwi (hdrSigOff tFwi) sigBytes == tSig) && (slice tFwi (hdrKeyOff tFwi) keyBytes == zeros 1952) &&
      (manKeyDigest (manifest tFwi) == sha384 (zeros 1952)) &&
      (matchKeyslot tKeys (requiredClass (hdrType tFwi)) (manKeyDigest (manifest tFwi))).isSome && digestsOk tFwi && typeOk tFwi) =
      true := by decide +kernel

/-- The image verifies; a copy of zeros does not. -/
theorem test_meets_ImagesAreStoredAndVerified_pass : verifyStatus tKeys tFwi = stOk ∧ verifyStatus tKeys (zeros 64) ≠ stOk := by
  have h := tFwi_checks
  simp only [Bool.and_eq_true, beq_iff_eq] at h
  obtain ⟨⟨⟨⟨⟨⟨h1, h2⟩, h3⟩, h4⟩, h5⟩, h6⟩, h7⟩ := h
  rw [h4] at h5
  refine ⟨?_, by decide +kernel⟩
  simp [verifyStatus, signatureOk, h1, h2, h3, h4, h5, h6, h7, test_signature]

theorem test_meets_ImagesAreStoredAndVerified :
    (let i := { tImage 2 .csi (zeros 64) with state := .fetching }
     let s := { tRun with img := Tab.put tRun.img 2 i }
     s.image 2 = some i ∧ i.state = .fetching ∧ s.fetching 2 = false ∧ s.cleared = true ∧
       (∀ h ∈ s.copyHalves, (i.copies.get h).length = i.total) ∧ s.mbx.jobs = []) ∧
    (let i := { tImage 2 .csi (zeros 64) with state := .fetching }
     let p := toLe 4 0 ++ toLe 1 1 ++ zeros 3 ++ tDesc 0x81 64
     let j := { tJob cLoad p with stage := 3, digest := 2 }
     let s := tJobs { tRun with img := Tab.put tRun.img 2 i } [j]
     s.image 2 = some i ∧ s.fetching 2 = false ∧ s.mbx.jobs = [j] ∧ j.slot = (3#8).toNat ∧ j.stage = 3 ∧ j.digest = 2 ∧
       (s.slotServer 3).isSome = true ∧ u32At j.body 0 = 0 ∧ i.vstatus < 65536) ∧
    (let i := { tImage 2 .csi (zeros 64) with state := .verifying }
     let s := { tRun with img := Tab.put tRun.img 2 i }
     s.image 2 = some i ∧ i.state = .verifying ∧ s.mbx.jobs = [] ∧ s.bothServe = true ∧ i.copies.w ≠ [] ∧ i.copies.e ≠ [] ∧
       verifyStatus s.safe.fuses i.copies.w ≠ stOk) :=
  ⟨by decide +kernel, by decide +kernel, by decide +kernel⟩

theorem test_meets_FencesAreSet :
    let j := { tJob cStop (toLe 4 65538 ++ zeros 44) with arg := 65538 }
    let b := { tBind with fence := .phase1 }
    let s := tJobs (tBound fun _ => b) [j]
    s.mbx.mem.wf = true ∧ s.binding (65538#32).toNat = some b ∧ b.fence = .phase1 ∧ b.state = .active ∧ s.mbx.jobs = [j] ∧
      j.slot = (3#8).toNat ∧ j.code = cStop ∧ j.arg = (65538#32).toNat ∧ u32At j.body 4 = 0 ∧ s.half.w.waiting = [] ∧
      s.half.e.waiting = [] ∧ (s.slotServer 3).isSome = true ∧ s.rt = [(routeIndex tRoute.handle, tRoute)] ∧ tRoute.binding = b.handle ∧ tRoute.state = .open ∧
      tRoute.adm = none ∧ tRoute.forcedMore = false ∧ tRoute.saving = false ∧ tRoute.markDue = false ∧ tRoute.entries = [] ∧
      tRoute.copies = ⟨[], []⟩ ∧ (∀ r ∈ (tJobs { tIdle with bnd := s.bnd } [j]).rt.vals, r.binding ≠ b.handle) := by
  decide +kernel

theorem asked_of {s : State} {k : Byte} {code : Nat} {p : List Byte}
    (h : (s.unnoticed k.toNat && (s.sealCode k.toNat == code) && (s.reqPayload k.toNat == p) && s.mbx.mem.wf) = true) :
    Asked s k code p := by
  simp only [Bool.and_eq_true, beq_iff_eq] at h
  exact ⟨h.1.1.1, h.1.1.2, h.1.2, h.2⟩

/-- A write of one byte of slot 3's request. -/
def tPoke (s : State) (off : Nat) (v : Byte) : State :=
  { s with mbx := { s.mbx with mem := s.mbx.mem.write (slotBase 3 + off) v } }

theorem test_meets_RequestsAreJudgedInOrder :
    rowOf (.engineDrain 3) = some ⟨cDrain, 3, anyPayload⟩ ∧
    (tRun.unnoticed 3 = false ∧ (tAsk tRun 3 cQuery []).sealCode 3 ≠ cDrain) ∧
    (let s := tPoke (tAsk tRun 3 cDrain []) 0 2
     Asked s 3 cDrain [] ∧ s.sealSeq 3 ≠ s.expectedSeq 3) ∧
    (let s := tPoke (tAsk tRun 3 cDrain []) 0x10 1
     Asked s 3 cDrain [] ∧ s.sealSeq 3 = s.expectedSeq 3 ∧ s.row2 3 = false) ∧
    (let s := tPoke (tPoke (tPoke (tAsk tRun 3 cDrain []) 8 4) 9 0x80) 0xC 1
     Asked s 3 cDrain [] ∧ s.sealSeq 3 = s.expectedSeq 3 ∧ s.row2 3 = true ∧ s.afterMet 3 = false) ∧
    (let s := tAsk { tRun with eng := { tRun.eng with state := .halt } } 3 cDrain []
     Asked s 3 cDrain [] ∧ s.sealSeq 3 = s.expectedSeq 3 ∧ s.row2 3 = true ∧ s.afterMet 3 = true ∧
       validIn cDrain s.eng.state = false) :=
  ⟨rfl, by decide +kernel, ⟨asked_of (by decide +kernel), by decide +kernel⟩, ⟨asked_of (by decide +kernel), by decide +kernel⟩,
    ⟨asked_of (by decide +kernel), by decide +kernel⟩, ⟨asked_of (by decide +kernel), by decide +kernel⟩⟩

theorem test_meets_SequenceNumbers :
    (let s := tPoke (tAsk tRun 3 cDrain []) 0 2
     Asked s 3 cDrain [] ∧ s.sealSeq 3 ≠ s.expectedSeq 3) ∧
    (let s := { State.reset with eng := { EngSt.reset with safeRst := false } }
     s.eng.coreRst = true ∧ s.eng.safeRst = false) ∧
    (let s := { tRun with eng := { tRun.eng with restartDue := true } }
     s.eng.restartDue = true ∧ (s.hs .west).hold = false ∧ (s.hs .east).hold = false ∧ s.jobOf 255 = none ∧ s.mbx.jobs = []) ∧
    (let s := (tRun.onHalf .west fun x => { x with safeUp := false }).onHalf .east fun x => { x with safeUp := false }
     (s.hs .west).safeUp = false ∧ (s.hs .east).safeUp = false) :=
  ⟨⟨asked_of (by decide +kernel), by decide +kernel⟩, by decide +kernel, by decide +kernel, by decide +kernel⟩

theorem test_meets_invariants :
    State.reset.mbx.mem.wf = true ∧ RingsOk State.reset.safe.logs ∧ KeysInv State.reset.safe ∧
    step { State.reset with pending := [.datumCheckDone] } = .next State.reset := by
  refine ⟨rfl, ⟨by decide, by decide⟩, ⟨?_, ?_, ?_⟩, rfl⟩ <;> intros <;> contradiction

theorem test_meets_DraftsOutsideTheSetAreRejected :
    memberShards tBind = [] ∧
    (let a := { tStep id with drafts := [⟨7, 0⟩] }
     a.drafts[0]? = some ⟨7, 0⟩ ∧
       ((positions tEnv tRoute.rel.pos (a.drafts.map fun d => d.tok))[0]?.any fun q => !q.2.contains 7) = true) := by
  decide +kernel

theorem test_meets_WireFormsReadBack :
    (let t : TokEntry := { (default : TokEntry) with handle := 2 ^ 32 - 1, toks := [2 ^ 32 - 1], ranges := [true] }
     t.handle < 2 ^ 32 ∧ t.step < 2 ^ 32 ∧ t.status < 2 ^ 16 ∧ t.toks.length < 2 ^ 16 ∧ (∀ x ∈ t.toks, x < 2 ^ 32) ∧
       t.ranges.length = t.toks.length ∧ t.nForced < 2 ^ 16 ∧ t.accepted < 2 ^ 8 ∧ t.consumed < 2 ^ 8) ∧
    (let r := { tRoute with rel := { tRoute.rel with pos := ⟨0, [3, 1], .counts [(1, 65535), (3, 2)]⟩
                                                     dev := ⟨[1], zeros 271⟩, bytes := 2 ^ 64 - 1 } }
     r.binding = tBind.handle ∧ r.salt < 2 ^ 32 ∧ r.next < 2 ^ 32 ∧ r.limit < 2 ^ 32 ∧ r.oflags < 2 ^ 32 ∧ r.rebasedAt < 2 ^ 32 ∧
       r.rel.pos.g < 2 ^ 32 ∧ (tBind.set.csi = 0 → r.rel.pos.g = 0) ∧ r.promptN < 2 ^ 32 ∧ r.outSeq < 2 ^ 32 ∧
       r.rel.bytes < 2 ^ 64 ∧ r.rel.pos.sw.length ≤ 7 ∧ (∀ x ∈ r.rel.pos.sw, x < 2 ^ 32 - 1) ∧
       (r.rel.dev.held ++ r.rel.dev.pend).length ≤ 272 ∧ (profileOf tBind.profile).penWindow = 0 ∧
       Tab.wf [(1, 65535), (3, 2)] = true ∧ r.state ≠ .ended) ∧
    (let b := { tBind with profile := zeros 16 ++ toLe 4 2 ++ zeros 44 }
     (profileOf b.profile).penWindow ≠ 0 ∧ [1, 3].length ≤ (profileOf b.profile).penWindow ∧ ∀ x ∈ [1, 3], x < 2 ^ 32 - 1) :=
  ⟨by decide +kernel, by decide +kernel, by decide +kernel⟩

/-! ### The spec's worked values -/

/-- 02_exact_arithmetic, the row worked to the bit and the self-check vectors. -/
theorem test_rows_worked_to_the_bit :
    rneFp32 (dotUnits ([0x4B80, 0x3F80, 0x3400, 0x8000].map (decodeElem fmtBf16)) ([0x2, 0x2, 0x1, 0xF].map (decodeElem fmtMx4))) =
      (0x4B800001, false) ∧
    rneFp32 (dotUnits [decodeBf16 0x1A40] [decodeBf16 0x1A80]) = (0x00000002, false) ∧
    rneFp32 (dotUnits [decodeBf16 0x7F7F] [decodeBf16 0x4000]) = (0x7F800000, true) ∧
    intakeToF32 fmtMx8b 0x7B 0x8F = (0x4F600000, false) ∧ intakeToF32 fmtMx8b 0x7B 0xFE = (0x7F800000, true) ∧
    intakeToF32 fmtMx8b 0x7C 0xFE = (0x7F800000, false) := by decide +kernel

/-- 02_exact_arithmetic, penalties, bias and temperature. -/
theorem test_adjustment_chain :
    let p := (profileOf (toLe 4 0x3F333333 ++ toLe 4 0x3FA00000 ++ toLe 4 0x3DCCCCCD ++ toLe 4 0x3F000000 ++ zeros 48)).adj
    p.repInv = 0x3F4CCCCD ∧ p.tempInv = 0x3FB6DB6E ∧ adjustToBias p 0x40200000 2 0xBE800000 = (0x3F866666, false) ∧
      adjust p 0x40200000 2 0xBE800000 = (0x3FC00000, false) := by decide +kernel

/-- 04_sampling_and_speculation: the noise words of tokens 0 to 3, and two logarithms. -/
theorem test_noise :
    (List.range 4).map (noiseWord 0 0 0 noiseGumbel) = [0x6627E8D5, 0xE169C58D, 0xBC57AC4C, 0x9B00DBD8] ∧
    dln 0x100000001 33 = -0x0B17217F6D1CF79B := by decide +kernel

/-- 04_sampling_and_speculation: 1,205 at 1.5 with noise 0.5 ties with 7,730 at 1.75 with noise 0.25. -/
theorem test_scores_tie :
    score 0x3FC00000 0x0800000000000000 = 2 ^ 161 ∧ score 0x3FE00000 0x0400000000000000 = 2 ^ 161 := by decide +kernel

/-- 05_grammar_masks, the record of state 3 of the image worked through: SINGLETON, a list of the one token 46. -/
theorem test_state_record :
    let g : Csi :=
      { (default : Csi) with
        stat := zeros 96 ++ [0x04, 0x02, 0x00, 0x00, 0x01, 0x00, 0x00, 0x00, 0x28, 0x00, 0x00, 0x00, 0x00, 0x00, 0x00, 0x00,
          0x01, 0x00, 0x00, 0x00, 0x07, 0x00, 0x00, 0x00, 0x01, 0x00, 0x00, 0x00, 0x2E, 0x00, 0x00, 0x00]
        mask := zeros 40 ++ toLe 4 46 ++ zeros 12, tran := zeros 56 ++ toLe 4 46 ++ toLe 4 5 ++ zeros 8 }
    (g.state 3).singleton = true ∧ (g.state 3).accepting = false ∧ (g.state 3).single = 46 ∧ g.gset 3 = [46] ∧ g.next 3 46 = 5 := by
  decide +kernel

/-- 06_finder_and_sequence_lists: the three records and four outcomes. -/
theorem test_sequence_list :
    let r (m k0 k1 c1 : Nat) (c0 : Nat) : List Byte := toLe 8 m ++ toLe 8 k0 ++ toLe 8 c0 ++ toLe 8 k1 ++ toLe 8 c1
    let l : Sli := { (default : Sli) with entriesN := 3, width := 2
                                          entr := r 0x00006400000003EB 0x800003EA 0x800003E9 0x800FFFFF 0x800FFFFF ++
                                            r 0x00003200006003EB 0x800003EA 0x8000004D800003E9 0x800FFFFF800FFFFF 0x800FFFFF ++
                                            r 0x00000A0000100009 0x80000005 0 0x80000000 0x800FFFFF }
    l.sset (viewOf 2 l.recs) 0 [1002, 1001, 77] = .allBut [] ∧ l.sset (viewOf 2 l.recs) 0 [1002, 1001, 78] = .allBut [1003] ∧ l.sset (viewOf 2 l.recs) 0 [5] = .only 9 ∧
      l.sset (viewOf 2 l.recs) 0 [5, 12] = .allBut [] := by decide +kernel

/-- The merges of the example prompt (07_tokeniser). -/
def tMerges : List Merge := [⟨0x61, 0x66, 257⟩, ⟨0xC3, 0xA9, 258⟩, ⟨0x63, 257, 259⟩, ⟨0x20, 0x63, 260⟩, ⟨259, 258, 261⟩]

/-- The tokeniser of the prompt worked to the token (07_tokeniser). -/
def tPrompt : Tki :=
  { (default : Tki) with
    vocab := 262, splitStates := 4, eos := 256, bmap := List.range 256
    merges := tMerges, mergeView := viewOf 2 (mergeRecs tMerges)
    classes := [⟨0x20, 0x20, 2⟩, ⟨0x21, 0x2F, 3⟩, ⟨0x41, 0x5A, 1⟩, ⟨0x61, 0x7A, 1⟩, ⟨0xC0, 0x24F, 1⟩]
    split := [⟨2, 0, 1, 1⟩, ⟨4, 0, 1, 2⟩, ⟨0xFFFFFFFFFFFFFFF9, 0, 1, 3⟩, ⟨2, 1, 1, 1⟩, ⟨4, 1, 2, 2⟩, ⟨0xFFFFFFFFFFFFFFF9, 1, 2, 3⟩,
      ⟨2, 2, 3, 1⟩, ⟨4, 2, 1, 2⟩, ⟨0xFFFFFFFFFFFFFFF9, 2, 2, 3⟩, ⟨0xFFFFFFFFFFFFFFF9, 3, 1, 3⟩, ⟨2, 3, 2, 1⟩, ⟨4, 3, 2, 2⟩]
    norm := some ⟨[⟨0x301, 0x301, 230⟩], [⟨0xE9, 0, 2⟩], [0x65, 0x301], [⟨0x65, 0x301, 0xE9⟩]⟩ }

/-- 07_tokeniser, the release of the example prompt: nothing after the first record, two pretokens after the second, and the last
one at the end; and `aaa` under a merge of `a` and `a`. -/
theorem test_prompt_worked_to_the_token :
    let a : Intake := .text false [0x63, 0x61, 0x66, 0x65, 0xCC]
    let b : Intake := .text false [0x81, 0x20, 0x63, 0x61, 0x66, 0xC3, 0xA9, 0x21]
    tPrompt.prompt false [a] = [] ∧ tPrompt.prompt false [a, b] = [261, 32, 261] ∧ tPrompt.prompt true [a, b] = [261, 32, 261, 33] ∧
      ({ tPrompt with mergeView := viewOf 2 (mergeRecs (tMerges ++ [⟨0x61, 0x61, 262⟩])) } : Tki).bpe [0x61, 0x61, 0x61] = [262, 0x61] := by
  decide +kernel

/-- 08_developer_and_stop_bath: three tokens that end in a stop string, and a comma that breaks it. -/
theorem test_stop_bath :
    let s : StopSet := ⟨[[0x34, 0x32, 0x20, 0xE2, 0x82, 0xAC]], false, 0, false⟩
    let d1 := devBytes s [0x34, 0x32] 0 ⟨[], []⟩
    let d2 := devBytes s [0x20, 0xE2, 0x82] 0 d1.2.1
    d1.1 = [] ∧ d1.2.1 = ⟨[], [0x34, 0x32]⟩ ∧ d2.1 = [] ∧ d2.2.1 = ⟨[0xE2, 0x82], [0x34, 0x32, 0x20]⟩ ∧
      (devBytes s [0xAC, 0x20, 0x75, 0x6E, 0x64] 0 d2.2.1).1 = [] ∧ (devBytes s [0xAC, 0x20] 0 d2.2.1).2.2 = some 1 ∧
      packPrints (devBytes s [0x2C] 0 d2.2.1).1 = [.text [0x34, 0x32, 0x20, 0xEF, 0xBF, 0xBD, 0x2C] true] ∧
      (devBytes { s with include_ := true } [0xAC, 0x20] 0 d2.2.1).1 = [.text [0x34, 0x32, 0x20, 0xE2, 0x82, 0xAC] false] := by
  decide +kernel

/-- 16_stadia_lanes: the TOK entry of step 2,400. -/
theorem test_tok_entry :
    let t : TokEntry := { (default : TokEntry) with handle := 0x00102A07, step := 2400, toks := [1205, 512, 34]
                                                    ranges := [false, false, false], nForced := 1, accepted := 1 }
    t.bytes = [0x07, 0x2A, 0x10, 0x00, 0x60, 0x09, 0x00, 0x00, 0x00, 0x00, 0x03, 0x00, 0x01, 0x00, 0x01, 0x00] ++ zeros 8 ++
      [0xB5, 0x04, 0x00, 0x00, 0x00, 0x02, 0x00, 0x00, 0x22] ++ zeros 15 := by decide +kernel

/-- CRC-32C and SHA-384 of their standards (log 5, log 6: the manual names them and does not print them). -/
theorem test_named_checksums :
    crc32c [0x31, 0x32, 0x33, 0x34, 0x35, 0x36, 0x37, 0x38, 0x39] = 0xE3069283 ∧
    sha384 [0x61, 0x62, 0x63] = 0xcb00753f45a35e8bb5a03d699ac65007272c32ab0eded1631a8b605a43ff5bed8086072ba1e7cc2358baeca134c825a7 := by
  decide +kernel

/-- 09 R200: the word of a tray bank that both ports change in one beat, and the same beat with a plain read on port B. -/
theorem test_same_word :
    (let x := sameWord (BankWord.of 0x10) (.atomicAdd 5) (.atomicSwap 0x99)
     x.a = some 0x10 ∧ x.b = some 0x15 ∧ x.word.data = 0x99 ∧ x.word.sound = true ∧ x.conflict = true) ∧
    (let x := sameWord (BankWord.of 0x10) (.atomicAdd 5) .read
     x.b = some 0x10 ∧ x.word.data = 0x15 ∧ x.conflict = false) := by decide +kernel

/-- 02 R51: the residues of 1.5 times -2.5 and 3 times 3, and of their exact sum. -/
theorem test_residues :
    let ps := rowProducts [.fin false 3 (-1), .fin false 3 0] [.fin true 5 (-1), .fin false 3 0]
    ps.map (fun p => p.sh) = [286, 288] ∧ ps.map RowProduct.residue = [255 - 15 * 2 ^ 6 % 255, 9] ∧
      mergeBuckets ps = (36 - 15) * 2 ^ 286 ∧ rowChecked [.fin false 3 (-1), .fin false 3 0] [.fin true 5 (-1), .fin false 3 0] = true := by
  decide +kernel

/-- 17 R427: in SERVICE the test access port acts on every private instruction as BYPASS. -/
theorem test_test_access :
    EState.service.tapExecutes (.other 5) = .bypass ∧ EState.halt.tapExecutes (.other 5) = .other 5 ∧
      EState.service.tapExecutes .idcode = .idcode ∧ idcode.toNat / 2 ^ 12 = 0x20B59 ∧ idcode.getLsbD 0 = true := by
  refine ⟨rfl, rfl, rfl, ?_⟩
  unfold idcode
  generalize Config.jedecCode = j
  revert j
  decide +kernel

/-! ### Single steps, with values of the spec -/

/-- The state after a command. -/
def tNext (c : Instr) (s : State) : State :=
  match exec c s with
  | .next t => t
  | _ => State.reset

/-- STATUS, OBJ_KIND, OBJ_STATE and RLEN of the reply in a slot (11 R240). -/
def tReply (s : State) (k : Nat) : List Nat := [s.reqNat k 0x806 2, s.reqNat k 0x80A 1, s.reqNat k 0x80B 1, s.reqNat k 0x808 2]

/-- 11 R243, R245, 12 R268: a drain completes ST_OK in DRAIN (6), clears OWN, sets the flag and takes SEQ into LAST; its group's
interrupt line rises once it is enabled. -/
theorem test_drain :
    let t := tNext (.engineDrain 17) { tAsk tRun 17 0x0103 [] with mbx := { (tAsk tRun 17 0x0103 []).mbx with irqEn := 2 } }
    t.eng.state = .drain ∧ tReply t 17 = [0, skEngine, 6, 0] ∧ t.sealOwn 17 = false ∧ t.mbx.done = 1#256 <<< 17 ∧ t.lastOf 17 = 1 ∧
      t.mbxIrq = 2 := by decide +kernel

/-- 11 R247: out of turn ST_ARG with the number expected; 11 R250: a drain in HALT is ST_STATE. -/
theorem test_refusals :
    (let t := tNext (.engineDrain 3) (tPoke (tAsk tRun 3 0x0103 []) 0 9)
     tReply t 3 = [2, skEngine, 4, 4] ∧ t.reqNat 3 0x820 4 = 1 ∧ t.lastOf 3 = 0 ∧ t.eng.state = .service) ∧
    (let t := tNext (.engineDrain 3) (tAsk { tRun with eng := { tRun.eng with state := .halt } } 3 0x0103 [])
     tReply t 3 = [1, skEngine, 7, 0] ∧ t.lastOf 3 = 1 ∧ t.eng.state = .halt) := by decide +kernel

/-- The worked exchange of 11: a `route.open` meets a binding that is LOADING, and is answered ST_STATE with its state 0. -/
theorem test_worked_exchange_slot_41 :
    let s := tBound fun b => { b with state := .loading }
    let p := toLe 4 65538 ++ toLe 4 4 ++ zeros 24 ++ toLe 4 9 ++ toLe 2 0 ++ toLe 2 0xFFFF ++ zeros 8
    let t := tNext (.routeOpen 41) (tAsk s 41 0x0401 p)
    tReply t 41 = [1, skBinding, 0, 0] ∧ t.rt = tRun.rt ∧ t.lastOf 41 = 1 := by decide +kernel

/-- The request of 12's `route.open` example, and the handle of index 0xC01 after generation 4. -/
theorem test_route_open_example :
    let p : List Byte := [0x11, 0x00, 0x03, 0x00, 0x07, 0x00, 0x00, 0x00, 0x42, 0x00, 0xED, 0x5E, 0x00, 0x00, 0x00, 0x00,
      0x00, 0x00, 0x00, 0x00, 0x11, 0x7A, 0x00, 0x00, 0x00, 0x00, 0x00, 0x00, 0x00, 0x00, 0x00, 0x00,
      0x00, 0x10, 0x00, 0x00, 0x03, 0x00, 0x03, 0x00, 0x00, 0x00, 0x00, 0x00, 0x00, 0x00, 0x00, 0x00]
    let s := { tRun with rtGen := Tab.put [] 0xC01 4 }
    let r := s.newRoute { tBind with handle := 0x00030011 } (s.routeHandle 0xC01) p (chainsAt p 0x24) .west
    u32At p 0 = 0x00030011 ∧ r.handle = 0x00140C01 ∧ r.seed = 0x5EED0042 ∧ r.salt = 0x7A11 ∧ r.limit = 4096 ∧
      r.chains = ⟨some 3, some 3⟩ ∧ r.intakeFlag = true ∧ r.owner = true ∧ r.next = 0 := by decide +kernel

/-- The register example of 19: the flag of slot 40, and reads through both ports once West is lost. -/
theorem test_register_example :
    let s := { tRun with mbx := { tRun.mbx with done := 1#256 <<< 40 } }
    let t := tNext (.registerWrite (.control .east) 0x0120 0xFF 0x0000010000000000 true) s
    let x := tNext (.halfDownReport .west) { tIdle with str := tRun.str }
    s.ctlRead .east 0x0110 = 4 ∧ t.mbx.done = 0 ∧ t.ctlRead .east 0x0110 = 0 ∧ x.ctlRead .east 0 = 0x0B590101B2030201 ∧
      x.ctlRead .west 0 = 0x0B590101B2030200 ∧ x.ctlRead .west 0x1000 = 0x0B59FFFFFFFFFFFF ∧ x.eng.state = .limp ∧
      (x.sideRead .west 0x1000).map (fun v => v.toNat % 0x1000) = some 0x005 := by decide +kernel

/-- 19 R450: a write of 0xFFFF to MBX_IRQ_EN through byte enable 0 alone; 11 R242: a seal written in part is discarded. -/
theorem test_writes :
    (tNext (.registerWrite (.control .west) 0x0108 1 0xFFFF true) tRun).mbx.irqEn = 0x00FF ∧
    (tNext (.registerWrite (.control .west) 0x100000 0x0F 0x8000010100000001 true) tRun).mbx.discarded = 1 ∧
    (tNext (.registerWrite (.control .west) 0x100000 0xFF 0x8000010100000001 true) tRun).sealOwn 0 = true := by decide +kernel

/-- 19 R454: the code through the East sideband, and only there. -/
theorem test_takeover :
    let s := tFuse fun x => { x with waiting := true }
    (tNext (.safeTakeoverConfirm (.sideband .east) 0xFF 0x0C0F) s).eng.state = .reset ∧
      tNext (.safeTakeoverConfirm (.sideband .west) 0xFF 0x0C0F) s = s ∧
      tNext (.safeTakeoverConfirm (.sideband .east) 0xFF 0x0C0E) s = s := by decide +kernel

/-- 16 R392, 01 R23: an entry is admitted, and its frame is acknowledged. -/
theorem test_lgt :
    let t := tNext (.lgt .west 0 (tOne ftLgt tLgt)) tRun
    (t.route 262149).map (fun r => (r.state, r.adm.isSome)) = some (.running, true) ∧ (t.chain .west 0).expected = 1 ∧
      (t.chain .west 0).ctl.head? = some (ackOut false 0) := by decide +kernel

/-- 16 R392: the same frame again is only acknowledged; one with a bad CRC draws a NAK of the last number. -/
theorem test_discarded :
    (let s := tRun.onChain .west 0 fun x => { x with expected := 1 }
     (tNext (.frameDiscarded .west 0 (BitVec.ofNat 8 ftLgt) (tOne ftLgt tLgt)) s).chains.w.map (fun x => (x.ctl, x.expected)) =
       ([ackOut false 0], 1) :: List.replicate 15 ([], 0)) ∧
    (let v := tNext (.frameDiscarded .west 0 (BitVec.ofNat 8 ftLgt) { tOne ftLgt tLgt with crc := 0 }) tRun
     (v.chain .west 0).ctl = [ackOut true 0xFFFFFFFF] ∧ (v.route 262149).map (fun r => r.state) = some .open) := by decide +kernel

/-- 04 R86 and 01 R26: the greedy winner of four logits is the greatest, and the lowest of equals; it commits with a TOK entry. -/
theorem test_greedy_step :
    let e := toLe 4 262149 ++ toLe 4 0 ++ [0, 0x20] ++ zeros 2 ++ toLe 4 4 ++ toLe 4 16 ++ zeros 12 ++
      toLe 4 0x3F800000 ++ toLe 4 0x40000000 ++ toLe 4 0x40000000 ++ toLe 4 0xC0000000
    let s := tBound fun b => { b with set := { tSet with infmt := 0x20 } }
    let t := tNext (.stepChecked 262149 .pass) (tNext (.maskReady 262149) (tNext (.lgt .west 0 (tOne ftLgt e)) s))
    let u := tNext (.releaseCommit 262149) (tNext (.mirrorRecord 262149) t)
    (u.route 262149).map (fun r => (r.state, r.next, r.rel.pos.sw)) = some (.running, 1, [1]) := by decide +kernel

/-- 13 R300: the fourth failed execution ends the route ST_FAULT at its last committed state. -/
theorem test_four_failures :
    let f := fun a : Adm => { a with phase := .formed, execs := 4 }
    ((tNext (.stepChecked 262149 (.fail .west 3 .residue)) (tAt f)).route 262149).map (fun r => (r.state, r.ending, r.next)) =
      some (.ended, .fault, 0) := by decide +kernel

/-- 16 R394: limits compare modulo 2^32; 16 R384: a HELLO of kind 1 brings its chain up. -/
theorem test_credit_and_hello :
    (let s := { tRun with chains := tChains { tChain with limit := (0xFFFFFFF0, 0, 0) } }
     trip (((tNext (.crd .west 0 (tFrame ftCrd 0 0 0x0000000500000000 [])) s)).chain .west 0).limit 0 = 5) ∧
    (let t := tNext (.hello .west 3 (tFrame ftAck 8 0 0x0201 [])) tDark
     (t.chain .west 2).up = true ∧ ((t.lanes.get .west).map (·.member)).take 4 = [none, none, none, some 2]) := by decide +kernel

/-- 07 R164: a record out of its turn draws OUT_REFUSE (0x82) with ST_ARG, its own SEQ and the one expected. -/
theorem test_refused_record :
    let t := tNext (.inText .west (tRecord 2 1 [0x61, 0x62])) (tWith fun _ => tIntake)
    ((t.str.get .west).queue.map (·.bytes)).flatten =
      toLe 4 262149 ++ [0x82, 0, 2, 0] ++ toLe 4 8 ++ toLe 4 0 ++ (toLe 4 1 ++ toLe 4 0) ++ zeros 8 := by decide +kernel

/-- 06 R135, 17 R432: the finder's rate at 94, 95, 105 and 115 degrees; the trip above 125; the peak. -/
theorem test_thermal :
    let t := fun n : Byte => (tNext (.thermalReading .west ⟨n, 0, 0x1FF, 750, 800, 10⟩) tRun).hs .west
    (t 94).rate = 0 ∧ (t 95).rate = 1 ∧ (t 105).rate = 2 ∧ (t 115).rate = 3 ∧ (t 126).trip = true ∧ (t 95).tpeak = 95 := by
  decide +kernel

/-- 13 R309: a half that reports itself down leaves LIMP behind; 13 R310: its route goes on at the other half. -/
theorem test_half_down :
    let t := tNext (.halfDownReport .west) tRun
    t.eng.state = .limp ∧ t.half.w.code = .down ∧
      (t.route 262149).map (fun r => (r.state, r.half, r.chains)) = some (.open, .east, ⟨none, some 0⟩) := by decide +kernel

/-- 15 R379: without a flush target a supply warning fails its flush (3) and logs it; the lanes go to electrical idle. -/
theorem test_supply_warning :
    let t := tNext .supplyWarnN tRun
    t.safe.flush = 3 ∧ t.safe.warn = true ∧ t.safe.events = 1 ∧ (t.chain .west 0).up = false := by decide +kernel

/-- 15 R365: the datum engine admits a newcomer at the lowest free position, and answers LM_ADMIT with it and the count. -/
theorem test_announce :
    let t := tNext (.lmAnnounce (.dn 2) (tMsg lmAnnounceCode 0xFF (BitVec.ofNat 8 ifLevel) (BitVec.ofNat 8 aLevel) 5 0)) tDatum
    t.level.members.getLast? = some ⟨1, 5, 2, false⟩ ∧ t.level.count = 64 ∧
      t.level.out.map (fun m => (m.code, m.msg.position, m.msg.arg)) = [(lmAdmitCode, 1, 64)] := by decide +kernel

/-- 15 R378: while a supply warning stands a command of class E waits uncommitted and a query is answered; 15 R381: in RESET of a warm
restart the warning's flush runs from the kept ring. -/
theorem test_warned :
    let s := tFuse fun x => { x with warn := true }
    ((tNext (.engineDrain 3) (tAsk s 3 cDrain [])).eng.state, (tNext (.engineDrain 3) (tAsk s 3 cDrain [])).sealOwn 3) = (.service, true) ∧
      (tNext (.engineQuery 3) (tAsk s 3 cQuery [])).sealOwn 3 = false ∧
      (let r := tFuse fun x => { x with target := some ⟨640, 4096⟩ }
       (tNext .supplyWarnN { r with eng := { r.eng with state := .reset, warm := true, coreRst := false } }).safe.flush = 1) := by
  decide +kernel

/-- 15 R359: a stack that fails its training at a warm restart is retired, logged and rebuilt; 13 R305. -/
theorem test_warm_training :
    let t := tRun.trainStacks .west 4 true
    (t.hs .west).stackMask = 0xFFFB ∧ (t.hs .west).rebuild.map (·.1) = [2] ∧ t.safe.events = 1 := by decide +kernel

/-- 15 R370: the datum engine that returns from a warm restart forms again with the members that were in the barrier, the base one
higher, and its release carries an LM_ECHO round (15 R369). -/
theorem test_forms_again :
    let s := { tDatum with level := { tDatum.level with base := 4, members := [⟨1, 1000, 0, true⟩, ⟨2, 1001, 1, false⟩] } }
    let w := s.warmStart
    let t := tNext .formation { w with half := s.half, eng := { s.eng with state := .ready, phase := .ready, warm := true, recovered := true } }
    w.level.formed = false ∧ w.level.joining = [1] ∧ t.eng.state = .service ∧ t.level.base = 5 ∧
      t.level.members.map (·.inBarrier) = [true, false] ∧
      t.level.out.map (·.code) = [lmBaseCode, lmBaseCode, lmEchoCode, lmEchoCode] := by decide +kernel

/-- 17 R425: the static address of the East target with SAFE_ADDR 2 is 0b101_0101. -/
theorem test_i3c_address :
    (tRun.onHalf .east fun x => { x with strapAddr := 2 }).i3cAddress .east = 0b1010101#7 := by decide +kernel

/-- 15 R371: a member whose trim is set enters SERVICE at the release. -/
theorem test_release : (tNext .levelRelease (tReady fun l => { l with member := true, delay := some 0 })).eng.state = .service := by
  decide +kernel

/-- 10 R217: programming ends in KS_ACTIVE with the key's digest; a burn that fails leaves the slot KS_EMPTY. -/
theorem test_keyslot :
    let p : List Byte := [7, 1] ++ zeros 6 ++ digestBytes 5
    let s := tNext (.serviceKeyslotProgram 3) (tAsk (tFuse id) 3 cKeyProgram p)
    (tNext (.fuseBurnDone true) s).keyslot 7 = ⟨5, 1, .active⟩ ∧ ((tNext (.fuseBurnDone false) s).keyslot 7).state = .empty ∧
      tReply (tNext (.fuseBurnDone false) s) 3 = [0xB, skEngine, 4, 0] := by decide +kernel

/-- 10 R229: a stop without routes sets the fence, and both halves' acknowledgement completes it. -/
theorem test_fence :
    let s := tAsk { tIdle with bnd := tRun.bnd } 3 cStop (toLe 4 65538 ++ zeros 44)
    let t := tNext (.fenceAck 65538) (tNext (.bindingStop 3) s)
    (t.binding 65538).map (fun b => (b.state, b.fence)) = some (.stopped, .set) ∧ tReply t 3 = [0, skBinding, 4, 8] := by decide +kernel

/-- The commands that the ports cannot carry are refused by their checks, one term for each. -/
theorem test_ill_formed :
    ([.registerWrite (.control .west) 0x101 0xFF 0 true, .registerWrite (.sideband .west) 0x1004 0xFF 0 true,
      .registerWrite (.sideband .west) 0x10000 0xFF 0 true, .registerWrite (.sideband .west) 0x1008 0x0F 0 true,
      .safeTakeoverConfirm (.sideband .east) 3 0x0C0F, .peakClr (.sideband .west) .west 0x80 0 none,
      .hid .west 0 ⟨0, 65, 0, 0, zeros (65 * 256), 0⟩, .hid .west 0 ⟨0, 1, 0, 0, zeros 255, 0⟩,
      .lgt .west 0 ⟨0, 1, 0, 0, [], 0⟩, .drf .west 0 ⟨0, 1, 0, 0, [], 0⟩, .pkSummary .west 0 ⟨0, 1, 0, 0, [], 0⟩,
      .pkZmax .west 0 ⟨0, 1, 0, 0, [], 0⟩, .pkZret .west 0 ⟨0, 1, 0, 0, [], 0⟩, .pkCands .west 0 ⟨0, 1, 0, 0, [], 0⟩,
      .pkRelease .west 0 ⟨0, 1, 0, 0, [], 0⟩, .ack .west 0 ⟨0, 1, 0, 0, [], 0⟩, .nak .west 0 ⟨0, 1, 0, 0, [], 0⟩,
      .crd .west 0 ⟨0, 1, 0, 0, [], 0⟩, .hello .west 0 ⟨0, 1, 0, 0, [], 0⟩, .frameDiscarded .west 0 0x10 ⟨0, 1, 0, 0, [], 0⟩,
      .inText .west (tRecord 3 0 [1]), .inTokens .west (tRecord 4 0 [1]), .inEnd .west (tRecord 0 0 [1]),
      .reservedKindRecord .west 9 (tRecord 3 0 [1]), .railOutOfRange .west 9, .peerUnreachable 64, .memberSilent 64,
      .calibrationDone 64 0 true, .censusDone (some ⟨[3, 3], 0, 0, [], [], true⟩) none,
      .censusDone none (some ⟨[3, 3], 0, 0, [], [], true⟩)] : List Instr).all (fun c => !c.wf) = true ∧
    ([.registerWrite (.control .west) 0x108 0x0F 0 false, .registerWrite (.sideband .west) 0x1008 0xFF 0 true,
      .hid .west 0 ⟨0, 1, 0, 0, zeros 256, 0⟩, .inText .west (tRecord 2 0 [1, 2]), .railOutOfRange .west 8, .memberSilent 63,
      .censusDone (some ⟨[3, 4], 0, 0, [], [], true⟩) none] : List Instr).all Instr.wf = true := by decide +kernel

/-- A step runs the command at the front, with the rest behind it; with none, it idles. -/
theorem test_step :
    step { State.reset with pending := [.coreRstNAssert, .datumCheckDone] } = exec .coreRstNAssert { State.reset with pending := [.datumCheckDone] } ∧
    step State.reset = .next State.reset.tick := ⟨rfl, rfl⟩

end Sys2Proof.Tests
end

section
/-! What a release of an engine alone takes: the tokens of the parts, of the selections, of the verdict and of the release
(03 R73, R74; 04 R82-R96; 01 R27). -/
namespace Sys2Proof.Machine

/-! ### Candidates come from the lists they are chosen from -/

/-- The better of what has been found and one more candidate. -/
def chooseBest (greedy : Bool) : Option Best → Best → Option Best
  | none, b => some b
  | some a, b => if beats greedy b a then some b else some a

theorem bestOf_eq_foldl (g : Bool) (bs : List Best) : bestOf g bs = bs.foldl (chooseBest g) none := by
  unfold bestOf
  congr 1
  funext m b
  cases m <;> rfl

theorem chooseBest_cases (g : Bool) (m : Option Best) (b : Best) : chooseBest g m b = some b ∨ (chooseBest g m b = m ∧ m ≠ none) := by
  cases m with
  | none => exact .inl rfl
  | some a =>
    dsimp only [chooseBest]
    split
    · exact .inl rfl
    · exact .inr ⟨rfl, nofun⟩

theorem foldl_chooseBest {g : Bool} {bs : List Best} {m : Option Best} (hm : bs ≠ [] ∨ m ≠ none) :
    ∃ b, bs.foldl (chooseBest g) m = some b ∧ (b ∈ bs ∨ m = some b) := by
  induction bs generalizing m with
  | nil =>
    obtain ⟨b, hb⟩ := Option.ne_none_iff_exists'.mp (hm.resolve_left (absurd rfl))
    exact ⟨b, hb, .inr hb⟩
  | cons x xs ih =>
    rcases chooseBest_cases g m x with h | ⟨h, hsome⟩
    · obtain ⟨b, hb, hfrom⟩ := ih (m := some x) (.inr nofun)
      refine ⟨b, by rw [List.foldl_cons, h, hb], .inl ?_⟩
      rcases hfrom with hmem | hx
      · exact .tail _ hmem
      · cases hx; exact .head _
    · obtain ⟨b, hb, hfrom⟩ := ih (m := m) (.inr hsome)
      exact ⟨b, by rw [List.foldl_cons, h, hb], hfrom.imp_left (.tail _)⟩

theorem mem_of_bestOf {g : Bool} {bs : List Best} {b : Best} (h : bestOf g bs = some b) : b ∈ bs := by
  rw [bestOf_eq_foldl] at h
  cases bs with
  | nil => cases h
  | cons x xs =>
    obtain ⟨c, hc, hmem⟩ := foldl_chooseBest (g := g) (m := none) (.inl (List.cons_ne_nil x xs))
    rw [h] at hc
    cases hc
    exact hmem.resolve_right nofun

theorem bestOf_eq_none {g : Bool} {bs : List Best} (h : bestOf g bs = none) : bs = [] := by
  cases bs with
  | nil => rfl
  | cons x xs =>
    obtain ⟨b, hb, -⟩ := foldl_chooseBest (g := g) (m := none) (.inl (List.cons_ne_nil x xs))
    rw [bestOf_eq_foldl, hb] at h
    cases h

theorem mem_insertCand {c x : Cand} {cs : List Cand} (h : x ∈ insertCand c cs) : x = c ∨ x ∈ cs := by
  induction cs with
  | nil => simpa [insertCand] using h
  | cons y ys ih =>
    unfold insertCand at h
    split at h
    · simpa using h
    · rcases List.mem_cons.mp h with rfl | h
      · exact .inr (.head _)
      · exact (ih h).imp_right (.tail _)

theorem mem_of_mem_rankCands {x : Cand} {cs : List Cand} (h : x ∈ rankCands cs) : x ∈ cs := by
  suffices key : ∀ acc, x ∈ cs.foldl (fun acc c => insertCand c acc) acc → x ∈ cs ∨ x ∈ acc by
    exact (key [] h).resolve_right nofun
  clear h
  induction cs with
  | nil => exact fun acc h => .inr h
  | cons c cs ih =>
    intro acc h
    rcases ih _ h with h | h
    · exact .inl (.tail _ h)
    · rcases mem_insertCand h with rfl | h
      · exact .inl (.head _)
      · exact .inr h

theorem mem_of_mem_nucleus {p : Profile} {w : Nat} {x : Cand} {cs : List Cand} {acc : Nat}
    (h : x ∈ nucleus p w cs acc) : x ∈ cs := by
  induction cs generalizing acc with
  | nil => exact h
  | cons c cs ih =>
    unfold nucleus at h
    split at h
    · rw [List.mem_singleton.mp h]
      exact .head _
    · rcases List.mem_cons.mp h with rfl | h
      · exact .head _
      · exact .tail _ (ih h)

theorem mem_of_mem_samplingList {p : Profile} {x : Part} {c : Cand} (h : c ∈ samplingList p x) : c ∈ x.cands := by
  unfold samplingList at h
  split at h
  · exact mem_of_mem_nucleus h
  · exact h

/-! ### Parts whose tokens lie in a set -/

/-- Every token of the part is one of `S`, and its entry for the draft is of the draft. -/
structure Part.Within (S : List Nat) (draft : Option Nat) (x : Part) : Prop where
  best : ∀ b, x.best = some b → b.tok ∈ S
  cands : ∀ c ∈ x.cands, c.tok ∈ S
  draft : ∀ c, x.draft = some c → c.tok ∈ S ∧ draft = some c.tok

theorem partOf_within {S : List Nat} {vals : List Val} (h : ∀ v ∈ vals, v.tok ∈ S) (p : Profile) (k : NoiseKey)
    (zmax : Option U32) (draft : Option Nat) : (partOf p k zmax draft vals).Within S draft where
  best b hb := by
    simp only [partOf] at hb
    split at hb
    · cases hb
    · obtain ⟨v, hv, rfl⟩ := List.mem_map.mp (mem_of_bestOf hb)
      split at hv
      · exact h v (List.mem_filter.mp hv).1
      · exact h v hv
  cands c hc := by
    simp only [partOf] at hc
    have hc := List.mem_of_mem_take hc
    split at hc
    · obtain ⟨v, hv, rfl⟩ := List.mem_map.mp (mem_of_mem_rankCands hc)
      split at hv
      · exact h v (List.mem_filter.mp hv).1
      · exact h v hv
    · cases hc
  draft c hc := by
    simp only [partOf] at hc
    split at hc
    · obtain ⟨v, hv, rfl⟩ := List.mem_map.mp (List.mem_of_mem_head? hc)
      obtain ⟨hv, hd⟩ := List.mem_filter.mp hv
      exact ⟨h v hv, (beq_iff_eq.mp hd).symm⟩
    · cases hc

theorem combinePart_within {S : List Nat} {draft : Option Nat} {x y : Part} (p : Profile) (hx : x.Within S draft)
    (hy : y.Within S draft) : (combinePart p x y).Within S draft where
  best b hb := by
    rcases List.mem_append.mp (mem_of_bestOf hb) with h | h
    · exact hx.best b (Option.mem_toList.mp h)
    · exact hy.best b (Option.mem_toList.mp h)
  cands c hc := by
    rcases List.mem_append.mp (mem_of_mem_rankCands (List.mem_of_mem_take hc)) with h | h
    · exact hx.cands c h
    · exact hy.cands c h
  draft c hc := by
    rcases Option.or_eq_some_iff.mp hc with h | ⟨-, h⟩
    · exact hx.draft c h
    · exact hy.draft c h

/-! ### The record that a half sends -/

theorem fld_append_of_le {xs ys : List Byte} {off n : Nat} (h : xs.length ≤ off) :
    fld (xs ++ ys) off n = fld ys (off - xs.length) n := by
  simp [fld, slice, List.drop_append, List.drop_eq_nil_of_le h]

theorem fld_toLe_append (n v : Nat) (ys : List Byte) : fld (toLe n v ++ ys) 0 n = v % 256 ^ n := by
  rw [fld, slice, List.drop_zero, List.take_left' (toLe_length n v), leNat_toLe]

/-! The fields of a record that the other half reads. -/
section Summary
variable (p : Profile) (step pos shard shards salt status : Nat) (half : Bool) (x : Part)

theorem bitOf_flags_summaryBytes : bitOf (u8At (summaryBytes p step pos shard shards salt status half x) 7) 0 = (x.count != 0) := by
  simp only [summaryBytes, List.append_assoc, u8At, fld_append_of_le, toLe_length, Nat.reduceLeDiff, Nat.reduceSub, fld_toLe_append]
  generalize (p.greedy && x.best.isSome && (x.best.getD default).range) = g
  generalize (!p.greedy && x.best.isSome && (x.best.getD default).range) = s
  generalize (x.count != 0) = c
  cases c <;> cases g <;> cases s <;> cases half <;> rfl

theorem u32At_summaryBytes_count :
    u32At (summaryBytes p step pos shard shards salt status half x) 0xC = x.count % 2 ^ 32 := by
  simp only [summaryBytes, List.append_assoc, u32At, fld_append_of_le, toLe_length, Nat.reduceLeDiff, Nat.reduceSub, fld_toLe_append,
    Nat.reducePow]

theorem u32At_summaryBytes_greedy {b : Best} (hp : p.greedy = true) (hb : x.best = some b) :
    u32At (summaryBytes p step pos shard shards salt status half x) 0x10 = b.tok % 2 ^ 32 := by
  simp only [summaryBytes, List.append_assoc, u32At, fld_append_of_le, toLe_length, Nat.reduceLeDiff, Nat.reduceSub, fld_toLe_append,
    Nat.reducePow, hp, hb, Option.isSome_some, Bool.and_self, if_true, Option.getD_some]

theorem u32At_summaryBytes_sampled {b : Best} (hp : p.greedy = false) (hb : x.best = some b) :
    u32At (summaryBytes p step pos shard shards salt status half x) 0x18 = b.tok % 2 ^ 32 := by
  simp only [summaryBytes, List.append_assoc, u32At, fld_append_of_le, toLe_length, Nat.reduceLeDiff, Nat.reduceSub, fld_toLe_append,
    Nat.reducePow, hp, hb, Option.isSome_some, Bool.and_self, Bool.false_and, Bool.not_false, Bool.false_eq_true, if_true, if_false,
    Option.getD_some, zeros, List.length_replicate]

end Summary

theorem partOfSummary_best {p : Profile} {step pos shard shards salt status : Nat} {half : Bool} {x : Part} {b : Best}
    (h : (partOfSummary p (summaryBytes p step pos shard shards salt status half x)).best = some b) :
    x.count ≠ 0 ∧ p.filtered = false ∧ ∀ c, x.best = some c → b.tok = c.tok % 2 ^ 32 := by
  simp only [partOfSummary, bitOf_flags_summaryBytes, Option.ite_none_right_eq_some, Option.some.injEq, Bool.and_eq_true,
    bne_iff_ne, Bool.not_eq_true'] at h
  obtain ⟨hflags, hb⟩ := h
  obtain ⟨hcount, hfiltered⟩ := hflags
  rw [← hb]
  refine ⟨hcount, hfiltered, fun c hc => ?_⟩
  cases hp : p.greedy with
  | true => simp only [if_true, u32At_summaryBytes_greedy _ _ _ _ _ _ _ _ _ hp hc]
  | false => simp only [Bool.false_eq_true, if_false, u32At_summaryBytes_sampled _ _ _ _ _ _ _ _ _ hp hc]

theorem partOfSummary_count (p : Profile) (step pos shard shards salt status : Nat) (half : Bool) (x : Part) :
    (partOfSummary p (summaryBytes p step pos shard shards salt status half x)).count = x.count % 2 ^ 32 := by
  simp only [partOfSummary, u32At_summaryBytes_count]

/-- Without filters, a part that covers tokens and names no candidate covers the draft alone, under SPEC_RATIO (04 R94). -/
theorem partOf_lone_draft {p : Profile} {k : NoiseKey} {zmax : Option U32} {draft : Option Nat} {vals : List Val}
    (hnodup : (vals.map (·.tok)).Nodup) (hvals : vals ≠ []) (hfiltered : p.filtered = false)
    (hbest : (partOf p k zmax draft vals).best = none) :
    p.ratio = true ∧ vals.length = 1 ∧ (partOf p k zmax draft vals).draft.isSome = true := by
  simp only [partOf, hfiltered, Bool.false_eq_true, if_false] at hbest
  have hnil := List.map_eq_nil_iff.mp (bestOf_eq_none hbest)
  cases hratio : p.ratio with
  | false => simp [hratio, hvals] at hnil
  | true =>
    have hdraft : ∀ v ∈ vals, some v.tok = draft := by simpa [hratio] using hnil
    match vals, hvals with
    | [v], _ => simp [partOf, hratio, hdraft v (.head _)]
    | v :: w :: _, _ =>
      have hvw : v.tok = w.tok :=
        Option.some.inj ((hdraft v (.head _)).trans (hdraft w (.tail _ (.head _))).symm)
      simp [hvw] at hnodup

@[simp] theorem carried_cands (p : Profile) (record : List Byte) (x : Part) : (carried p record x).cands = x.cands := by
  unfold carried Part.loneDraft
  split <;> rfl

@[simp] theorem carried_draft (p : Profile) (record : List Byte) (x : Part) : (carried p record x).draft = x.draft := by
  unfold carried Part.loneDraft
  split <;> rfl

theorem carried_best {p : Profile} {record : List Byte} {x : Part} {b : Best} (h : (carried p record x).best = some b) :
    (partOfSummary p record).best = some b ∧
      (p.ratio && !p.filtered && (partOfSummary p record).count == 1 && x.draft.isSome) = false := by
  unfold carried Part.loneDraft at h
  split at h
  case isTrue => cases h
  case isFalse hlone => exact ⟨h, Bool.eq_false_iff.mpr hlone⟩

/-- A summary record loses no token that fits its field, so that the part it carries has the tokens of the part it was made of. -/
theorem carried_within {S : List Nat} {vals : List Val} (hS : ∀ v ∈ vals, v.tok ∈ S) (hnodup : (vals.map (·.tok)).Nodup)
    (hfits : ∀ t ∈ S, t < 2 ^ 32) (p : Profile) (k : NoiseKey) (zmax : Option U32) (draft : Option Nat)
    (step pos shard shards salt status : Nat) (half : Bool) :
    let x := partOf p k zmax draft vals
    (carried p (summaryBytes p step pos shard shards salt status half x) x).Within S draft := by
  intro x
  have hx : x.Within S draft := partOf_within hS p k zmax draft
  refine ⟨fun b hb => ?_, fun c hc => hx.cands c (by rwa [carried_cands] at hc),
    fun c hc => hx.draft c (by rwa [carried_draft] at hc)⟩
  obtain ⟨hrecord, hlone⟩ := carried_best hb
  obtain ⟨hcount, hfiltered, htok⟩ := partOfSummary_best hrecord
  cases hbest : x.best with
  | some c =>
    have hc := hx.best c hbest
    rwa [htok c hbest, Nat.mod_eq_of_lt (hfits _ hc)]
  | none =>
    have hvals : vals ≠ [] := fun h => hcount (by simp [x, partOf, h])
    obtain ⟨hratio, hone, hdraft⟩ := partOf_lone_draft hnodup hvals hfiltered hbest
    have hread : (partOfSummary p (summaryBytes p step pos shard shards salt status half x)).count = 1 := by
      rw [partOfSummary_count, show x.count = 1 from hone, Nat.one_mod_two_pow (by decide)]
    rw [hratio, hfiltered, hread, hdraft] at hlone
    cases hlone

/-! ### Selection -/

theorem winner_within {S : List Nat} {draft drop : Option Nat} {p : Profile} {k : NoiseKey} {x : Part} {b : Best}
    (hx : x.Within S draft) (h : winner p k x drop = some b) : b.tok ∈ S := by
  unfold winner at h
  split at h
  · obtain ⟨c, hc, rfl⟩ := List.mem_map.mp (mem_of_bestOf h)
    exact hx.cands c (mem_of_mem_samplingList (List.mem_filter.mp hc).1)
  · exact hx.best b h

/-- A selection is of an allowed token, and it accepts a draft only by giving the draft's own token (04 R90, R94). -/
theorem select_within {S : List Nat} {draft : Option Draft} {p : Profile} {k : NoiseKey} {x : Part} {s : Sel}
    (hx : x.Within S (draft.map (·.tok))) (h : select p k x draft = some s) :
    s.tok ∈ S ∧ (s.accept = true → draft.map (·.tok) = some s.tok) := by
  have hcoupled : (winner p k x none).map (fun b => (⟨b.tok, b.range, (draft.map (·.tok)) == some b.tok⟩ : Sel)) = some s →
      s.tok ∈ S ∧ (s.accept = true → draft.map (·.tok) = some s.tok) := by
    intro h
    obtain ⟨b, hb, rfl⟩ := Option.map_eq_some_iff.mp h
    exact ⟨winner_within hx hb, beq_iff_eq.mp⟩
  cases draft with
  | none =>
    simp only [select, ite_self] at h
    exact hcoupled h
  | some d =>
    cases hratio : p.ratio with
    | false =>
      simp only [select, hratio] at h
      exact hcoupled h
    | true =>
      simp only [select, hratio, if_true] at h
      split at h
      next c hc =>
        have hd : d.tok ∈ S := by
          split at hc
          · have hmem := hx.cands c (mem_of_mem_samplingList (List.mem_of_find?_eq_some hc))
            have htok := List.find?_some hc
            rwa [beq_iff_eq.mp htok] at hmem
          · obtain ⟨hmem, htok⟩ := hx.draft c hc
            rwa [← Option.some.inj htok] at hmem
        generalize ratioTest _ _ _ _ = passes at h
        cases passes with
        | true => cases h; exact ⟨hd, fun _ => rfl⟩
        | false =>
          cases hb : winner p k x (some d.tok) with
          | some b => rw [hb] at h; cases h; exact ⟨winner_within hx hb, nofun⟩
          | none => rw [hb] at h; cases h; exact ⟨hd, fun _ => rfl⟩
      next =>
        obtain ⟨b, hb, rfl⟩ := Option.map_eq_some_iff.mp h
        exact ⟨winner_within hx hb, nofun⟩

/-! ### The parts of a step's positions -/

theorem Half.beq_east (h : Half) : (h == .east) = !(h == .west) := by cases h <;> rfl

theorem logitsAt_toks (e : Env) (input : List Byte) (ts : List Nat) :
    List.Perm ((logitsAt e input ts).map fun l => l.1) ts := by
  have hrows : ∀ c ts, (rowLogits c input ts).map (fun l => l.1) = ts := by
    intro c ts
    simp only [rowLogits, List.map_map]
    refine (List.map_congr_left fun t _ => ?_).trans (List.map_id ts)
    dsimp only [Function.comp]
    split <;> rfl
  unfold logitsAt
  split
  · simp only [List.map_append, hrows, onRowHalf, Half.beq_east]
    exact List.filter_append_perm _ ts
  · rw [hrows]
  · simp [intakeLogits, Function.comp_def]

theorem valsAt_toks (e : Env) (p : Pos) (input : List Byte) (ts : List Nat) :
    List.Perm ((valsAt e p input ts).map (·.tok)) ts := by
  have h : (valsAt e p input ts).map (·.tok) = (logitsAt e input ts).map fun l => l.1 := by
    simp [valsAt, valOf, Function.comp_def]
  exact h ▸ logitsAt_toks e input ts

/-- Where the halves split the head, the set names each token once, and each fits the four bytes of a record's field (03 R73). -/
def FitsRecords (e : Env) (S : List Nat) : Prop := e.headE.isSome = true → S.Nodup ∧ ∀ t ∈ S, t < 2 ^ 32

/-- The values are of different members of the list `S`, in any order. -/
def ValsFrom (S : List Nat) (vals : List Val) : Prop := ∃ ts, List.Perm (vals.map (·.tok)) ts ∧ List.Sublist ts S

theorem ValsFrom.mem {S : List Nat} {vals : List Val} (h : ValsFrom S vals) {v : Val} (hv : v ∈ vals) : v.tok ∈ S := by
  obtain ⟨ts, hperm, hsublist⟩ := h
  exact hsublist.subset (hperm.subset (List.mem_map_of_mem hv))

theorem ValsFrom.nodup {S : List Nat} {vals : List Val} (h : ValsFrom S vals) (hS : S.Nodup) : (vals.map (·.tok)).Nodup := by
  obtain ⟨ts, hperm, hsublist⟩ := h
  exact hperm.nodup_iff.mpr (hS.sublist hsublist)

theorem enginePart_within {S : List Nat} {e : Env} {vals : List Val} (hS : ValsFrom S vals) (hfits : FitsRecords e S)
    (r : Route) (a : Adm) (zmax : Option U32) (j : Nat) :
    (enginePart e r a zmax j vals).Within S ((draftAt a j).map (·.tok)) := by
  have hmem : ∀ v ∈ vals, v.tok ∈ S := fun v hv => hS.mem hv
  have hhalf : ∀ h, ∀ v ∈ vals.filter (fun v => rowHalf (shardTokens e) v.tok == h), v.tok ∈ S :=
    fun h v hv => hmem v (List.mem_filter.mp hv).1
  unfold enginePart
  split
  case isFalse => exact partOf_within hmem ..
  case isTrue hsplit =>
    obtain ⟨hnodup, hlt⟩ := hfits hsplit
    have hsub : ((vals.filter fun v => rowHalf (shardTokens e) v.tok == r.half.other).map (·.tok)).Nodup :=
      (hS.nodup hnodup).sublist (List.filter_sublist.map _)
    exact combinePart_within _ (partOf_within (hhalf _) ..) (carried_within (hhalf _) hsub hlt ..)

theorem wholePart_alone {b : Binding} (h : memberShards b = []) (e : Env) (r : Route) (a : Adm) (x : Spot) (j : Nat) :
    wholePart e b r a x j = enginePart e r a (zOfStep e b r x j) j x.vals := by
  simp [wholePart, h]

/-! ### The selections of a step -/

/-- A selection of the position's allowed set, that accepts no draft but its own token. -/
def PosSel.Within (S : List Nat) (draft : Option Nat) : PosSel → Prop
  | .empty => True
  | .forced t => t ∈ S
  | .chosen s => s.tok ∈ S ∧ (s.accept = true → draft = some s.tok)

theorem selAt_within {e : Env} {r : Route} {a : Adm} {x : Spot} {whole : Part} {j : Nat}
    (h : whole.Within x.set ((draftAt a j).map (·.tok))) : (selAt e r a x whole j).Within x.set ((draftAt a j).map (·.tok)) := by
  unfold selAt
  split
  case h_1 => trivial
  case h_2 t hset => rw [hset]; exact .head _
  case h_3 =>
    split
    · exact select_within h ‹_›
    · trivial

def draftToks (a : Adm) : List Nat := a.drafts.map fun d => d.tok

/-- The selections that a step of an engine makes, one for each computed position. -/
def selsOf (e : Env) (b : Binding) (r : Route) (a : Adm) : List PosSel :=
  (wholesOf e b r a).zipIdx.map fun x => selAt e r a x.1.1 x.1.2 x.2

theorem formStep_release (e : Env) (b : Binding) (r : Route) (a : Adm) :
    (formStep e r a (wholesOf e b r a)).release = stepRelease e r.limit r.rel (verify (selsOf e b r a) (draftToks a) 0) := rfl

theorem spotsOf_getElem? (e : Env) (r : Route) (a : Adm) (k : Nat) (x : Spot) (h : (spotsOf e r a)[k]? = some x) :
    ∃ q, (positions e r.rel.pos (draftToks a))[k]? = some q ∧ x.set = q.2 ∧ ValsFrom q.2 x.vals := by
  simp only [spotsOf, List.getElem?_map, List.getElem?_zipIdx, Option.map_map, Option.map_eq_some_iff] at h
  obtain ⟨q, hq, rfl⟩ := h
  refine ⟨q, hq, rfl, ?_⟩
  dsimp only [Function.comp]
  split
  · exact ⟨[], List.Perm.nil, List.nil_sublist _⟩
  · exact ⟨_, valsAt_toks .., List.filter_sublist⟩

/-- Selections for the positions of a list of drafts, each within the allowed set of its position. -/
def SelsWithin (e : Env) (p : Pos) (ds : List Nat) (sels : List PosSel) : Prop :=
  ∀ (k : Nat) (s : PosSel), sels[k]? = some s → ∃ q, (positions e p ds)[k]? = some q ∧ s.Within q.2 ds[k]?

/-- Every position's allowed set fits the records of a split head. -/
def SetsFitRecords (e : Env) : Prop := ∀ p, FitsRecords e (allowed e p)

theorem positions_set {e : Env} {p : Pos} {ds : List Nat} {q : Pos × List Nat} (h : q ∈ positions e p ds) : q.2 = allowed e q.1 := by
  induction ds generalizing p with
  | nil => rw [List.mem_singleton.mp h]
  | cons d ds ih =>
    unfold positions at h
    dsimp only at h
    split at h
    · rcases List.mem_cons.mp h with rfl | h
      · rfl
      · exact ih h
    · rw [List.mem_singleton.mp h]

theorem selsOf_within {e : Env} {b : Binding} {r : Route} {a : Adm} (hb : memberShards b = []) (hfits : SetsFitRecords e) :
    SelsWithin e r.rel.pos (draftToks a) (selsOf e b r a) := by
  intro k s h
  simp only [selsOf, wholesOf, List.getElem?_map, List.getElem?_zipIdx, Option.map_map, Option.map_eq_some_iff] at h
  obtain ⟨x, hx, rfl⟩ := h
  obtain ⟨q, hq, hset, hvals⟩ := spotsOf_getElem? e r a k x hx
  refine ⟨q, hq, ?_⟩
  have hS : FitsRecords e q.2 := positions_set (List.mem_of_getElem? hq) ▸ hfits q.1
  rw [draftToks, List.getElem?_map, ← hset]
  dsimp only [Function.comp]
  rw [wholePart_alone hb, Nat.zero_add]
  exact selAt_within (hset ▸ enginePart_within hvals hS r a _ k)

/-! ### Verification -/

/-- Each token is allowed at the position that the tokens before it lead to. -/
def Walks (e : Env) : Pos → List Nat → Prop
  | _, [] => True
  | p, t :: ts => t ∈ allowed e p ∧ Walks e (p.advance e t) ts

theorem walks_left {e : Env} {p : Pos} {ts us : List Nat} (h : Walks e p (ts ++ us)) : Walks e p ts := by
  induction ts generalizing p with
  | nil => trivial
  | cons t ts ih => exact ⟨h.1, ih h.2⟩

/-- What a verdict on drafts at position `p`, numbered from `j`, holds. -/
structure Verdict.Sound (e : Env) (p : Pos) (ds : List Nat) (j : Nat) (v : Verdict) : Prop where
  walks : Walks e p ((v.accepted ++ v.sampled.toList).map (·.tok))
  drafts : v.accepted.map (·.tok) <+: ds
  places : ∀ t ∈ v.accepted ++ v.sampled.toList, ∀ i, t.pos = some i → i ≤ j + v.accepted.length

theorem Verdict.Sound.stop (e : Env) (p : Pos) (ds : List Nat) (j : Nat) : Verdict.Sound e p ds j ⟨[], none⟩ where
  walks := trivial
  drafts := List.nil_prefix
  places := nofun

theorem Verdict.Sound.sample {e : Env} {p : Pos} {t : Nat} (h : t ∈ allowed e p) (ds : List Nat) (j : Nat) (range forced : Bool) :
    Verdict.Sound e p ds j ⟨[], some ⟨t, range, forced, some j⟩⟩ where
  walks := ⟨h, trivial⟩
  drafts := List.nil_prefix
  places k hk i hi := by
    rw [List.mem_singleton.mp hk] at hi
    exact Nat.le_of_eq (Option.some.inj hi).symm

theorem Verdict.Sound.accept {e : Env} {p : Pos} {d : Nat} {ds : List Nat} {j : Nat} {v : Verdict} (h : d ∈ allowed e p)
    (hv : Verdict.Sound e (p.advance e d) ds (j + 1) v) (range forced : Bool) :
    Verdict.Sound e p (d :: ds) j { v with accepted := ⟨d, range, forced, some j⟩ :: v.accepted } where
  walks := ⟨h, hv.walks⟩
  drafts := (List.prefix_cons_inj d).mpr hv.drafts
  places k hk i hi := by
    rcases List.mem_cons.mp hk with rfl | hk
    · cases hi
      exact Nat.le_add_right _ _
    · have := hv.places k hk i hi
      rw [List.length_cons]
      omega

theorem SelsWithin.head {e : Env} {p : Pos} {ds : List Nat} {s : PosSel} {sels : List PosSel}
    (h : SelsWithin e p ds (s :: sels)) : s.Within (allowed e p) ds[0]? := by
  obtain ⟨q, hq, hs⟩ := h 0 s rfl
  suffices q.2 = allowed e p from this ▸ hs
  cases ds with
  | nil => cases hq; rfl
  | cons d ds =>
    unfold positions at hq
    dsimp only at hq
    split at hq <;> cases hq <;> rfl

theorem SelsWithin.tail {e : Env} {p : Pos} {d : Nat} {ds : List Nat} {s : PosSel} {sels : List PosSel}
    (h : SelsWithin e p (d :: ds) (s :: sels)) (hd : d ∈ allowed e p) : SelsWithin e (p.advance e d) ds sels := by
  intro k x hx
  have := h (k + 1) x hx
  simpa [positions, hd] using this

theorem verify_sound {e : Env} {p : Pos} {ds : List Nat} {sels : List PosSel} (h : SelsWithin e p ds sels) (j : Nat) :
    (verify sels ds j).Sound e p ds j := by
  induction sels generalizing p ds j with
  | nil => exact .stop e p ds j
  | cons s sels ih =>
    have hs := h.head
    cases s with
    | empty => exact .stop e p ds j
    | forced t =>
      cases ds with
      | nil => exact .sample hs ..
      | cons d ds =>
        rw [verify]
        split
        case isTrue hd => subst hd; exact .accept hs (ih (h.tail hs) (j + 1)) ..
        case isFalse => exact .sample hs ..
    | chosen s =>
      obtain ⟨hmem, haccept⟩ := hs
      cases ds with
      | nil => exact .sample hmem ..
      | cons d ds =>
        rw [verify]
        split
        case isTrue ha =>
          obtain rfl : d = s.tok := Option.some.inj (haccept ha)
          exact .accept hmem (ih (h.tail hmem) (j + 1)) ..
        case isFalse => exact .sample hmem ..

/-- A walk along drafts does not pass one that its position does not allow. -/
theorem walks_stops {e : Env} {p : Pos} {ds ts : List Nat} {j d : Nat} {q : Pos × List Nat} (hw : Walks e p ts) (hts : ts <+: ds)
    (hd : ds[j]? = some d) (hq : (positions e p ds)[j]? = some q) (hout : d ∉ q.2) : ts.length ≤ j := by
  induction ts generalizing p ds j with
  | nil => exact Nat.zero_le j
  | cons t ts ih =>
    obtain ⟨hmem, hw⟩ := hw
    cases ds with
    | nil => cases hd
    | cons d' ds =>
      obtain ⟨rfl, htail⟩ := List.cons_prefix_cons.mp hts
      have hpos : positions e p (t :: ds) = (p, allowed e p) :: positions e (p.advance e t) ds := by simp [positions, hmem]
      rw [hpos] at hq
      cases j with
      | zero => cases hd; cases hq; exact absurd hmem hout
      | succ j => exact Nat.succ_le_succ (ih hw htail hd hq)

/-- Verification accepts no draft from the first one on that lies outside its position's set (04 R91). -/
theorem Verdict.Sound.accepted_stops {e : Env} {p : Pos} {ds : List Nat} {i j d : Nat} {v : Verdict} {q : Pos × List Nat}
    (hv : v.Sound e p ds i) (hd : ds[j]? = some d) (hq : (positions e p ds)[j]? = some q) (hout : d ∉ q.2) :
    v.accepted.length ≤ j := by
  have hw := hv.walks
  rw [List.map_append] at hw
  simpa using walks_stops (walks_left hw) hv.drafts hd hq hout

/-! ### A release as it grows -/

/-- What a release grown from `r` holds at every stage. -/
structure Grow.Sound (e : Env) (r : Rel) (s : Grow) : Prop where
  allowed : ∀ t ∈ s.taken, t.tk.tok ∈ allowed e t.before.pos
  gen : s.rel.gen = r.gen + s.taken.length

/-- The tokens taken, without the states before them. -/
def Grow.tks (s : Grow) : List Tk := s.taken.map (·.tk)

@[simp] theorem Grow.tks_length (s : Grow) : s.tks.length = s.taken.length := List.length_map ..

@[simp] theorem Grow.take_tks (e : Env) (limit : Nat) (s : Grow) (k : Tk) : (s.take e limit k).tks = s.tks ++ [k] := by
  simp [Grow.take, Grow.tks]

@[simp] theorem Grow.take_pos (e : Env) (limit : Nat) (s : Grow) (k : Tk) :
    (s.take e limit k).rel.pos = s.rel.pos.advance e k.tok := rfl

theorem Grow.Sound.start (e : Env) (r : Rel) : (Grow.start r).Sound e r where
  allowed := nofun
  gen := rfl

theorem Grow.Sound.take {e : Env} {r : Rel} {s : Grow} {k : Tk} (hs : s.Sound e r)
    (hk : k.tok ∈ Sys2Proof.Machine.allowed e s.rel.pos) (limit : Nat) : (s.take e limit k).Sound e r where
  allowed t ht := by
    rcases List.mem_append.mp ht with ht | ht
    · exact hs.allowed t ht
    · rw [List.mem_singleton.mp ht]
      exact hk
  gen := by
    have hgen := hs.gen
    simp only [Grow.take, Rel.printed, List.length_append, List.length_singleton]
    omega

theorem Grow.Sound.takeAll {e : Env} {r : Rel} {s : Grow} {ks : List Tk} (hs : s.Sound e r)
    (hw : Walks e s.rel.pos (ks.map (·.tok))) (limit : Nat) : (s.takeAll e limit ks).Sound e r := by
  induction ks generalizing s with
  | nil => exact hs
  | cons k ks ih =>
    unfold Grow.takeAll
    split
    · exact ih (hs.take hw.1 limit) hw.2
    · exact hs

theorem Grow.takeAll_tks (e : Env) (limit : Nat) (s : Grow) (ks : List Tk) :
    ∃ taken, taken <+: ks ∧ (s.takeAll e limit ks).tks = s.tks ++ taken := by
  induction ks generalizing s with
  | nil => exact ⟨[], List.nil_prefix, (List.append_nil _).symm⟩
  | cons k ks ih =>
    unfold Grow.takeAll
    split
    · obtain ⟨taken, hprefix, htks⟩ := ih (s.take e limit k)
      exact ⟨k :: taken, (List.prefix_cons_inj k).mpr hprefix, by simp [htks]⟩
    · exact ⟨[], List.nil_prefix, (List.append_nil _).symm⟩

/-- A release that no token of a list has ended stands where the rest of the walk goes on. -/
theorem Grow.takeAll_walks {e : Env} {limit : Nat} {s : Grow} {ks : List Tk} {rest : List Nat}
    (hw : Walks e s.rel.pos (ks.map (·.tok) ++ rest)) (hend : (s.takeAll e limit ks).ending = .none) :
    Walks e (s.takeAll e limit ks).rel.pos rest := by
  induction ks generalizing s with
  | nil => exact hw
  | cons k ks ih =>
    unfold Grow.takeAll at hend ⊢
    split at hend
    case isTrue h => rw [if_pos h]; exact ih hw.2 hend
    case isFalse h => exact absurd hend h

theorem Grow.Sound.jump {e : Env} {r : Rel} {s : Grow} (hs : s.Sound e r) (limit fuel : Nat) :
    (Grow.jump e limit fuel s).Sound e r := by
  induction fuel generalizing s with
  | zero => exact hs
  | succ fuel ih =>
    unfold Grow.jump
    split
    · exact hs
    · split
      next t hset => exact ih (hs.take (by rw [hset]; exact .head _) limit)
      next => exact hs

/-- Jump-ahead adds forced tokens, which have no position in the entry, at most one for each unit of fuel (04 R96). -/
theorem Grow.jump_tks (e : Env) (limit fuel : Nat) (s : Grow) :
    ∃ run, (∀ t ∈ run, t.pos = none) ∧ run.length ≤ fuel ∧ (Grow.jump e limit fuel s).tks = s.tks ++ run := by
  induction fuel generalizing s with
  | zero => exact ⟨[], nofun, Nat.le_refl 0, (List.append_nil _).symm⟩
  | succ fuel ih =>
    unfold Grow.jump
    split
    · exact ⟨[], nofun, Nat.zero_le _, (List.append_nil _).symm⟩
    · split
      next t hset =>
        obtain ⟨run, hpos, hlen, htks⟩ := ih (s.take e limit ⟨t, false, true, none⟩)
        exact ⟨⟨t, false, true, none⟩ :: run, List.forall_mem_cons.mpr ⟨rfl, hpos⟩, Nat.succ_le_succ hlen, by simp [htks]⟩
      next => exact ⟨[], nofun, Nat.zero_le _, (List.append_nil _).symm⟩

/-! ### The release of a step -/

/-- What the release `x` of a verdict from `r` holds: its tokens are the accepted drafts that no end cut off, and then, if it has
not stopped at one of them, the sampled token and the forced run. -/
structure Release.Of (e : Env) (r : Rel) (v : Verdict) (x : Release) : Prop where
  sound : x.grow.Sound e r
  tks : ∃ led rest, led <+: v.accepted ∧ x.grow.tks = led ++ rest ∧ led.length = x.nAccepted ∧
    (rest = [] ∧ x.nForced = 0 ∨
      ∃ k run, v.sampled = some k ∧ rest = k :: run ∧ (∀ t ∈ run, t.pos = none) ∧ run.length = x.nForced ∧ x.nForced ≤ 256)

theorem stepRelease_of {e : Env} {r : Rel} {v : Verdict} (hw : Walks e r.pos ((v.accepted ++ v.sampled.toList).map (·.tok)))
    (limit : Nat) : (stepRelease e limit r v).Of e r v := by
  rw [List.map_append] at hw
  obtain ⟨led, hled, htks⟩ := Grow.takeAll_tks e limit (Grow.start r) v.accepted
  have hsound := (Grow.Sound.start e r).takeAll (walks_left hw) limit
  have hrest := Grow.takeAll_walks (limit := limit) (s := Grow.start r) hw
  have hlen : led.length = ((Grow.start r).takeAll e limit v.accepted).taken.length := by rw [← Grow.tks_length, htks]; rfl
  unfold stepRelease
  generalize (Grow.start r).takeAll e limit v.accepted = s1 at *
  dsimp only
  split
  case isTrue => exact ⟨hsound, led, [], hled, by rw [htks, List.append_nil]; rfl, hlen, .inl ⟨rfl, rfl⟩⟩
  case isFalse hend =>
    split
    next => exact ⟨hsound, led, [], hled, by rw [htks, List.append_nil]; rfl, hlen, .inl ⟨rfl, rfl⟩⟩
    next k hk =>
      have hkmem : k.tok ∈ allowed e s1.rel.pos := by
        have := hrest (Decidable.not_not.mp hend)
        rw [hk] at this
        exact this.1
      obtain ⟨run, hpos, hrun, hjump⟩ := Grow.jump_tks e limit 256 (s1.take e limit k)
      have hforced : run.length = (Grow.jump e limit 256 (s1.take e limit k)).taken.length - (s1.take e limit k).taken.length := by
        rw [← Grow.tks_length, ← Grow.tks_length, hjump, List.length_append, Nat.add_sub_cancel_left]
      refine ⟨(hsound.take hkmem limit).jump limit 256, led, k :: run, hled, ?_, hlen, .inr ⟨k, run, hk, rfl, hpos, hforced, ?_⟩⟩
      · rw [hjump, Grow.take_tks, htks, List.append_assoc]; rfl
      · exact hforced ▸ hrun

/-- A token of the release is one of the verdict, or stands in no position of the entry. -/
theorem Release.Of.mem_tks {e : Env} {r : Rel} {v : Verdict} {x : Release} (hx : x.Of e r v) :
    ∀ t ∈ x.grow.tks, t ∈ v.accepted ++ v.sampled.toList ∨ t.pos = none := by
  obtain ⟨-, led, rest, hled, htks, -, hrest⟩ := hx
  intro t ht
  rw [htks] at ht
  rcases List.mem_append.mp ht with ht | ht
  · exact .inl (List.mem_append_left _ (hled.subset ht))
  · rcases hrest with ⟨rfl, -⟩ | ⟨k, run, hk, rfl, hpos, -⟩
    · cases ht
    · rcases List.mem_cons.mp ht with rfl | ht
      · exact .inl (List.mem_append_right _ (by rw [hk]; exact .head _))
      · exact .inr (hpos t ht)

/-- What the obligation says of a release `x` of the step `a`: it holds allowed tokens only, the drafts it accepts lead it, and a
draft outside its position's set is rejected there (04 R91, R92, R96). -/
structure RejectsOutside (e : Env) (r : Route) (a : Adm) (x : Release) : Prop where
  allowed : ∀ t ∈ x.grow.taken, t.tk.tok ∈ allowed e t.before.pos
  count : x.nAccepted ≤ a.drafts.length
  lead : (x.grow.taken.take x.nAccepted).map (fun t => t.tk.tok) = (a.drafts.take x.nAccepted).map (fun d => d.tok)
  rejected : ∀ j d q, a.drafts[j]? = some d → (positions e r.rel.pos (draftToks a))[j]? = some q → d.tok ∉ q.2 →
    x.nAccepted ≤ j ∧ ∀ t ∈ x.grow.taken, ∀ i, t.tk.pos = some i → i ≤ j
  tokens : x.grow.taken.length = x.nAccepted ∨ x.grow.taken.length = x.nAccepted + 1 + x.nForced
  forced : x.nForced ≤ 256
  gen : x.grow.rel.gen = r.rel.gen + x.grow.taken.length

theorem Release.Of.rejectsOutside {e : Env} {r : Route} {a : Adm} {v : Verdict} {x : Release} (hx : x.Of e r.rel v)
    (hv : v.Sound e r.rel.pos (draftToks a) 0) : RejectsOutside e r a x := by
  have hmem := hx.mem_tks
  obtain ⟨hsound, led, rest, hled, htks, hlen, hrest⟩ := hx
  have hdrafts : led.map (·.tok) <+: draftToks a := (hled.map _).trans hv.drafts
  have htaken : x.grow.taken.length = led.length + rest.length := by rw [← Grow.tks_length, htks, List.length_append]
  refine ⟨hsound.allowed, ?_, ?_, fun j d q hd hq hout => ?_, ?_, ?_, hsound.gen⟩
  · have := hdrafts.length_le
    simpa [draftToks, hlen] using this
  · have htake := List.prefix_iff_eq_take.mp hdrafts
    rw [List.length_map, hlen, draftToks, ← List.map_take] at htake
    rw [← htake, ← List.take_left' (l₂ := rest) hlen, ← htks]
    simp [Grow.tks, List.map_take, Function.comp_def]
  · have hstop := hv.accepted_stops (by rw [draftToks, List.getElem?_map, hd]; rfl) hq hout
    refine ⟨hlen ▸ Nat.le_trans hled.length_le hstop, fun t ht i hi => ?_⟩
    rcases hmem t.tk (List.mem_map_of_mem ht) with hmem | hnone
    · have := hv.places t.tk hmem i hi
      omega
    · rw [hnone] at hi
      cases hi
  · rcases hrest with ⟨rfl, -⟩ | ⟨k, run, -, rfl, -, hrun, -⟩
    · exact .inl (by rw [htaken, hlen]; rfl)
    · exact .inr (by rw [htaken, hlen, List.length_cons]; omega)
  · rcases hrest with ⟨-, h⟩ | ⟨k, run, -, -, -, -, h⟩ <;> omega

/-- What the obligation says holds wherever the records of a split head lose no token. -/
theorem formStep_rejectsOutside {e : Env} {b : Binding} (hfits : SetsFitRecords e) (hb : memberShards b = []) (r : Route) (a : Adm) :
    RejectsOutside e r a (formStep e r a (wholesOf e b r a)).release := by
  have hv := verify_sound (selsOf_within hb hfits (r := r) (a := a)) 0
  rw [formStep_release]
  exact (stepRelease_of hv.walks r.limit).rejectsOutside hv

/-! ### Environments whose sets fit the records -/

theorem SSet.inter_sublist (s : SSet) (ts : List Nat) : (s.inter ts).Sublist ts := by
  cases s with
  | allBut removed => exact List.filter_sublist
  | only t =>
    dsimp only [SSet.inter]
    split
    case isTrue h => exact List.singleton_sublist.mpr (List.contains_iff_mem.mp h)
    case isFalse => exact List.nil_sublist ts
  | empty => exact List.nil_sublist ts

theorem allowed_sublist_gSet (e : Env) (p : Pos) : (allowed e p).Sublist (gSet e p.g) := by
  refine (SSet.inter_sublist ..).trans ?_
  unfold keepRows
  split
  · exact List.filter_sublist
  · exact List.Sublist.refl _

theorem setsFitRecords_of_gSet {e : Env} (h : ∀ g, (gSet e g).Nodup ∧ ∀ t ∈ gSet e g, t < 2 ^ 32) : SetsFitRecords e := by
  intro p _
  obtain ⟨hnodup, hlt⟩ := h p.g
  have hsub := allowed_sublist_gSet e p
  exact ⟨hnodup.sublist hsub, fun t ht => hlt t (hsub.subset ht)⟩

/-- A head that one half holds sends no record across the meridian. -/
theorem setsFitRecords_of_whole_head {e : Env} (h : e.headE = none) : SetsFitRecords e := by
  intro p hsplit
  rw [h] at hsplit
  cases hsplit

/-- Without a constraint set, a vocabulary of at most 2^32 tokens is enough; the spec's has at most 2^20 (03 R53). -/
theorem setsFitRecords_of_unconstrained {e : Env} (hcsi : e.csi = none) (hvocab : e.tki.vocab ≤ 2 ^ 32) : SetsFitRecords e := by
  refine setsFitRecords_of_gSet fun g => ?_
  have hrange : gSet e g = List.range e.tki.vocab := by unfold gSet; rw [hcsi]
  rw [hrange]
  exact ⟨List.nodup_range, fun t ht => Nat.lt_of_lt_of_le (List.mem_range.mp ht) hvocab⟩

/-! ### A token that the record cannot carry -/

/-- A split head whose constraint set allows two tokens of 33 bits; the profile is greedy. -/
def wideEnv : Env :=
  { (default : Env) with
    csi := some default, masks := [⟨0, false, [2 ^ 32, 2 ^ 32 + 1], []⟩], head := some [], headE := some [], shards := 1 }

/-- A binding without a shard group. -/
def loneBinding : Binding := { (default : Binding) with shards := 1 }

/-- A route that East serves: the rows of both tokens lie on West, whose record crosses the meridian (03 R57, R58). -/
def eastRoute : Route := { (default : Route) with half := .east }

/-- A step with the one draft 0, which is 2^32 cut to four bytes. -/
def zeroDraft : Adm := { (default : Adm) with drafts := [⟨0, 0⟩] }

def wideRelease : Release :=
  (formStep wideEnv eastRoute zeroDraft (wholesOf wideEnv loneBinding eastRoute zeroDraft)).release

/-- The draft is outside the allowed set of the position it fills. -/
theorem zeroDraft_position :
    (positions wideEnv eastRoute.rel.pos (zeroDraft.drafts.map fun d => d.tok))[0]? =
      some (eastRoute.rel.pos, [2 ^ 32, 2 ^ 32 + 1]) := by
  decide +kernel

/-- The serving half reads token 0 from the record of the other half, and accepts the draft. -/
theorem wideRelease_nAccepted : wideRelease.nAccepted = 1 := by decide +kernel

/-- Refutes O59: on a head that the halves split, the serving half takes the other half's candidate from its summary record, whose
token field has four bytes (03 R73). The statement bounds no token of its environment; where the allowed set is 2^32 and 2^32 + 1,
the record reads token 0, and the draft 0 outside the set is accepted and released. With the premise `SetsFitRecords e` the
statement holds (`formStep_rejectsOutside`). -/
theorem not_draftsOutsideTheSetAreRejected : ¬ Obligations.DraftsOutsideTheSetAreRejected := by
  unfold Obligations.DraftsOutsideTheSetAreRejected
  intro h
  obtain ⟨-, -, -, hrejected, -⟩ := h wideEnv loneBinding eastRoute zeroDraft (by decide) wideRelease rfl
  obtain ⟨hnone, -⟩ := hrejected 0 ⟨0, 0⟩ _ rfl zeroDraft_position (by decide)
  exact absurd hnone (by rw [wideRelease_nAccepted]; decide)

end Sys2Proof.Machine
end

section
/-! The sequence numbers of the mailbox slots: what an answer, a start, a restart of firmware and a fresh island leave in LAST
(11 R243, R259-R261). -/
namespace Sys2Proof.Machine

/-- A table without the entries whose key a test refuses. -/
theorem Tab.get?_filter_key {α : Type} (t : Tab α) (keep : Nat → Bool) (i : Nat) :
    Tab.get? (t.filter fun c => keep c.1) i = if keep i then t.get? i else none := by
  induction t with
  | nil => simp [Tab.get?]
  | cons c t ih =>
    obtain ⟨k, v⟩ := c
    rw [List.filter_cons]
    by_cases hi : k = i
    · subst hi
      by_cases hk : keep k
      · simp [Tab.get?, hk]
      · simp [hk, ih]
    · have skip : ∀ u : Tab α, Tab.get? ((k, v) :: u) i = Tab.get? u i := fun u => if_neg hi
      split
      · rw [skip, skip, ih]
      · rw [skip, ih]

theorem State.lastOf_congr {s t : State} (h : t.mbx.last = s.mbx.last) (n : Nat) : t.lastOf n = s.lastOf n := by
  unfold State.lastOf
  rw [h]

/-! ### Answers -/

@[simp] theorem State.answer_last (s : State) (slot status : Nat) (o : ObjState) (payload : List Byte) (last : Bool) :
    (s.answer slot status o payload last).mbx.last = if last then s.mbx.last.put slot (s.sealSeq slot) else s.mbx.last := by
  simp [State.answer]

/-- A completion sets LAST to its SEQ. -/
theorem State.lastOf_answer_true (s : State) (slot status : Nat) (o : ObjState) (payload : List Byte) (n : Nat) :
    (s.answer slot status o payload true).lastOf n = if n = slot then s.sealSeq n else s.lastOf n := by
  simp only [State.lastOf, State.answer_last, if_true, Tab.get?_put, eq_comm (a := slot)]
  split
  · subst n; rfl
  · rfl

theorem State.lastOf_answer_false (s : State) (slot status : Nat) (o : ObjState) (payload : List Byte) (n : Nat) :
    (s.answer slot status o payload false).lastOf n = s.lastOf n :=
  State.lastOf_congr (by simp) n

/-! ### Requests out of their turn -/

/-- Every row of the catalogue runs its command's body through the mailbox, on its own code and payloads. -/
theorem exec_of_rowOf {c : Instr} {x : Row} (h : rowOf c = some x) (s : State) :
    ∃ body, exec c s = .next (runMailbox x.code x.own body x.slot s) := by
  cases c <;> cases h <;> exact ⟨_, rfl⟩

@[simp] theorem State.sealSeq_notice (s : State) (k n : Nat) : (s.notice k).sealSeq n = s.sealSeq n := by
  simp [State.sealSeq, State.reqNat, State.reqBytes]

@[simp] theorem State.expectedSeq_notice (s : State) (k n : Nat) : (s.notice k).expectedSeq n = s.expectedSeq n := by
  simp [State.expectedSeq, State.lastOf]

@[simp] theorem State.objOf_notice (s : State) (k : Nat) (o : ObjRef) : (s.notice k).objOf o = s.objOf o := by
  cases o <;> simp [State.objOf, State.image, State.binding, State.route, State.notice_obj]

@[simp] theorem State.slotObj_notice (s : State) (k n : Nat) : (s.notice k).slotObj n = s.slotObj n := by
  simp [State.slotObj, State.sealCode, State.reqPayload, State.reqPlen, State.reqNat, State.reqBytes]

/-- An object whose kind and state fit the reply header's bytes (11 R240). -/
abbrev ObjState.Fits (o : ObjState) : Prop := o.kind < 256 ∧ o.state < 256

theorem imgObj_fits (i : Image) : (imgObj i).Fits := by unfold imgObj; cases i.state <;> decide
theorem bndObj_fits (b : Binding) : (bndObj b).Fits := by unfold bndObj; cases b.state <;> decide
theorem routeObj_fits (r : Route) : (routeObj r).Fits := by unfold routeObj; cases r.state <;> decide

theorem getD_map_fits {α : Type} {f : α → ObjState} {d : ObjState} (hf : ∀ a, (f a).Fits) (hd : d.Fits) (x : Option α) :
    ((x.map f).getD d).Fits := by
  cases x with
  | none => exact hd
  | some a => exact hf a

theorem State.objOf_fits (s : State) {o : ObjRef} (h : ∀ x, o = .fixed x → x.Fits) : (s.objOf o).Fits := by
  cases o with
  | engine => exact engineObj_lt s
  | image d => exact getD_map_fits imgObj_fits (by decide) _
  | binding k => exact getD_map_fits bndObj_fits (by decide) _
  | route k => exact getD_map_fits routeObj_fits (by decide) _
  | fixed x => exact h x rfl

theorem cmdObj_fixed {code : Nat} {p : List Byte} {x : ObjState} (h : cmdObj code p = .fixed x) : x = noImg ∨ x = noRoute := by
  unfold cmdObj at h
  (repeat' split at h) <;> cases h
  · exact .inl rfl
  · exact .inr rfl
  · exact .inr rfl

theorem State.slotObj_fits (s : State) (k : Nat) : (s.slotObj k).Fits := by
  refine s.objOf_fits fun x hx => ?_
  rcases cmdObj_fixed hx with rfl | rfl <;> decide

/-- A request out of its turn is answered ST_ARG with the number expected, whatever the command (11 R243). -/
theorem State.consider_outOfTurn {s : State} {k : Nat} (h : s.sealSeq k ≠ s.expectedSeq k)
    (body : Nat → List Byte → State → State) :
    s.consider k body = (s.notice k).answer k stArg (s.slotObj k) (toLe 4 (s.expectedSeq k)) false := by
  simp [State.consider, h]

theorem State.notice_answered {s : State} (slot : Byte) (status : Nat) (o : ObjState) (payload : List Byte) (last : Bool)
    (hw : s.mbx.mem.wf = true) (hs : status < 65536) (ho : o.Fits) (hp : payload.length ≤ 2016) :
    Answered s ((s.notice slot.toNat).answer slot.toNat status o payload last) slot status o payload last :=
  State.answer_answered slot status o payload last (by simpa using hw) (by simp) (by simp) (by simp)
    (State.lastOf_congr (by simp)) (by simp) (by simp) (by simp) hs ho hp

theorem outOfTurn_answersStArg {s : State} {c : Instr} {x : Row} {p : List Byte} (hx : rowOf c = some x)
    (ha : Asked s x.slot x.code p) (hp : x.own p = true) (hseq : s.sealSeq x.slot.toNat ≠ s.expectedSeq x.slot.toNat) :
    Completes c s fun t =>
      Answered s t x.slot stArg (s.slotObj x.slot.toNat) (toLe 4 (s.expectedSeq x.slot.toNat)) false ∧ OnlyReply s t x.slot := by
  obtain ⟨body, he⟩ := exec_of_rowOf hx s
  rw [ha.not_row _ _ hp, State.consider_outOfTurn hseq] at he
  exact ⟨_, he, State.notice_answered _ _ _ _ _ ha.canonical (by decide) (s.slotObj_fits _) (by simp),
    OnlyReply.of_journal (s.notice_only _) (State.answer_only ..)⟩

/-! ### Cold and warm starts -/

/-- A start keeps the LAST of slot 255 alone. -/
theorem State.lastOf_clearMailbox (s : State) (n : Nat) : s.clearMailbox.lastOf n = if n = 255 then s.lastOf n else 0 := by
  have h := Tab.get?_filter_key s.mbx.last (· == 255) n
  simp only [beq_iff_eq] at h
  simp only [State.lastOf, State.clearMailbox, h]
  split <;> rfl

@[simp] theorem State.readBootList_mbx (s : State) : s.readBootList.mbx = s.mbx := by
  unfold State.readBootList
  split
  · exact State.log_mbx ..
  · rfl

theorem State.coldStart_last (s : State) : s.coldStart.mbx.last = s.clearMailbox.mbx.last := by
  simp only [State.coldStart, State.readBootList_mbx, State.onHalf_mbx]
  rfl

@[simp] theorem State.cutFuse_mbx (s : State) : s.cutFuse.mbx = s.mbx := by
  unfold State.cutFuse State.fuseEnds
  split
  · rfl
  · split
    · rfl
    · simp
  · rfl
  · rfl

theorem State.warmStart_last (s : State) : s.warmStart.mbx.last = s.clearMailbox.mbx.last := by
  have hcut : s.cutFuse.clearMailbox.mbx.last = s.clearMailbox.mbx.last := by simp [State.clearMailbox]
  simp only [State.warmStart, State.readBootList_mbx]
  split <;> split <;> exact hcut

theorem State.dropIfFree_mbx (s : State) (d : Digest) : (s.dropIfFree d).mbx = s.mbx := by
  have hd : (s.dropUnnamed d).mbx = s.mbx := by
    unfold State.dropUnnamed
    split <;> rfl
  unfold State.dropIfFree
  dsimp only
  split
  · exact hd
  · split <;> exact hd

theorem State.dropFree_mbx (s : State) (ds : List Digest) : (s.dropFree ds).mbx = s.mbx :=
  List.foldlRecOn ds State.dropIfFree (motive := fun t => t.mbx = s.mbx) rfl fun t h d _ => (t.dropIfFree_mbx d).trans h

theorem State.warmAgain_last (s : State) : s.warmAgain.mbx.last = s.clearMailbox.mbx.last := by
  rw [State.warmAgain, State.dropFree_mbx, State.warmStart_last]

/-- The LAST of slots 0 to 254 is 0, and that of slot 255 stands. -/
theorem State.lastOf_of_cleared {s t : State} (h : t.mbx.last = s.clearMailbox.mbx.last) :
    (∀ n, n < 255 → t.lastOf n = 0) ∧ t.lastOf 255 = s.lastOf 255 := by
  refine ⟨fun n hn => ?_, ?_⟩
  · rw [State.lastOf_congr h, State.lastOf_clearMailbox, if_neg (by omega)]
  · rw [State.lastOf_congr h, State.lastOf_clearMailbox, if_pos rfl]

theorem coreRstNRelease_clearsLasts {s : State} (hc : s.eng.coreRst = true) (hs : s.eng.safeRst = false) :
    Completes .coreRstNRelease s fun t => (∀ n, n < 255 → t.lastOf n = 0) ∧ t.lastOf 255 = s.lastOf 255 := by
  refine ⟨s.coldStart, ?_, State.lastOf_of_cleared s.coldStart_last⟩
  show Host.Outcome.next _ = _
  rw [hc, hs]
  rfl

theorem warmRestart_clearsLasts {s : State} (hd : s.eng.restartDue = true)
    (hcool : ∀ h, (s.hs h).hold = false ∨ (s.hs h).tj.toInt < 100) :
    Completes .warmRestart s fun t => (∀ n, n < 255 → t.lastOf n = 0) ∧ t.lastOf 255 = s.lastOf 255 := by
  have cool : ∀ h, (!(s.hs h).hold || (s.hs h).tj == 0x80#8 || decide ((s.hs h).tj.toInt < 100)) = true := fun h => by
    rcases hcool h with hc | hc <;> simp [hc]
  refine ⟨_, congrArg Host.Outcome.next (if_pos ?_), State.lastOf_of_cleared (State.warmAgain_last _)⟩
  rw [hd, Bool.true_and, Bool.and_eq_true]
  exact ⟨cool .west, cool .east⟩

/-! ### Firmware that stops, boots, and serves slots -/

@[simp] theorem State.undoJob_mbx (s : State) (j : Job) : (s.undoJob j).mbx = s.mbx := by
  unfold State.undoJob
  (repeat' split) <;> rfl

/-- LAST stands, and no command runs that did not run before. -/
structure NoNewJobs (s t : State) : Prop where
  last : t.mbx.last = s.mbx.last
  jobs : ∀ j ∈ t.mbx.jobs, j ∈ s.mbx.jobs

theorem NoNewJobs.refl (s : State) : NoNewJobs s s := ⟨rfl, fun _ h => h⟩

theorem NoNewJobs.trans {s t u : State} (h : NoNewJobs s t) (k : NoNewJobs t u) : NoNewJobs s u :=
  ⟨k.last.trans h.last, fun j hj => h.jobs j (k.jobs j hj)⟩

theorem State.restartJob_noNewJobs (s : State) (j : Job) : NoNewJobs s (s.restartJob j) := by
  refine ⟨by simp [State.restartJob], fun k hk => ?_⟩
  simp only [State.restartJob, State.undoJob_mbx] at hk
  exact (List.mem_filter.mp hk).1

theorem State.restartJobs_noNewJobs (s : State) (h : Half) : NoNewJobs s (s.restartJobs h) :=
  List.foldlRecOn _ State.restartJob (NoNewJobs.refl s) fun t ht j _ => ht.trans (t.restartJob_noNewJobs j)

theorem State.firmwareStops_noNewJobs (s : State) (h : Half) : NoNewJobs s (s.firmwareStops h) := by
  have own : NoNewJobs s (if s.mbx.taken.get h then s else s.restartJobs h) := by
    split
    · exact NoNewJobs.refl s
    · exact s.restartJobs_noNewJobs h
  unfold State.firmwareStops
  dsimp only
  split
  · exact own.trans (State.restartJobs_noNewJobs ..)
  · exact own

theorem State.takeSlots_noNewJobs (s : State) (h : Half) : NoNewJobs s (s.takeSlots h) := by
  unfold State.takeSlots
  split
  · exact NoNewJobs.refl s
  · exact ⟨rfl, fun _ hj => hj⟩

theorem State.slotTakeover_noNewJobs (s : State) (h : Half) : NoNewJobs s (s.slotTakeover h) := by
  unfold State.slotTakeover
  split
  · exact (s.takeSlots_noNewJobs h).trans (State.restartJobs_noNewJobs ..)
  · exact NoNewJobs.refl s

/-- Where no command waits for firmware, firmware that serves slots again changes nothing. -/
theorem State.serveDue_eq_self {s : State} (h : ∀ j ∈ s.mbx.jobs, j.due = false) : s.serveDue = s := by
  refine List.foldlRecOn _ _ (motive := fun t => t = s) rfl fun t ht j hj => ?_
  rw [State.serveJob, h j (List.mem_reverse.mp hj), ht]
  rfl

theorem firmwareFault_keepsLasts (s : State) (h : Half) :
    Completes (.firmwareFault h) s fun t => ∀ n, t.lastOf n = s.lastOf n := by
  refine ⟨_, rfl, fun n => State.lastOf_congr ?_ n⟩
  split
  · exact (s.firmwareStops_noNewJobs h).last
  · rfl

theorem slotTakeover_keepsLasts {s : State} (h : Half) (hdue : ∀ j ∈ s.mbx.jobs, j.due = false) :
    Completes (.slotTakeover h) s fun t => ∀ n, t.lastOf n = s.lastOf n := by
  have quiet := s.slotTakeover_noNewJobs h
  refine ⟨_, rfl, fun n => State.lastOf_congr ?_ n⟩
  rw [State.serveDue_eq_self fun j hj => hdue j (quiet.jobs j hj)]
  exact quiet.last

theorem State.stepEnded_eq_self {s : State} (h : s.mbx.jobs = []) : s.stepEnded = s := by
  have hs : s.suspectsGo = s := by simp [State.suspectsGo, h]
  rw [State.stepEnded, hs]
  simp [State.drainGo, h]

/-- Firmware that boots while no command runs completes none. -/
theorem State.firmwareBooted_mbx {s : State} (h : Half) (hj : s.mbx.jobs = []) : (s.firmwareBooted h).mbx = s.mbx := by
  have idle : ∀ f, (s.onHalf h f).activation h = none := fun f => by simp [State.activation, State.jobOn, hj]
  unfold State.firmwareBooted
  simp only [idle]
  (repeat' split) <;> simp

theorem firmwareBooted_keepsLasts {s : State} (h : Half) (hj : s.mbx.jobs = []) :
    Completes (.firmwareBooted h) s fun t => ∀ n, t.lastOf n = s.lastOf n := by
  have hm := State.firmwareBooted_mbx h hj
  have hjobs : (s.firmwareBooted h).mbx.jobs = [] := by rw [hm, hj]
  refine ⟨_, rfl, State.lastOf_congr ?_⟩
  rw [State.serveDue_eq_self (by simp [hjobs]), State.stepEnded_eq_self hjobs, hm]

/-! ### Islands that come up afresh -/

theorem safelightIslandPowerUp_clearsLast255 {s : State} (h : Half) (hown : (s.hs h).safeUp = false)
    (hother : (s.hs h.other).safeUp = false) (hdue : ∀ j ∈ s.mbx.jobs, j.due = false) :
    Completes (.safelightIslandPowerUp h) s fun t => t.lastOf 255 = 0 ∧ ∀ n, n ≠ 255 → t.lastOf n = s.lastOf n := by
  have fresh : s.islandPowers h = (s.onHalf h HalfSt.islandUp).islandFresh h := by
    simp [State.islandPowers, hown, hother]
  have hserve : (s.islandPowers h).serveDue = s.islandPowers h := by
    refine State.serveDue_eq_self fun j hj => hdue j ?_
    rw [fresh] at hj
    exact (List.mem_filter.mp hj).1
  have hlast : ∀ n, (s.islandPowers h).lastOf n = if 255 = n then 0 else s.lastOf n := fun n => by
    rw [fresh]
    exact State.lastOf_put ..
  refine ⟨_, rfl, ?_⟩
  rw [hserve]
  exact ⟨hlast 255, fun n hn => (hlast n).trans (if_neg hn.symm)⟩

/-- Settles O56: an answer writes its slot's LAST alone; a start filters the table of LAST down to slot 255; and firmware that
stops, boots or takes slots, and an island that comes up, change another slot's LAST only by completing a command, of which none
is due. -/
theorem sequenceNumbers : Obligations.SequenceNumbers := by
  unfold Obligations.SequenceNumbers
  intro s
  refine ⟨fun k status o payload n => ⟨State.lastOf_answer_true .., State.lastOf_answer_false ..⟩, fun k => rfl,
    fun c x p => outOfTurn_answersStArg, ?_, ?_, fun h => firmwareBooted_keepsLasts h,
    fun h => safelightIslandPowerUp_clearsLast255 h⟩
  · rintro c (⟨rfl, hc, hs⟩ | ⟨rfl, hd, hcool⟩)
    · exact coreRstNRelease_clearsLasts hc hs
    · exact warmRestart_clearsLasts hd hcool
  · rintro h c (rfl | ⟨rfl, hdue⟩)
    · exact firmwareFault_keepsLasts s h
    · exact slotTakeover_keepsLasts h hdue

end Sys2Proof.Machine
end

section
/-! The completion flags MBX_DONE_k: what an answer sets, and what a write of 1 clears (19 R446, R451). -/
namespace Sys2Proof.Machine

/-! ### Byte enables, bit by bit -/

/-- The number that fills every byte below `n` that `p` names. -/
def bytesMask (p : Nat → Bool) (n : Nat) : Nat := ((List.range n).map fun i => if p i then 255 * 256 ^ i else 0).sum

theorem bytesMask_succ (p : Nat → Bool) (n : Nat) :
    bytesMask p (n + 1) = 2 ^ (8 * n) * (if p n then 255 else 0) + bytesMask p n := by
  have hpow : 256 ^ n = 2 ^ (8 * n) := by rw [Nat.pow_mul]
  simp only [bytesMask, List.range_succ, List.map_append, List.map_singleton, List.sum_append, List.sum_singleton, hpow]
  split <;> omega

theorem bytesMask_lt (p : Nat → Bool) (n : Nat) : bytesMask p n < 2 ^ (8 * n) := by
  induction n with
  | zero => simp [bytesMask]
  | succ n ih =>
    rw [bytesMask_succ, Nat.mul_succ, Nat.pow_add]
    split <;> omega

theorem bytesMask_testBit (p : Nat → Bool) (n i : Nat) : (bytesMask p n).testBit i = (decide (i < 8 * n) && p (i / 8)) := by
  induction n with
  | zero => simp [bytesMask]
  | succ n ih =>
    rw [bytesMask_succ, Nat.testBit_two_pow_mul_add _ (bytesMask_lt p n), ih]
    by_cases hlow : i < 8 * n
    · simp [hlow, show i < 8 * (n + 1) by omega]
    · rw [if_neg hlow]
      have hfull : Nat.testBit 255 (i - 8 * n) = decide (i - 8 * n < 8) := Nat.testBit_two_pow_sub_one 8 _
      by_cases htop : i < 8 * (n + 1)
      · rw [show i / 8 = n by omega]
        cases p n <;> simp [hfull, htop, show i - 8 * n < 8 by omega]
      · cases p n <;> simp [hfull, htop, show ¬ i - 8 * n < 8 by omega]

theorem beMask_getLsbD (be : Byte) {i : Nat} (hi : i < 64) : (beMask be).getLsbD i = be.getLsbD (i / 8) := by
  rw [show beMask be = BitVec.ofNat 64 (bytesMask be.getLsbD 8) from rfl, BitVec.getLsbD_ofNat, bytesMask_testBit]
  simp [hi]

/-! ### The words of the completion flags -/

theorem doneWord_getLsbD (d : BitVec 256) (k i : Nat) : (doneWord d k).getLsbD i = (decide (i < 64) && d.getLsbD (64 * k + i)) := by
  simp [doneWord]

theorem setDoneWord_getLsbD (d : BitVec 256) {k : Nat} (hk : k < 4) (v : U64) (n : Nat) :
    (setDoneWord d k v).getLsbD n = if 64 * k ≤ n ∧ n < 64 * k + 64 then v.getLsbD (n - 64 * k) else d.getLsbD n := by
  have hones : (0xFFFFFFFFFFFFFFFF#256).getLsbD (n - 64 * k) = decide (n - 64 * k < 64) := by
    rw [BitVec.getLsbD_ofNat, show (0xFFFFFFFFFFFFFFFF : Nat) = 2 ^ 64 - 1 from rfl, Nat.testBit_two_pow_sub_one]
    simp; omega
  simp only [setDoneWord, BitVec.getLsbD_or, BitVec.getLsbD_and, BitVec.getLsbD_not, BitVec.getLsbD_shiftLeft,
    BitVec.getLsbD_setWidth, hones]
  by_cases hword : 64 * k ≤ n ∧ n < 64 * k + 64
  · simp [hword, show n < 256 by omega, show ¬ n < 64 * k by omega, show n - 64 * k < 64 by omega, show n - 64 * k < 256 by omega]
  · rw [if_neg hword]
    by_cases hn : n < 256
    · by_cases hbelow : n < 64 * k
      · simp [hn, hbelow]
      · simp [hn, show ¬ n - 64 * k < 64 by omega, BitVec.getLsbD_of_ge v (n - 64 * k) (by omega)]
    · simp [hn, BitVec.getLsbD_of_ge d n (by omega)]

/-- In the word written, a flag goes where its byte is enabled, its bit is written 1, and it is not being set (19 R451). -/
theorem State.doneClear_getLsbD_word (s : State) {k i : Nat} (be : Byte) (data setting : U64) (hk : k < 4) (hi : i < 64) :
    (s.doneClear k be data setting).mbx.done.getLsbD (64 * k + i) =
      (s.mbx.done.getLsbD (64 * k + i) && !(be.getLsbD (i / 8) && data.getLsbD i && !setting.getLsbD i)) := by
  simp only [State.doneClear, setDoneWord_getLsbD _ hk, show 64 * k ≤ 64 * k + i ∧ 64 * k + i < 64 * k + 64 by omega, and_self,
    if_true, Nat.add_sub_cancel_left, BitVec.getLsbD_and, BitVec.getLsbD_not, doneWord_getLsbD, beMask_getLsbD be hi, hi,
    decide_true, Bool.true_and, Bool.and_comm (data.getLsbD i)]

theorem State.doneClear_getLsbD_other (s : State) {k n : Nat} (be : Byte) (data setting : U64) (hk : k < 4)
    (hn : n < 64 * k ∨ 64 * k + 64 ≤ n) :
    (s.doneClear k be data setting).mbx.done.getLsbD n = s.mbx.done.getLsbD n := by
  simp only [State.doneClear, setDoneWord_getLsbD _ hk]
  exact if_neg (by omega)

theorem exec_mbxDoneClear {s : State} {h : Half} (hup : s.ctlUp h = true) (k : BitVec 2) (be : Byte) (data setting : U64) :
    exec (.mbxDoneClear h k be data setting) s = .next (s.doneClear k.toNat be data setting) :=
  congrArg Host.Outcome.next (if_pos hup)

/-! ### What an answer leaves of its slot's seal and of the flags -/

theorem State.answer_sealOwn (s : State) (slot status : Nat) (o : ObjState) (payload : List Byte) (last : Bool)
    (hw : s.mbx.mem.wf = true) : (s.answer slot status o payload last).sealOwn slot = false := by
  simp only [State.sealOwn, State.reqNat, State.reqBytes, Mem.readN, List.range_one, List.map_cons, List.map_nil, leNat_one,
    Nat.add_zero, State.answer, answer_mem_read _ _ _ _ _ hw, if_true, bitOf, BitVec.testBit_toNat]
  simp

theorem State.answer_done_getLsbD (s : State) {slot : Nat} (hslot : slot < 256) (status : Nat) (o : ObjState)
    (payload : List Byte) (last : Bool) (n : Nat) :
    (s.answer slot status o payload last).mbx.done.getLsbD n = (s.mbx.done.getLsbD n || decide (n = slot)) := by
  simp only [State.answer, State.journal_mbx, BitVec.getLsbD_or, ← BitVec.twoPow_eq, BitVec.getLsbD_twoPow, hslot, decide_true,
    Bool.true_and, eq_comm (a := slot)]

/-- Settles O24: an answer sets one bit of the flags and clears the top bit of its seal; a clear acts on one word of the flags, bit
by bit as the byte enables, the data and the flags being set say. -/
theorem completionFlags : Obligations.CompletionFlags := by
  unfold Obligations.CompletionFlags
  refine ⟨fun s k status o payload last hw =>
    ⟨s.answer_sealOwn _ _ _ _ _ hw, s.answer_done_getLsbD k.isLt _ _ _ _⟩, fun s h k be data setting hup => ?_⟩
  exact ⟨_, exec_mbxDoneClear hup k be data setting, fun i hi => s.doneClear_getLsbD_word be data setting k.isLt hi,
    fun n hn => s.doneClear_getLsbD_other be data setting k.isLt hn, rfl⟩

end Sys2Proof.Machine
end

section
/-! SAFE_TAKEOVER, the appliance's confirmation that the West half cannot serve (19 R454, 13 R315), and the warm restart that it
begins. -/
namespace Sys2Proof.Machine

/-! ### What the steps of a warm start leave alone -/

@[simp] theorem State.log_waiting (s : State) (side sev code arg0 arg1 : Nat) (detail : List Byte) :
    (s.log side sev code arg0 arg1 detail).safe.waiting = s.safe.waiting := by
  unfold State.log
  split <;> rfl

@[simp] theorem State.readBootList_eng (s : State) : s.readBootList.eng = s.eng := by
  unfold State.readBootList
  split
  · exact State.log_eng ..
  · rfl

@[simp] theorem State.readBootList_half (s : State) : s.readBootList.half = s.half := by
  unfold State.readBootList
  split
  · exact State.log_half ..
  · rfl

@[simp] theorem State.readBootList_rt (s : State) : s.readBootList.rt = s.rt := by
  unfold State.readBootList
  split
  · exact State.log_rt ..
  · rfl

@[simp] theorem State.readBootList_waiting (s : State) : s.readBootList.safe.waiting = s.safe.waiting := by
  unfold State.readBootList
  split
  · exact State.log_waiting ..
  · rfl

/-- Whether a half runs, and whether its firmware does. -/
def HalfSt.stands (x : HalfSt) : HCode × FCode := (x.code, x.fw)

/-- A fuse command is cut short in the fuses, the log and a half's repairs alone (17 R430). -/
theorem State.cutFuse_frame (s : State) :
    s.cutFuse.eng = s.eng ∧ s.cutFuse.rt = s.rt ∧ ∀ h, (s.cutFuse.half.get h).stands = (s.half.get h).stands := by
  unfold State.cutFuse State.fuseEnds
  split
  · exact ⟨rfl, rfl, fun h => rfl⟩
  · next g _ _ =>
    split
    · exact ⟨rfl, rfl, fun h => rfl⟩
    · refine ⟨by simp, by simp, fun h => ?_⟩
      rw [State.log_half]
      cases g <;> cases h <;> rfl
  · exact ⟨rfl, rfl, fun h => rfl⟩
  · exact ⟨rfl, rfl, fun h => rfl⟩

/-! ### What a warm start makes of the engine, a half and the routes -/

theorem State.warmStart_eng (s : State) :
    s.warmStart.eng =
      { s.eng with state := .reset, phase := .bootList, warm := true, restartDue := false, recovered := false } := by
  obtain ⟨heng, -, -⟩ := s.cutFuse_frame
  simp only [State.warmStart, State.readBootList_eng, ← heng]
  split <;> split <;> rfl

/-- No route has an admitted step after a warm start (15 R378). -/
theorem State.warmStart_rt (s : State) : s.warmStart.rt = s.rt.mapVals Route.uncommitted := by
  obtain ⟨-, hrt, -⟩ := s.cutFuse_frame
  simp only [State.warmStart, State.readBootList_rt, ← hrt]
  split <;> split <;> rfl

theorem State.warmStart_waiting (s : State) : s.warmStart.safe.waiting = false := by
  simp [State.warmStart]

theorem State.warmStart_taken (s : State) : s.warmStart.mbx.taken = ⟨s.half.w.out, s.half.e.out⟩ := by
  simp [State.warmStart]

/-- A warm start's work on one half, which is out of the engine or not. -/
def State.restartHalf (s : State) (h : Half) (out : Bool) : State := if out then s.keepOut h else s.halfReset h

theorem State.restartHalf_get_same (s : State) (h : Half) (out : Bool) :
    ((s.restartHalf h out).half.get h).stands = if out then (s.half.get h).stands else (.inReset, .booting) := by
  cases out <;> cases h <;> rfl

theorem State.restartHalf_get_other (s : State) {g h : Half} (hne : g ≠ h) (out : Bool) :
    (s.restartHalf g out).half.get h = s.half.get h := by
  have hother : h = g.other := by cases g <;> cases h <;> trivial
  subst hother
  cases out <;> cases g <;> rfl

/-- Where a warm start stands before its work on the halves. -/
def State.warmBegun (s : State) : State := s.cutFuse.clearMailbox.dropUncommitted

theorem State.warmBegun_get (s : State) (h : Half) : (s.warmBegun.half.get h).stands = (s.half.get h).stands := by
  obtain ⟨-, -, hcut⟩ := s.cutFuse_frame
  rw [← hcut h]
  cases h <;> rfl

theorem State.warmStart_halves (s : State) :
    s.warmStart.half = ((s.warmBegun.restartHalf .west s.half.w.out).restartHalf .east s.half.e.out).half := by
  rw [State.warmStart, State.readBootList_half]
  rfl

/-- A half that is out stays as it stands; one that is not boots. -/
theorem State.warmStart_half (s : State) (h : Half) :
    (s.warmStart.half.get h).stands = if (s.half.get h).out then (s.half.get h).stands else (.inReset, .booting) := by
  rw [State.warmStart_halves, ← s.warmBegun_get h]
  cases h with
  | west => rw [State.restartHalf_get_other _ (by decide), State.restartHalf_get_same]; rfl
  | east => rw [State.restartHalf_get_same, State.restartHalf_get_other _ (by decide)]; rfl

/-! ### The confirmation -/

/-- The halves as the confirmation leaves them to the restart: West is held, East is to boot. -/
def State.confirmed (s : State) : State :=
  (s.onHalf .west fun x => x.put .down .stopped).onHalf .east fun x => { x with code := .inReset, hold := false }

/-- The write that R454 admits. -/
def State.confirms (s : State) (q : Path) (be : Byte) (data : U64) : Prop :=
  q = .sideband .east ∧ s.sideUp .east = true ∧ s.safe.waiting = true ∧ be.toNat % 4 = 3 ∧ data.toNat % 2 ^ 16 = 0x0C0F

theorem State.takeoverWrite_of_confirms {s : State} {q : Path} {be : Byte} {data : U64} (h : s.confirms q be data) :
    s.takeoverWrite q be data = s.confirmed.warmStart := by
  obtain ⟨rfl, hup, hwait, hbe, hdata⟩ := h
  refine if_pos ?_
  simpa [hup, hwait, hbe, confirmCode] using hdata

theorem State.takeoverWrite_of_not_confirms {s : State} {q : Path} {be : Byte} {data : U64} (h : ¬ s.confirms q be data) :
    s.takeoverWrite q be data = s := by
  refine if_neg fun hcond => h ?_
  simpa [State.confirms, confirmCode, and_assoc] using hcond

/-- What the confirmation's restart leaves: LIMP on the East half follows from a West half that is out (13 R315). -/
structure TakenOver (s t : State) : Prop where
  state : t.eng.state = .reset
  warm : t.eng.warm = true
  phase : t.eng.phase = .bootList
  west : t.half.w.code = if s.half.w.code = .drained then .drained else .down
  east : t.half.e.code = .inReset
  boots : t.half.e.fw = .booting
  waiting : t.safe.waiting = false
  taken : t.mbx.taken = ⟨true, false⟩
  routes : ∀ r ∈ t.rt.vals, r.adm = none

theorem HalfSt.put_down_code (x : HalfSt) :
    (x.put .down .stopped).code = if x.code = .drained then .drained else .down := by
  cases hx : x.code <;> simp [HalfSt.put, hx]

theorem HalfSt.put_down_out (x : HalfSt) : (x.put .down .stopped).out = true := by
  cases hx : x.code <;> simp [HalfSt.put, HalfSt.out, hx]

theorem Tab.adm_mapVals_uncommitted (t : Tab Route) : ∀ r ∈ (t.mapVals Route.uncommitted).vals, r.adm = none := by
  intro r hr
  simp only [Tab.vals, Tab.mapVals, List.map_map] at hr
  obtain ⟨c, -, rfl⟩ := List.mem_map.mp hr
  rfl

theorem State.confirmed_warmStart_takenOver (s : State) : TakenOver s s.confirmed.warmStart := by
  have hwest : s.confirmed.half.w = s.half.w.put .down .stopped := rfl
  have houtW : s.confirmed.half.w.out = true := by rw [hwest, HalfSt.put_down_out]
  have houtE : s.confirmed.half.e.out = false := rfl
  have hw : s.confirmed.warmStart.half.w.stands = s.confirmed.half.w.stands :=
    (s.confirmed.warmStart_half .west).trans (if_pos houtW)
  have he : s.confirmed.warmStart.half.e.stands = (.inReset, .booting) :=
    (s.confirmed.warmStart_half .east).trans (if_neg (by simp [Halves.get, houtE]))
  exact
    { state := by rw [State.warmStart_eng]
      warm := by rw [State.warmStart_eng]
      phase := by rw [State.warmStart_eng]
      west := (congrArg Prod.fst hw).trans (HalfSt.put_down_code _)
      east := congrArg Prod.fst he
      boots := congrArg Prod.snd he
      waiting := State.warmStart_waiting _
      taken := by rw [State.warmStart_taken, houtW, houtE]
      routes := by rw [State.warmStart_rt]; exact Tab.adm_mapVals_uncommitted _ }

/-! ### The register through the ports -/

/-- No control port takes a write of SAFE_TAKEOVER. -/
theorem State.ctlWrite_takeover (s : State) (h : Half) (be : Byte) (data : U64) : s.ctlWrite h 0x1030 be data true = s := by
  simp [State.ctlWrite, mbxWindow]

/-- A sideband target takes it in whole words. -/
theorem State.sideWrite_takeover (s : State) (h : Half) (data : U64) :
    s.sideWrite h 0x1030 data = s.takeoverWrite (.sideband h) 0xFF data := by
  by_cases hup : s.sideUp h = true
  · simp [State.sideWrite, hup]
  · have hout : ¬ s.confirms (.sideband h) 0xFF data := by
      rintro ⟨hq, hu, -⟩
      cases hq
      exact hup hu
    rw [State.takeoverWrite_of_not_confirms hout]
    simp [State.sideWrite, hup]

theorem exec_registerWrite_takeover_sideband (s : State) (h : Half) (be : Byte) (data : U64) :
    exec (.registerWrite (.sideband h) 0x1030 be data true) s = .next (s.takeoverWrite (.sideband h) 0xFF data) :=
  congrArg Host.Outcome.next (s.sideWrite_takeover h data)

theorem exec_registerWrite_takeover_control (s : State) (h : Half) (be : Byte) (data : U64) :
    exec (.registerWrite (.control h) 0x1030 be data true) s = .next s :=
  congrArg Host.Outcome.next (s.ctlWrite_takeover h be data)

theorem confirms_takesOver {s : State} {q : Path} {be : Byte} {data : U64} (h : s.confirms q be data) {c : Instr}
    (hc : c = .safeTakeoverConfirm q be data ∨ c = .registerWrite q 0x1030 be data true) : Completes c s (TakenOver s) := by
  refine ⟨_, ?_, s.confirmed_warmStart_takenOver⟩
  rcases hc with rfl | rfl
  · exact congrArg Host.Outcome.next (State.takeoverWrite_of_confirms h)
  · obtain ⟨rfl, hup, hwait, -, hdata⟩ := h
    rw [exec_registerWrite_takeover_sideband]
    exact congrArg Host.Outcome.next (State.takeoverWrite_of_confirms ⟨rfl, hup, hwait, rfl, hdata⟩)

theorem safeTakeoverConfirm_ignored {s : State} {q : Path} {be : Byte} {data : U64}
    (h : q ≠ .sideband .east ∨ s.safe.waiting = false ∨ be.toNat % 4 ≠ 3 ∨ data.toNat % 2 ^ 16 ≠ 0x0C0F) :
    exec (.safeTakeoverConfirm q be data) s = .next s := by
  refine congrArg Host.Outcome.next (State.takeoverWrite_of_not_confirms ?_)
  rintro ⟨hq, -, hwait, hbe, hdata⟩
  rcases h with h | h | h | h
  · exact h hq
  · exact absurd hwait (by simp [h])
  · exact h hbe
  · exact h hdata

theorem registerWrite_takeover_ignored {s : State} {q : Path} {be : Byte} {data : U64}
    (h : q ≠ .sideband .east ∨ s.safe.waiting = false ∨ data.toNat % 2 ^ 16 ≠ 0x0C0F) :
    exec (.registerWrite q 0x1030 be data true) s = .next s := by
  cases q with
  | control g => exact exec_registerWrite_takeover_control s g be data
  | sideband g =>
    rw [exec_registerWrite_takeover_sideband]
    exact safeTakeoverConfirm_ignored (h.imp_right (Or.imp_right .inr))

theorem State.mergeLogs_waiting (s : State) : s.mergeLogs.safe.waiting = s.safe.waiting := by
  simp only [State.mergeLogs, apply_ite State.safe, apply_ite SafeSt.waiting, ite_self]

theorem heartbeatResumed_endsWaiting {s : State} (h : s.half.w.safeUp = true) :
    Completes .heartbeatResumed s fun t => t.safe.waiting = false :=
  ⟨_, congrArg Host.Outcome.next (if_pos h), State.mergeLogs_waiting _⟩

theorem State.safeRead_takeover (s : State) (h : Half) (sideband : Bool) {n : Nat} (hn : n < 64) :
    (s.safeRead h sideband 0x1030).getLsbD n = (decide (n = 16) && s.safe.waiting) := by
  have hread : s.safeRead h sideband 0x1030 = BitVec.ofNat 64 (b2n s.safe.waiting * 2 ^ 16) := rfl
  rw [hread, BitVec.getLsbD_ofNat]
  cases s.safe.waiting with
  | false => simp [b2n]
  | true =>
    simp only [b2n, if_true, Nat.one_mul, Nat.testBit_two_pow, hn, decide_true, Bool.true_and, Bool.and_true,
      eq_comm (a := 16)]

/-- Settles O26: the write of SAFE_TAKEOVER acts exactly when it confirms, and then a warm start follows with West out and East to
boot; no other path reaches it. -/
theorem takeoverIsConfirmed : Obligations.TakeoverIsConfirmed := by
  unfold Obligations.TakeoverIsConfirmed
  refine ⟨fun s q be data => ⟨?_, safeTakeoverConfirm_ignored, registerWrite_takeover_ignored, heartbeatResumed_endsWaiting⟩,
    fun s h sideband n hn => s.safeRead_takeover h sideband hn⟩
  intro hq hup hwait hbe hdata c hc
  obtain ⟨t, hexec, ht⟩ := confirms_takesOver ⟨hq, hup, hwait, hbe, hdata⟩ hc
  exact ⟨t, hexec, ht.state, ht.warm, ht.phase, ht.west, ht.east, ht.boots, ht.waiting, ht.taken, ht.routes⟩

end Sys2Proof.Machine
end

section
/-! One step of the whole machine: every command completes and keeps the invariants, and only the causes of 11 R256 take the engine
state back. -/
namespace Sys2Proof.Machine

/-! ### Commands that do not restart the engine -/

/-- The commands through which the engine may go back to RESET or OFF: the reset input, the core rails, a warm restart, the end of a
supply warning, and the register that confirms the takeover (11 R256, 15 R380, 19 R454). -/
def mayRestart : Instr → Bool
  | .registerWrite .. | .safeTakeoverConfirm .. | .coreRstNAssert | .coreRstNRelease | .warmRestart | .coreRailsRemoved
  | .supplyWarnNRelease .. => true
  | _ => false

/-- Every other command completes, keeps the invariants and does not take the engine back. -/
theorem exec_mild {c : Instr} (hc : mayRestart c = false) (s : State) : ∃ t, exec c s = .next t ∧ Mild s t := by
  have m := Mild.refl s
  cases c with
  | engineQuery => exact execEngineQuery_mild _ m
  | engineConfigure => exact execEngineConfigure_mild _ m
  | engineDrain => exact execEngineDrain_mild _ m
  | engineServe => exact execEngineServe_mild _ m
  | engineHalt => exact execEngineHalt_mild _ m
  | engineRestart => exact execEngineRestart_mild _ m
  | imageLoad => exact execImageLoad_mild _ m
  | imageRelease => exact execImageRelease_mild _ m
  | imageQuery => exact execImageQuery_mild _ m
  | imageList => exact execImageList_mild _ m
  | bindingCreate => exact execBindingCreate_mild _ m
  | bindingStart => exact execBindingStart_mild _ m
  | bindingStop => exact execBindingStop_mild _ m
  | bindingSwap => exact execBindingSwap_mild _ m
  | bindingRetire => exact execBindingRetire_mild _ m
  | bindingQuery => exact execBindingQuery_mild _ m
  | routeOpen => exact execRouteOpen_mild _ m
  | routePause => exact execRoutePause_mild _ m
  | routeSave => exact execRouteSave_mild _ m
  | routeResume => exact execRouteResume_mild _ m
  | routeEnd => exact execRouteEnd_mild _ m
  | routeQuery => exact execRouteQuery_mild _ m
  | routeDiscard => exact execRouteDiscard_mild _ m
  | routeExport => exact execRouteExport_mild _ m
  | diagCounters => exact execDiagCounters_mild _ m
  | diagCensus => exact execDiagCensus_mild _ m
  | diagResidency => exact execDiagResidency_mild _ m
  | diagBankRead => exact execDiagBankRead_mild _ m
  | diagBankWrite => exact execDiagBankWrite_mild _ m
  | diagContactRead => exact execDiagContactRead_mild _ m
  | diagJournalExport => exact execDiagJournalExport_mild _ m
  | diagSelftest => exact execDiagSelftest_mild _ m
  | diagSnapshot => exact execDiagSnapshot_mild _ m
  | serviceRescueStatus => exact execServiceRescueStatus_mild _ m
  | serviceLogRead => exact execServiceLogRead_mild _ m
  | serviceJournalFlushStart => exact execServiceJournalFlushStart_mild _ m
  | serviceJournalFlushPoll => exact execServiceJournalFlushPoll_mild _ m
  | serviceQuiesceLanes => exact execServiceQuiesceLanes_mild _ m
  | serviceLevelWithdraw => exact execServiceLevelWithdraw_mild _ m
  | serviceHalfReset => exact execServiceHalfReset_mild _ m
  | serviceFuseStatus => exact execServiceFuseStatus_mild _ m
  | serviceHalfDrain => exact execServiceHalfDrain_mild _ m
  | serviceHalfServe => exact execServiceHalfServe_mild _ m
  | serviceRetireSuspects => exact execServiceRetireSuspects_mild _ m
  | serviceFuseBurn => exact execServiceFuseBurn_mild _ m
  | serviceStackRetire => exact execServiceStackRetire_mild _ m
  | serviceStackRestore => exact execServiceStackRestore_mild _ m
  | serviceChainRetrain => exact execServiceChainRetrain_mild _ m
  | serviceKeyslotProgram => exact execServiceKeyslotProgram_mild _ m
  | serviceKeyslotRevoke => exact execServiceKeyslotRevoke_mild _ m
  | serviceFwStage => exact execServiceFwStage_mild _ m
  | serviceFwActivate => exact execServiceFwActivate_mild _ m
  | serviceLevelRejoin => exact execServiceLevelRejoin_mild _ m
  | serviceFlushTarget => exact execServiceFlushTarget_mild _ m
  | afterDependencyMet => exact execAfterDependencyMet_mild _ m
  | afterWaitExpired => exact execAfterWaitExpired_mild _ m
  | mbxDoneClear => exact execMbxDoneClear_mild _ _ _ _ _ m
  | safeLogLatch => exact execSafeLogLatch_mild _ m
  | peakClr => exact execPeakClr_mild _ _ _ _ _ m
  | sidebandSetOffset => exact execSidebandSetOffset_mild _ _ m
  | hid => exact execHid_mild _ _ _ m
  | lgt => exact execLgt_mild _ _ _ m
  | drf => exact execDrf_mild _ _ _ m
  | pkSummary => exact execPkSummary_mild _ _ _ m
  | pkZmax => exact execPkZmax_mild _ _ _ m
  | pkZret => exact execPkZret_mild _ _ _ m
  | pkCands => exact execPkCands_mild _ _ _ m
  | pkRelease => exact execPkRelease_mild _ _ _ m
  | halfSummary => exact execHalfSummary_mild _ m
  | ack => exact execAck_mild _ _ _ m
  | nak => exact execNak_mild _ _ _ m
  | crd => exact execCrd_mild _ _ _ m
  | hello => exact execHello_mild _ _ _ m
  | replayTimeout => exact execReplayTimeout_mild _ _ m
  | chainReplayTimeout => exact execChainReplayTimeout_mild _ _ m
  | laneDropOut => exact execLaneDropOut_mild _ _ m
  | peerUnreachable => exact execPeerUnreachable_mild _ m
  | maskReady => exact execMaskReady_mild _ m
  | stepChecked => exact execStepChecked_mild _ _ m
  | mirrorRecord => exact execMirrorRecord_mild _ m
  | releaseCommit => exact execReleaseCommit_mild _ m
  | forcedOnlyRelease => exact execForcedOnlyRelease_mild _ m
  | latentSlotTimeout => exact execLatentSlotTimeout_mild _ m
  | latentSlotFreed => exact execLatentSlotFreed_mild _ m
  | admissionRoomFreed => exact execAdmissionRoomFreed_mild _ m
  | maskFetchDone => exact execMaskFetchDone_mild _ _ _ m
  | clearDone => exact execClearDone_mild _ m
  | headFillDone => exact execHeadFillDone_mild _ _ m
  | inText => exact execInText_mild _ _ m
  | inTokens => exact execInTokens_mild _ _ m
  | inEnd => exact execInEnd_mild _ _ m
  | pretokenTokenised => exact execPretokenTokenised_mild _ _ m
  | inBeatParityError => exact execInBeatParityError_mild _ _ m
  | strOutNak => exact execStrOutNak_mild _ _ m
  | halfDownReport => exact execHalfDownReport_mild _ m
  | mainbandLost => exact execMainbandLost_mild m
  | meridianLaneDrop => exact execMeridianLaneDrop_mild _ _ m
  | linkSilent => exact execLinkSilent_mild _ m
  | partnerSilent => exact execPartnerSilent_mild m
  | heartbeatResumed => exact execHeartbeatResumed_mild m
  | safelightHeartbeatMissed => exact execSafelightHeartbeatMissed_mild m
  | slotTakeover => exact execSlotTakeover_mild _ m
  | slotTakeback => exact execSlotTakeback_mild _ m
  | firmwareFault => exact execFirmwareFault_mild _ m
  | fwBootTimeout => exact execFwBootTimeout_mild _ m
  | safeRstNRelease => exact execSafeRstNRelease_mild _ _ _ m
  | firmwareBooted => exact execFirmwareBooted_mild _ m
  | censusDone => exact execCensusDone_mild _ _ m
  | meridianTrained => exact execMeridianTrained_mild _ _ m
  | stacksTrained => exact execStacksTrained_mild _ _ m
  | chainsTrained => exact execChainsTrained_mild m
  | bootSetVerified => exact execBootSetVerified_mild m
  | routeStatesRecovered => exact execRouteStatesRecovered_mild _ m
  | commonCauseFault => exact execCommonCauseFault_mild m
  | railOutOfRange => exact execRailOutOfRange_mild _ _ m
  | vddFuseRemoved => exact execVddFuseRemoved_mild m
  | supplyWarnN => exact execSupplyWarnN_mild m
  | journalFlushDone => exact execJournalFlushDone_mild m
  | lmAnnounce => exact execLmAnnounce_mild _ _ m
  | lmAdmit => exact execLmAdmit_mild _ _ m
  | lmRefuse => exact execLmRefuse_mild _ _ m
  | lmBase => exact execLmBase_mild _ _ m
  | lmEcho => exact execLmEcho_mild _ _ m
  | lmWithdraw => exact execLmWithdraw_mild _ _ m
  | announceTimer => exact execAnnounceTimer_mild m
  | datumCheckDone => exact execDatumCheckDone_mild m
  | formation => exact execFormation_mild m
  | barrierReleaseTimer => exact execBarrierReleaseTimer_mild m
  | levelRelease => exact execLevelRelease_mild m
  | memberSilent => exact execMemberSilent_mild _ m
  | datumAbsent => exact execDatumAbsent_mild m
  | calibrationDone => exact execCalibrationDone_mild _ _ _ m
  | timeFrame => exact execTimeFrame_mild _ _ _ m
  | timeInputTimeout => exact execTimeInputTimeout_mild _ m
  | thermalReading => exact execThermalReading_mild _ _ m
  | finderStopTimeout => exact execFinderStopTimeout_mild _ m
  | refresh => exact execRefresh_mild _ _ m
  | finderScrub => exact execFinderScrub_mild _ _ m
  | suspectExpiry => exact execSuspectExpiry_mild _ _ m
  | stackFault => exact execStackFault_mild _ _ m
  | stackRebuilt => exact execStackRebuilt_mild _ _ m
  | imageFetchDone => exact execImageFetchDone_mild _ m
  | imageVerifyDone => exact execImageVerifyDone_mild _ m
  | fenceAck => exact execFenceAck_mild _ m
  | benchmarkWritten => exact execBenchmarkWritten_mild _ m
  | miResponse => exact execMiResponse_mild _ _ _ _ _ m
  | miTimeout => exact execMiTimeout_mild _ _ m
  | frameDiscarded => exact execFrameDiscarded_mild _ _ _ _ m
  | unlistedCommandCode => exact execUnlistedCommandCode_mild _ m
  | reservedKindRecord => exact execReservedKindRecord_mild _ _ _ m
  | stackClearDone => exact execStackClearDone_mild _ m
  | fuseBurnDone => exact execFuseBurnDone_mild _ m
  | selftestDone => exact execSelftestDone_mild _ _ m
  | safelightIslandPowerUp => exact execSafelightIslandPowerUp_mild _ m
  | registerWrite | safeTakeoverConfirm | coreRstNAssert | coreRstNRelease | warmRestart | coreRailsRemoved | supplyWarnNRelease =>
    cases hc

/-! ### Every command -/

/-- Every command completes and keeps the invariants. -/
theorem exec_keeps (c : Instr) (s : State) : ∃ t, exec c s = .next t ∧ Keeps s t := by
  have k := Keeps.refl s
  by_cases hc : mayRestart c = false
  · obtain ⟨t, ht, hm⟩ := exec_mild hc s
    exact ⟨t, ht, hm.keeps⟩
  · cases c with
    | registerWrite => exact execRegisterWrite_keeps _ _ _ _ _ k
    | safeTakeoverConfirm => exact execSafeTakeoverConfirm_keeps _ _ _ k
    | coreRstNAssert => exact execCoreRstNAssert_keeps k
    | coreRstNRelease => exact execCoreRstNRelease_keeps k
    | warmRestart => exact execWarmRestart_keeps k
    | coreRailsRemoved => exact execCoreRailsRemoved_keeps k
    | supplyWarnNRelease => exact execSupplyWarnNRelease_keeps _ k
    | _ => exact absurd rfl hc

theorem Keeps.of_exec {c : Instr} {s t : State} (h : exec c s = .next t) : Keeps s t := by
  obtain ⟨u, hu, hk⟩ := exec_keeps c s
  rw [h] at hu
  cases hu
  exact hk

/-- A step is its command on the rest of the queue, or the idle tick; both keep the invariants. -/
theorem step_keepsInvariants {s t : State} (h : step s = .next t) :
    (s.mbx.mem.wf = true → t.mbx.mem.wf = true) ∧ (RingsOk s.safe.logs → RingsOk t.safe.logs) ∧
      (KeysInv s.safe → KeysInv t.safe ∧ KeysForward s.safe t.safe) := by
  unfold step at h
  split at h
  · cases h
    have k := (State.tick_calm s s (Calm.refl s)).keeps
    exact ⟨k.mem, k.logs, k.keys⟩
  · have k := Keeps.of_exec h
    exact ⟨k.mem, k.logs, k.keys⟩

/-- Settles O57: the lemmas of each command say that it completes and keeps the queue and the invariants, and a step is one command
or the idle tick. -/
theorem stepsKeepTheInvariants : Obligations.StepsKeepTheInvariants := by
  unfold Obligations.StepsKeepTheInvariants
  refine ⟨fun c s => ?_, fun s t => step_keepsInvariants⟩
  obtain ⟨t, ht, hk⟩ := exec_keeps c s
  exact ⟨t, ht, hk.pending⟩

/-! ### The commands that may restart the engine -/

theorem State.dropIfFree_eng (s : State) (d : Digest) : (s.dropIfFree d).eng = s.eng := by
  have hd : (s.dropUnnamed d).eng = s.eng := by
    unfold State.dropUnnamed
    split <;> rfl
  unfold State.dropIfFree
  dsimp only
  split
  · exact hd
  · split <;> exact hd

theorem State.dropFree_eng (s : State) (ds : List Digest) : (s.dropFree ds).eng = s.eng :=
  List.foldlRecOn ds State.dropIfFree (motive := fun t => t.eng = s.eng) rfl fun t h d _ => (t.dropIfFree_eng d).trans h

theorem State.warmAgain_eng (s : State) :
    s.warmAgain.eng =
      { s.eng with state := .reset, phase := .bootList, warm := true, restartDue := false, recovered := false } := by
  rw [State.warmAgain, State.dropFree_eng, State.warmStart_eng]

/-- The register of the confirmation takes the engine to RESET while the confirmation is awaited, and nowhere else. -/
theorem State.takeoverWrite_onward (s : State) (q : Path) (be : Byte) (data : U64) :
    s.takeoverWrite q be data = s ∨ ((s.takeoverWrite q be data).eng.state = .reset ∧ s.safe.waiting = true) := by
  by_cases h : s.confirms q be data
  · rw [State.takeoverWrite_of_confirms h]
    exact .inr ⟨(State.confirmed_warmStart_takenOver s).state, h.2.2.1⟩
  · exact .inl (State.takeoverWrite_of_not_confirms h)

/-- Of the sideband's registers the confirmation's alone acts on the engine. -/
theorem State.sideWrite_calm {b s : State} {off : Nat} (g : Half) (data : U64) (hoff : off ≠ 0x1030) (h : Calm b s) :
    Calm b (s.sideWrite g off data) := by
  unfold State.sideWrite
  split
  · exact h
  split
  · exact calm_mk h (Nat.le_refl _) rfl rfl rfl rfl rfl
  split
  · exact State.peakWrite_calm _ _ _ _ _ _ h
  split
  · exact State.peakWrite_calm _ _ _ _ _ _ h
  split
  · exact State.logSelWrite_calm _ _ _ _ h
  · exact h

/-- A write through a port takes the engine back by the confirmation's register alone. -/
theorem registerWrite_onward {s t : State} {q : Path} {off : BitVec 24} {be : Byte} {data : U64} {ok : Bool}
    (h : exec (.registerWrite q off be data ok) s = .next t) :
    s.eng.state.rank ≤ t.eng.state.rank ∨ (t.eng.state = .reset ∧ off = 0x1030 ∧ s.safe.waiting = true) := by
  cases q with
  | control g =>
    cases h
    exact .inl (State.ctlWrite_calm s s g off.toNat be data ok (Calm.refl s)).onward
  | sideband g =>
    have ht : s.sideWrite g off.toNat data = t := Host.Outcome.next.inj h
    by_cases hoff : off.toNat = 0x1030
    · rw [hoff, State.sideWrite_takeover] at ht
      rcases s.takeoverWrite_onward (.sideband g) 0xFF data with hs | ⟨hr, hw⟩
      · rw [hs] at ht
        exact .inl (ht ▸ Nat.le_refl _)
      · exact .inr ⟨ht ▸ hr, BitVec.eq_of_toNat_eq hoff, hw⟩
    · exact .inl (ht ▸ (State.sideWrite_calm g data hoff (Calm.refl s)).onward)

theorem coreRstNRelease_onward {s t : State} (h : exec .coreRstNRelease s = .next t) :
    t = s ∨ t.eng.state = .reset := by
  have ht : (if s.eng.coreRst && !s.eng.safeRst then s.coldStart else s) = t := Host.Outcome.next.inj h
  split at ht
  · refine .inr (ht ▸ ?_)
    simp [State.coldStart]
  · exact .inl ht.symm

theorem warmRestart_onward {s t : State} (h : exec .warmRestart s = .next t) : t = s ∨ t.eng.state = .reset := by
  cases h
  dsimp only
  split
  · exact .inr (by rw [State.warmAgain_eng])
  · exact .inl rfl

theorem supplyWarnNRelease_onward {s t : State} {ok : Bool} (h : exec (.supplyWarnNRelease ok) s = .next t) :
    t.eng = s.eng ∨ t.eng.state = .reset := by
  cases h
  dsimp only
  split
  · split
    · exact .inr (by rw [State.warmAgain_eng])
    · exact .inl rfl
  · exact .inl rfl

/-- Settles O58: every command but the seven that may restart the engine is mild, and each of those leaves the engine state or takes
it to RESET or OFF. -/
theorem engineMovesOnward : Obligations.EngineMovesOnward := by
  unfold Obligations.EngineMovesOnward
  intro c s t h
  by_cases hc : mayRestart c = false
  · obtain ⟨u, hu, hm⟩ := exec_mild hc s
    rw [h] at hu
    cases hu
    exact .inl hm.onward
  have rank_of_eng : t.eng = s.eng → s.eng.state.rank ≤ t.eng.state.rank :=
    fun he => Nat.le_of_eq (by rw [he])
  cases c with
  | coreRailsRemoved =>
    cases h
    exact .inr (.inl ⟨rfl, rfl⟩)
  | coreRstNAssert =>
    cases h
    exact .inr (.inr ⟨rfl, .inl rfl⟩)
  | coreRstNRelease =>
    rcases coreRstNRelease_onward h with rfl | hr
    · exact .inl (Nat.le_refl _)
    · exact .inr (.inr ⟨hr, .inr (.inl rfl)⟩)
  | warmRestart =>
    rcases warmRestart_onward h with rfl | hr
    · exact .inl (Nat.le_refl _)
    · exact .inr (.inr ⟨hr, .inr (.inr (.inl rfl))⟩)
  | supplyWarnNRelease ok =>
    rcases supplyWarnNRelease_onward h with he | hr
    · exact .inl (rank_of_eng he)
    · exact .inr (.inr ⟨hr, .inr (.inr (.inr (.inl ⟨ok, rfl⟩)))⟩)
  | safeTakeoverConfirm q be data =>
    have ht : s.takeoverWrite q be data = t := Host.Outcome.next.inj h
    rcases s.takeoverWrite_onward q be data with hs | ⟨hr, hw⟩
    · exact .inl (rank_of_eng (by rw [← ht, hs]))
    · exact .inr (.inr ⟨ht ▸ hr, .inr (.inr (.inr (.inr (.inl ⟨q, be, data, rfl, hw⟩))))⟩)
  | registerWrite q off be data ok =>
    rcases registerWrite_onward h with hr | ⟨hr, rfl, hw⟩
    · exact .inl hr
    · exact .inr (.inr ⟨hr, .inr (.inr (.inr (.inr (.inr ⟨q, be, data, ok, rfl, hw⟩))))⟩)
  | _ => exact absurd rfl hc

/-! ### The queue -/

/-- Settles O53: both clauses are the two cases of the step function. -/
theorem stepRunsTheFront : Obligations.StepRunsTheFront := by
  unfold Obligations.StepRunsTheFront
  intro s c rest
  refine ⟨fun h => ?_, fun h => ⟨?_, (State.tick_calm s s (Calm.refl s)).pending.trans h⟩⟩
  · rw [step, h]
  · rw [step, h]

end Sys2Proof.Machine
end

section
/-! What a granted request of the mailbox does, once for every command: the journal's copies as updates of the state, a reply, a
commit with a reply, output for host memory, and a command that goes on in later rows (11 R245-R254; 12 R264). -/
namespace Sys2Proof.Machine

/-! ### The journal's copies as updates of the state -/

theorem State.journal_eq (s : State) (h : Half) (k i : Nat) (b : List Byte) :
    s.journal h k i b = { s with jr := (s.journal h k i b).jr } := by
  unfold State.journal
  split <;> rfl

theorem State.notice_eq (s : State) (k : Nat) : s.notice k = { s with jr := (s.notice k).jr } := State.journal_eq ..

theorem State.commit_eq (s : State) (k : Nat) :
    s.commit k = { s with jr := (s.commit k).jr, mbx := { s.mbx with jobs := (s.commit k).mbx.jobs } } := by
  unfold State.commit State.journal
  split <;> rfl

/-- A row's command runs on the state of its granted request, which the journal has copied. -/
theorem Granted.exec {s : State} {k : Byte} {code : Nat} {p : List Byte} (h : Granted s k code p) {c : Instr} {sel : List Byte → Bool}
    {body : Nat → List Byte → State → State} (he : exec c s = .next (runMailbox code sel body k s)) (hp : sel p = true) :
    exec c s = .next (body k.toNat p { s with jr := (s.notice k.toNat).jr }) := by
  rw [he, h.run sel body hp, ← State.notice_eq]

/-- No command runs in the slot of a request that is not noticed yet. -/
theorem Granted.jobOf {s : State} {k : Byte} {code : Nat} {p : List Byte} (h : Granted s k code p) : s.jobOf k.toNat = none := by
  have := h.unnoticed
  simp only [State.unnoticed, Bool.and_eq_true, Option.isNone_iff_eq_none] at this
  exact this.1.1.1.2

theorem Granted.served {s : State} {k : Byte} {code : Nat} {p : List Byte} (h : Granted s k code p) :
    (s.slotServer k.toNat).isSome = true := by
  have := h.unnoticed
  simp only [State.unnoticed, Bool.and_eq_true] at this
  exact this.1.2

/-! ### Replies -/

theorem bare_nil (k : Nat) (s t : State) : bare k [] s t = t := rfl

/-- A command of class E that commits and completes answers. -/
theorem Answers.of_commitOk {c : Instr} {s s1 u : State} {k : Byte} {o : ObjState} {p : List Byte} (hw : s.mbx.mem.wf = true)
    (he : Machine.exec c s = .next (u.commitOk k.toNat o p)) (hu : OnlyJournal s1 u) (hb : SameBox s s1) (ht : s1.time = s.time)
    (ho : o.Fits) (hp : p.length ≤ 2016) : Answers c s s1 k stOk o p :=
  Answers.of_reply hw he (hu.trans (u.commit_only _)) hb ht (by decide) ho hp

/-- A granted command whose body is one reply, on any journal, answers and changes nothing else. -/
theorem Granted.answers {s : State} {k : Byte} {code : Nat} {p q : List Byte} (h : Granted s k code p) {c : Instr}
    {sel : List Byte → Bool} {body : Nat → List Byte → State → State} {st : Nat} {o : ObjState}
    (he : Machine.exec c s = .next (runMailbox code sel body k s)) (hp : sel p = true)
    (hb : ∀ j, body k.toNat p { s with jr := j } = ({ s with jr := j } : State).reply k.toNat st o q)
    (hst : st < 65536) (ho : o.Fits) (hq : q.length ≤ 2016) : Answers c s s k st o q :=
  Answers.of_reply (u := { s with jr := (s.notice k.toNat).jr }) h.canonical (by rw [h.exec he hp, hb]) rfl rfl rfl hst ho hq

end Sys2Proof.Machine
end

section
/-! The commands that report the engine (12 R266, R282, R283, R286, R287, R465). -/
namespace Sys2Proof.Machine

variable {s : State} {k : Byte} {p : List Byte}

theorem engineQuery_answers (h : Granted s k cQuery []) :
    Answers (.engineQuery k) s s k stOk (engineObj s) (s.notice k.toNat).queryReply := by
  refine Answers.of_reply (u := s.notice k.toNat) h.canonical ?_ (s.notice_only _) rfl rfl (by decide) (engineObj_lt s)
    (by rw [State.queryReply_length]; decide)
  rw [h.exec rfl rfl, ← State.notice_eq, engQueryBody, bare_nil, State.notice_obj]

@[simp] theorem State.censusBytes_length (s : State) (h : Half) : (s.censusBytes h).length = 32 := by simp [State.censusBytes]

theorem diagCensus_answers (h : Granted s k cCensus []) :
    Answers (.diagCensus k) s s k stOk (engineObj s) (s.censusBytes .west ++ s.censusBytes .east) :=
  h.answers rfl rfl (fun _ => rfl) (by decide) (engineObj_lt s) (by simp)

theorem diagCounters_answers (h : Granted s k cCounters p) (hl : p.length = 8) (hset : u16At p 0 ≤ 6) (hz : zeroAt p 2 6 = true) :
    Answers (.diagCounters k) s s k stOk (engineObj s) ((s.counterSet (u16At p 0)).flatMap (toLe 8)) := by
  refine h.answers rfl rfl (fun j => ?_) (by decide) (engineObj_lt s) ?_
  · rw [countersBody, if_neg (by simp [hl, hz, hset])]
    rfl
  · have := s.counterSet_length (u16At p 0)
    rw [flatMap_length _ _ 8 (toLe_length 8)]
    omega

theorem State.rescueReply_length (s : State) : s.rescueReply.length = 1040 := by
  rw [State.rescueReply, List.length_append, flatMap_length _ _ 4 (fun _ => toLe_length ..)]
  simp

theorem rescueStatus_answers (h : Granted s k cRescue []) :
    Answers (.serviceRescueStatus k) s s k stOk (engineObj s) s.rescueReply :=
  h.answers rfl rfl (fun _ => rfl) (by decide) (engineObj_lt s) (by rw [s.rescueReply_length]; decide)

@[simp] theorem HalfSt.fuseStatus_length (x : HalfSt) : x.fuseStatus.length = 8 := by simp [HalfSt.fuseStatus]

theorem fuseStatus_answers (h : Granted s k cFuseStatus []) :
    Answers (.serviceFuseStatus k) s s k stOk (engineObj s)
      (toLe 1 (b2n s.safe.fuseV) ++ zeros 7 ++ s.half.w.fuseStatus ++ s.half.e.fuseStatus ++
        (List.range 8).flatMap fun n => toLe 1 (s.keyslot n).cls ++ toLe 1 (s.keyslot n).state.code) := by
  refine h.answers rfl rfl (fun _ => rfl) (by decide) (engineObj_lt s) ?_
  rw [List.length_append, flatMap_length _ _ 2 (fun _ => by simp)]
  simp

@[simp] theorem flushReply_length (a b c d : Nat) : (flushReply a b c d).length = 32 := by simp [flushReply]

theorem flushPoll_answers (h : Granted s k cFlush p) (hp : u8At p 0 = 1) (hl : p.length = 40) (hz : zeroAt p 1 39 = true) :
    Answers (.serviceJournalFlushPoll k) s s k stOk (engineObj s)
      (match s.jr.host with
       | some f => flushReply (if s.flushing then 0 else f.bytes) f.first f.records (b2n f.done)
       | none => flushReply 0 0 0 0) := by
  have hf : (s.notice k.toNat).flushing = s.flushing := by simp [State.flushing]
  refine Answers.of_reply (u := s.notice k.toNat) h.canonical ?_ (s.notice_only _) rfl rfl (by decide) (engineObj_lt s) ?_
  · rw [h.exec rfl (by simp [hp]), ← State.notice_eq, flushPollBody, if_neg (by simp [hl, hz]), State.notice_host, State.notice_obj,
      hf] <;> rfl
  · split <;> simp

end Sys2Proof.Machine

open Sys2Proof Sys2Proof.Machine

/-- Settles O1: each command's body is one reply of the state that the request found. -/
theorem engineReports : Obligations.EngineReports := fun _ _ _ =>
  ⟨engineQuery_answers, diagCensus_answers, diagCounters_answers, rescueStatus_answers, fuseStatus_answers, flushPoll_answers⟩

end

section
/-! Output for host memory before a reply (11 R251; 17 R416), and the commands whose entries go there: lists, exports and the queries
of objects (12 R270, R275, R276, R279, R281, R285, R286). -/
namespace Sys2Proof.Machine

/-! ### Completing, and output for host memory -/

theorem State.jobOf_setJob (s : State) (j : Job) : (s.setJob j).jobOf j.slot = some j := by simp [State.setJob, State.jobOf]

/-- The state is another one's but for the journal, and for what keeps the slot's mailbox as it is. -/
structure SameSlot (s s1 : State) (k : Nat) : Prop where
  mbx : s1.mbx = s.mbx
  mi : s1.mi = s.mi
  time : s1.time = s.time
  half : s1.slotHalf k = s.slotHalf k

theorem SameSlot.refl (s : State) (k : Nat) : SameSlot s s k := ⟨rfl, rfl, rfl, rfl⟩

/-- A command that does not run yet completes with its reply, and commits with it when it is of class E (11 R254). -/
theorem State.complete_of_idle {s : State} {k : Nat} (h : s.jobOf k = none) (o : ObjRef) (reply : List Byte) :
    s.complete k o reply = (if classE (s.sealCode k) then s.commit k else s).reply k stOk (s.objOf o) reply := by
  have ho : (s.commit k).objOf o = s.objOf o := by rw [State.commit_eq]; rfl
  have hw : s.awaitServer k stOk o reply = none := by simp [State.awaitServer, h]
  unfold State.complete
  simp only [hw, h, Option.map_none, Option.getD_none, Bool.not_false, Bool.and_true]
  split
  · rw [ho]
  · rfl

theorem Sends.of_writeThen {c : Instr} {s s1 u : State} {k : Byte} (q : List Byte) {data reply : List Byte} {addr : Nat} {o : ObjRef}
    (hw : s.mbx.mem.wf = true) (hj : s.jobOf k.toNat = none) (hs : SameSlot s s1 k.toNat) (hu : u = { s1 with jr := u.jr })
    (he : exec c s = .next (u.writeThen k.toNat q ⟨addr, 0⟩ data o reply)) (ho : (s1.objOf o).Fits)
    (hr : reply.length ≤ 2016) : Sends c s s1 k addr data o reply := by
  obtain ⟨hmbx, hmi, htime, hhalf⟩ := hs
  have humbx : u.mbx = s.mbx := by rw [hu]; exact hmbx
  have hidle : u.jobOf k.toNat = none := by rw [State.jobOf, humbx]; exact hj
  have hobj : u.objOf o = s1.objOf o := by rw [hu]; rfl
  unfold Sends
  split
  · rename_i hd
    rw [State.writeThen, if_pos (by simp [hd]), State.complete_of_idle hidle, hobj] at he
    refine Answers.of_reply hw he ?_ (.of_eq hmbx) htime (by decide) ho hr
    have : OnlyJournal s1 u := by rw [hu]; rfl
    split
    · exact this.trans (u.commit_only _)
    · exact this
  · rename_i hd
    have huh : u.slotHalf k.toNat = s.slotHalf k.toNat := by rw [← hhalf, hu]; rfl
    have hcode : u.sealCode k.toNat = s.sealCode k.toNat := by
      simp only [State.sealCode, State.reqNat, State.reqBytes, humbx]
    have humi : u.mi = s.mi := by rw [hu]; exact hmi
    rw [State.writeThen, if_neg (by simpa using hd)] at he
    refine ⟨_, he, ?_, ⟨_, State.jobOf_setJob .., hcode, rfl, rfl⟩, ?_, ?_⟩
    · rw [← humi, ← huh]; rfl
    · rw [← humbx]; rfl
    · rw [← hmbx, ← hmi, hu]; rfl

/-- A granted command whose body is output and a reply, on any journal, sends it. -/
theorem Granted.sends {s : State} {k : Byte} {code : Nat} {p data reply : List Byte} (h : Granted s k code p) {c : Instr}
    {sel : List Byte → Bool} {body : Nat → List Byte → State → State} {o : ObjRef} {addr : Nat}
    (he : Machine.exec c s = .next (runMailbox code sel body k s)) (hp : sel p = true)
    (hb : ∀ j, body k.toNat p { s with jr := j } =
      ({ s with jr := j } : State).writeThen k.toNat p ⟨addr, 0⟩ data o reply)
    (ho : (s.objOf o).Fits) (hq : reply.length ≤ 2016) : Sends c s s k addr data o reply :=
  Sends.of_writeThen p h.canonical h.jobOf (.refl ..) rfl (by rw [h.exec he hp, hb]) ho hq

/-- A command without output answers. -/
theorem Sends.answers {c : Instr} {s s1 : State} {k : Byte} {addr : Nat} {o : ObjRef} {x : ObjState} {reply : List Byte}
    (hx : s1.objOf o = x) (h : Sends c s s1 k addr [] o reply) : Answers c s s1 k stOk x reply := by
  rw [Sends, if_pos rfl, hx] at h
  exact h

/-! ### Lists and exports -/

variable {s : State} {k : Byte} {p : List Byte}

theorem imageList_sends (h : Granted s k cImgList p) (hl : p.length = 48) (h1 : zeroAt p 1 3 = true) (h8 : zeroAt p 8 8 = true)
    (hd : (descAt p 0x10).okOut = true) (ht : u8At p 0 = 0 ∨ (IType.ofCode (u8At p 0)).isSome) :
    let l := s.img.vals.filter fun i => u8At p 0 == 0 || i.typ.code == u8At p 0
    let c := u32At p 4
    let n := min (l.length - c) ((descAt p 0x10).len / 64)
    Sends (.imageList k) s s k (descAt p 0x10).addr (((l.drop c).take n).flatMap (imgEntry s)) .engine
      (toLe 4 n ++ toLe 4 (if c + n < l.length then c + n else 0)) := by
  refine h.sends rfl rfl (fun j => ?_) (engineObj_lt s) (by simp)
  have hform : u8At p 0 ≠ 0 → (IType.ofCode (u8At p 0)).isSome := fun h0 => ht.resolve_left h0
  rw [imgListBody, if_neg (by simp [hl, h1, h8, hd]; simpa [Option.isSome_iff_ne_none] using hform)]
  rfl

theorem bindingQuery_sends {b : Binding} (h : Granted s k cBndQuery p) (hb : s.binding (u32At p 0) = some b) (hs : b.state = .stopped)
    (hl : p.length = 48) (h4 : u32At p 4 = 1) (hz : zeroAt p 0xC 4 = true) (hd : (descAt p 0x10).okOut = true) :
    let c := u32At p 8
    let n := min ((s.heldRoutes b).length - c) ((descAt p 0x10).len / 16)
    Sends (.bindingQuery k) s s k (descAt p 0x10).addr ((((s.heldRoutes b).drop c).take n).flatMap heldEntry) (.binding b.handle)
      (toLe 4 ((s.routesOf b.handle).filter liveRoute).length ++ toLe 4 (s.heldRoutes b).length ++ toLe 4 n ++
        toLe 4 (if c + n < (s.heldRoutes b).length then c + n else 0) ++
        toLe 1 (if b.set.one then b.set.half.code else 0xFF) ++ toLe 1 b.flags ++ toLe 1 b.shards ++ toLe 1 b.shard ++
        zeros 12 ++ digestBytes b.set.tki ++ digestBytes b.set.hdi ++ digestBytes b.set.csi ++ digestBytes b.set.sli) := by
  have h0 : bitOf (u32At p 4) 0 = true := by rw [h4]; rfl
  have hok : listArgOk p = true := by simp [listArgOk, h4, hd, bitOf]
  refine h.sends rfl rfl (fun j => ?_) (s.objOf_fits nofun) (by simp)
  have hb' : ({ s with jr := j } : State).binding (u32At p 0) = some b := hb
  rw [bndQueryBody, hb']
  simp only [h0, hs, hl, hz, hok, bne_self_eq_false, Bool.and_false, Bool.not_true, Bool.false_eq_true, or_self, if_false, if_true,
    ne_eq, not_true_eq_false, true_and]
  rfl

theorem diagSnapshot_sends (h : Granted s k cSnapshot p) (hl : p.length = 48) (h0 : u8At p 0 ≤ 2) (h1 : zeroAt p 1 3 = true)
    (h8 : zeroAt p 8 8 = true) (hd : (descAt p 0x10).okOut = true) :
    let l := s.snapshot (u8At p 0)
    let c := u32At p 4
    let n := min (l.length - c) ((descAt p 0x10).len / 16)
    Sends (.diagSnapshot k) s s k (descAt p 0x10).addr ((l.drop c).take n).flatten .engine
      (toLe 4 n ++ toLe 4 (if c + n < l.length then c + n else 0)) := by
  refine h.sends rfl rfl (fun j => ?_) (engineObj_lt s) (by simp)
  rw [snapshotBody, if_neg (by simp [hl, h1, h8, hd, h0])]
  rfl

theorem logRead_sends (h : Granted s k cLogRead p) (hl : p.length = 48) (h1 : 1 ≤ u32At p 4) (h2 : u32At p 4 ≤ 256)
    (h8 : zeroAt p 8 8 = true) (hd : (descAt p 0x10).okOut = true) :
    let l := s.logHeld.filter fun e => decide (u32At p 0 ≤ e.number)
    let n := min l.length (min (u32At p 4) ((descAt p 0x10).len / 64))
    Sends (.serviceLogRead k) s s k (descAt p 0x10).addr ((l.take n).flatMap LogEnt.bytes) .engine
      (toLe 4 n ++ toLe 4 (s.logNext (l.drop n))) := by
  refine h.sends rfl rfl (fun j => ?_) (engineObj_lt s) (by simp)
  rw [logReadBody, if_neg (by simp [hl, h8, hd, h2]; omega)]
  rfl

theorem routeExport_sends {e : BenchEnt} (h : Granted s k cExport p) (he : s.benchAt (u32At p 0) = some e) (hl : p.length = 48)
    (hz : zeroAt p 4 12 = true) (hd : (descAt p 0x10).okOut = true) (hlen : e.bytes.length ≤ (descAt p 0x10).len) :
    Sends (.routeExport k) s s k (descAt p 0x10).addr e.bytes .engine (toLe 8 e.bytes.length) := by
  refine h.sends rfl rfl (fun j => ?_) (engineObj_lt s) (by simp)
  have he' : ({ s with jr := j } : State).benchAt (u32At p 0) = some e := he
  rw [exportBody, he']
  dsimp only
  rw [if_neg (by simp [hl, hz, hd, hlen])]
  rfl

theorem contactRead_sends (h : Granted s k cContact p) (hl : p.length = 48) (hz : zeroAt p 0xC 4 = true)
    (hd : (descAt p 0x10).okOut = true) :
    let l := ((s.notice k.toNat).contacts (u32At p 0) (u32At p 4)).take (min (u32At p 8) ((descAt p 0x10).len / 64))
    Sends (.diagContactRead k) s s k (descAt p 0x10).addr l.flatten .engine
      (toLe 4 l.length ++ toLe 4 ((l.head?.map fun b => u32At b 4).getD 0)) := by
  refine Sends.of_writeThen p (u := s.notice k.toNat) h.canonical h.jobOf (.refl ..) (State.notice_eq ..)
    ((h.exec rfl rfl).trans ?_) (engineObj_lt s) (by simp)
  rw [← State.notice_eq, contactBody, if_neg (by simp [hl, hz, hd])]
  rfl

theorem journalExport_sends (h : Granted s k cJExport p) (hl : p.length = 48) (hz : zeroAt p 0xC 4 = true)
    (hd : (descAt p 0x10).okOut = true) :
    let j := (s.notice k.toNat).jr
    let l := exportRecs (u32At p 8) (descAt p 0x10).len (j.from (u64At p 0))
    Sends (.diagJournalExport k) s s k (descAt p 0x10).addr (l.flatMap JRec.bytes) .engine
      (toLe 4 l.length ++ zeros 4 ++
        toLe 8 (((((j.from (u64At p 0)).drop l.length).head?).map fun r => r.number).getD j.next)) := by
  refine Sends.of_writeThen p (u := s.notice k.toNat) h.canonical h.jobOf (.refl ..) (State.notice_eq ..)
    ((h.exec rfl rfl).trans ?_) (engineObj_lt s) (by simp)
  rw [← State.notice_eq, jexportBody, if_neg (by simp [hl, hz, hd])]
  rfl

/-! ### Objects -/

theorem State.binding_handle {s : State} {n : Nat} {b : Binding} (h : s.binding n = some b) : b.handle = n := by
  unfold State.binding at h
  split at h
  · split at h
    · cases h; assumption
    · cases h
  · cases h


theorem imageQuery_answers {i : Image} (h : Granted s k cImgQuery p) (hi : s.image (digestAt p 0) = some i) (hl : p.length = 48) :
    Answers (.imageQuery k) s s k stOk ⟨skImage, i.state.code⟩
      (toLe 1 i.typ.code ++ toLe 1 i.state.code ++ toLe 2 i.vstatus ++ toLe 1 (b2n i.hostRef) ++ toLe 1 (s.fwRefs i.digest) ++
        toLe 1 (s.slotOf i) ++ zeros 1 ++ toLe 4 (s.bindRefs i.digest) ++ toLe 4 (manPublisher i.manifestBytes) ++
        toLe 4 (manVersion i.manifestBytes) ++ zeros 4 ++ toLe 8 i.total ++ digestBytes (manKeyDigest i.manifestBytes)) := by
  refine h.answers rfl rfl (fun j => ?_) (by decide) (imgObj_fits i) (by simp)
  have hi' : ({ s with jr := j } : State).image (digestAt p 0) = some i := hi
  rw [imgQueryBody, hi']
  dsimp only
  rw [if_neg (by simp [hl])]
  rfl

theorem diagResidency_answers {i : Image} (h : Granted s k cResidency p) (hi : s.image (digestAt p 8) = some i) (hl : p.length = 56)
    (hz : zeroAt p 1 7 = true) (hk : i.typ = .hdi ∧ u8At p 0 = 1 ∨ i.typ = .csi ∧ u8At p 0 = 2) :
    let w := s.half.w.residency (i.typ == .hdi) (digestAt p 8)
    let e := s.half.e.residency (i.typ == .hdi) (digestAt p 8)
    Answers (.diagResidency k) s s k stOk ⟨skImage, i.state.code⟩
      (toLe 1 (b2n w.1 + 2 * b2n e.1) ++ toLe 1 (b2n w.2.1 + 2 * b2n e.2.1) ++ zeros 2 ++
        toLe 4 (if i.typ = .hdi then s.pins (digestAt p 8) else 0) ++ toLe 4 w.2.2.1 ++ toLe 8 w.2.2.2 ++ toLe 4 e.2.2.1 ++
        toLe 8 e.2.2.2) := by
  refine h.answers rfl rfl (fun j => ?_) (by decide) (imgObj_fits i) (by simp)
  have hi' : ({ s with jr := j } : State).image (digestAt p 8) = some i := hi
  rw [residencyBody, hi']
  rcases hk with ⟨ht, h0⟩ | ⟨ht, h0⟩ <;>
  · dsimp only
    rw [if_neg (by simp [hl, hz, h0, ht]), ht]
    rfl

theorem bindingQuery_answers {b : Binding} (h : Granted s k cBndQuery p) (hb : s.binding (u32At p 0) = some b) (hl : p.length = 48)
    (h4 : u32At p 4 = 0) (hz : zeroAt p 0xC 4 = true) (hd : zeroAt p 0x10 32 = true) :
    Answers (.bindingQuery k) s s k stOk ⟨skBinding, b.state.code⟩
      (toLe 4 ((s.routesOf b.handle).filter liveRoute).length ++ toLe 4 (s.heldRoutes b).length ++ toLe 4 0 ++ toLe 4 0 ++
        toLe 1 (if b.set.one then b.set.half.code else 0xFF) ++ toLe 1 b.flags ++ toLe 1 b.shards ++ toLe 1 b.shard ++
        zeros 12 ++ digestBytes b.set.tki ++ digestBytes b.set.hdi ++ digestBytes b.set.csi ++ digestBytes b.set.sli) := by
  have h0 : bitOf (u32At p 4) 0 = false := by rw [h4]; rfl
  have hok : listArgOk p = true := by simp [listArgOk, h4, hd, bitOf]
  have hobj : s.objOf (.binding b.handle) = ⟨skBinding, b.state.code⟩ := by
    rw [State.objOf, State.binding_handle hb, hb]
    rfl
  refine Sends.answers hobj (h.sends (addr := (descAt p 0x10).addr) rfl rfl (fun j => ?_) (s.objOf_fits nofun) (by simp))
  have hb' : ({ s with jr := j } : State).binding (u32At p 0) = some b := hb
  rw [bndQueryBody, hb']
  simp only [h0, hl, hz, hok, Bool.false_and, Bool.not_true, Bool.false_eq_true, or_self, if_false, ne_eq, not_true_eq_false,
    false_and]
  rfl

theorem routeQuery_answers {r : Route} (h : Granted s k cRtQuery p) (hr : s.route (u32At p 0) = some r) (hl : p.length = 8)
    (hz : zeroAt p 4 4 = true) :
    Answers (.routeQuery k) s s k stOk ⟨skRoute, r.state.code⟩
      (toLe 4 r.binding ++ toLe 4 r.next ++ toLe 4 r.rel.gen ++ toLe 4 r.promptN ++ toLe 8 r.rel.bytes ++
        toLe 4 (r.bench.getD 0) ++ toLe 4 r.oflags) := by
  refine h.answers rfl rfl (fun j => ?_) (by decide) (routeObj_fits r) (by simp)
  have hr' : ({ s with jr := j } : State).route (u32At p 0) = some r := hr
  rw [rtQueryBody, hr']
  dsimp only
  rw [if_neg (by simp [hl, hz])]
  rfl

end Sys2Proof.Machine

open Sys2Proof Sys2Proof.Machine

/-- Settles O2: each query's body is one reply of the object that the request names. -/
theorem objectReports : Obligations.ObjectReports := fun _ _ _ =>
  ⟨fun _ => imageQuery_answers, fun _ => diagResidency_answers, fun _ => bindingQuery_answers, fun _ => routeQuery_answers⟩

/-- Settles O3: each command's body is one write of what fits its region, and the reply that counts it. -/
theorem listsGoToHostMemory : Obligations.ListsGoToHostMemory := fun _ _ _ =>
  ⟨imageList_sends, fun _ => bindingQuery_sends, diagSnapshot_sends, contactRead_sends, journalExport_sends, logRead_sends,
    fun _ => routeExport_sends⟩

end

section
/-! Commands that read regions of host memory before anything else (11 R247, R251, R252; 12 R269, R273, R280, R284). -/
namespace Sys2Proof.Machine

/-- A job's reads stand behind the accesses that were there, in order. -/
theorem State.foldl_miRead (h : Half) (slot : Nat) (l : List (Region × Nat)) (s : State) :
    ∃ m, l.foldl (fun t g => t.miRead h g.1.addr g.1.len (.job slot g.2)) s = { s with mi := m } ∧
      m.map MiAcc.ask = s.mi.map MiAcc.ask ++ l.map fun g => (h, false, g.1.addr, g.1.len, .job slot g.2) := by
  induction l generalizing s with
  | nil => exact ⟨s.mi, rfl, by simp⟩
  | cons g l ih =>
    obtain ⟨m, he, hm⟩ := ih (s.miRead h g.1.addr g.1.len (.job slot g.2))
    refine ⟨m, he, hm.trans ?_⟩
    simp [State.miRead, State.miStart, MiAcc.ask]

/-- A job that reads regions fetches them. -/
theorem State.readJob_fetches {s u : State} {k : Byte} {p : List Byte} {j : Job} (rs : List Region)
    (hu : u = { s with jr := u.jr, mbx := { s.mbx with jobs := u.mbx.jobs } }) (hs : j.slot = k.toNat)
    (hc : j.code = s.sealCode k.toNat) (hb : j.body = p) (hh : j.half = s.slotHalf k.toNat) :
    Fetches s s (u.readJob j rs) k p rs := by
  unfold State.readJob
  obtain ⟨m, he, hm⟩ := State.foldl_miRead j.half j.slot rs.zipIdx (u.setJob { j with parts := rs.map (fun _ => []), left := rs.length })
  dsimp only at he ⊢
  rw [he]
  refine ⟨?_, ⟨{ j with parts := rs.map (fun _ => []), left := rs.length }, ?_, hc, hb, rfl⟩, ?_, ?_⟩
  · rw [hm, hh, hs, hu]; rfl
  · rw [← hs]; exact State.jobOf_setJob ..
  · rw [hu]; rfl
  · rw [hu]; rfl

variable {s : State} {k : Byte} {p : List Byte}

theorem imageLoad_fetches (h : Granted s k cLoad p) (hl : p.length = 8 + 32 * u8At p 4) (h1 : 1 ≤ u8At p 4) (h64 : u8At p 4 ≤ 64)
    (h0 : u32At p 0 ≤ 1) (hz : zeroAt p 5 3 = true) (hd : (loadDescs p).all Desc.okIn = true) (rs : List Region)
    (hrs : rs = ((loadDescs p).filter fun d => !d.nocrc).map Desc.region) :
    Completes (.imageLoad k) s fun t =>
      Fetches s s t k p (if rs = [] then cutRegions ((loadDescs p).map Desc.region) 0 64 else rs) := by
  have he := h.exec (c := .imageLoad k) rfl rfl
  rw [loadBody, if_neg (by simp [hl, h0, h64, hz, hd]; omega), State.begin, State.jobOf_setJob] at he
  dsimp only at he
  rw [← hrs] at he
  split at he
  · rename_i hnil
    rw [if_pos (List.isEmpty_iff.mp hnil)]
    exact ⟨_, he, State.readJob_fetches _ rfl rfl rfl rfl rfl⟩
  · rename_i hnil
    rw [if_neg (fun e => hnil (List.isEmpty_iff.mpr e))]
    exact ⟨_, he, State.readJob_fetches _ rfl rfl rfl rfl rfl⟩

/-- A creation that passes rows 5 to 8 is not refused. -/
theorem createRefusal_eq_none (hdrain : ¬(s.eng.state = .drain ∧ bitOf (u32At p 4) 0 = true))
    (hfree : s.bnd.get? (u32At p 0 % 65536) = none) (himg : s.imagesFault (createSet s p) = none) (harg : createArgOk s p = true)
    (htyp : s.typesOk (createSet s p) = true) (hrev : s.anyRevoked (createSet s p) = false) : createRefusal s p = none := by
  unfold createRefusal
  rw [if_neg (by simpa using hdrain), hfree, himg, harg, htyp, hrev]
  rfl

theorem bindingCreate_fetches (rs : List Region)
    (hrs : rs = (if u16At p 0xF0 = 0 then [] else [(descAt p 0x120).region]) ++
      (if u8At p 0x110 = 0 then [] else [(descAt p 0x140).region])) (h : Granted s k cCreate p)
    (hdrain : ¬(s.eng.state = .drain ∧ bitOf (u32At p 4) 0 = true)) (hfree : s.bnd.get? (u32At p 0 % 65536) = none)
    (himg : s.imagesFault (createSet s p) = none) (harg : createArgOk s p = true) (htyp : s.typesOk (createSet s p) = true)
    (hrev : s.anyRevoked (createSet s p) = false) (hne : rs ≠ []) :
    Completes (.bindingCreate k) s fun t => Fetches s s t k p rs := by
  have hr : createRefusal { s with jr := (s.notice k.toNat).jr } p = none := createRefusal_eq_none hdrain hfree himg harg htyp hrev
  have he := h.exec (c := .bindingCreate k) rfl rfl
  rw [createBody, hr] at he
  dsimp only at he
  rw [← hrs, if_neg (fun e => hne (List.isEmpty_iff.mp e))] at he
  exact ⟨_, he, State.readJob_fetches _ rfl rfl h.asks.symm rfl rfl⟩

theorem routeResume_fetches {b : Binding} (h : Granted s k cResume p) (hb : s.binding (u32At p 0) = some b) (ha : b.state = .active)
    (hdesc : bitOf (u32At p 4) 1 = true) (hf : resumeFormOk p = true) :
    Completes (.routeResume k) s fun t => Fetches s s t k p [(descAt p 0x20).region] := by
  have hb' : ({ s with jr := (s.notice k.toNat).jr } : State).binding (u32At p 0) = some b := hb
  have he := h.exec (c := .routeResume k) rfl rfl
  rw [resumeBody, hb'] at he
  simp only [hdesc, ha, hf, if_true, ne_eq, not_true_eq_false, if_false, Bool.not_true, Bool.false_eq_true] at he
  exact ⟨_, he, State.readJob_fetches _ rfl rfl h.asks.symm rfl rfl⟩

theorem bankWrite_fetches {c : List Byte} (h : Granted s k cBankWrite p) (hn : bankNamed p = true) (hr : s.bankRegion p = some c)
    (ha : bankArgOk p c.length true = true) :
    Completes (.diagBankWrite k) s fun t => Fetches s s t k p [(descAt p 0x40).region] := by
  have hr' : ({ s with jr := (s.notice k.toNat).jr } : State).bankRegion p = some c := hr
  have he := h.exec (c := .diagBankWrite k) rfl rfl
  rw [bankWriteBody, hr', if_neg (by simp [hn])] at he
  dsimp only at he
  rw [if_neg (by simp [ha])] at he
  exact ⟨_, he, State.readJob_fetches _ rfl rfl h.asks.symm rfl rfl⟩

end Sys2Proof.Machine

open Sys2Proof Sys2Proof.Machine

/-- Settles O4: each command's body, past its checks, is a job that reads its regions. -/
theorem commandsFetchTheirRegions : Obligations.CommandsFetchTheirRegions := fun _ _ _ =>
  ⟨imageLoad_fetches, bindingCreate_fetches, fun _ => routeResume_fetches, fun _ => bankWrite_fetches⟩

end

section
/-! Settings and states of the engine (12 R267, R268, R287, R288; 11 R256; 15 R368). -/
namespace Sys2Proof.Machine

/-! ### Replies before a change of the engine -/

theorem Answered.congr {s t u : State} {k : Byte} {st : Nat} {o : ObjState} {p : List Byte} {l : Bool} (hu : u.mbx = t.mbx)
    (h : Answered s t k st o p l) : Answered s u k st o p l := by
  have e : ∀ off n, u.reqNat k.toNat off n = t.reqNat k.toNat off n := fun off n => by simp only [State.reqNat, State.reqBytes, hu]
  have eb : ∀ off n, u.reqBytes k.toNat off n = t.reqBytes k.toNat off n := fun off n => by simp only [State.reqBytes, hu]
  have el : ∀ n, u.lastOf n = t.lastOf n := fun n => by simp only [State.lastOf, hu]
  exact { seq := e .. ▸ h.seq, code := e .. ▸ h.code, status := e .. ▸ h.status, rlen := e .. ▸ h.rlen, kind := e .. ▸ h.kind
          state := e .. ▸ h.state, time := e .. ▸ h.time, payload := eb .. ▸ h.payload
          own := by rw [← h.own]; simp only [State.sealOwn, e]
          memory := hu ▸ h.memory, flag := hu ▸ h.flag, flags := hu ▸ h.flags, lastOf := el _ ▸ h.lastOf
          lasts := fun n hn => el n ▸ h.lasts n hn, job := by rw [← h.job]; simp only [State.jobOf, hu]
          irqEn := hu ▸ h.irqEn, taken := hu ▸ h.taken, counters := hu ▸ h.counters }

theorem Replied.congr {s t u : State} {k : Byte} {st : Nat} {o : ObjState} {p : List Byte} (h : Replied s t k st o p)
    (hu : u.mbx = t.mbx) : Replied s u k st o p := Answered.congr hu h

theorem OnlyJournal.commit {s u : State} (h : OnlyJournal s u) (k : Nat) : OnlyJournal s (u.commit k) := h.trans (u.commit_only k)

/-- A reply after journal records replies, and changes nothing else. -/
theorem State.reply_replies {s s1 u : State} {k : Byte} {st : Nat} {o : ObjState} {p : List Byte} (hw : s.mbx.mem.wf = true)
    (hu : OnlyJournal s1 u) (hb : SameBox s s1) (ht : s1.time = s.time) (hst : st < 65536) (ho : o.Fits) (hp : p.length ≤ 2016) :
    Replied s (u.reply k.toNat st o p) k st o p ∧ OnlyReply s1 (u.reply k.toNat st o p) k := by
  refine ⟨State.reply_replied k st o p hw ?_ ((congrArg State.time hu).trans ht) hst ho hp, .of_journal hu (State.reply_only ..)⟩
  unfold SameBox at hb ⊢
  rw [← hb, ← hu.box]

theorem OnlyReply.eq {s t : State} {k : Byte} (h : OnlyReply s t k) :
    t = { s with mi := s.mi.filter fun a => a.notOf k.toNat, mbx := t.mbx, jr := t.jr } := by
  have := congrArg (fun x : State => { x with mbx := t.mbx, jr := t.jr }) h
  exact this

theorem OnlyReply.exists_eq {s t : State} {k : Byte} (h : OnlyReply s t k) :
    ∃ m j, t = { s with mi := s.mi.filter fun a => a.notOf k.toNat, mbx := m, jr := j } := ⟨_, _, h.eq⟩

variable {s : State} {k : Byte} {p : List Byte}

/-- A granted command that commits from a state of its own and completes answers. -/
theorem Granted.commits {code : Nat} {q : List Byte} (h : Granted s k code p) {c : Instr} {sel : List Byte → Bool}
    {body : Nat → List Byte → State → State} {o : ObjState} {s1 : State}
    (he : Machine.exec c s = .next (runMailbox code sel body k s)) (hp : sel p = true)
    (hb : ∀ j, body k.toNat p { s with jr := j } = ({ s1 with jr := j } : State).commitOk k.toNat o q)
    (hbox : s1.mbx = s.mbx) (ht : s1.time = s.time) (ho : o.Fits) (hq : q.length ≤ 2016) : Answers c s s1 k stOk o q :=
  Answers.of_commitOk (u := { s1 with jr := (s.notice k.toNat).jr }) h.canonical (by rw [h.exec he hp, hb]) rfl (.of_eq hbox) ht ho hq

/-! ### Settings -/

theorem engineConfigure_answers (h : Granted s k cConfigure p) (hc : configureOk p = true) :
    Answers (.engineConfigure k) s
      { s with eng :=
        { s.eng with strict := if (u32At p 0).testBit 0 then u8At p 4 == 1 else s.eng.strict
                     pcapW := if (u32At p 0).testBit 1 then BitVec.ofNat 16 (u16At p 8) else s.eng.pcapW
                     pcapE := if (u32At p 0).testBit 1 then BitVec.ofNat 16 (u16At p 0xA) else s.eng.pcapE
                     tset := if (u32At p 0).testBit 2 then BitVec.ofNat 8 (u8At p 5) else s.eng.tset } }
      k stOk (engineObj s) [] := by
  refine h.commits rfl rfl (fun j => ?_) rfl rfl (engineObj_lt s) (by simp)
  rw [configureBody, if_pos hc]
  rfl

theorem slice_slice (p : List Byte) {a b m n : Nat} (h : m + n ≤ b) : slice (slice p a b) m n = slice p (a + m) n := by
  simp only [slice, List.drop_take, List.drop_drop, List.take_take]
  rw [Nat.min_eq_left (by omega)]

theorem u64At_slice (p : List Byte) {a b m : Nat} (h : m + 8 ≤ b) : u64At (slice p a b) m = u64At p (a + m) := by
  simp only [u64At, fld, slice_slice p h]

theorem emptyDesc_eq_false {b : List Byte} (h : (descOf b).okOut = true) : emptyDesc b = false := by
  simp only [Desc.okOut, descOf, Bool.and_eq_true, decide_eq_true_eq] at h
  simp only [emptyDesc, Bool.and_eq_false_iff, beq_eq_false_iff_ne]
  exact .inl (by omega)

theorem flushTarget_registers (h : Granted s k cFlushTarget p) (hl : p.length = 40) (hz : zeroAt p 0 8 = true)
    (hd : (descOf (slice p 8 32)).okOut = true) :
    Answers (.serviceFlushTarget k) s { s with safe := { s.safe with target := some ⟨u64At p 8, u64At p 0x10⟩ } } k stOk
      (engineObj s) [] := by
  refine h.commits rfl rfl (fun j => ?_) rfl rfl (engineObj_lt s) (by simp)
  rw [flushTargetBody, if_neg (by simp [hl, hz, hd]), emptyDesc_eq_false hd]
  simp only [Bool.false_eq_true, if_false, descOf, Desc.region, u64At_slice p (a := 8) (m := 0) (show 0 + 8 ≤ 32 by decide),
    u64At_slice p (a := 8) (m := 8) (show 8 + 8 ≤ 32 by decide)]
  rfl

theorem flushTarget_removes (h : Granted s k cFlushTarget p) (hl : p.length = 40) (hz : zeroAt p 0 8 = true)
    (hd : emptyDesc (slice p 8 32) = true) :
    Answers (.serviceFlushTarget k) s { s with safe := { s.safe with target := none } } k stOk (engineObj s) [] := by
  refine h.commits rfl rfl (fun j => ?_) rfl rfl (engineObj_lt s) (by simp)
  rw [flushTargetBody, if_neg (by simp [hl, hz, hd]), hd]
  rfl

theorem fwStage_answers {i : Image} (h : Granted s k cFwStage p) (hl : p.length = 56) (hz : zeroAt p 1 7 = true)
    (hi : s.image (digestAt p 8) = some i) (ht : i.typ = .fwi) (hv : i.state = .verified) :
    Answers (.serviceFwStage k) s { s with eng := { s.eng with staged := some (digestAt p 8) } } k stOk
      ⟨skImage, IState.verified.code⟩ [] := by
  refine h.commits rfl rfl (fun j => ?_) rfl rfl (by decide) (by simp)
  have hi' : ({ s with jr := j } : State).image (digestAt p 8) = some i := hi
  rw [fwStageBody, hi']
  dsimp only
  rw [if_neg (by simp [ht, hv]), if_neg (by simp [hl, hz]), imgObj, hv]

theorem levelRejoin_answers (h : Granted s k cRejoin p) (hl : p.length = 8) (hz : zeroAt p 1 7 = true) (ha : s.level.acts = true) :
    Answers (.serviceLevelRejoin k) s { s with level := { s.level with withdrawn := false, ready := true } } k stOk (engineObj s)
      (toLe 1 0) := by
  refine h.commits rfl rfl (fun j => ?_) rfl rfl (engineObj_lt s) (by simp)
  rw [rejoinBody, if_neg (by simp [hl, hz]), if_pos ha]
  rfl

/-! ### States -/

theorem engineDrain_answers (h : Granted s k cDrain []) :
    Answers (.engineDrain k) s { s with eng := { s.eng with state := .drain } } k stOk ⟨skEngine, 6⟩ [] :=
  h.commits rfl rfl (fun _ => rfl) rfl rfl (by decide) (by simp)

theorem engineServe_answers {e : EState} (h : Granted s k cServe []) (he : s.servingState = e) :
    Answers (.engineServe k) s { s with eng := { s.eng with state := e } } k stOk ⟨skEngine, e.code⟩ [] := by
  refine h.commits rfl rfl (fun j => ?_) rfl rfl (by cases e <;> decide) (by simp)
  have he' : ({ s with jr := j } : State).servingState = e := he
  rw [serveBody, bare_nil, he']
  rfl

theorem State.servingState_of_both (hw : s.half.w.serves = true) (he : s.half.e.serves = true) : s.servingState = .service := by
  simp [State.servingState, State.bothServe, hw, he]

theorem State.servingState_of_one (h : s.half.w.serves = false ∨ s.half.e.serves = false) : s.servingState = .limp := by
  rcases h with h | h <;> simp [State.servingState, State.bothServe, h]

theorem engineRestart_answers (h : Granted s k cRestart []) :
    Answers (.engineRestart k) s { s with eng := { s.eng with restartDue := true } } k stOk (engineObj s) [] := by
  obtain ⟨t, ht, hr, ho⟩ : ∃ t, t = ({ s with jr := (s.notice k.toNat).jr } : State).commitOk k.toNat (engineObj s) [] ∧
      Replied s t k stOk (engineObj s) [] ∧ OnlyReply s t k :=
    ⟨_, rfl, State.reply_replies h.canonical (OnlyJournal.commit (show OnlyJournal s { s with jr := (s.notice k.toNat).jr } from rfl) _)
      rfl rfl (by decide)
      (engineObj_lt s) (by simp)⟩
  have he := h.exec (c := .engineRestart k) rfl rfl
  rw [restartBody, bare_nil] at he
  refine ⟨{ t with eng := { t.eng with restartDue := true } }, by rw [he, ht]; rfl, hr.congr rfl, ?_⟩
  exact congrArg (fun x : State => { x with eng := { x.eng with restartDue := true } }) ho

end Sys2Proof.Machine

open Sys2Proof Sys2Proof.Machine

/-- Settles O6: each command's body is its change of the state, a commit and a reply. -/
theorem settingsTakeEffect : Obligations.SettingsTakeEffect := fun _ _ _ =>
  ⟨engineConfigure_answers, fun h hl hz => ⟨flushTarget_registers h hl hz, flushTarget_removes h hl hz⟩, fun _ => fwStage_answers,
    levelRejoin_answers⟩

/-- Settles O7: the state that serves is decided by the halves that do. -/
theorem engineChangesState : Obligations.EngineChangesState := fun _ _ =>
  ⟨engineDrain_answers, fun h hw he => engineServe_answers h (State.servingState_of_both hw he),
    fun h hs => engineServe_answers h (State.servingState_of_one hs), engineRestart_answers⟩

end

section
/-! HALT: what the engine leaves quiet (12 R268; 11 R256). -/
namespace Sys2Proof.Machine

variable {s : State} {k : Byte} {p : List Byte}

/-! ### Entering HALT -/

theorem Chain.idle_up (c : Chain) : c.idle.up = false := by simp [Chain.idle, Chain.up, Chain.reset]

/-- What the engine is after HALT has made it quiet: `lv` and `ow` are its level and what its lanes owe. -/
def State.quieted (s : State) (ow : List Owed) (lv : LvSt) : State :=
  { s with eng := { s.eng with state := .halt }, owed := ow, level := lv
           lanes := (s.lanes.set .west (List.replicate 16 Lane.reset)).set .east (List.replicate 16 Lane.reset)
           chains := (s.chains.modify .west (·.map Chain.idle)).modify .east (·.map Chain.idle) }

theorem State.quieted_chain_up (s : State) (ow : List Owed) (lv : LvSt) (h : Half) (c : Nat) :
    ((s.quieted ow lv).chain h c).up = false := by
  have e : ∀ l : List Chain, (chainAt (l.map Chain.idle) c).up = false := fun l => by
    rw [chainAt, List.getD_eq_getElem?_getD, List.getElem?_map]
    cases l[c]? with
    | none => rfl
    | some x => exact x.idle_up
  cases h <;> exact e _

theorem State.quieted_lanes (s : State) (ow : List Owed) (lv : LvSt) (h : Half) (l : Lane) (hl : l ∈ (s.quieted ow lv).lanes.get h) :
    l = Lane.reset := by
  cases h <;> exact List.eq_of_mem_replicate hl

theorem State.withdraw_eq (s : State) : ∃ lv, s.withdraw = { s with level := lv } ∧ lv.withdrawn = true ∧ lv.ready = false := by
  unfold State.withdraw
  dsimp only
  split
  · exact ⟨_, rfl, rfl, rfl⟩
  · exact ⟨_, rfl, rfl, rfl⟩

/-- With no command that runs or waits, HALT answers none. -/
theorem State.enterHalt_of_idle (hj : s.mbx.jobs = []) (hw : s.mbx.waits = []) :
    ∃ ow lv, s.enterHalt = s.quieted ow lv ∧ lv.withdrawn = true ∧ lv.ready = false := by
  obtain ⟨lv, he, h1, h2⟩ :=
    ((({ s with eng := { s.eng with state := .halt } } : State).idleLanes .west).idleLanes .east).withdraw_eq
  have hp : ∀ t : State, t.mbx = s.mbx → t.haltPending = t := fun t ht => by simp [State.haltPending, ht, hj, hw]
  exact ⟨_, lv, (congrArg State.haltPending he).trans (hp _ rfl), h1, h2⟩

/-! ### The command -/

@[simp] theorem State.reply_jobs (s : State) (k st : Nat) (o : ObjState) (q : List Byte) :
    (s.reply k st o q).mbx.jobs = s.mbx.jobs.filter fun j => j.slot != k := by
  simp [State.reply, State.answer]

@[simp] theorem State.reply_waits (s : State) (k st : Nat) (o : ObjState) (q : List Byte) :
    (s.reply k st o q).mbx.waits = s.mbx.waits.filter fun w => w.slot != k := by
  simp [State.reply, State.answer]

/-- A commit marks the slot's command, and changes nothing else of those that run. -/
theorem State.mem_commit_jobs {s : State} {k : Nat} {j : Job} (h : j ∈ (s.commit k).mbx.jobs) :
    ∃ i ∈ s.mbx.jobs, ∃ c, j = { i with committed := c } := by
  simp only [State.commit, State.journal_mbx, List.mem_map] at h
  obtain ⟨i, hi, rfl⟩ := h
  refine ⟨i, hi, ?_⟩
  split
  · exact ⟨_, rfl⟩
  · exact ⟨_, rfl⟩

@[simp] theorem State.commit_waits (s : State) (k : Nat) : (s.commit k).mbx.waits = s.mbx.waits := by
  have := congrArg MbxSt.waits (State.commit_box s k)
  exact this

/-- A reply to the one command that runs leaves none. -/
theorem State.reply_idle {u : State} {k st : Nat} {o : ObjState} {q : List Byte} (hj : ∀ j ∈ u.mbx.jobs, j.slot = k)
    (hw : u.mbx.waits = []) : (u.reply k st o q).mbx.jobs = [] ∧ (u.reply k st o q).mbx.waits = [] := by
  refine ⟨?_, by rw [State.reply_waits, hw]; rfl⟩
  rw [State.reply_jobs, List.filter_eq_nil_iff]
  intro j hm
  simp [hj j hm]

/-- A halt that completes: from a state that differs from the request's in the engine, the journal and the marks of commands, whose
commands are the slot's alone. -/
theorem halt_completes {c : Instr} {u : State} {q : List Byte} (hw : s.mbx.mem.wf = true)
    (he : exec c s = .next (u.reply k.toNat stOk ⟨skEngine, 7⟩ q).enterHalt)
    (hu : OnlyJournal { s with eng := { s.eng with state := .halt } } u) (hj : ∀ j ∈ u.mbx.jobs, j.slot = k.toNat)
    (hwt : s.mbx.waits = []) (hq : q.length ≤ 2016) :
    Completes c s fun t =>
      Replied s t k stOk ⟨skEngine, 7⟩ q ∧ t.eng = { s.eng with state := .halt } ∧ (∀ h c, (t.chain h c).up = false) ∧
      (∀ h l, l ∈ t.lanes.get h → l = Lane.reset) ∧ t.level.withdrawn = true ∧ t.level.ready = false ∧
      (t.pending, t.half, t.safe, t.merid, t.img, t.bnd) = (s.pending, s.half, s.safe, s.merid, s.img, s.bnd) ∧
      (t.bench, t.str, t.time, t.free) = (s.bench, s.str, s.time, s.free) := by
  obtain ⟨hr, ho⟩ := State.reply_replies (k := k) (st := stOk) (o := ⟨skEngine, 7⟩) (p := q) hw hu rfl rfl (by decide) (by decide) hq
  have huw : u.mbx.waits = s.mbx.waits := by
    have := congrArg MbxSt.waits hu.box
    exact this
  obtain ⟨hjobs, hwaits⟩ := State.reply_idle (st := stOk) (o := ⟨skEngine, 7⟩) (q := q) hj (huw.trans hwt)
  obtain ⟨ow, lv, hq, h1, h2⟩ := State.enterHalt_of_idle hjobs hwaits
  rw [hq, ho.eq] at he
  exact ⟨_, he, hr.congr rfl, rfl, State.quieted_chain_up _ _ _, State.quieted_lanes _ _ _, h1, h2, rfl, rfl⟩

theorem haltNow_completes (h : Granted s k cHalt p) (hl : p.length = 8) (hz : zeroAt p 4 4 = true) (hj : s.mbx.jobs = [])
    (hw : s.mbx.waits = []) (h0 : u32At p 0 = 0) (hr : s.rt.vals.find? (fun r => r.state == .running) = none) :
    Completes (.engineHalt k) s fun t =>
      Replied s t k stOk ⟨skEngine, 7⟩ (toLe 4 0) ∧ t.eng = { s.eng with state := .halt } ∧ (∀ h c, (t.chain h c).up = false) ∧
      (∀ h l, l ∈ t.lanes.get h → l = Lane.reset) ∧ t.level.withdrawn = true ∧ t.level.ready = false ∧
      (t.pending, t.half, t.safe, t.merid, t.img, t.bnd) = (s.pending, s.half, s.safe, s.merid, s.img, s.bnd) ∧
      (t.bench, t.str, t.time, t.free) = (s.bench, s.str, s.time, s.free) := by
  have he := h.exec (c := .engineHalt k) rfl rfl
  rw [haltBody, show ({ s with jr := (s.notice k.toNat).jr } : State).rt = s.rt from rfl, hr, h0] at he
  dsimp only [Option.filter] at he
  rw [if_neg (by simp [hl, hz]), if_neg (by simp [bitOf])] at he
  have hu : OnlyJournal { s with eng := { s.eng with state := .halt } }
      ((State.withState { s with jr := (s.notice k.toNat).jr } .halt).commit k.toNat) :=
    .commit (show OnlyJournal { s with eng := { s.eng with state := .halt } } (State.withState { s with jr := (s.notice k.toNat).jr } .halt) from rfl) _
  refine halt_completes h.canonical he hu (fun j hm => ?_) hw (by simp)
  obtain ⟨i, hi, -⟩ := State.mem_commit_jobs hm
  exact absurd (show i ∈ s.mbx.jobs from hi) (by simp [hj])

/-! ### SAVE_ALL -/

theorem State.begin_jobs (hj : s.mbx.jobs = []) (slot : Nat) (body : List Byte) (stage : Nat) :
    ∃ j, (s.begin slot body stage).mbx.jobs = [j] ∧ j.slot = slot ∧ j.code = s.sealCode slot :=
  ⟨_, by rw [State.begin, State.setJob, hj]; rfl, rfl, rfl⟩

/-- Every route is SAVED or ENDED, with no mark to write, and no fence goes on. -/
structure AllRest (s : State) : Prop where
  routes : ∀ r ∈ s.rt.vals, (r.state = .ended ∨ r.state = .saved) ∧ r.markDue = false
  fences : ∀ b ∈ s.bnd.vals, b.state ≠ .stopping

theorem Tab.mem_vals_of_get? {α : Type} {t : Tab α} {n : Nat} {v : α} (h : t.get? n = some v) : v ∈ t.vals := by
  induction t with
  | nil => cases h
  | cons c t ih =>
    obtain ⟨m, w⟩ := c
    unfold Tab.get? at h
    split at h
    · cases h; exact List.mem_cons_self
    · exact List.mem_cons_of_mem _ (ih h)

theorem State.route_mem {n : Nat} {r : Route} (h : s.route n = some r) : r ∈ s.rt.vals := by
  unfold State.route at h
  split at h
  · rename_i r' hr
    split at h
    · cases h; exact Tab.mem_vals_of_get? hr
    · cases h
  · cases h

theorem State.binding_mem {n : Nat} {b : Binding} (h : s.binding n = some b) : b ∈ s.bnd.vals := by
  unfold State.binding at h
  split at h
  · rename_i b' hb
    split at h
    · cases h; exact Tab.mem_vals_of_get? hb
    · cases h
  · cases h

theorem State.finishStop_of_notStopping (hb : ∀ b ∈ s.bnd.vals, b.state ≠ .stopping) (n : Nat) : s.finishStop n = s := by
  unfold State.finishStop
  split
  · rfl
  · rename_i b h
    rw [if_neg (by simp [hb b (State.binding_mem h)])]

/-- A route that rests, and that no command waits for, ends the halt and nothing else. -/
theorem State.settle_of_rest (h : AllRest s) (hj : ∀ j ∈ s.mbx.jobs, ∀ n, routeJob n j = false) (n : Nat) :
    s.settle n = s ∨ s.settle n = s.finishHalt := by
  unfold State.settle
  split
  · exact .inl rfl
  · rename_i r hr
    split
    · exact .inl rfl
    · right
      obtain ⟨hstate, hmark⟩ := h.routes r (State.route_mem hr)
      have hjobs : s.mbx.jobs.filter (routeJob n) = [] := by
        rw [List.filter_eq_nil_iff]
        intro j hm
        simp [hj j hm]
      have hm : s.markDue r = s := by simp [State.markDue, hmark]
      rw [hjobs, List.reverse_nil, List.foldl_nil, hm]
      dsimp only
      rw [hr]
      have h1 : (r.state != .ended && r.state != .saved) = false := by rcases hstate with h | h <;> simp [h]
      have h2 : (r.state == .open || r.state == .running) = false := by rcases hstate with h | h <;> simp [h]
      dsimp only
      rw [Bool.and_assoc, h1, h2]
      simp only [Bool.and_false, Bool.false_eq_true, if_false]
      rw [State.finishStop_of_notStopping h.fences]

theorem State.finishHalt_of_none (h : s.mbx.jobs = []) : s.finishHalt = s := by
  unfold State.finishHalt
  rw [h]
  rfl

/-- A halt that finishes leaves no command that runs, when its own was alone. -/
theorem State.finishHalt_eq {j : Job} (hj : s.mbx.jobs = [j]) (hc : j.code = cHalt)
    (hr : ∀ r ∈ s.rt.vals, r.state = .ended ∨ r.state = .saved) :
    s.finishHalt = ((({ s.commit j.slot with eng := { s.eng with state := .halt } } : State).reply j.slot stOk ⟨skEngine, 7⟩
      (toLe 4 (s.rt.vals.filter fun r => r.state == .saved).length)).enterHalt) := by
  have hfind : s.mbx.jobs.find? (fun j => j.code == cHalt) = some j := by simp [hj, hc]
  unfold State.finishHalt
  rw [hfind]
  dsimp only
  rw [if_pos (by simpa using hr), State.commit_eng]
  rfl

/-- Settling routes that rest leaves a halt to be finished, or finishes it. -/
theorem State.foldl_settle_rest (h : AllRest s) (hj : ∀ j ∈ s.mbx.jobs, ∀ n, routeJob n j = false) (h2 : AllRest s.finishHalt)
    (hj2 : s.finishHalt.mbx.jobs = []) (l : List Route) :
    (l.foldl (fun t r => t.settle r.handle) s).finishHalt = s.finishHalt := by
  have hdone : s.finishHalt.finishHalt = s.finishHalt := State.finishHalt_of_none hj2
  suffices key : ∀ t, t = s ∨ t = s.finishHalt → (l.foldl (fun t r => t.settle r.handle) t).finishHalt = s.finishHalt from
    key s (.inl rfl)
  induction l with
  | nil =>
    rintro t (rfl | rfl)
    · rfl
    · exact hdone
  | cons r l ih =>
    rintro t (rfl | rfl)
    · exact ih _ (State.settle_of_rest h hj _)
    · refine ih _ (.inr ?_)
      rcases State.settle_of_rest h2 (by simp [hj2]) r.handle with e | e
      · exact e
      · exact e.trans hdone

theorem haltSaving_completes (h : Granted s k cHalt p) (hl : p.length = 8) (hz : zeroAt p 4 4 = true) (hj : s.mbx.jobs = [])
    (hw : s.mbx.waits = []) (h1 : u32At p 0 = 1) (hb : s.bnd.vals.all (fun b => b.state != .stopping) = true)
    (hr : s.rt.vals.all (fun r => (r.state == .ended || r.state == .saved) && !r.markDue) = true) :
    Completes (.engineHalt k) s fun t =>
      Replied s t k stOk ⟨skEngine, 7⟩ (toLe 4 (s.rt.vals.filter fun r => r.state == .saved).length) ∧
      t.eng = { s.eng with state := .halt } ∧ (∀ h c, (t.chain h c).up = false) ∧ t.level.withdrawn = true ∧ t.level.ready = false := by
  have hrest : ∀ u : State, u.rt = s.rt → u.bnd = s.bnd → AllRest u := fun u h1 h2 =>
    ⟨fun r hm => by
      rw [h1] at hm
      have := List.all_eq_true.mp hr r hm
      simp at this
      exact this, fun b hm => by
      rw [h2] at hm
      have := List.all_eq_true.mp hb b hm
      simpa using this⟩
  obtain ⟨u, hu⟩ : ∃ u, u = ({ s with jr := (s.notice k.toNat).jr } : State).begin k.toNat p 0 := ⟨_, rfl⟩
  obtain ⟨j, hujobs, hslot, hcode⟩ : ∃ j, u.mbx.jobs = [j] ∧ j.slot = k.toNat ∧ j.code = cHalt := by
    obtain ⟨j, hjobs, hslot, hcode⟩ := State.begin_jobs (s := { s with jr := (s.notice k.toNat).jr }) hj k.toNat p 0
    exact ⟨j, hu ▸ hjobs, hslot, hcode.trans h.asks⟩
  have hroutes : ∀ r ∈ u.rt.vals, r.state = .ended ∨ r.state = .saved := by
    have := hrest u (by rw [hu]; rfl) (by rw [hu]; rfl)
    exact fun r hm => (this.routes r hm).1
  have hfin := State.finishHalt_eq hujobs hcode hroutes
  have hnoroute : ∀ i ∈ u.mbx.jobs, ∀ n, routeJob n i = false := by
    rw [hujobs]
    intro i hi n
    rw [List.mem_singleton.mp hi]
    simp [routeJob, hcode, cHalt, cPause, cSave, cEnd, cBankWrite]
  have hslots : ∀ i ∈ (u.commit k.toNat).mbx.jobs, i.slot = k.toNat := by
    intro i hi
    obtain ⟨i', hi', c, rfl⟩ := State.mem_commit_jobs hi
    rw [hujobs] at hi'
    rw [List.mem_singleton.mp hi']
    exact hslot
  rw [hslot] at hfin
  have he := h.exec (c := .engineHalt k) rfl rfl
  have hrun : (s.rt.vals.find? fun r => r.state == .running).filter (fun _ => !bitOf (u32At p 0) 0) = none := by
    rw [h1]
    cases s.rt.vals.find? fun r => r.state == .running <;> rfl
  rw [haltBody, show ({ s with jr := (s.notice k.toNat).jr } : State).rt = s.rt from rfl, hrun] at he
  dsimp only at he
  rw [if_neg (by simp [hl, hz, h1]), if_pos (by simp [h1, bitOf]), State.haltSaving, ← hu] at he
  have honly : OnlyJournal { s with eng := { s.eng with state := .halt } }
      { u.commit k.toNat with eng := { u.eng with state := .halt } } := by
    rw [State.commit_eq, hu]
    rfl
  obtain ⟨-, ho⟩ := State.reply_replies (k := k) (st := stOk) (o := ⟨skEngine, 7⟩)
    (p := toLe 4 (u.rt.vals.filter fun r => r.state == .saved).length) h.canonical honly rfl rfl (by decide) (by decide) (by simp)
  obtain ⟨hjobs, hquiet⟩ := State.reply_idle (u := { u.commit k.toNat with eng := { u.eng with state := .halt } }) (st := stOk)
    (o := ⟨skEngine, 7⟩) (q := toLe 4 (u.rt.vals.filter fun r => r.state == .saved).length) hslots
    ((u.commit_waits k.toNat).trans (by rw [hu]; exact hw))
  obtain ⟨ow, lv, hq, -, -⟩ := State.enterHalt_of_idle hjobs hquiet
  have hend : AllRest u.finishHalt := by
    rw [hfin, hq, ho.eq]
    exact hrest _ rfl rfl
  have hidle : u.finishHalt.mbx.jobs = [] := by
    rw [hfin, hq]
    exact hjobs
  rw [State.foldl_settle_rest (hrest u (by rw [hu]; rfl) (by rw [hu]; rfl)) hnoroute hend hidle, hfin] at he
  obtain ⟨t, ht, hrep, heng, hch, -, hlv, hrd, -⟩ := halt_completes h.canonical he honly hslots hw (by simp)
  refine ⟨t, ht, ?_, heng, hch, hlv, hrd⟩
  rw [show u.rt = s.rt by rw [hu]; rfl] at hrep
  exact hrep

theorem runningRoute_refuses {r : Route} (h : Granted s k cHalt p) (h0 : u32At p 0 = 0)
    (hr : s.rt.vals.find? (fun r => r.state == .running) = some r) : Answers (.engineHalt k) s s k stState ⟨skRoute, 1⟩ [] := by
  have hs : r.state = .running := by simpa using List.find?_some hr
  refine h.answers rfl rfl (fun j => ?_) (by decide) (by decide) (by simp)
  rw [haltBody, show ({ s with jr := j } : State).rt = s.rt from rfl, hr, h0]
  simp [Option.filter, bitOf, State.refuse, routeObj, hs, RState.code]

end Sys2Proof.Machine

open Sys2Proof Sys2Proof.Machine

/-- Settles O8: the reply leaves no command, so that HALT only makes the lanes and the level quiet; routes that rest settle at once. -/
theorem haltQuiesces : Obligations.HaltQuiesces := fun _ _ _ h hl hz =>
  ⟨haltNow_completes h hl hz, haltSaving_completes h hl hz, fun _ => runningRoute_refuses h⟩

end

section
/-! The tables of images, bindings and routes: what a look-up finds after a change. -/
namespace Sys2Proof.Machine

@[simp] theorem Tab.get?_del {α : Type} (t : Tab α) (i j : Nat) : (t.del i).get? j = if i = j then none else t.get? j := by
  induction t with
  | nil => simp [Tab.del, Tab.get?]
  | cons c t ih =>
    obtain ⟨k, w⟩ := c
    unfold Tab.del
    split
    · rename_i h
      rw [ih, Tab.get?, h]
      split <;> rfl
    · rename_i h
      simp only [Tab.get?, ih]
      split
      · rename_i hk
        rw [if_neg (fun e => h (hk.trans e.symm))]
      · rfl

variable (s : State)

theorem State.image_congr {s t : State} (h : t.img = s.img) (d : Digest) : t.image d = s.image d := by unfold State.image; rw [h]

theorem State.route_congr {s t : State} (h : t.rt = s.rt) (n : Nat) : t.route n = s.route n := by unfold State.route; rw [h]

theorem State.binding_congr {s t : State} (h : t.bnd = s.bnd) (n : Nat) : t.binding n = s.binding n := by
  unfold State.binding; rw [h]

theorem State.image_setImage (i : Image) (d : Digest) : (s.setImage i).image d = if i.digest = d then some i else s.image d := by
  unfold State.image State.setImage
  rw [Tab.get?_put]
  by_cases h : i.digest = d
  · simp [h]
  · have : i.digest.toNat ≠ d.toNat := fun e => h (BitVec.eq_of_toNat_eq e)
    rw [if_neg this, if_neg h]

@[simp] theorem State.image_setImage_same (i : Image) : (s.setImage i).image i.digest = some i := by simp [State.image_setImage]

theorem State.image_digest {s : State} {d : Digest} {i : Image} (h : s.image d = some i) : i.digest = d := by
  unfold State.image at h
  split at h
  · split at h
    · cases h; assumption
    · cases h
  · cases h

@[simp] theorem State.route_setRoute_same (r : Route) : (s.setRoute r).route r.handle = some r := by
  simp [State.route, State.setRoute]

@[simp] theorem State.binding_setBinding_same (b : Binding) : (s.setBinding b).binding b.handle = some b := by
  simp [State.binding, State.setBinding]

theorem State.route_handle {s : State} {n : Nat} {r : Route} (h : s.route n = some r) : r.handle = n := by
  unfold State.route at h
  split at h
  · split at h
    · cases h; assumption
    · cases h
  · cases h

/-- An image that has left the table is found no more, and every other one is. -/
theorem State.image_del (d e : Digest) :
    ({ s with img := s.img.del d.toNat } : State).image e = if d = e then none else s.image e := by
  unfold State.image
  rw [Tab.get?_del]
  by_cases h : d = e
  · simp [h]
  · have : d.toNat ≠ e.toNat := fun e => h (BitVec.eq_of_toNat_eq e)
    rw [if_neg this, if_neg h]

end Sys2Proof.Machine
end

section
/-! `image.release` (12 R270; 10 R222). -/
namespace Sys2Proof.Machine

variable {s : State} {k : Byte} {p : List Byte}

theorem State.dropUnnamed_eq (s : State) (d : Digest) :
    s.dropUnnamed d = { s with half := if s.bindRefs d = 0 then s.half.map fun x => x.dropFinder (.image d) else s.half } := by
  unfold State.dropUnnamed
  split <;> rfl

@[simp] theorem State.dropUnnamed_image (s : State) (d e : Digest) : (s.dropUnnamed d).image e = s.image e := by
  rw [State.dropUnnamed_eq]; rfl
@[simp] theorem State.dropUnnamed_fwRefs (s : State) (d e : Digest) : (s.dropUnnamed d).fwRefs e = s.fwRefs e := by
  rw [State.dropUnnamed_eq]; rfl
@[simp] theorem State.dropUnnamed_bindRefs (s : State) (d e : Digest) : (s.dropUnnamed d).bindRefs e = s.bindRefs e := by
  rw [State.dropUnnamed_eq]; rfl
@[simp] theorem State.dropUnnamed_loading (s : State) (d e : Digest) : (s.dropUnnamed d).loading e = s.loading e := by
  rw [State.dropUnnamed_eq]; rfl

/-- An image that something refers to stays; only its finder banks may go. -/
theorem State.dropIfFree_of_referenced {i : Image} (hi : s.image i.digest = some i)
    (h : s.fwRefs i.digest + s.bindRefs i.digest ≠ 0) : s.dropIfFree i.digest = s.dropUnnamed i.digest := by
  have hc : (i.hostRef || s.bindRefs i.digest != 0 || s.fwRefs i.digest != 0 || s.loading i.digest) = true := by
    have : s.bindRefs i.digest ≠ 0 ∨ s.fwRefs i.digest ≠ 0 := by omega
    rcases this with h | h <;> simp [h]
  unfold State.dropIfFree
  simp only [State.dropUnnamed_image, hi, State.dropUnnamed_bindRefs, State.dropUnnamed_fwRefs, State.dropUnnamed_loading, hc, if_true]

/-- What is left of a state when an image without a reference leaves its store. -/
def State.without (s : State) (i : Image) : State :=
  { s with
    img := s.img.del i.digest.toNat
    half := ⟨(s.half.w.dropFinder (.image i.digest)).forget i.digest i.copies.w.length,
      (s.half.e.dropFinder (.image i.digest)).forget i.digest i.copies.e.length⟩
    mi := s.mi.filter fun a => match a.purpose with
      | .fetch g _ => g != i.digest
      | _ => true }

theorem State.setImage_without_image (s : State) (i : Image) (d : Digest) :
    ((s.setImage i).without i).image d = if i.digest = d then none else s.image d := by
  have h := State.image_del (s.setImage i) i.digest d
  rw [State.image_setImage] at h
  split at h
  · rename_i hd
    rw [if_pos hd]
    exact h
  · rename_i hd
    rw [if_neg hd]
    exact h

theorem State.dropIfFree_of_free {i : Image} (hi : s.image i.digest = some i) (hh : i.hostRef = false)
    (h : s.fwRefs i.digest + s.bindRefs i.digest = 0) (hl : s.loading i.digest = false) : s.dropIfFree i.digest = s.without i := by
  have hf : s.fwRefs i.digest = 0 := by omega
  have hb : s.bindRefs i.digest = 0 := by omega
  unfold State.dropIfFree
  simp only [State.dropUnnamed_image, hi, State.dropUnnamed_bindRefs, State.dropUnnamed_fwRefs, State.dropUnnamed_loading, hh, hf, hb,
    hl, bne_self_eq_false, Bool.or_self, Bool.false_eq_true, if_false]
  rw [State.dropUnnamed_eq, if_pos hb]
  rfl

/-- What `image.release` does to an image that it finds. -/
theorem imageRelease_exec {i : Image} (h : Granted s k cRelease p) (hl : p.length = 48) (hi : s.image (digestAt p 0) = some i)
    {u v : State} {o : ObjState} (hu : u = ({ s with jr := (s.notice k.toNat).jr } : State).commit k.toNat)
    (hv : (u.setImage { i with hostRef := false }).dropIfFree i.digest = v)
    (ho : ((v.image i.digest).map imgObj).getD noImg = o) :
    exec (.imageRelease k) s =
      .next (v.reply k.toNat stOk o (toLe 4 (s.fwRefs i.digest + s.bindRefs i.digest) ++ toLe 1 o.state ++ zeros 3)) := by
  have he := h.exec (c := .imageRelease k) rfl rfl
  have hrefs : ({ s with jr := (s.notice k.toNat).jr } : State).imageRefs { i with hostRef := false } =
      s.fwRefs i.digest + s.bindRefs i.digest := Nat.zero_add (s.fwRefs i.digest) ▸ rfl
  have hobj : (match v.image i.digest with
      | some x => imgObj x
      | none => noImg) = o := by
    rw [← ho]
    cases v.image i.digest <;> rfl
  rw [releaseBody, show ({ s with jr := (s.notice k.toNat).jr } : State).image (digestAt p 0) = some i from hi] at he
  dsimp only at he
  rw [if_neg (by simp [hl]), ← hu, hv, hrefs] at he
  rw [he, ← hobj] <;> rfl

theorem imageRelease_keeps {i : Image} (h : Granted s k cRelease p) (hl : p.length = 48) (hi : s.image (digestAt p 0) = some i)
    (hr : s.fwRefs i.digest + s.bindRefs i.digest ≠ 0) :
    Answers (.imageRelease k) s ((s.setImage { i with hostRef := false }).dropUnnamed i.digest) k stOk ⟨skImage, i.state.code⟩
      (toLe 4 (s.fwRefs i.digest + s.bindRefs i.digest) ++ toLe 1 i.state.code ++ zeros 3) := by
  obtain ⟨u, hu⟩ : ∃ u, u = ({ s with jr := (s.notice k.toNat).jr } : State).commit k.toNat := ⟨_, rfl⟩
  have hj : u = { s with jr := u.jr, mbx := { s.mbx with jobs := u.mbx.jobs } } := by rw [hu]; exact State.commit_eq ..
  have hdrop := State.dropIfFree_of_referenced (s := u.setImage { i with hostRef := false })
    (State.image_setImage_same u { i with hostRef := false }) (by rw [hj]; exact hr)
  refine Answers.of_reply h.canonical (imageRelease_exec h hl hi hu hdrop ?_) ?_ ?_ ?_ (by decide) (imgObj_fits i) (by simp)
  · rw [State.dropUnnamed_image, State.image_setImage_same u { i with hostRef := false }]
    rfl
  · rw [State.dropUnnamed_eq, State.dropUnnamed_eq, hj]
    rfl
  · rw [State.dropUnnamed_eq]
    rfl
  · rw [State.dropUnnamed_eq]
    rfl

theorem imageRelease_drops {i : Image} (h : Granted s k cRelease p) (hl : p.length = 48) (hi : s.image (digestAt p 0) = some i)
    (hr : s.fwRefs i.digest + s.bindRefs i.digest = 0) (hld : s.loading i.digest = false) :
    Completes (.imageRelease k) s fun t =>
      Replied s t k stOk ⟨skImage, 0xFF⟩ (toLe 4 0 ++ toLe 1 0xFF ++ zeros 3) ∧ t.image i.digest = none ∧
      (∀ d, d ≠ i.digest → t.image d = s.image d) ∧
      (∀ h, t.hs h = ((s.hs h).dropFinder (.image i.digest)).forget i.digest (i.copies.get h).length) ∧
      (t.eng, t.safe, t.lanes, t.chains, t.bnd, t.rt, t.bench, t.str) = (s.eng, s.safe, s.lanes, s.chains, s.bnd, s.rt, s.bench, s.str) := by
  obtain ⟨u, hu⟩ : ∃ u, u = ({ s with jr := (s.notice k.toNat).jr } : State).commit k.toNat := ⟨_, rfl⟩
  have hj : u = { s with jr := u.jr, mbx := { s.mbx with jobs := u.mbx.jobs } } := by rw [hu]; exact State.commit_eq ..
  have hld' : u.loading i.digest = false := by
    simp only [State.loading, List.any_eq_false] at hld ⊢
    intro j hm
    obtain ⟨j', hj', c, rfl⟩ := State.mem_commit_jobs (hu ▸ hm)
    exact hld j' hj'
  have hfree := State.dropIfFree_of_free (s := u.setImage { i with hostRef := false })
    (State.image_setImage_same u { i with hostRef := false }) rfl (by rw [hj]; exact hr) hld'
  have himg := fun v d => State.setImage_without_image v { i with hostRef := false } d
  have he := imageRelease_exec h hl hi hu hfree (o := ⟨skImage, 0xFF⟩) (by rw [himg, if_pos rfl]; rfl)
  rw [hr] at he
  obtain ⟨hrep, ho⟩ := State.reply_replies (s := s) (k := k) (st := stOk) (o := ⟨skImage, 0xFF⟩)
    (p := toLe 4 0 ++ toLe 1 0xFF ++ zeros 3) (u := (u.setImage { i with hostRef := false }).without { i with hostRef := false })
    (s1 := (s.setImage { i with hostRef := false }).without { i with hostRef := false }) h.canonical (by rw [hj]; rfl) rfl rfl
    (by decide) (by decide) (by simp)
  obtain ⟨m, j, hm⟩ := ho.exists_eq
  rw [hm] at he hrep
  refine ⟨_, he, hrep, ?_, fun d hd => ?_, fun h => ?_, rfl⟩
  · exact (himg s i.digest).trans (if_pos rfl)
  · exact (himg s d).trans (if_neg hd.symm)
  · cases h <;> rfl

end Sys2Proof.Machine

open Sys2Proof Sys2Proof.Machine

/-- Settles O9: the image's references decide whether it stays. -/
theorem releaseDropsUnreferencedImages : Obligations.ReleaseDropsUnreferencedImages := fun _ _ _ _ h hl hi =>
  ⟨imageRelease_keeps h hl hi, imageRelease_drops h hl hi⟩

end

section
/-! The order of checks on a request (11 R247), what reset leaves, and beats that are sent again (17 R411, R412). -/
namespace Sys2Proof.Machine

/-! ### The order of checks -/

variable {s : State} {k : Nat}

@[simp] theorem State.sealCode_notice (s : State) (k n : Nat) : (s.notice k).sealCode n = s.sealCode n := by
  rw [State.notice_eq]; rfl
@[simp] theorem State.reqPayload_notice (s : State) (k n : Nat) : (s.notice k).reqPayload n = s.reqPayload n := by
  rw [State.notice_eq]; rfl
@[simp] theorem State.row2_notice (s : State) (k n : Nat) : (s.notice k).row2 n = s.row2 n := by
  rw [State.notice_eq]; rfl
@[simp] theorem State.afterMet_notice (s : State) (k n : Nat) : (s.notice k).afterMet n = s.afterMet n := by
  rw [State.notice_eq]; rfl

/-- Row 2: a request of a form that is not one, or of no listed command. -/
theorem State.consider_illFormed (hseq : s.sealSeq k = s.expectedSeq k) (h : (listed (s.sealCode k) && s.row2 k) = false)
    (body : Nat → List Byte → State → State) : s.consider k body = (s.notice k).refuse k stArg (s.slotObj k) := by
  simp [State.consider, hseq, h]

/-- Row 3: a request whose dependency is not met waits. -/
theorem State.consider_waits (hseq : s.sealSeq k = s.expectedSeq k) (h : (listed (s.sealCode k) && s.row2 k) = true)
    (ha : s.afterMet k = false) (body : Nat → List Byte → State → State) :
    s.consider k body = { s.notice k with mbx := { s.mbx with waits := ⟨k, s.time.toNat⟩ :: s.mbx.waits } } := by
  simp only [Bool.and_eq_true] at h
  simp [State.consider, hseq, h, ha]

/-- Row 4, and then the command. -/
theorem State.consider_starts (hseq : s.sealSeq k = s.expectedSeq k) (h : (listed (s.sealCode k) && s.row2 k) = true)
    (ha : s.afterMet k = true) (body : Nat → List Byte → State → State) : s.consider k body = (s.notice k).start k body := by
  simp only [Bool.and_eq_true] at h
  simp [State.consider, hseq, h, ha]

/-- Row 4 refuses what the engine's state does not let in. -/
theorem State.start_refuses (h : validIn (s.sealCode k) s.eng.state = false) (body : Nat → List Byte → State → State) :
    s.start k body = s.refuse k stState (engineObj s) := by
  simp [State.start, h]

theorem listed_of_rowOf {c : Instr} {x : Row} (h : rowOf c = some x) : listed x.code = true := by
  cases c <;> cases h <;> rfl

/-- A request that the journal has copied and that is refused is answered, and nothing else changes. -/
theorem Answers.of_refuse {c : Instr} {x : Byte} {st : Nat} {o : ObjState} (hw : s.mbx.mem.wf = true)
    (he : exec c s = .next ((s.notice x.toNat).refuse x.toNat st o)) (hst : st < 65536) (ho : o.Fits) : Answers c s s x st o [] :=
  Answers.of_reply hw he (s.notice_only _) rfl rfl hst ho (by simp)

theorem row_idle {c : Instr} {x : Row} (hx : rowOf c = some x)
    (h : s.unnoticed x.slot.toNat = false ∨ s.sealCode x.slot.toNat ≠ x.code ∨ x.own (s.reqPayload x.slot.toNat) = false) :
    exec c s = .next s := by
  obtain ⟨body, he⟩ := exec_of_rowOf hx s
  rw [he, runMailbox, if_neg]
  rcases h with h | h | h <;> simp [h]

theorem row_judges {c : Instr} {x : Row} {p : List Byte} (hx : rowOf c = some x) (ha : Asked s x.slot x.code p) (hp : x.own p = true)
    (hseq : s.sealSeq x.slot.toNat = s.expectedSeq x.slot.toNat) :
    (s.row2 x.slot.toNat = false → Answers c s s x.slot stArg (s.slotObj x.slot.toNat) []) ∧
    (s.row2 x.slot.toNat = true →
      (s.afterMet x.slot.toNat = false → Completes c s fun t =>
        t.mbx = { s.mbx with waits := ⟨x.slot.toNat, s.time.toNat⟩ :: s.mbx.waits } ∧ { t with mbx := s.mbx, jr := s.jr } = s) ∧
      (s.afterMet x.slot.toNat = true → validIn x.code s.eng.state = false →
        Answers c s s x.slot stState (engineObj s) [])) := by
  obtain ⟨body, he⟩ := exec_of_rowOf hx s
  rw [ha.not_row _ _ hp] at he
  have hlisted : listed (s.sealCode x.slot.toNat) = true := ha.asks ▸ listed_of_rowOf hx
  refine ⟨fun h2 => ?_, fun h2 => ⟨fun hm => ?_, fun hm hv => ?_⟩⟩
  · rw [State.consider_illFormed hseq (by simp [h2])] at he
    exact Answers.of_refuse ha.canonical he (by decide) (s.slotObj_fits _)
  · rw [State.consider_waits hseq (by simp [h2, hlisted]) hm, State.notice_eq] at he
    exact ⟨_, he, rfl, rfl⟩
  · rw [State.consider_starts hseq (by simp [h2, hlisted]) hm, State.start_refuses (by simpa [ha.asks] using hv), State.notice_obj] at he
    exact Answers.of_refuse ha.canonical he (by decide) (engineObj_lt s)

/-! ### Reset -/

theorem reset_ctlRead (h : Half) (off : Nat) (h0 : off ≠ 0) (h8 : off ≠ 8)
    (hs : ¬(mbxWindow + slotBase 255 ≤ off ∧ off < 0x200000)) : State.reset.ctlRead h off = notPresent := by
  have hctl : State.reset.ctlUp h = false := by cases h <;> rfl
  have hwin : mbxWindow = 0x100000 := rfl
  have hslot : slotBase 255 = 0xFF000 := rfl
  unfold State.ctlRead
  rw [if_neg (by omega), hctl]
  split
  · rename_i hw
    dsimp only
    rw [if_neg (show ¬((off - mbxWindow) / 0x1000 = 255) by omega), if_neg nofun]
  · rfl

theorem reset_lanesIdle : LanesIdle State.reset where
  lanes h l hl := by cases h <;> exact List.eq_of_mem_replicate hl
  chains h c := by
    have : ∀ n, (chainAt (List.replicate n Chain.reset) c).up = false := fun n => by
      rw [chainAt, List.getD_eq_getElem?_getD, List.getElem?_replicate]
      split <;> rfl
    cases h <;> exact this _

/-! ### Beats that are sent again -/

theorem inBeatParityError_asks (s : State) (h : Half) (depth : BitVec 4) (hup : s.streamUp h = true) :
    Completes (.inBeatParityError h depth) s fun t =>
      (t.str.get h).inNak = true ∧ (t.str.get h).inDepth = depth ∧ t.str.get h.other = s.str.get h.other ∧
      (t.str.get h).queue = (s.str.get h).queue ∧ { t with str := s.str } = s := by
  refine ⟨_, congrArg Host.Outcome.next (if_pos (by simp [hup])), ?_⟩
  cases h <;> exact ⟨rfl, rfl, rfl, rfl, rfl⟩

theorem strOutNak_sendsAgain (s : State) (h : Half) (depth : BitVec 4) (hd : depth.toNat < (s.str.get h).last.length) :
    Completes (.strOutNak h depth) s fun t =>
      (t.str.get h).again.take (depth.toNat + 1) = (s.str.get h).last.drop ((s.str.get h).last.length - (depth.toNat + 1)) ∧
      (t.str.get h).again.drop (depth.toNat + 1) = (s.str.get h).again ∧
      (t.str.get h).last = (s.str.get h).last.take ((s.str.get h).last.length - (depth.toNat + 1)) ∧
      (t.str.get h).queue = (s.str.get h).queue ∧ t.str.get h.other = s.str.get h.other ∧ { t with str := s.str } = s := by
  have hlen : ((s.str.get h).last.drop ((s.str.get h).last.length - (depth.toNat + 1))).length = depth.toNat + 1 := by
    rw [List.length_drop]
    omega
  have hget : (s.str.modify h fun x => x.sendAgain depth.toNat).get h = (s.str.get h).sendAgain depth.toNat := by cases h <;> rfl
  refine ⟨_, rfl, ?_⟩
  dsimp only
  rw [hget]
  refine ⟨List.take_left' hlen, List.drop_left' hlen, rfl, rfl, ?_, rfl⟩
  cases h <;> rfl

end Sys2Proof.Machine

open Sys2Proof Sys2Proof.Machine

/-- Settles O55: a row is `runMailbox` on its code, and `consider` decides rows 1 to 4 in their order. -/
theorem requestsAreJudgedInOrder : Obligations.RequestsAreJudgedInOrder := fun _ _ _ hx =>
  ⟨row_idle hx, fun _ ha hp => ⟨outOfTurn_answersStArg hx ha hp, row_judges hx ha hp⟩⟩

/-- Settles O54: the reset state read field by field. -/
theorem resetLeaves : Obligations.ResetLeaves := by
  rintro _ rfl
  refine ⟨rfl, rfl, rfl, fun _ => rfl, rfl, rfl, fun _ => rfl, rfl, rfl, rfl, rfl, rfl, reset_lanesIdle, reset_ctlRead, rfl,
    ⟨by decide, by decide⟩, ⟨nofun, nofun, nofun⟩⟩

/-- Settles O39: the beats from the failing one on go in front of those to send again. -/
theorem beatsAreSentAgain : Obligations.BeatsAreSentAgain := fun s h depth =>
  ⟨inBeatParityError_asks s h depth, strOutNak_sendsAgain s h depth⟩

end

section
/-! Requests that wait under AFTER, and codes that are not listed (11 R247, R249, R253; 15 R378). -/
namespace Sys2Proof.Machine

variable {s : State} {k : Byte}

/-- A reply from a state whose mailbox differs in what runs and what waits alone answers. -/
theorem Answers.of_box {c : Instr} {s s1 u : State} {k : Byte} {st : Nat} {o : ObjState} {p : List Byte} (hw : s.mbx.mem.wf = true)
    (he : exec c s = .next (u.reply k.toNat st o p)) (hb : SameBox s u) (hu : { u with mbx := s1.mbx, jr := s1.jr } = s1)
    (ht : u.time = s.time) (hst : st < 65536) (ho : o.Fits) (hp : p.length ≤ 2016) : Answers c s s1 k st o p := by
  refine ⟨_, he, State.reply_replied k st o p hw hb ht hst ho hp, ?_⟩
  have h := congrArg (fun x : State => { x with mbx := s1.mbx, jr := s1.jr }) (State.reply_only u k st o p)
  dsimp only at h
  have hmi : u.mi = s1.mi := by
    have := congrArg State.mi hu
    exact this
  refine h.trans ?_
  rw [hmi]
  exact congrArg (fun x : State => { x with mi := s1.mi.filter fun a => a.notOf k.toNat }) hu

theorem OnlyReply.of_mbx {s t : State} {k : Byte} {m : MbxSt} (h : OnlyReply { s with mbx := m } t k) : OnlyReply s t k := by
  have := congrArg (fun x : State => { x with mbx := s.mbx }) h
  exact this

/-- What the slot's request leaves as it stops waiting. -/
def State.unwait (s : State) (k : Nat) : State := { s with mbx := { s.mbx with waits := s.mbx.waits.filter fun w => w.slot != k } }

theorem unwait_sameBox (s : State) (k : Nat) : SameBox s (s.unwait k) := rfl

theorem afterDependencyMet_exec (hw : (s.waitOf k.toNat).isSome = true) (hs : (s.slotServer k.toNat).isSome = true)
    (ha : s.afterMet k.toNat = true) (hn : s.warned k.toNat = false) :
    exec (.afterDependencyMet k) s = .next ((s.unwait k.toNat).start k.toNat (bodyOf (s.sealCode k.toNat))) :=
  congrArg Host.Outcome.next (if_pos (by simp [hw, hs, ha, hn]))

/-- A request that the engine's state admits goes on with its command. -/
theorem afterDependencyMet_runs {code : Nat} (hw : (s.waitOf k.toNat).isSome = true) (hs : (s.slotServer k.toNat).isSome = true)
    (ha : s.afterMet k.toNat = true) (hn : s.warned k.toNat = false) (hc : s.sealCode k.toNat = code)
    (hv : validIn code s.eng.state = true) (hp : s.reqPayload k.toNat = []) :
    exec (.afterDependencyMet k) s = .next (bodyOf code k.toNat [] (s.unwait k.toNat)) := by
  have hc' : (s.unwait k.toNat).sealCode k.toNat = code := hc
  have hp' : (s.unwait k.toNat).reqPayload k.toNat = [] := hp
  rw [afterDependencyMet_exec hw hs ha hn, State.start, hc', hp', hc]
  exact congrArg Host.Outcome.next (if_pos hv)

section
variable (hmem : s.mbx.mem.wf = true) (hw : (s.waitOf k.toNat).isSome = true) (hs : (s.slotServer k.toNat).isSome = true)
include hmem hw hs

theorem afterWaitExpired_answersBusy (ha : s.afterMet k.toNat = false) :
    Completes (.afterWaitExpired k) s fun t =>
      Replied { s with mbx := { s.mbx with busy := satAdd s.mbx.busy 1 } } t k stBusy (s.slotObj k.toNat) [] ∧
      OnlyReply s t k ∧ t.waitOf k.toNat = none := by
  refine ⟨_, congrArg Host.Outcome.next (if_pos (by simp [hw, hs, ha])), State.refuse_replied k stBusy _ hmem rfl rfl (by decide)
    (s.slotObj_fits _), ?_, ?_⟩
  · exact OnlyReply.of_mbx (State.refuse_only ..)
  · rw [State.waitOf, State.refuse, State.reply_waits, List.find?_eq_none]
    intro w hm
    simpa using (List.mem_filter.mp hm).2

section
variable (ha : s.afterMet k.toNat = true) (hn : s.warned k.toNat = false)
include ha hn

theorem afterDependencyMet_refuses (hv : validIn (s.sealCode k.toNat) s.eng.state = false) :
    Answers (.afterDependencyMet k) s s k stState (engineObj s) [] := by
  refine Answers.of_box hmem ?_ (unwait_sameBox s k.toNat) rfl rfl (by decide) (engineObj_lt s) (by simp)
  rw [afterDependencyMet_exec hw hs ha hn, State.start_refuses (s := s.unwait k.toNat) hv]
  rfl

theorem afterDependencyMet_drains (hc : s.sealCode k.toNat = cDrain) (hv : validIn cDrain s.eng.state = true)
    (hp : s.reqPayload k.toNat = []) :
    Answers (.afterDependencyMet k) s { s with eng := { s.eng with state := .drain } } k stOk ⟨skEngine, 6⟩ [] := by
  refine Answers.of_box (u := ((s.unwait k.toNat).withState .drain).commit k.toNat) hmem ?_ ?_ ?_ ?_ (by decide) (by decide) (by simp)
  · exact afterDependencyMet_runs hw hs ha hn hc hv hp
  all_goals rw [State.commit_eq]; rfl

theorem afterDependencyMet_reports (hc : s.sealCode k.toNat = cQuery) (hv : validIn cQuery s.eng.state = true)
    (hp : s.reqPayload k.toNat = []) : Answers (.afterDependencyMet k) s s k stOk (engineObj s) s.queryReply := by
  refine Answers.of_box (u := s.unwait k.toNat) hmem ?_ rfl rfl rfl (by decide) (engineObj_lt s) (by rw [State.queryReply_length]; decide)
  exact afterDependencyMet_runs hw hs ha hn hc hv hp

theorem afterDependencyMet_serves (hc : s.sealCode k.toNat = cServe) (hv : validIn cServe s.eng.state = true)
    (hp : s.reqPayload k.toNat = []) (hb : s.bothServe = true) :
    Answers (.afterDependencyMet k) s { s with eng := { s.eng with state := .service } } k stOk ⟨skEngine, 4⟩ [] := by
  have hst : (s.unwait k.toNat).servingState = .service := if_pos hb
  refine Answers.of_box (u := ((s.unwait k.toNat).withState .service).commit k.toNat) hmem ?_ ?_ ?_ ?_ (by decide) (by decide) (by simp)
  · rw [afterDependencyMet_runs hw hs ha hn hc hv hp,
      show bodyOf cServe k.toNat [] (s.unwait k.toNat) = serveBody k.toNat [] (s.unwait k.toNat) from rfl, serveBody, bare_nil, hst]
    rfl
  all_goals rw [State.commit_eq]; rfl

end
end

theorem afterDependencyMet_waitsOn (hn : s.warned k.toNat = true) : exec (.afterDependencyMet k) s = .next s :=
  congrArg Host.Outcome.next (if_neg (by simp [hn]))

theorem unlisted_exec (hu : s.unnoticed k.toNat = true) (hl : listed (s.sealCode k.toNat) = false) :
    exec (.unlistedCommandCode k) s = .next (s.consider k.toNat fun _ _ t => t) :=
  congrArg Host.Outcome.next (if_pos (by simp [hu, hl]))

theorem unlisted_answersStArg (hmem : s.mbx.mem.wf = true) (hu : s.unnoticed k.toNat = true)
    (hl : listed (s.sealCode k.toNat) = false) (hseq : s.sealSeq k.toNat = s.expectedSeq k.toNat) :
    Answers (.unlistedCommandCode k) s s k stArg (s.slotObj k.toNat) [] := by
  have he := unlisted_exec hu hl
  rw [State.consider_illFormed hseq (by simp [hl])] at he
  exact Answers.of_refuse hmem he (by decide) (s.slotObj_fits _)

theorem unlisted_outOfTurn (hmem : s.mbx.mem.wf = true) (hu : s.unnoticed k.toNat = true)
    (hl : listed (s.sealCode k.toNat) = false) (hseq : s.sealSeq k.toNat ≠ s.expectedSeq k.toNat) :
    Completes (.unlistedCommandCode k) s fun t =>
      Answered s t k stArg (s.slotObj k.toNat) (toLe 4 (s.expectedSeq k.toNat)) false ∧ OnlyReply s t k := by
  have he := unlisted_exec hu hl
  rw [State.consider_outOfTurn hseq] at he
  exact ⟨_, he, State.notice_answered _ _ _ _ _ hmem (by decide) (s.slotObj_fits _) (by simp),
    OnlyReply.of_journal (s.notice_only _) (State.answer_only ..)⟩

end Sys2Proof.Machine

open Sys2Proof Sys2Proof.Machine

/-- Settles O22: a request that waited is in row 4, where it runs its command's body or is refused. -/
theorem waitingAndUnlistedRequests : Obligations.WaitingAndUnlistedRequests := fun _ _ hmem =>
  ⟨fun hw hs => ⟨afterWaitExpired_answersBusy hmem hw hs, afterDependencyMet_waitsOn, fun ha hn =>
      ⟨afterDependencyMet_refuses hmem hw hs ha hn, afterDependencyMet_drains hmem hw hs ha hn,
        afterDependencyMet_reports hmem hw hs ha hn, afterDependencyMet_serves hmem hw hs ha hn⟩⟩,
    fun hu hl => ⟨unlisted_answersStArg hmem hu hl, unlisted_outOfTurn hmem hu hl⟩⟩

end

section
/-! Writes to registers (11 R242; 17 R415; 19 R446, R450, R453, R457, R462). -/
namespace Sys2Proof.Machine

/-! ### The mailbox window -/

/-- The bytes that a fold over the first `n` byte enables writes. -/
theorem writeBytes_prefix (m : Mem) (a : Nat) (be : Byte) (data : U64) (hm : m.wf = true) (n : Nat) :
    let t := (List.range n).foldl (fun m i => if be.getLsbD i then m.write (a + i) ((data >>> (8 * i)).setWidth 8) else m) m
    t.wf = true ∧ ∀ x, t.read x =
      if a ≤ x ∧ x < a + n ∧ be.getLsbD (x - a) = true then (data >>> (8 * (x - a))).setWidth 8 else m.read x := by
  induction n with
  | zero => exact ⟨hm, fun x => by rw [if_neg (by omega)]; rfl⟩
  | succ n ih =>
    obtain ⟨hwf, hread⟩ := ih
    simp only [List.range_succ, List.foldl_append, List.foldl_cons, List.foldl_nil]
    generalize (List.range n).foldl _ m = t at hwf hread ⊢
    split
    · rename_i hb
      refine ⟨Mem.write_wf _ _ _ hwf, fun x => ?_⟩
      rw [Mem.read_write _ _ _ _ hwf, hread]
      by_cases hx : x = a + n
      · have : x - a = n := by omega
        rw [if_pos hx, if_pos ⟨by omega, by omega, by rw [this]; exact hb⟩, this]
      · rw [if_neg hx]
        refine ite_congr (propext ?_) (fun _ => rfl) fun _ => rfl
        constructor
        · rintro ⟨h1, h2, h3⟩; exact ⟨h1, by omega, h3⟩
        · rintro ⟨h1, h2, h3⟩; exact ⟨h1, by omega, h3⟩
    · rename_i hb
      refine ⟨hwf, fun x => ?_⟩
      rw [hread]
      refine ite_congr (propext ?_) (fun _ => rfl) fun _ => rfl
      constructor
      · rintro ⟨h1, h2, h3⟩; exact ⟨h1, by omega, h3⟩
      · rintro ⟨h1, h2, h3⟩
        have : x ≠ a + n := by
          rintro rfl
          rw [Nat.add_sub_cancel_left] at h3
          exact hb h3
        exact ⟨h1, by omega, h3⟩

theorem writeBytes_read (m : Mem) (a : Nat) (be : Byte) (data : U64) (hm : m.wf = true) (x : Nat) :
    (writeBytes m a be data).read x =
      if a ≤ x ∧ x < a + 8 ∧ be.getLsbD (x - a) = true then (data >>> (8 * (x - a))).setWidth 8 else m.read x :=
  (writeBytes_prefix m a be data hm 8).2 x

section
variable {s : State} {h : Half} {off : BitVec 24} {slot w : Nat} (hs : slot < 256) (hw : w < 0x1000)
  (hoff : off.toNat = mbxWindow + 0x1000 * slot + w) (hup : if slot = 255 then s.portUp h = true else s.ctlUp h = true)
include hs hw hoff hup

/-- A write that a port takes to the mailbox window goes to the word of its slot. -/
theorem registerWrite_window (be : Byte) (data : U64) (parityOk : Bool) :
    exec (.registerWrite (.control h) off be data parityOk) s = .next (s.windowWrite (0x1000 * slot + w) be data parityOk) := by
  have hwin : mbxWindow = 0x100000 := rfl
  have ho : off.toNat - mbxWindow = 0x1000 * slot + w := by omega
  have hslot : (0x1000 * slot + w) / 0x1000 = slot := by omega
  refine congrArg Host.Outcome.next ?_
  dsimp only
  unfold State.ctlWrite
  rw [if_pos (by omega)]
  dsimp only
  rw [ho, hslot, if_pos]
  by_cases h255 : slot = 255
  · exact (if_pos h255).trans (Eq.mp (if_pos h255) hup)
  · exact (if_neg h255).trans (Eq.mp (if_neg h255) hup)

variable (h8 : w % 8 = 0)
include h8

theorem registerWrite_takes (hmem : s.mbx.mem.wf = true) (be : Byte) (data : U64) (hreq : w < 0x800) (hown : s.sealOwn slot = false)
    (hwhole : w = 0 → be = 0xFF) :
    Completes (.registerWrite (.control h) off be data true) s fun t =>
      (∀ i, i < 8 → t.mbx.mem.read (slotBase slot + w + i) =
        if be.getLsbD i then (data >>> (8 * i)).setWidth 8 else s.mbx.mem.read (slotBase slot + w + i)) ∧
      (∀ a, (a < slotBase slot + w ∨ slotBase slot + w + 8 ≤ a) → t.mbx.mem.read a = s.mbx.mem.read a) ∧
      { t with mbx := { t.mbx with mem := s.mbx.mem } } = s := by
  have hslot : (0x1000 * slot + w) / 0x1000 = slot := by omega
  have hword : (0x1000 * slot + w) % 0x1000 / 8 * 8 = w := by omega
  have he := registerWrite_window hs hw hoff hup be data true
  simp only [State.windowWrite, hslot, hword, hown, Bool.not_true, Bool.false_eq_true, if_false, ge_iff_le, Nat.not_le.mpr hreq] at he
  rw [if_neg (fun hc => hc.2 (hwhole hc.1))] at he
  refine ⟨_, he, fun i hi => ?_, fun a ha => ?_, rfl⟩
  · dsimp only
    rw [writeBytes_read _ _ _ _ hmem, Nat.add_sub_cancel_left]
    exact ite_congr (propext ⟨fun hc => hc.2.2, fun hc => ⟨by omega, by omega, hc⟩⟩) (fun _ => rfl) fun _ => rfl
  · dsimp only
    rw [writeBytes_read _ _ _ _ hmem, if_neg (by omega)]

theorem registerWrite_reply (be : Byte) (data : U64) (hrep : 0x800 ≤ w) :
    exec (.registerWrite (.control h) off be data true) s = .next s := by
  have hword : (0x1000 * slot + w) % 0x1000 / 8 * 8 = w := by omega
  rw [registerWrite_window hs hw hoff hup, State.windowWrite]
  dsimp only
  rw [hword, if_neg (by simp), if_pos hrep]

theorem registerWrite_discards (be : Byte) (data : U64) (parityOk : Bool)
    (hbad : parityOk = false ∨ (w < 0x800 ∧ (s.sealOwn slot = true ∨ (w = 0 ∧ be ≠ 0xFF)))) :
    exec (.registerWrite (.control h) off be data parityOk) s =
      .next { s with mbx := { s.mbx with discarded := satAdd s.mbx.discarded 1 } } := by
  have hslot : (0x1000 * slot + w) / 0x1000 = slot := by omega
  have hword : (0x1000 * slot + w) % 0x1000 / 8 * 8 = w := by omega
  rw [registerWrite_window hs hw hoff hup, State.windowWrite]
  dsimp only
  rw [hword, hslot]
  cases parityOk with
  | false => rfl
  | true =>
    obtain ⟨hreq, hbad⟩ := hbad.resolve_left nofun
    rw [if_neg (by simp), if_neg (by omega)]
    rcases hbad with hown | hseal
    · rw [if_pos hown]
      rfl
    · rw [if_pos (show w = 0 ∧ be ≠ 255#8 from hseal), ite_self]
      rfl

end

/-! ### Registers -/

theorem merge_getLsbD (old new : U64) (be : Byte) {i : Nat} (hi : i < 64) :
    (merge old new be).getLsbD i = if be.getLsbD (i / 8) then new.getLsbD i else old.getLsbD i := by
  simp only [merge, BitVec.getLsbD_or, BitVec.getLsbD_and, BitVec.getLsbD_not, beMask_getLsbD, hi]
  cases be.getLsbD (i / 8) <;> simp

variable {s : State} {h : Half}

theorem registerWrite_irqEn (be : Byte) (data : U64) (hup : s.ctlUp h = true) :
    Completes (.registerWrite (.control h) 0x0108 be data true) s fun t =>
      (∀ i, i < 16 → t.mbx.irqEn.getLsbD i = if be.getLsbD (i / 8) then data.getLsbD i else s.mbx.irqEn.getLsbD i) ∧
      { t with mbx := { t.mbx with irqEn := s.mbx.irqEn } } = s := by
  have he : exec (.registerWrite (.control h) 0x0108 be data true) s =
      .next { s with mbx := { s.mbx with irqEn := (merge (s.mbx.irqEn.setWidth 64) data be).setWidth 16 } } := by
    refine congrArg Host.Outcome.next ?_
    exact (if_neg (by decide)).trans (if_neg (by simp [hup]))
  refine ⟨_, he, fun i hi => ?_, rfl⟩
  rw [BitVec.getLsbD_setWidth, merge_getLsbD _ _ _ (by omega), BitVec.getLsbD_setWidth]
  simp [hi, show i < 64 by omega]

theorem State.logSelWrite_getLsbD (s : State) (be : Byte) (data : U64) {i : Nat} (hi : i < 33) :
    (s.logSelWrite be data).safe.logSel.getLsbD i = if be.getLsbD (i / 8) then data.getLsbD i else s.safe.logSel.getLsbD i := by
  dsimp only [State.logSelWrite]
  rw [BitVec.getLsbD_setWidth, merge_getLsbD _ _ _ (by omega), BitVec.getLsbD_setWidth]
  simp [hi, show i < 64 by omega]

theorem registerWrite_logSel (be : Byte) (data : U64) (hup : s.ctlUp h = true) :
    Completes (.registerWrite (.control h) 0x1048 be data true) s fun t =>
      (∀ i, i < 33 → t.safe.logSel.getLsbD i = if be.getLsbD (i / 8) then data.getLsbD i else s.safe.logSel.getLsbD i) ∧
      { t with safe := { t.safe with logSel := s.safe.logSel } } = s := by
  have he : exec (.registerWrite (.control h) 0x1048 be data true) s = .next (s.logSelWrite be data) := by
    refine congrArg Host.Outcome.next ?_
    exact (if_neg (by decide)).trans (if_neg (by simp [hup]))
  exact ⟨_, he, fun i hi => s.logSelWrite_getLsbD be data hi, rfl⟩

theorem bootPtrMask_getLsbD : ∀ i : Fin 64, (0xFFFFFFFFFFFFFFC0#64).getLsbD i = decide (6 ≤ i.val) := by decide

theorem registerWrite_bootPtr (be : Byte) (data : U64) (parityOk : Bool) (hup : s.sideUp h = true) :
    Completes (.registerWrite (.sideband h) 0x1008 be data parityOk) s fun t =>
      (∀ i, i < 64 → t.safe.bootPtr.getLsbD i = (decide (6 ≤ i) && data.getLsbD i)) ∧
      { t with safe := { t.safe with bootPtr := s.safe.bootPtr } } = s := by
  have he : exec (.registerWrite (.sideband h) 0x1008 be data parityOk) s =
      .next { s with safe := { s.safe with bootPtr := data &&& 0xFFFFFFFFFFFFFFC0#64 } } :=
    congrArg Host.Outcome.next (if_neg (by simp [hup]))
  refine ⟨_, he, fun i hi => ?_, rfl⟩
  rw [BitVec.getLsbD_and, bootPtrMask_getLsbD ⟨i, hi⟩, Bool.and_comm]

end Sys2Proof.Machine

open Sys2Proof Sys2Proof.Machine

/-- Settles O23: a write goes to the word or register at its offset, which takes the enabled bytes or none. -/
theorem registerWritesTakeEffect : Obligations.RegisterWritesTakeEffect := by
  refine fun s h off be data => ⟨fun slot w hs hw h8 hoff hup hmem => ⟨registerWrite_takes hs hw hoff hup h8 hmem be data,
    registerWrite_reply hs hw hoff hup h8 be data, registerWrite_discards hs hw hoff hup h8 be data⟩, ?_, ?_, ?_⟩
  · rintro hup rfl
    exact registerWrite_irqEn be data hup
  · rintro hup rfl
    exact registerWrite_logSel be data hup
  · rintro hup rfl parityOk
    exact registerWrite_bootPtr be data parityOk hup

end

section
/-! PEAK_CLR, the log latch and the sideband offset (19 R455, R458, R462, R463). -/
namespace Sys2Proof.Machine

theorem State.onHalf_hs (s : State) (h : Half) (f : HalfSt → HalfSt) : (s.onHalf h f).hs h = f (s.hs h) := s.onHalf_get h f

theorem hotter_toInt (a b : Byte) : (hotter a b).toInt = max a.toInt b.toInt := by
  unfold hotter
  split
  · rename_i hle
    exact (Int.max_eq_right hle).symm
  · rename_i hle
    exact (Int.max_eq_left (Int.le_of_not_le hle)).symm

section
variable {s : State} {q : Path} (hq : s.pathUp q = true)
include hq

theorem peakClr_exec (h : Half) (be : Byte) (data : U64) (r : Option Byte) :
    exec (.peakClr q h be data r) s = .next (s.peakWrite h be data r) :=
  congrArg Host.Outcome.next (if_pos hq)

theorem peakClr_stands (h : Half) (be : Byte) (data : U64) (hoff : be.getLsbD 7 = false ∨ data.getLsbD 63 = false) (r : Option Byte) :
    exec (.peakClr q h be data r) s = .next s := by
  rw [peakClr_exec hq]
  refine congrArg Host.Outcome.next (if_neg fun hon => ?_)
  rw [Bool.and_eq_true] at hon
  rcases hoff with hb | hd
  · exact Bool.false_ne_true (hb.symm.trans hon.1)
  · exact Bool.false_ne_true (hd.symm.trans hon.2)

variable {h : Half} {be : Byte} {data : U64} (hb : be.getLsbD 7 = true) (hd : data.getLsbD 63 = true)
include hb hd

theorem peakClr_present : exec (.peakClr q h be data none) s = .next (s.onHalf h fun x => { x with tpeak := x.tj }) := by
  rw [peakClr_exec hq]
  exact congrArg Host.Outcome.next (if_pos (by rw [hb, hd]; rfl))

theorem peakClr_arriving (r : Byte) :
    Completes (.peakClr q h be data (some r)) s fun t =>
      (t.hs h).tpeak.toInt = max (s.hs h).tj.toInt r.toInt ∧ (t.hs h).tj = r ∧
      t = s.onHalf h fun x => { x with tpeak := (t.hs h).tpeak, tj := r } := by
  have he : exec (.peakClr q h be data (some r)) s = .next (s.onHalf h fun x => { x with tpeak := hotter x.tj r, tj := r }) := by
    rw [peakClr_exec hq]
    exact congrArg Host.Outcome.next (if_pos (by rw [hb, hd]; rfl))
  refine ⟨_, he, ?_, ?_, ?_⟩
  · rw [State.onHalf_hs]
    exact hotter_toInt _ r
  · rw [State.onHalf_hs]
  · rw [State.onHalf_hs]
    cases h <;> rfl

end

/-! ### The log latch -/

theorem State.selectedEntry_held (s : State) (h : Half) (e : LogEnt) (he : e ∈ s.safe.logs.get h)
    (hsel : s.safe.logSel.toNat = e.number + 2 ^ 32 * e.src) (hn : e.number < 2 ^ 32)
    (huniq : ∀ f ∈ s.safe.logs.get h, f.number = e.number → f.src = e.src → f = e) : s.selectedEntry h = e.bytes := by
  have hlo : s.safe.logSel.toNat % 2 ^ 32 = e.number := by omega
  have hhi : s.safe.logSel.toNat / 2 ^ 32 = e.src := by omega
  unfold State.selectedEntry
  rw [hlo, hhi]
  dsimp only
  split
  · rename_i f hf
    have hp := List.find?_some hf
    simp only [Bool.and_eq_true, beq_iff_eq] at hp
    rw [huniq f (List.mem_of_find?_eq_some hf) hp.1 hp.2]
  · rename_i hnone
    exact absurd (List.find?_eq_none.mp hnone e he) (by simp)

theorem State.selectedEntry_gone (s : State) (h : Half)
    (hno : ∀ e ∈ s.safe.logs.get h, e.number % 2 ^ 32 ≠ s.safe.logSel.toNat % 2 ^ 32 ∨ e.src ≠ s.safe.logSel.toNat / 2 ^ 32) :
    s.selectedEntry h = zeros 64 := by
  unfold State.selectedEntry
  dsimp only
  split
  · rename_i e he
    have hp := List.find?_some he
    simp only [Bool.and_eq_true, beq_iff_eq] at hp
    obtain ⟨hnum, hsrc⟩ := hp
    exact absurd (hno e (List.mem_of_find?_eq_some he)) (by rw [hnum, hsrc]; simp)
  · rfl

theorem safeLogLatch_control {s : State} {g : Half} (hq : s.pathUp (.control g) = true) :
    exec (.safeLogLatch (.control g)) s = .next (s.onHalf g fun x => { x with latchCtl := s.selectedEntry g }) :=
  congrArg Host.Outcome.next (if_pos hq)

theorem leNat_replicate_zero (n : Nat) : leNat (List.replicate n (0 : Byte)) = 0 := by
  induction n with
  | zero => rfl
  | succ n ih => rw [List.replicate_succ]; exact congrArg (fun k => 0 + 256 * k) ih

theorem u64At_zeros (n i : Nat) : u64At (zeros n) i = 0 := by
  simp only [u64At, fld, slice, zeros, List.drop_replicate, List.take_replicate]
  exact leNat_replicate_zero _

/-- The data words of the error log read the path's latch (19 R458). -/
theorem State.ctlRead_logData (s : State) (h : Half) (i : BitVec 3) (hup : s.ctlUp h = true) :
    s.ctlRead h (0x1080 + 8 * i.toNat) = BitVec.ofNat 64 (u64At (s.latched h false) (8 * i.toNat)) := by
  have hi : i.toNat < 8 := i.isLt
  have hwin : mbxWindow = 0x100000 := rfl
  unfold State.ctlRead
  rw [if_neg (by omega), if_neg (by omega), if_neg (by simp [hup]), if_neg (by omega), if_neg (by omega), if_neg (by omega),
    if_neg (by omega), if_neg (by omega)]
  unfold State.safeRead
  rw [if_neg (by omega), if_neg (by omega), if_neg (by omega), if_neg (by omega), if_neg (by omega), if_neg (by omega),
    if_neg (by omega), if_neg (by omega), if_neg (by omega), if_neg (by omega), if_neg (by omega), if_pos (by omega),
    show (0x1080 + 8 * i.toNat - 0x1080) / 8 * 8 = 8 * i.toNat from by omega]

theorem State.latched_held (s : State) (h : Half) (hex : ∃ e ∈ s.safe.logs.get h, e.bytes = (s.hs h).latchCtl) :
    s.latched h false = (s.hs h).latchCtl := by
  obtain ⟨e, he, heq⟩ := hex
  exact if_pos (List.any_eq_true.mpr ⟨e, he, (beq_iff_eq (a := e.bytes)).mpr heq⟩)

theorem State.latched_gone (s : State) (h : Half) (hno : ∀ e ∈ s.safe.logs.get h, e.bytes ≠ (s.hs h).latchCtl) :
    s.latched h false = zeros 64 := by
  refine if_neg fun hany => ?_
  obtain ⟨e, he, heq⟩ := List.any_eq_true.mp hany
  exact hno e he (beq_iff_eq.mp heq)

end Sys2Proof.Machine

open Sys2Proof Sys2Proof.Machine

/-- Settles O25: each register's write or read goes through the path that answers. -/
theorem safelightRegisters : Obligations.SafelightRegisters := by
  intro s q h be data hq
  refine ⟨fun hb hd => ⟨peakClr_present hq hb hd, peakClr_arriving hq hb hd⟩, peakClr_stands hq h be data, ?_, ?_, ?_⟩
  · rintro g rfl
    constructor
    · intro e he hsel hn huniq
      rw [safeLogLatch_control hq, s.selectedEntry_held g e he hsel hn huniq]
    · intro hno
      rw [safeLogLatch_control hq, s.selectedEntry_gone g hno]
  · rintro i l rfl hup
    constructor
    · intro hex
      rw [s.ctlRead_logData h i hup, s.latched_held h hex]
    · intro hno
      rw [s.ctlRead_logData h i hup, s.latched_gone h hno, u64At_zeros]
      rfl
  · rintro o rfl
    exact congrArg Host.Outcome.next (if_pos hq)

end

section
/-! Responses of host memory (11 R252, R260; 17 R416, R417; 19 R459). -/
namespace Sys2Proof.Machine

/-! ### Ends of a command whose slot is served -/

theorem State.awaitServer_of_served {s : State} {k : Nat} (h : (s.slotServer k).isSome = true) (st : Nat) (o : ObjRef) (q : List Byte) :
    s.awaitServer k st o q = none := by
  unfold State.awaitServer
  split
  · rw [if_neg (by rw [Option.isNone_iff_eq_none]; rintro hn; rw [hn] at h; cases h)]
  · rfl

theorem State.fail_of_served {s : State} {k : Nat} (h : (s.slotServer k).isSome = true) (st : Nat) (o : ObjRef) :
    s.fail k st o = s.refuse k st (s.objOf o) := by
  rw [State.fail, State.awaitServer_of_served h]

theorem SameBox.commit {s u : State} (h : SameBox s u) (k : Nat) : SameBox s (u.commit k) := by
  rw [State.commit_eq]
  exact h

theorem State.commit_objOf (s : State) (k : Nat) (o : ObjRef) : (s.commit k).objOf o = s.objOf o := by
  rw [State.commit_eq]
  rfl

theorem State.complete_of_served {s : State} {k : Nat} (h : (s.slotServer k).isSome = true) (o : ObjRef) (q : List Byte) :
    s.complete k o q = s.reply k stOk (s.objOf o) q ∨ s.complete k o q = (s.commit k).reply k stOk (s.objOf o) q := by
  unfold State.complete
  rw [State.awaitServer_of_served h]
  dsimp only
  split
  · rw [State.commit_objOf]
    exact .inr rfl
  · exact .inl rfl

/-- A command whose slot is served completes from a state whose mailbox differs in what runs and what waits alone. -/
theorem Answers.of_complete {c : Instr} {s s1 u : State} {k : Byte} {o : ObjRef} {x : ObjState} {q : List Byte}
    (hw : s.mbx.mem.wf = true) (he : exec c s = .next (u.complete k.toNat o q)) (hs : (u.slotServer k.toNat).isSome = true)
    (hx : u.objOf o = x) (hb : SameBox s u) (hu : { u with mbx := s1.mbx, jr := s1.jr } = s1) (ht : u.time = s.time) (ho : x.Fits)
    (hq : q.length ≤ 2016) : Answers c s s1 k stOk x q := by
  subst hx
  rcases State.complete_of_served hs o q with h | h
  · exact Answers.of_box hw (he.trans (congrArg _ h)) hb hu ht (by decide) ho hq
  · refine Answers.of_box hw (he.trans (congrArg _ h)) (hb.commit _) ?_ ?_ (by decide) ho hq
    · rw [State.commit_eq]
      exact hu
    · rw [State.commit_eq]
      exact ht

/-- One that fails is refused. -/
theorem Answers.of_fail {c : Instr} {s s1 u : State} {k : Byte} {st : Nat} {o : ObjRef} {x : ObjState} (hw : s.mbx.mem.wf = true)
    (he : exec c s = .next (u.fail k.toNat st o)) (hs : (u.slotServer k.toNat).isSome = true) (hx : u.objOf o = x) (hb : SameBox s u)
    (hu : { u with mbx := s1.mbx, jr := s1.jr } = s1) (ht : u.time = s.time) (hst : st < 65536) (ho : x.Fits) :
    Answers c s s1 k st x [] :=
  Answers.of_box hw (he.trans (congrArg _ ((State.fail_of_served hs st o).trans (congrArg _ hx)))) hb hu ht hst ho (by simp)

theorem State.jobOf_slot {s : State} {k : Nat} {j : Job} (h : s.jobOf k = some j) : j.slot = k := by
  have := List.find?_some h
  simpa using this

theorem State.setJob_sameBox {s u : State} (h : SameBox s u) (j : Job) : SameBox s (u.setJob j) := h

/-! ### Responses -/

theorem State.log_jobOf (s : State) (side sev code a0 a1 : Nat) (d : List Byte) (k : Nat) :
    (s.log side sev code a0 a1 d).jobOf k = s.jobOf k := by simp [State.jobOf]

theorem State.log_objOf (s : State) (side sev code a0 a1 : Nat) (d : List Byte) (o : ObjRef) :
    (s.log side sev code a0 a1 d).objOf o = s.objOf o := by
  cases o <;> simp [State.objOf, engineObj, State.image, State.binding, State.route]

theorem State.log_slotServer (s : State) (side sev code a0 a1 : Nat) (d : List Byte) (k : Nat) :
    (s.log side sev code a0 a1 d).slotServer k = s.slotServer k := by
  unfold State.log
  split <;> rfl

/-- The error log is the controllers' own. -/
theorem State.log_eq (s : State) (side sev code a0 a1 : Nat) (d : List Byte) :
    s.log side sev code a0 a1 d = { s with safe := (s.log side sev code a0 a1 d).safe } := by
  unfold State.log
  split <;> rfl

/-- What is logged depends on the controllers, the halves, the engine and the time. -/
theorem State.log_safe_congr {s u : State} (hh : u.half = s.half) (hs : u.safe = s.safe) (he : u.eng = s.eng) (ht : u.time = s.time)
    (side sev code a0 a1 : Nat) (d : List Byte) : (u.log side sev code a0 a1 d).safe = (s.log side sev code a0 a1 d).safe := by
  have hr : u.reach = s.reach := by simp only [State.reach, hh]
  have hl : ∀ g, u.logger g = s.logger g := fun g => by simp only [State.logger, State.hs, hr, hh]; rfl
  unfold State.log
  rw [hl]
  cases s.logger (if side = 1 then .east else .west) with
  | none => exact hs
  | some g => cases g <;> simp only [hs, he, ht, hr]

/-- The state without an access that has ended. -/
def State.endAccess (s : State) (a : MiAcc) : State := { s with mi := s.mi.filter fun x => x != a }

section
variable {s : State} {h : Half} {tag : Byte} {a : MiAcc} (ha : s.access h tag.toNat = some a)
include ha

theorem miResponse_written (hwr : a.write = true) (data : List Byte) :
    exec (.miResponse h tag data true false) s = .next ((s.endAccess a).accessDone a []) := by
  refine congrArg Host.Outcome.next ?_
  unfold State.response
  rw [ha]
  dsimp only
  rw [if_neg (by simp), if_pos hwr]
  rfl

theorem miResponse_read {data : List Byte} (hrd : a.write = false) (hl : data.length = a.len) :
    exec (.miResponse h tag data true false) s = .next ((s.endAccess a).accessDone a data) := by
  refine congrArg Host.Outcome.next ?_
  unfold State.response
  rw [ha]
  dsimp only
  rw [if_neg (by simp), if_neg (by simp [hrd]), if_neg (by simp), if_neg (by simp [hl])]
  rfl

theorem miResponse_retries (data : List Byte) (hrd : a.write = false) (hfirst : a.retried = false) :
    exec (.miResponse h tag data false false) s =
      .next { s.endAccess a with mi := (s.endAccess a).mi ++ [{ a with retried := true }] } := by
  refine congrArg Host.Outcome.next ?_
  unfold State.response
  rw [ha]
  dsimp only
  rw [if_neg (by simp), if_neg (by simp [hrd]), if_pos (by rfl), if_neg (by simp [hfirst])]
  rfl

/-- An error and a timeout end an access alike. -/
theorem access_fails {c : Instr} {data : List Byte} (hc : c = .miTimeout h tag ∨ c = .miResponse h tag data true true) :
    exec c s = .next ((s.endAccess a).accessFailed a) := by
  rcases hc with rfl | rfl
  · refine congrArg Host.Outcome.next ?_
    rw [ha]
    rfl
  · refine congrArg Host.Outcome.next ?_
    unfold State.response
    rw [ha]
    dsimp only
    rw [if_pos rfl]
    rfl

theorem miResponse_fetches {data : List Byte} {d : Digest} {part : Nat} {i : Image} (hp : a.purpose = .fetch d part)
    (hrd : a.write = false) (hl : data.length = a.len) (hi : s.image d = some i) (hlast : i.src[part + 1]? = none) :
    exec (.miResponse h tag data true false) s =
      .next ((s.endAccess a).setImage { i with copies := i.copies.modify a.half fun b => b ++ data }) := by
  have hi' : (s.endAccess a).image d = some i := hi
  rw [miResponse_read ha hrd hl, State.accessDone, hp]
  dsimp only
  rw [State.fetchPart, hi']
  dsimp only
  rw [hlast]

section
variable {k : Byte} {part : Nat} {j : Job} (hp : a.purpose = .job k.toNat part) (hj : s.jobOf k.toNat = some j)
include hp hj

theorem miResponse_completes (data : List Byte) (hw : s.mbx.mem.wf = true) (ho : (s.objOf j.obj).Fits)
    (hs : (s.slotServer k.toNat).isSome = true) (hwr : a.write = true) (hx : j.code ≠ cJExport) (hsave : j.code ≠ cSave)
    (hr : j.reply.length ≤ 2016) :
    Answers (.miResponse h tag data true false) s (s.endAccess a) k stOk (s.objOf j.obj) j.reply := by
  have hj' : (s.endAccess a).jobOf k.toNat = some j := hj
  have he : (s.endAccess a).accessDone a [] = (s.endAccess a).complete k.toNat j.obj j.reply := by
    rw [State.accessDone, hp]
    dsimp only
    rw [if_pos hwr, State.partWritten, hj']
    dsimp only
    rw [if_neg (by rw [Bool.not_eq_true, Option.isNone_eq_false_iff]; exact hs), State.written, if_neg hsave, if_neg hx, State.jobOf_slot hj]
  exact Answers.of_complete hw ((miResponse_written ha hwr data).trans (congrArg _ he)) hs rfl rfl rfl rfl ho hr

theorem miResponse_keeps {data : List Byte} (hrd : a.write = false) (hl : data.length = a.len) (hleft : 2 ≤ j.left) :
    exec (.miResponse h tag data true false) s =
      .next ((s.endAccess a).setJob { j with parts := j.parts.set part data, left := j.left - 1 }) := by
  have hj' : (s.endAccess a).jobOf k.toNat = some j := hj
  rw [miResponse_read ha hrd hl, State.accessDone, hp]
  dsimp only
  rw [if_neg (by simp [hrd]), State.partRead, hj']
  dsimp only
  rw [if_pos (by omega)]

theorem miResponse_refusesCreation {data : List Byte} (hw : s.mbx.mem.wf = true) (hs : (s.slotServer k.toNat).isSome = true)
    (hrd : a.write = false) (hl : data.length = a.len) (hleft : j.left = 1) (hc : j.code = cCreate) (hn : u16At j.body 0xF0 ≠ 0)
    (hcrc : (descAt j.body 0x120).crcOk ((j.parts.set part data).headD []) = false) :
    Answers (.miResponse h tag data true false) s (s.endAccess a) k stArg noBnd [] := by
  have hj' : (s.endAccess a).jobOf k.toNat = some j := hj
  have he : (s.endAccess a).accessDone a data =
      ((s.endAccess a).setJob { j with parts := j.parts.set part data, left := j.left - 1 }).reply k.toNat stArg noBnd [] := by
    rw [State.accessDone, hp]
    dsimp only
    rw [if_neg (by simp [hrd]), State.partRead, hj']
    dsimp only
    rw [if_neg (by omega), if_neg (by rw [Bool.not_eq_true, Option.isNone_eq_false_iff]; exact hs), State.gathered]
    dsimp only
    rw [if_neg (by rw [hc]; decide), if_pos hc, State.createLists]
    dsimp only
    rw [if_neg hn, hcrc, if_pos (by simp [hn]), State.jobOf_slot hj, State.refuse]
  exact Answers.of_box hw ((miResponse_read ha hrd hl).trans (congrArg _ he)) rfl rfl rfl (by decide) (by decide) (by simp)

variable {c : Instr} {data : List Byte} (hc : c = .miTimeout h tag ∨ c = .miResponse h tag data true true)
include hc

theorem access_faults (hw : s.mbx.mem.wf = true) (ho : (s.objOf j.obj).Fits) (hs : (s.slotServer k.toNat).isSome = true)
    (hsave : j.code ≠ cSave) :
    Completes c s fun t => Replied s t k stFault (s.objOf j.obj) [] ∧ t.safe = (s.log engineSide 0 0x0013 a.addr 0 []).safe ∧
      { t with mbx := s.mbx, jr := s.jr, safe := s.safe } =
        { s.endAccess a with mi := (s.endAccess a).mi.filter fun x => x.notOf k.toNat } := by
  have hj' : (s.endAccess a).jobOf k.toNat = some j := hj
  have hs' : ((s.endAccess a).slotServer k.toNat).isNone = false := Option.isNone_eq_false_iff.mpr hs
  have he : (s.endAccess a).accessFailed a =
      ((s.endAccess a).log engineSide 0 0x0013 a.addr 0 []).refuse k.toNat stFault (s.objOf j.obj) := by
    rw [State.accessFailed, hp]
    dsimp only
    rw [State.partFailed, hj']
    dsimp only
    rw [hs', if_neg Bool.false_ne_true, State.jobFailed, if_neg hsave, State.jobOf_slot hj, State.jobFault]
    rw [State.log_jobOf, hj', State.fail_of_served (by rw [State.log_slotServer]; exact hs), State.log_objOf]
    rfl
  refine ⟨_, (access_fails ha hc).trans (congrArg _ he), ?_⟩
  have hlog := (s.endAccess a).log_eq engineSide 0 0x0013 a.addr 0 []
  have hsafe : ((s.endAccess a).log engineSide 0 0x0013 a.addr 0 []).safe = (s.log engineSide 0 0x0013 a.addr 0 []).safe :=
    State.log_safe_congr (s := s) (u := s.endAccess a) rfl rfl rfl rfl ..
  rw [hsafe] at hlog
  rw [hlog]
  obtain ⟨m, n, hm⟩ := (State.refuse_only ({ s.endAccess a with safe := (s.log engineSide 0 0x0013 a.addr 0 []).safe } : State) k
    stFault (s.objOf j.obj)).exists_eq
  refine ⟨State.refuse_replied k stFault _ hw rfl rfl (by decide) ho, ?_, ?_⟩
  · rw [hm]
  · rw [hm]
    rfl

theorem access_waits (hs : s.slotServer k.toNat = none) :
    exec c s = .next ((s.endAccess a).setJob { j with due := true, failed := some a.addr }) := by
  have hj' : (s.endAccess a).jobOf k.toNat = some j := hj
  have hs' : (s.endAccess a).slotServer k.toNat = none := hs
  rw [access_fails ha hc, State.accessFailed, hp]
  dsimp only
  rw [State.partFailed, hj']
  dsimp only
  rw [hs']
  rfl

end

end

end Sys2Proof.Machine

open Sys2Proof Sys2Proof.Machine

/-- Settles O5: an access ends in one of the ways that its purpose has. -/
theorem hostMemoryAnswers : Obligations.HostMemoryAnswers := by
  intro s h tag data a hw ha
  refine ⟨fun k part j hp hj hk hst => ⟨miResponse_completes ha hp hj data hw ⟨hk, hst⟩, miResponse_keeps ha hp hj,
    miResponse_refusesCreation ha hp hj hw, fun c hc => ⟨access_faults ha hp hj hc hw ⟨hk, hst⟩, access_waits ha hp hj hc⟩⟩,
    miResponse_retries ha data, fun d part i => miResponse_fetches ha⟩

end

section
/-! What the work for a route leaves alone: banks, chains and the journal change (`Aside`); a release, an output or an end changes the
routes and their streams, too (`RouteWork`). -/
namespace Sys2Proof.Machine

/-- Putting twice at an index is putting once. -/
@[simp] theorem Tab.put_put {α : Type} (t : Tab α) (i : Nat) (v w : α) : (t.put i v).put i w = t.put i w := by
  induction t with
  | nil => simp [Tab.put]
  | cons x t ih =>
    obtain ⟨k, u⟩ := x
    simp only [Tab.put]
    split
    · simp [Tab.put]
    · split
      · simp [Tab.put]
      · rename_i h1 h2
        simp only [Tab.put, if_neg h1, if_neg h2, ih]

theorem State.setRoute_setRoute (s : State) (q r : Route) (h : q.handle = r.handle) : (s.setRoute q).setRoute r = s.setRoute r := by
  simp [State.setRoute, h]

/-! ### Banks -/

/-- What a half's part in the engine rests on, apart from its banks. -/
def HalfSt.seat (x : HalfSt) : HCode × FCode × Bool × Bool × Nat × U16 × Bool :=
  (x.code, x.fw, x.safeUp, x.heartbeat, x.rate, x.stackMask, x.hold)

@[simp] theorem HalfSt.clear_seat (x : HalfSt) (w : ClearFor) (n : Nat) : (x.clear w n).seat = x.seat := rfl

@[simp] theorem HalfSt.freeSlots_seat (x : HalfSt) (n : Nat) : (x.freeSlots n).seat = x.seat := by
  unfold HalfSt.freeSlots
  split <;> rfl

/-- Nothing changes but what the halves' banks hold. -/
structure Banks (s t : State) : Prop where
  rest : { t with half := s.half } = s
  seat : ∀ h, (t.hs h).seat = (s.hs h).seat

namespace Banks

variable {s t u : State}

theorem refl (s : State) : Banks s s := ⟨rfl, fun _ => rfl⟩

theorem trans (h : Banks s t) (k : Banks t u) : Banks s u := by
  have e := congrArg (fun x : State => { x with half := s.half }) k.rest
  exact ⟨e.trans h.rest, fun g => (k.seat g).trans (h.seat g)⟩

theorem eq (h : Banks s t) : t = { s with half := t.half } := by
  have e := congrArg (fun x : State => { x with half := t.half }) h.rest
  exact e

theorem foldl {α : Type} {f : State → α → State} (hf : ∀ t x, Banks t (f t x)) (l : List α) (s : State) : Banks s (l.foldl f s) := by
  induction l generalizing s with
  | nil => exact refl s
  | cons x l ih => exact (hf s x).trans (ih _)

theorem onHalf (s : State) (h : Half) {f : HalfSt → HalfSt} (hf : ∀ x, (f x).seat = x.seat) : Banks s (s.onHalf h f) := by
  refine ⟨rfl, fun g => ?_⟩
  cases h with
  | west => cases g with
    | west => exact hf _
    | east => rfl
  | east => cases g with
    | west => rfl
    | east => exact hf _

theorem countFault (s : State) (h : Half) (i n : Nat) : Banks s (s.countFault h i n) := onHalf s h fun _ => rfl

theorem countStep (s : State) (h : Half) (i n : Nat) : Banks s (s.countStep h i n) := onHalf s h fun _ => rfl

theorem eachHalf (s : State) (hs : List Half) {f : HalfSt → HalfSt} (hf : ∀ x, (f x).seat = x.seat) : Banks s (s.eachHalf hs f) :=
  foldl (fun t h => onHalf t h hf) hs s

theorem wantMasks (s : State) (b : Binding) (r : Route) (gs : List Nat) : Banks s (s.wantMasks b r gs) := eachHalf s _ fun _ => rfl

theorem freeDrafts (s : State) (r : Route) : Banks s (s.freeDrafts r) := by
  unfold State.freeDrafts
  split
  · split
    · exact onHalf s _ fun x => x.freeSlots_seat _
    · exact refl s
  · exact refl s

theorem freeStep (s : State) (r : Route) : Banks s (s.freeStep r) := by
  unfold State.freeStep
  split
  · split
    · exact refl s
    · exact eachHalf s _ fun x => x.freeSlots_seat _
  · exact refl s

theorem freePassed (s : State) (r : Route) (next : Nat) : Banks s (s.freePassed r next) := by
  unfold State.freePassed
  dsimp only
  split
  · exact (freeStep s r).trans (freeDrafts _ r)
  · exact freeStep s r

theorem countCopies (s : State) (gone : Halves (List Copy)) : Banks s (s.countCopies gone) := by
  have h : ∀ (t : State), Banks t (if gone.e.isEmpty then t else t.countStep .east 2 gone.e.length) := by
    intro t
    split
    · exact refl t
    · exact countStep ..
  have hw : Banks s (if gone.w.isEmpty then s else s.countStep .west 2 gone.w.length) := by
    split
    · exact refl s
    · exact countStep ..
  exact hw.trans (h _)

theorem fillHead (s : State) (h : Half) (d : Digest) (x : HeadShare) (n : Nat) : Banks s (s.fillHead h d x n) := by
  unfold State.fillHead
  dsimp only
  split
  · exact refl s
  · split
    · exact onHalf s h fun _ => rfl
    · exact refl s

theorem fillFor (s : State) (b : Binding) : Banks s (s.fillFor b) := by
  unfold State.fillFor
  split
  · exact refl s
  · exact foldl (fun t h => fillHead t ..) _ s

theorem loadFinder (s : State) (h : Half) (b : Binding) (x : ImgSet) : Banks s (s.loadFinder h b x) := by
  unfold State.loadFinder
  split
  · exact onHalf s h fun _ => rfl
  · exact refl s

theorem loadFinders (s : State) (b : Binding) (x : ImgSet) : Banks s (s.loadFinders b x) :=
  foldl (fun t h => loadFinder t h b x) _ s

end Banks

/-! ### Aside -/

/-- Nothing changes but what the halves' banks hold, what the chains carry, and the journal. -/
structure Aside (s t : State) : Prop where
  rest : { t with half := s.half, chains := s.chains, jr := s.jr } = s
  seat : ∀ h, (t.hs h).seat = (s.hs h).seat

theorem Banks.aside {s t : State} (h : Banks s t) : Aside s t := by
  have e := congrArg (fun x : State => { x with chains := s.chains, jr := s.jr }) h.rest
  exact ⟨e, h.seat⟩

namespace Aside

variable {s t u : State}

theorem refl (s : State) : Aside s s := ⟨rfl, fun _ => rfl⟩

theorem trans (h : Aside s t) (k : Aside t u) : Aside s u := by
  have e := congrArg (fun x : State => { x with half := s.half, chains := s.chains, jr := s.jr }) k.rest
  exact ⟨e.trans h.rest, fun g => (k.seat g).trans (h.seat g)⟩

theorem eq (h : Aside s t) : t = { s with half := t.half, chains := t.chains, jr := t.jr } := by
  have e := congrArg (fun x : State => { x with half := t.half, chains := t.chains, jr := t.jr }) h.rest
  exact e

theorem rt (h : Aside s t) : t.rt = s.rt := by have := congrArg State.rt h.rest; exact this
theorem bnd (h : Aside s t) : t.bnd = s.bnd := by have := congrArg State.bnd h.rest; exact this
theorem img (h : Aside s t) : t.img = s.img := by have := congrArg State.img h.rest; exact this
theorem eng (h : Aside s t) : t.eng = s.eng := by have := congrArg State.eng h.rest; exact this
theorem mbx (h : Aside s t) : t.mbx = s.mbx := by have := congrArg State.mbx h.rest; exact this
theorem bench (h : Aside s t) : t.bench = s.bench := by have := congrArg State.bench h.rest; exact this
theorem str (h : Aside s t) : t.str = s.str := by have := congrArg State.str h.rest; exact this
theorem safe (h : Aside s t) : t.safe = s.safe := by have := congrArg State.safe h.rest; exact this
theorem time (h : Aside s t) : t.time = s.time := by have := congrArg State.time h.rest; exact this
theorem lanes (h : Aside s t) : t.lanes = s.lanes := by have := congrArg State.lanes h.rest; exact this
theorem level (h : Aside s t) : t.level = s.level := by have := congrArg State.level h.rest; exact this

theorem foldl {α : Type} {f : State → α → State} (hf : ∀ t x, Aside t (f t x)) (l : List α) (s : State) : Aside s (l.foldl f s) := by
  induction l generalizing s with
  | nil => exact refl s
  | cons x l ih => exact (hf s x).trans (ih _)

theorem journal (s : State) (h : Half) (kind subject : Nat) (p : List Byte) : Aside s (s.journal h kind subject p) := by
  rw [State.journal_eq]
  exact ⟨rfl, fun _ => rfl⟩

theorem onChain (s : State) (h : Half) (c : Nat) (f : Chain → Chain) : Aside s (s.onChain h c f) := ⟨rfl, fun _ => rfl⟩

theorem sendOut (s : State) (h : Half) (c : Nat) (o : Out) : Aside s (s.sendOut h c o) := onChain ..

theorem sendTok (s : State) (h : Half) (c : Option Nat) (t : TokEntry) : Aside s (s.sendTok h c t) := by
  cases c with
  | none => exact refl s
  | some c => exact sendOut ..

theorem sendPrt (s : State) (h : Half) (dst : Nat) (e : List Byte) : Aside s (s.sendPrt h dst e) := by
  unfold State.sendPrt
  dsimp only
  split
  · exact foldl (fun t o => sendOut t ..) _ s
  · exact refl s

theorem toMember (s : State) (b : Binding) (r : Route) (m kind flags step pos : Nat) (body : List Byte) :
    Aside s (s.toMember b r m kind flags step pos body) := sendPrt ..

theorem toMembers (s : State) (b : Binding) (r : Route) (kind flags step pos : Nat) (body : List Byte) :
    Aside s (s.toMembers b r kind flags step pos body) := foldl (fun t _ => toMember t ..) _ s

theorem mark (s : State) (h : Half) (kind subject step binding : Nat) : Aside s (s.mark h kind subject step binding) := journal ..

theorem recovery (s : State) (h : Half) (cause handle step : Nat) : Aside s (s.recovery h cause handle step) := journal ..

theorem journalRelease (s : State) (b : Binding) (r : Route) (x : Release) (cs : List Contact) :
    Aside s (s.journalRelease b r x cs) := by
  unfold State.journalRelease
  have h : ∀ (l : List (Taken × Contact)) (p : State × Nat), Aside s p.1 → Aside s (l.foldl (fun (p : State × Nat) tc =>
      (p.1.journal r.half 0x24 r.handle
        (contactPayload (profileOf b.profile) (b.set.csi != 0) r.salt p.2 b.shard b.shards tc.1 tc.2), p.2 + 1)) p).1 := by
    intro l
    induction l with
    | nil => exact fun p hp => hp
    | cons y l ih => exact fun p hp => ih _ (hp.trans (journal ..))
  exact h _ _ (journal ..)

end Aside

/-! ### The work for a route -/

/-- Nothing changes but the banks, the chains, the journal, the routes and their streams. -/
structure RouteWork (s t : State) : Prop where
  rest : { t with half := s.half, chains := s.chains, jr := s.jr, rt := s.rt, str := s.str } = s
  seat : ∀ h, (t.hs h).seat = (s.hs h).seat

theorem Aside.work {s t : State} (h : Aside s t) : RouteWork s t := by
  have e := congrArg (fun x : State => { x with rt := s.rt, str := s.str }) h.rest
  exact ⟨e, h.seat⟩

namespace RouteWork

variable {s t u : State}

theorem refl (s : State) : RouteWork s s := ⟨rfl, fun _ => rfl⟩

theorem trans (h : RouteWork s t) (k : RouteWork t u) : RouteWork s u := by
  have e := congrArg (fun x : State => { x with half := s.half, chains := s.chains, jr := s.jr, rt := s.rt, str := s.str }) k.rest
  exact ⟨e.trans h.rest, fun g => (k.seat g).trans (h.seat g)⟩

theorem eq (h : RouteWork s t) : t = { s with half := t.half, chains := t.chains, jr := t.jr, rt := t.rt, str := t.str } := by
  have e := congrArg (fun x : State => { x with half := t.half, chains := t.chains, jr := t.jr, rt := t.rt, str := t.str }) h.rest
  exact e

theorem bnd (h : RouteWork s t) : t.bnd = s.bnd := by have := congrArg State.bnd h.rest; exact this
theorem img (h : RouteWork s t) : t.img = s.img := by have := congrArg State.img h.rest; exact this
theorem eng (h : RouteWork s t) : t.eng = s.eng := by have := congrArg State.eng h.rest; exact this
theorem mbx (h : RouteWork s t) : t.mbx = s.mbx := by have := congrArg State.mbx h.rest; exact this
theorem bench (h : RouteWork s t) : t.bench = s.bench := by have := congrArg State.bench h.rest; exact this
theorem safe (h : RouteWork s t) : t.safe = s.safe := by have := congrArg State.safe h.rest; exact this
theorem time (h : RouteWork s t) : t.time = s.time := by have := congrArg State.time h.rest; exact this
theorem lanes (h : RouteWork s t) : t.lanes = s.lanes := by have := congrArg State.lanes h.rest; exact this
theorem level (h : RouteWork s t) : t.level = s.level := by have := congrArg State.level h.rest; exact this
theorem mi (h : RouteWork s t) : t.mi = s.mi := by have := congrArg State.mi h.rest; exact this

theorem foldl {α : Type} {f : State → α → State} (hf : ∀ t x, RouteWork t (f t x)) (l : List α) (s : State) :
    RouteWork s (l.foldl f s) := by
  induction l generalizing s with
  | nil => exact refl s
  | cons x l ih => exact (hf s x).trans (ih _)

theorem setRoute (s : State) (r : Route) : RouteWork s (s.setRoute r) := ⟨rfl, fun _ => rfl⟩

theorem queueRecs (s : State) (r : Route) (recs : List (List Byte)) : RouteWork s (s.queueRecs r recs) := ⟨rfl, fun _ => rfl⟩

theorem emit (s : State) (r : Route) (recs : List OutRec) : RouteWork s (s.emit r recs) := queueRecs ..

theorem freeSpent (s : State) (r : Route) : RouteWork s (s.freeSpent r) := by
  unfold State.freeSpent
  split
  · exact refl s
  · exact (Banks.eachHalf s _ fun _ => by dsimp only; split <;> rfl).aside.work.trans (setRoute ..)

theorem output (s : State) (r : Route) (tok : Option TokEntry) (recs : List OutRec) (more : Bool) :
    RouteWork s (s.output r tok recs more) := by
  have h : ∀ t : State, RouteWork t (match t.route r.handle with
      | some q => t.freeSpent q
      | none => t) := by
    intro t
    split
    · exact freeSpent ..
    · exact refl t
  unfold State.output
  dsimp only
  refine trans ?_ (h _)
  cases tok with
  | none => exact emit ..
  | some x => exact (Aside.sendTok s ..).work.trans (emit ..)

theorem endRoute (s : State) (b : Binding) (r : Route) (set : ImgSet) (c : EndCause) (tok more : Bool) :
    RouteWork s (s.endRoute b r set c tok more) := by
  unfold State.endRoute
  dsimp only
  have h : ∀ p, RouteWork s ((((s.freeDrafts r).freeStep r).countCopies r.copies).journal r.half 0x22 r.handle p) := fun p =>
    ((((Banks.freeDrafts s r).trans (.freeStep _ r)).trans (.countCopies _ r.copies)).aside.trans (.journal ..)).work
  split
  · split
    · exact (h _).trans ((output ..).trans (Aside.toMembers ..).work)
    · exact (h _).trans (output ..)
  · exact (h _).trans (setRoute ..)

theorem holdPaused (s : State) (r : Route) : RouteWork s (s.holdPaused r) := (Banks.freeDrafts s r).aside.work.trans (setRoute ..)

theorem markDue (s : State) (r : Route) : RouteWork s (s.markDue r) := by
  unfold State.markDue
  split
  · exact (setRoute s _).trans (Aside.mark ..).work
  · exact refl s

theorem checkpoint (s : State) (b : Binding) (r : Route) : RouteWork s (s.checkpoint b r) := by
  unfold State.checkpoint
  split
  · exact (Aside.journal s ..).work.trans (setRoute ..)
  · exact refl s

theorem checkpointOf (s : State) (r : Route) : RouteWork s (s.checkpointOf r) := by
  unfold State.checkpointOf
  split
  · split
    · split
      · exact checkpoint ..
      · exact refl s
    · exact refl s
  · exact refl s

theorem checkpoints (s : State) : RouteWork s s.checkpoints := foldl checkpointOf _ s

theorem afterCommit (s : State) (b : Binding) (r : Route) (x : Release) (now : Nat) : RouteWork s (s.afterCommit b r x now) := by
  unfold State.afterCommit
  dsimp only
  split
  · exact endRoute ..
  · split
    · exact endRoute ..
    · exact refl s
  · split
    · exact endRoute ..
    · exact refl s

end RouteWork

/-! ### The route that an output leaves -/

/-- A route as it is but for what counts and holds its outputs, and for the copy of its record. -/
def Route.OutputOf (q r : Route) : Prop :=
  { q with waitRecs := r.waitRecs, outSeq := r.outSeq, outBytes := r.outBytes, spent := r.spent, lastToks := r.lastToks
           lastRecs := r.lastRecs, mirror := r.mirror } = r

namespace Route.OutputOf

variable {p q r : Route}

theorem refl (r : Route) : r.OutputOf r := rfl

theorem trans (h : q.OutputOf r) (k : p.OutputOf q) : p.OutputOf r := by
  unfold Route.OutputOf at h k ⊢
  have e := congrArg (fun x : Route => { x with
    waitRecs := r.waitRecs, outSeq := r.outSeq, outBytes := r.outBytes, spent := r.spent, lastToks := r.lastToks
    lastRecs := r.lastRecs, mirror := r.mirror }) k
  exact e.trans h

theorem handle (h : q.OutputOf r) : q.handle = r.handle := by have := congrArg Route.handle h; exact this
theorem state (h : q.OutputOf r) : q.state = r.state := by have := congrArg Route.state h; exact this
theorem ending (h : q.OutputOf r) : q.ending = r.ending := by have := congrArg Route.ending h; exact this
theorem next (h : q.OutputOf r) : q.next = r.next := by have := congrArg Route.next h; exact this
theorem rel (h : q.OutputOf r) : q.rel = r.rel := by have := congrArg Route.rel h; exact this
theorem adm (h : q.OutputOf r) : q.adm = r.adm := by have := congrArg Route.adm h; exact this
theorem binding (h : q.OutputOf r) : q.binding = r.binding := by have := congrArg Route.binding h; exact this

end Route.OutputOf

theorem State.twin_outputOf (s : State) (r : Route) : (s.twin r).OutputOf r := by
  unfold State.twin
  split <;> rfl

theorem State.twin_mirror {s : State} (h : s.bothServe = true) (r : Route) : (s.twin r).mirror = (s.twin r).recOf := by
  unfold State.twin
  rw [if_pos h]
  rfl

theorem State.queueRecs_rt (s : State) (r : Route) (recs : List (List Byte)) :
    ∃ w, (s.queueRecs r recs).rt = s.rt.put (routeIndex r.handle) { r with waitRecs := w } := ⟨_, rfl⟩

theorem State.emit_rt (s : State) (r : Route) (recs : List OutRec) :
    ∃ q, q.OutputOf r ∧ (s.emit r recs).rt = s.rt.put (routeIndex r.handle) q ∧ (s.bothServe = true → q.mirror = q.recOf) := by
  have h1 : Route.OutputOf { r with outSeq := topOut (2 ^ 32) (r.outSeq + recs.length) } r := rfl
  have h2 := s.twin_outputOf { r with outSeq := topOut (2 ^ 32) (r.outSeq + recs.length) }
  have hm := fun (hb : s.bothServe = true) => State.twin_mirror hb { r with outSeq := topOut (2 ^ 32) (r.outSeq + recs.length) }
  obtain ⟨w, hw⟩ := s.queueRecs_rt (s.twin { r with outSeq := topOut (2 ^ 32) (r.outSeq + recs.length) })
    (numberRecs r.handle r.outSeq recs)
  unfold State.emit
  generalize s.twin { r with outSeq := topOut (2 ^ 32) (r.outSeq + recs.length) } = q at *
  have h3 : Route.OutputOf { q with waitRecs := w } q := rfl
  refine ⟨{ q with waitRecs := w }, (h1.trans h2).trans h3, ?_, hm⟩
  rw [hw, (h1.trans h2).handle]

theorem State.freeSpent_rt (s : State) (r : Route) :
    (s.freeSpent r).rt = s.rt ∨ (s.freeSpent r).rt = s.rt.put (routeIndex r.handle) { r with spent := 0, outBytes := 0 } := by
  unfold State.freeSpent
  split
  · exact .inl rfl
  · refine .inr ?_
    rw [State.setRoute, Aside.rt (Banks.eachHalf _ _ fun _ => by dsimp only; split <;> rfl).aside]

theorem State.route_put {s : State} {t : Tab Route} {r : Route} (h : s.rt = t.put (routeIndex r.handle) r) :
    s.route r.handle = some r := by
  simp [State.route, h]

/-- An output leaves the route in the table, with its outputs counted and, while both halves serve, both copies of its record alike. -/
theorem State.output_rt (s : State) (r : Route) (tok : Option TokEntry) (recs : List OutRec) (more : Bool) :
    ∃ q, q.OutputOf r ∧ (s.output r tok recs more).rt = s.rt.put (routeIndex r.handle) q ∧
      (s.bothServe = true → q.mirror = q.recOf) := by
  have key : ∀ (a : State) (x : Route), x.OutputOf r → a.rt = s.rt → a.bothServe = s.bothServe →
      ∃ q, q.OutputOf r ∧ (match (a.emit x recs).route r.handle with
        | some q => (a.emit x recs).freeSpent q
        | none => a.emit x recs).rt = s.rt.put (routeIndex r.handle) q ∧ (s.bothServe = true → q.mirror = q.recOf) := by
    intro a x hx ha hb
    obtain ⟨q, hq, hrt, hm⟩ := a.emit_rt x recs
    have hqr := hx.trans hq
    rw [ha, hx.handle] at hrt
    have hroute : (a.emit x recs).route r.handle = some q := by
      rw [← hqr.handle] at hrt ⊢
      exact State.route_put hrt
    rw [hroute]
    rcases (a.emit x recs).freeSpent_rt q with h | h
    · exact ⟨q, hqr, h.trans hrt, fun hs => hm (hb.trans hs)⟩
    · refine ⟨{ q with spent := 0, outBytes := 0 }, hqr.trans (show Route.OutputOf { q with spent := 0, outBytes := 0 } q from rfl), ?_,
        fun hs => hm (hb.trans hs)⟩
      rw [h, hrt, hqr.handle, Tab.put_put]
  unfold State.output
  dsimp only
  cases tok with
  | none => exact key s _ rfl rfl rfl
  | some x =>
    refine key (s.sendTok ..) _ rfl (Aside.sendTok ..).rt ?_
    unfold State.sendTok
    split <;> rfl

/-- A route that ends stands ENDED in the table at its last release, with nothing admitted. -/
structure EndedOf (q r : Route) (c : EndCause) : Prop where
  handle : q.handle = r.handle
  state : q.state = .ended
  ending : q.ending = c
  next : q.next = r.next
  gen : q.rel.gen = r.rel.gen
  adm : q.adm = none
  binding : q.binding = r.binding
  rests : q.forcedMore = false ∧ q.saving = false ∧ q.pauseDue = false ∧ q.entries = r.entries ∧ q.markDue = r.markDue
  copies : q.copies = ⟨[], []⟩

theorem EndedOf.output {p q r : Route} {c : EndCause} (h : EndedOf q r c) (hp : p.OutputOf q) : EndedOf p r c := by
  have he := congrArg (fun y : Route => (y.forcedMore, y.saving, y.pauseDue, y.entries, y.markDue, y.copies)) hp
  simp only [Prod.mk.injEq] at he
  obtain ⟨h1, h2, h3, h4, h5, h6⟩ := he
  obtain ⟨r1, r2, r3, r4, r5⟩ := h.rests
  exact ⟨hp.handle.trans h.handle, hp.state.trans h.state, hp.ending.trans h.ending, hp.next.trans h.next,
    (congrArg Rel.gen hp.rel).trans h.gen, hp.adm.trans h.adm, hp.binding.trans h.binding,
    ⟨h1.trans r1, h2.trans r2, h3.trans r3, h4.trans r4, h5.trans r5⟩, h6.trans h.copies⟩

theorem State.output_ended {s a : State} {x r : Route} {c : EndCause} (ha : a.rt = s.rt) (hx : EndedOf x r c) (tok : Option TokEntry)
    (recs : List OutRec) (more : Bool) :
    ∃ q, EndedOf q r c ∧ (a.output x tok recs more).rt = s.rt.put (routeIndex r.handle) q := by
  obtain ⟨q, hq, hrt, -⟩ := a.output_rt x tok recs more
  rw [ha, hx.handle] at hrt
  exact ⟨q, hx.output hq, hrt⟩

theorem State.twin_ended {s a u : State} {x r : Route} {c : EndCause} (ha : a.rt = s.rt) (hx : EndedOf x r c) :
    ∃ q, EndedOf q r c ∧ (a.setRoute (u.twin x)).rt = s.rt.put (routeIndex r.handle) q := by
  have hq := hx.output (u.twin_outputOf x)
  exact ⟨_, hq, by rw [State.setRoute, ha, hq.handle]⟩

theorem State.endRoute_rt (s : State) (b : Binding) (r : Route) (set : ImgSet) (c : EndCause) (tok more : Bool) :
    ∃ q, EndedOf q r c ∧ (s.endRoute b r set c tok more).rt = s.rt.put (routeIndex r.handle) q := by
  have ha : ∀ p, ((((s.freeDrafts r).freeStep r).countCopies r.copies).journal r.half 0x22 r.handle p).rt = s.rt := fun p =>
    ((((Banks.freeDrafts s r).trans (.freeStep _ r)).trans (.countCopies _ r.copies)).aside.trans (.journal ..)).rt
  unfold State.endRoute
  dsimp only
  split
  · split
    · rw [(Aside.toMembers ..).rt]
      refine State.output_ended (ha _) ?_ _ _ _
      exact ⟨rfl, rfl, rfl, rfl, rfl, rfl, rfl, ⟨rfl, rfl, rfl, rfl, rfl⟩, rfl⟩
    · refine State.output_ended (ha _) ?_ _ _ _
      exact ⟨rfl, rfl, rfl, rfl, rfl, rfl, rfl, ⟨rfl, rfl, rfl, rfl, rfl⟩, rfl⟩
  · refine State.twin_ended (ha _) ?_
    exact ⟨rfl, rfl, rfl, rfl, rfl, rfl, rfl, ⟨rfl, rfl, rfl, rfl, rfl⟩, rfl⟩

end Sys2Proof.Machine

end

section
/-! Bindings move (10 R227-R234; 12 R271-R275). -/
namespace Sys2Proof.Machine

variable {s : State} {k : Byte} {p : List Byte}

/-! ### The images of a set -/

theorem State.foldl_wantVerified_of_verified {l : List Digest} (h : ∀ d ∈ l, ∃ i, s.image d = some i ∧ i.state = .verified) :
    l.foldl State.wantVerified s = s := by
  induction l with
  | nil => rfl
  | cons d l ih =>
    obtain ⟨i, hi, hv⟩ := h d (List.mem_cons_self ..)
    have hw : s.wantVerified d = s := by
      simp [State.wantVerified, hi, hv]
    rw [List.foldl_cons, hw]
    exact ih fun e he => h e (List.mem_cons_of_mem _ he)

theorem State.imagesOutcome_of_verified {x : ImgSet} (h : ∀ d ∈ x.digests, ∃ i, s.image d = some i ∧ i.state = .verified)
    (own : ObjState) : s.imagesOutcome x own = some (stOk, own) := by
  have hbad : (x.digests.findSome? fun d =>
      match s.image d with
      | none => some (stState, noImg)
      | some i => if i.state = .failed then some (i.vstatus, imgObj i) else if i.state = .revoked then some (stSignature, own) else none) =
      none := by
    rw [List.findSome?_eq_none_iff]
    intro d hd
    obtain ⟨i, hi, hv⟩ := h d hd
    simp [hi, hv]
  have hall : (x.digests.all fun d => ((s.image d).map fun i => i.state) == some .verified) = true := by
    rw [List.all_eq_true]
    intro d hd
    obtain ⟨i, hi, hv⟩ := h d hd
    simp [hi, hv]
  unfold State.imagesOutcome
  dsimp only
  split
  · rename_i r hr
    exact absurd (hbad.symm.trans hr) nofun
  · rw [if_pos hall]

/-! ### What leaves the store -/

@[simp] theorem HalfSt.dropFinder_seat (x : HalfSt) (o : FOwner) : (x.dropFinder o).seat = x.seat := by
  unfold HalfSt.dropFinder
  dsimp only
  split <;> rfl

@[simp] theorem HalfSt.forget_seat (x : HalfSt) (d : Digest) (n : Nat) : (x.forget d n).seat = x.seat := by
  have hc : (x.dropCached d).seat = x.seat := by
    unfold HalfSt.dropCached
    dsimp only
    split <;> rfl
  exact ((x.dropCached d).dropFinder_seat (.image d)).trans hc

/-- Nothing changes but the store, the halves' banks, and the accesses of host memory. -/
structure StoreWork (s t : State) : Prop where
  rest : { t with img := s.img, half := s.half, mi := s.mi } = s
  seat : ∀ h, (t.hs h).seat = (s.hs h).seat

theorem StoreWork.refl (s : State) : StoreWork s s := ⟨rfl, fun _ => rfl⟩

theorem StoreWork.trans {s t u : State} (h : StoreWork s t) (k : StoreWork t u) : StoreWork s u := by
  have e := congrArg (fun x : State => { x with img := s.img, half := s.half, mi := s.mi }) k.rest
  exact ⟨e.trans h.rest, fun g => (k.seat g).trans (h.seat g)⟩

theorem Banks.storeWork {s t : State} (h : Banks s t) : StoreWork s t := by
  have e := congrArg (fun x : State => { x with img := s.img, mi := s.mi }) h.rest
  exact ⟨e, h.seat⟩

theorem StoreWork.eq {s t : State} (h : StoreWork s t) : t = { s with img := t.img, half := t.half, mi := t.mi } := by
  have e := congrArg (fun x : State => { x with img := t.img, half := t.half, mi := t.mi }) h.rest
  exact e

theorem Halves.get_map_seat (s : State) {f : HalfSt → HalfSt} (hf : ∀ x, (f x).seat = x.seat) (h : Half) :
    ((s.half.map f).get h).seat = (s.hs h).seat := by
  cases h
  · exact hf _
  · exact hf _

theorem State.dropUnnamed_work (s : State) (d : Digest) : StoreWork s (s.dropUnnamed d) := by
  unfold State.dropUnnamed
  split
  · exact ⟨rfl, Halves.get_map_seat s fun x => x.dropFinder_seat _⟩
  · exact .refl s

theorem State.dropIfFree_work (s : State) (d : Digest) : StoreWork s (s.dropIfFree d) := by
  have h := s.dropUnnamed_work d
  unfold State.dropIfFree
  dsimp only
  split
  · exact h
  · split
    · exact h
    · refine h.trans ⟨rfl, fun g => ?_⟩
      cases g
      · exact HalfSt.forget_seat ..
      · exact HalfSt.forget_seat ..

theorem State.dropFree_work (s : State) (ds : List Digest) : StoreWork s (s.dropFree ds) := by
  unfold State.dropFree
  induction ds generalizing s with
  | nil => exact .refl s
  | cons d ds ih => exact (s.dropIfFree_work d).trans (ih _)

/-! ### What the halves' seats decide -/

/-- Which firmware serves a slot depends on the halves' firmware and controllers alone. -/
theorem State.slotServer_of_link {s t : State} (hup : ∀ g, (t.hs g).safeUp = (s.hs g).safeUp) (hfw : ∀ g, (t.hs g).fw = (s.hs g).fw)
    (he : t.eng = s.eng) (hm : t.mbx.taken = s.mbx.taken) (hs : t.safe.rescueEast = s.safe.rescueEast) (k : Nat) :
    t.slotServer k = s.slotServer k := by
  have hw : t.half.w.safeUp = s.half.w.safeUp := hup .west
  have hx : t.half.e.safeUp = s.half.e.safeUp := hup .east
  have hr : t.rescueServer = s.rescueServer := by simp only [State.rescueServer, hw, hx, hs]
  simp only [State.slotServer, hr, he, hm, hfw]

section
variable {s t : State} (h : ∀ g, (t.hs g).seat = (s.hs g).seat)
include h

theorem State.serves_of_seat (g : Half) : (t.hs g).serves = (s.hs g).serves := by
  have := congrArg Prod.fst (h g)
  simp only [HalfSt.serves, show (t.hs g).code = (s.hs g).code from this]

theorem State.survivor_of_seat : t.survivor = s.survivor := by
  have hw : t.half.w.serves = s.half.w.serves := State.serves_of_seat h .west
  have he : t.half.e.serves = s.half.e.serves := State.serves_of_seat h .east
  simp only [State.survivor, hw, he]

theorem State.bothServe_of_seat : t.bothServe = s.bothServe := by
  have hw : t.half.w.serves = s.half.w.serves := State.serves_of_seat h .west
  have he : t.half.e.serves = s.half.e.serves := State.serves_of_seat h .east
  simp only [State.bothServe, hw, he]

theorem State.slotServer_of_seat (he : t.eng = s.eng) (hm : t.mbx.taken = s.mbx.taken) (hs : t.safe.rescueEast = s.safe.rescueEast)
    (k : Nat) : t.slotServer k = s.slotServer k := by
  have hup : ∀ g, (t.hs g).safeUp = (s.hs g).safeUp := fun g => by
    have := congrArg (fun x => x.2.2.1) (h g)
    exact this
  have hfw : ∀ g, (t.hs g).fw = (s.hs g).fw := fun g => by
    have := congrArg (fun x => x.2.1) (h g)
    exact this
  exact State.slotServer_of_link hup hfw he hm hs k

theorem State.imageBytes_of_seat {d : Digest} (hi : t.image d = s.image d) : t.imageBytes d = s.imageBytes d := by
  simp only [State.imageBytes, State.imageOn, State.survivor_of_seat h, State.bothServe_of_seat h, hi]

end

theorem State.bindRefs_congr {s t : State} (h : t.bnd = s.bnd) (d : Digest) : t.bindRefs d = s.bindRefs d := by
  unfold State.bindRefs
  rw [h]

/-- An image that a binding names stays when others leave. -/
theorem State.dropIfFree_image {e : Digest} (h : s.bindRefs e ≠ 0) (d : Digest) : (s.dropIfFree d).image e = s.image e := by
  unfold State.dropIfFree
  dsimp only
  split
  · exact s.dropUnnamed_image d e
  · rename_i i hi
    split
    · exact s.dropUnnamed_image d e
    · rename_i hfree
      have hne : d ≠ e := by
        rintro rfl
        simp only [State.dropUnnamed_bindRefs, Bool.or_eq_true, bne_iff_ne, ne_eq, not_or, Decidable.not_not] at hfree
        exact h hfree.1.1.2
      have hd := (s.dropUnnamed d).image_del d e
      rw [if_neg hne, State.dropUnnamed_image] at hd
      exact hd

theorem State.dropFree_image {e : Digest} (h : s.bindRefs e ≠ 0) (ds : List Digest) : (s.dropFree ds).image e = s.image e := by
  unfold State.dropFree
  induction ds generalizing s with
  | nil => rfl
  | cons d ds ih =>
    have hb : (s.dropIfFree d).bnd = s.bnd := by
      have := congrArg State.bnd (s.dropIfFree_work d).rest
      exact this
    rw [List.foldl_cons, ih (by rw [State.bindRefs_congr hb]; exact h), State.dropIfFree_image h]

/-! ### Completions -/

/-- A command whose slot is served completes with its reply and leaves the rest of the state. -/
theorem State.complete_replies {u : State} {o : ObjRef} {x : ObjState} {q : List Byte} (hw : s.mbx.mem.wf = true)
    (hs : (u.slotServer k.toNat).isSome = true) (hx : u.objOf o = x) (hb : SameBox s u) (ht : u.time = s.time) (ho : x.Fits)
    (hq : q.length ≤ 2016) : Replied s (u.complete k.toNat o q) k stOk x q ∧ OnlyReply u (u.complete k.toNat o q) k := by
  subst hx
  rcases State.complete_of_served hs o q with h | h
  · rw [h]
    exact ⟨State.reply_replied k _ _ _ hw hb ht (by decide) ho hq, State.reply_only ..⟩
  · rw [h]
    refine ⟨State.reply_replied k _ _ _ hw (hb.commit _) ?_ (by decide) ho hq, .of_journal (u.commit_only _) (State.reply_only ..)⟩
    rw [State.commit_eq]
    exact ht

/-! ### `binding.create` -/

/-- What LOADING ends with when the images and the checks are good, without START (10 R227). -/
theorem State.createGo_completes {j : Job} {b : Binding} (hb : s.binding j.arg = some b) (hi : ImagesStand s b.set)
    (hc : s.creationStatus b = stOk) (hs : bitOf b.flags 0 = false) :
    s.createGo j = ((({ s with bndGen := s.bndGen.put (bindingIndex j.arg) (j.arg / 65536) } : State).setBinding
      { b with state := .verified }).loadFinders { b with state := .verified } b.set).startReply j { b with state := .verified } := by
  rw [State.createGo, hb]
  dsimp only
  rw [State.foldl_wantVerified_of_verified hi, State.imagesOutcome_of_verified hi]
  dsimp only
  rw [if_pos rfl, hc, if_neg (by simp), hs, if_neg Bool.false_ne_true]

theorem State.createReply_of_seat {t : State} (h : ∀ g, (t.hs g).seat = (s.hs g).seat) (hi : t.img = s.img) (b : Binding) :
    t.createReply b = s.createReply b := by
  have hb : ∀ d, t.imageBytes d = s.imageBytes d := fun d => State.imageBytes_of_seat h (State.image_congr hi d)
  simp only [State.createReply, State.setReply, hb]

theorem State.createReply_length (s : State) (b : Binding) : (s.createReply b).length ≤ 2016 := by
  simp only [State.createReply, State.setReply, List.length_append, toLe_length]
  simp

theorem State.creationStatus_congr (s : State) (j : JrSt) (m : MbxSt) (b : Binding) :
    ({ s with jr := j, mbx := m } : State).creationStatus b = s.creationStatus b := rfl

/-- A creation without lists enters its binding and goes on (10 R227). -/
theorem State.createEnter_eq (s : State) (j : Job) :
    ∃ n jobs, s.createEnter j [] [] =
      (({ s with jr := n, mbx := { s.mbx with jobs := jobs } } : State).setBinding (createBinding s j.body [] [])).createGo
        { j with stage := 2, parts := [], committed := true } := by
  unfold State.createEnter
  dsimp only
  rw [if_neg (by decide), State.commit_eq]
  exact ⟨_, _, rfl⟩

/-- An accepted creation without lists and without START commits, and completes in VERIFIED (10 R227). -/
theorem bindingCreate_completes {b : Binding} (hb : b = createBinding s p [] []) (h : Granted s k cCreate p)
    (hfree : s.bnd.get? (u32At p 0 % 65536) = none) (himg : s.imagesFault b.set = none) (harg : createArgOk s p = true)
    (htyp : s.typesOk b.set = true) (hrev : s.anyRevoked b.set = false) (hn : u16At p 0xF0 = 0) (hm : u8At p 0x110 = 0)
    (hstart : bitOf (u32At p 4) 0 = false) (hst : ImagesStand s b.set) (hc : (s.setBinding b).creationStatus b = stOk) :
    Completes (.bindingCreate k) s fun t =>
      Replied s t k stOk ⟨skBinding, 1⟩ (s.createReply b) ∧ t.bnd = (s.setBinding { b with state := .verified }).bnd ∧
      t.bndGen = s.bndGen.put (u32At p 0 % 65536) (u32At p 0 / 65536) ∧
      (t.eng, t.img, t.rt, t.bench, t.lanes, t.chains) = (s.eng, s.img, s.rt, s.bench, s.lanes, s.chains) := by
  have hset : createSet s p = b.set := by rw [hb]; rfl
  have hflags : b.flags = u32At p 4 := by rw [hb]; rfl
  have hhandle : b.handle = u32At p 0 := by rw [hb]; rfl
  have hr : createRefusal { s with jr := (s.notice k.toNat).jr } p = none :=
    createRefusal_eq_none (by simp [hstart]) hfree (hset ▸ himg) harg (hset ▸ htyp) (hset ▸ hrev)
  have he := h.exec (c := .bindingCreate k) rfl rfl
  rw [createBody, hr] at he
  dsimp only at he
  rw [if_pos hn, if_pos hm, List.append_nil, List.isEmpty_nil, if_pos rfl] at he
  obtain ⟨n, jobs, hgo⟩ := State.createEnter_eq { s with jr := (s.notice k.toNat).jr }
    { slot := k.toNat, code := cCreate, body := p, stage := 1, left := 0, parts := [], reply := [], obj := .binding (u32At p 0)
      arg := u32At p 0, digest := 0, half := ({ s with jr := (s.notice k.toNat).jr } : State).slotHalf k.toNat }
  rw [show createBinding { s with jr := (s.notice k.toNat).jr } p [] [] = b from hb.symm] at hgo
  generalize hu : (({ s with jr := n, mbx := { s.mbx with jobs := jobs } } : State).setBinding b) = u at hgo
  have hub : u.binding (u32At p 0) = some b := by rw [← hu, ← hhandle]; exact State.binding_setBinding_same ..
  rw [hgo, State.createGo_completes hub (by rw [← hu]; exact hst) (by rw [← hu]; exact hc) (by rw [hflags]; exact hstart)] at he
  generalize hv : ({ u with bndGen := u.bndGen.put (bindingIndex (u32At p 0)) (u32At p 0 / 65536) } : State).setBinding
    { b with state := .verified } = v at he
  have hbanks := Banks.loadFinders v { b with state := .verified } b.set
  generalize v.loadFinders { b with state := .verified } b.set = w at he hbanks
  subst hu hv
  have hweq := hbanks.eq
  dsimp only [State.setBinding] at hweq
  rw [Tab.put_put] at hweq
  have hseat : ∀ g, (w.hs g).seat = (s.hs g).seat := hbanks.seat
  have himgw : w.img = s.img := by rw [hweq]
  have hobj : w.objOf (.binding b.handle) = ⟨skBinding, 1⟩ := by
    have hbw : w.binding b.handle = some { b with state := .verified } := by
      rw [hweq]
      exact State.binding_setBinding_same s { b with state := .verified }
    rw [State.objOf, hbw]
    rfl
  have hserved : (w.slotServer k.toNat).isSome = true := by
    rw [State.slotServer_of_seat hseat (by rw [hweq]) (by rw [hweq]) (by rw [hweq])]
    exact h.served
  obtain ⟨hrep, honly⟩ := State.complete_replies (s := s) (q := s.createReply { b with state := .verified }) h.canonical hserved hobj
    (by rw [hweq]; rfl) (by rw [hweq]) (by decide) (State.createReply_length ..)
  obtain ⟨m, n', hm⟩ := honly.exists_eq
  refine ⟨_, he, ?_⟩
  rw [State.startReply, if_pos rfl, State.createReply_of_seat hseat himgw]
  refine ⟨hrep, ?_⟩
  dsimp only
  rw [hm, hweq]
  exact ⟨rfl, rfl, rfl⟩

/-! ### `binding.start` and `binding.stop` -/

theorem State.setJob_setJob (s : State) (i j : Job) (h : i.slot = j.slot) : (s.setJob i).setJob j = s.setJob j := by
  simp only [State.setJob, List.filter_cons, h, bne_self_eq_false, Bool.false_eq_true, if_false, List.filter_filter, Bool.and_self]

/-- The one command that waits for a binding to be ACTIVE is answered as it is. -/
theorem State.nowActive_of_job {b : Binding} {j : Job} (hj : (j.code = cCreate ∨ j.code = cStart) ∧ j.stage = 3 ∧ j.arg = b.handle)
    (ho : ∀ i ∈ s.mbx.jobs, i.arg ≠ b.handle) :
    (s.setJob j).nowActive b =
      ((s.setJob j).setBinding { b with state := .active, fence := .none, starting := false }).startReply j
        { b with state := .active, fence := .none, starting := false } := by
  obtain ⟨hc, hst, harg⟩ := hj
  have hfilter : ((s.setJob j).mbx.jobs.filter fun i => (i.code == cCreate || i.code == cStart) && i.stage == 3 && i.arg == b.handle) =
      [j] := by
    rw [State.setJob, List.filter_cons, if_pos (by simp [hc, hst, harg]), List.filter_filter, List.filter_eq_nil_iff.mpr]
    intro i hi
    simp [ho i hi]
  rw [State.nowActive, hfilter]
  rfl

/-- A start whose images are verified makes an unpinned binding ACTIVE at once. -/
theorem State.startGo_unpinned {j : Job} {b : Binding} (hb : s.binding j.arg = some b) (hi : ImagesStand s b.set)
    (hp : b.set.pin = false) : s.startGo j = (s.setJob { j with stage := 3, arg := b.handle }).nowActive b := by
  rw [State.startGo, hb]
  dsimp only
  rw [State.foldl_wantVerified_of_verified hi, State.imagesOutcome_of_verified hi]
  dsimp only
  rw [if_pos rfl, State.activate]
  dsimp only
  rw [hp, Bool.false_and, if_neg Bool.false_ne_true]

theorem bindingStart_completes {b : Binding} (hb : s.binding (u32At p 0) = some b) (ho : ∀ j ∈ s.mbx.jobs, j.arg ≠ b.handle)
    (h : Granted s k cStart p) (hl : p.length = 8) (hz : zeroAt p 4 4 = true) (hs : b.state = .verified ∨ b.state = .stopped)
    (hpin : b.set.pin = false) (hrev : s.anyRevoked b.set = false) (hi : ImagesStand s b.set) :
    Completes (.bindingStart k) s fun t =>
      Replied s t k stOk ⟨skBinding, 2⟩ [] ∧
      t.bnd = (s.setBinding { b with state := .active, fence := .none, starting := false }).bnd ∧
      OnlyReply { s with bnd := t.bnd } t k := by
  have hb' : ({ s with jr := (s.notice k.toNat).jr } : State).binding (u32At p 0) = some b := hb
  have hr' : ({ s with jr := (s.notice k.toNat).jr } : State).anyRevoked b.set = false := hrev
  have he := h.exec (c := .bindingStart k) rfl rfl
  rw [startBody, hb'] at he
  dsimp only at he
  rw [if_neg (by rcases hs with hs | hs <;> simp [hs]), if_neg (by simp [hl, hz]), hr', if_neg Bool.false_ne_true, State.begin,
    State.jobOf_setJob] at he
  dsimp only at he
  rw [State.setJob_setJob] at he
  case h => rfl
  generalize hj : Job.mk _ _ _ _ _ _ _ _ _ _ _ _ _ _ _ _ = j at he
  have hslot : j.slot = k.toNat := by rw [← hj]
  have hcode : j.code = cStart := by rw [← hj]; exact h.asks
  have hbh : s.binding j.arg = some b := by rw [← hj, State.binding_handle hb]; exact hb
  have hgo := State.startGo_unpinned (s := ({ s with jr := (s.notice k.toNat).jr } : State).setJob j) hbh hi hpin
  rw [State.setJob_setJob _ _ _ (show j.slot = ({ j with stage := 3, arg := b.handle } : Job).slot from rfl),
    State.nowActive_of_job (s := { s with jr := (s.notice k.toNat).jr })
      (j := { j with stage := 3, arg := b.handle }) ⟨.inr hcode, rfl, rfl⟩ ho, State.startReply, if_neg (by rw [show Job.code _ = cStart from hcode]; decide)] at hgo
  rw [hgo] at he
  dsimp only at he
  rw [hslot] at he
  generalize hu : State.setBinding _ { b with state := .active, fence := .none, starting := false } = u at he
  have hobj : u.objOf (.binding b.handle) = ⟨skBinding, 2⟩ := by
    have hub : u.binding b.handle = some { b with state := .active, fence := .none, starting := false } := by
      rw [← hu]
      exact State.binding_setBinding_same ..
    rw [State.objOf, hub]
    rfl
  obtain ⟨hrep, honly⟩ := State.complete_replies (s := s) (u := u) (q := []) h.canonical (by rw [← hu]; exact h.served) hobj
    (by rw [← hu]; rfl) (by rw [← hu]; rfl) (by decide) (by simp)
  refine ⟨_, he, hrep, ?_⟩
  obtain ⟨m, n, hm⟩ := honly.exists_eq
  rw [hm, ← hu]
  exact ⟨rfl, rfl⟩

theorem bindingStop_begins {b : Binding} (hb : s.binding (u32At p 0) = some b) (h : Granted s k cStop p) (hs : b.state = .active)
    (hf : b.fence = .none) (hl : p.length = 48) (hz : zeroAt p 8 8 = true) (harg : listArgOk p = true) :
    Completes (.bindingStop k) s fun t =>
      t.bnd = (s.setBinding { b with fence := .phase1 }).bnd ∧ { t with mbx := s.mbx, jr := s.jr, bnd := s.bnd } = s ∧
      { t.mbx with jobs := s.mbx.jobs } = s.mbx ∧
      ∃ j, t.jobOf k.toNat = some j ∧ j.code = cStop ∧ j.arg = b.handle ∧ j.body = p := by
  have hb' : ({ s with jr := (s.notice k.toNat).jr } : State).binding (u32At p 0) = some b := hb
  have he := h.exec (c := .bindingStop k) rfl rfl
  rw [stopBody, hb'] at he
  dsimp only at he
  rw [if_neg (by simp [hs, hf]), if_neg (by simp [hl, hz, harg]), State.begin, State.jobOf_setJob] at he
  dsimp only at he
  exact ⟨_, he, rfl, rfl, rfl, _, State.jobOf_setJob .., h.asks, rfl, rfl⟩

/-! ### `binding.swap` -/

theorem le_sum_of_mem {n : Nat} {l : List Nat} (h : n ∈ l) : n ≤ l.sum := by
  induction l with
  | nil => exact (List.not_mem_nil h).elim
  | cons x l ih =>
    rw [List.sum_cons]
    rcases List.mem_cons.mp h with rfl | h
    · exact Nat.le_add_right ..
    · exact Nat.le_trans (ih h) (Nat.le_add_left ..)

/-- An image of a set that a binding has is referenced. -/
theorem State.bindRefs_of_named {b : Binding} {d : Digest} (hb : b ∈ s.bnd.vals) (hs : b.state ≠ .retired) (hd : d ∈ b.set.digests) :
    s.bindRefs d ≠ 0 := by
  have hr : b.refs d ≠ 0 := by
    unfold Binding.refs
    rw [if_neg hs, show b.set.digests.contains d = true from List.contains_iff_mem.mpr hd]
    simp [b2n]
  unfold State.bindRefs
  intro h0
  exact hr (Nat.le_zero.mp (h0 ▸ le_sum_of_mem (List.mem_map_of_mem hb)))

theorem State.setReply_congr {t : State} {x : ImgSet} (h : x.csi ≠ 0 → t.imageBytes x.csi = s.imageBytes x.csi) :
    t.setReply x = s.setReply x := by
  unfold State.setReply
  by_cases h0 : x.csi = 0
  · simp [h0]
  · rw [h h0]

theorem State.swapGo_commits {j : Job} {b : Binding} {x : ImgSet} {hold : Bool} (hb : s.binding j.arg = some b)
    (hn : b.newSet = some (x, hold)) (hi : ImagesStand s x) (hc : s.creationStatus { b with set := x } = stOk) :
    s.swapGo j = s.swapCommit j b x hold := by
  rw [State.swapGo, hb]
  dsimp only
  rw [hn]
  dsimp only
  rw [State.foldl_wantVerified_of_verified hi, State.imagesOutcome_of_verified hi]
  dsimp only
  rw [hn] at hc
  rw [if_pos rfl, hc, if_neg (by simp)]

/-- A swap with HOLD puts the new set in the old one's place, and completes (10 R234). -/
theorem State.swapCommit_held {j : Job} {b c : Binding} {x : ImgSet} (hs : b.starting = false)
    (hc : c = { b with state := .stopped, set := x, newSet := none }) :
    ∃ t, StoreWork (s.setBinding c) t ∧ t.setReply x = s.setReply x ∧
      s.swapCommit j b x true = t.complete j.slot (.binding c.handle) (toLe 4 0 ++ t.setReply x) := by
  have hload := (Banks.loadFinders (s.setBinding c) c x).storeWork
  have hdrop := hload.trans (State.dropFree_work _ b.set.digests)
  have hbnd : ((s.setBinding c).loadFinders c x).bnd = (s.setBinding c).bnd := by
    have := congrArg State.bnd hload.rest
    exact this
  have himg : x.csi ≠ 0 → (((s.setBinding c).loadFinders c x).dropFree b.set.digests).image x.csi = s.image x.csi := by
    intro h0
    have hmem : c ∈ ((s.setBinding c).loadFinders c x).bnd.vals := by
      rw [hbnd]
      exact State.binding_mem (State.binding_setBinding_same s c)
    have hd : x.csi ∈ c.set.digests := by
      rw [hc]
      exact List.mem_filter.mpr ⟨by simp, by simpa using h0⟩
    rw [State.dropFree_image (State.bindRefs_of_named hmem (by rw [hc]; nofun) hd)]
    have := congrArg State.img (Banks.loadFinders (s.setBinding c) c x).rest
    exact State.image_congr this _
  have hsame : ∀ t, StoreWork (s.setBinding c) t → (x.csi ≠ 0 → t.image x.csi = s.image x.csi) → t.setReply x = s.setReply x :=
    fun t ht hi => State.setReply_congr fun h0 => State.imageBytes_of_seat ht.seat (hi h0)
  unfold State.swapCommit
  dsimp only
  rw [if_pos rfl, ← hc]
  by_cases hp : x.pin = true
  · rw [if_pos hp]
    have hfill := Banks.fillFor (((s.setBinding c).loadFinders c x).dropFree b.set.digests) c
    refine ⟨_, hdrop.trans hfill.storeWork, hsame _ (hdrop.trans hfill.storeWork) fun h0 => ?_, ?_⟩
    · rw [← himg h0]
      have := congrArg State.img hfill.rest
      exact State.image_congr this _
    · rw [State.startAgain, if_pos (by rw [hc]; simp [hs]), show b.handle = c.handle by rw [hc]]
      rfl
  · rw [if_neg hp]
    refine ⟨_, hdrop, hsame _ hdrop himg, ?_⟩
    rw [State.startAgain, if_pos (by rw [hc]; simp [hs]), show b.handle = c.handle by rw [hc]]
    rfl

theorem State.setReply_length (s : State) (x : ImgSet) : (s.setReply x).length = 8 := by
  simp only [State.setReply, List.length_append, toLe_length]
  rfl

theorem bindingSwap_completes {b : Binding} {x : ImgSet} (hb : s.binding (u32At p 0) = some b) (hx : x = swapSet s b p)
    (h : Granted s k cSwap p) (hs : b.state = .stopped) (hstart : b.starting = false) (himg : s.imagesFault x = none)
    (harg : swapArgOk p = true) (htyp : s.typesOk x = true) (hrev : s.anyRevoked x = false) (hi : ImagesStand s x)
    (hhold : bitOf (u32At p 4) 0 = true)
    (hc : (s.setBinding { b with state := .swapping, newSet := some (x, true) }).creationStatus
      { b with state := .swapping, newSet := some (x, true), set := x } = stOk) :
    Completes (.bindingSwap k) s fun t =>
      Replied s t k stOk ⟨skBinding, 4⟩ (toLe 4 0 ++ s.setReply x) ∧
      t.bnd = (s.setBinding { b with state := .stopped, set := x, newSet := none }).bnd ∧
      (t.eng, t.rt, t.bench, t.lanes, t.chains, t.str) = (s.eng, s.rt, s.bench, s.lanes, s.chains, s.str) := by
  have hb' : ({ s with jr := (s.notice k.toNat).jr } : State).binding (u32At p 0) = some b := hb
  have hx' : swapSet { s with jr := (s.notice k.toNat).jr } b p = x := hx.symm
  have hf' : ({ s with jr := (s.notice k.toNat).jr } : State).imagesFault x = none := himg
  have ht' : ({ s with jr := (s.notice k.toNat).jr } : State).typesOk x = true := htyp
  have hr' : ({ s with jr := (s.notice k.toNat).jr } : State).anyRevoked x = false := hrev
  have he := h.exec (c := .bindingSwap k) rfl rfl
  rw [swapBody, hb'] at he
  dsimp only at he
  rw [hx', hf'] at he
  simp only [Option.filter_none] at he
  rw [if_neg (by simp [hs]), harg, ht', hr', if_neg (by simp), if_neg Bool.false_ne_true, State.begin, State.jobOf_setJob, hhold,
    State.commit_eq] at he
  dsimp only at he
  generalize hj : Job.mk _ _ _ _ _ _ _ (.binding b.handle) _ _ _ _ _ _ _ _ = j at he
  have hslot : j.slot = k.toNat := by rw [← hj]
  have harg' : j.arg = b.handle := by rw [← hj]
  obtain ⟨u, hu, jr, jobs, hv⟩ : ∃ u, exec (.bindingSwap k) s = .next (u.swapGo j) ∧ ∃ jr jobs,
      u = ({ s with jr := jr, mbx := { s.mbx with jobs := jobs } } : State).setBinding
        { b with state := .swapping, newSet := some (x, true) } := ⟨_, he, _, _, rfl⟩
  have hub : u.binding j.arg = some { b with state := .swapping, newSet := some (x, true) } := by
    rw [hv, harg']
    exact State.binding_setBinding_same ..
  obtain ⟨t, hwork, hreply, hgo⟩ := State.swapCommit_held (s := u) (j := j)
    (b := { b with state := .swapping, newSet := some (x, true) }) (x := x) hstart rfl
  rw [State.swapGo_commits hub rfl (by rw [hv]; exact hi) (by rw [hv]; exact hc), hgo, hreply, hslot] at hu
  have hteq := hwork.eq
  have hseat := hwork.seat
  rw [hv] at hteq hseat hu
  dsimp only [State.setBinding] at hteq
  rw [Tab.put_put] at hteq
  have hobj : t.objOf (.binding b.handle) = ⟨skBinding, 4⟩ := by
    have hbt : t.binding b.handle = some { b with state := .stopped, set := x, newSet := none } := by
      rw [hteq]
      exact State.binding_setBinding_same s { b with state := .stopped, set := x, newSet := none }
    rw [State.objOf, hbt]
    rfl
  have hserved : (t.slotServer k.toNat).isSome = true := by
    rw [State.slotServer_of_seat (s := s) hseat (by rw [hteq]) (by rw [hteq]) (by rw [hteq])]
    exact h.served
  obtain ⟨hrep, honly⟩ := State.complete_replies (s := s) (q := toLe 4 0 ++ s.setReply x) h.canonical hserved hobj
    (by rw [hteq]; rfl) (by rw [hteq]) (by decide) (by rw [List.length_append, State.setReply_length, toLe_length]; decide)
  obtain ⟨m, n, hm⟩ := honly.exists_eq
  refine ⟨_, hu, hrep, ?_⟩
  have hset : (({ s with jr := jr, mbx := { s.mbx with jobs := jobs } } : State).setBinding
    { b with state := .swapping, newSet := some (x, true) }).setReply x = s.setReply x := rfl
  rw [hset]
  dsimp only
  rw [hm, hteq]
  exact ⟨rfl, rfl⟩

/-! ### `binding.retire` -/

/-- Nothing changes but the work for routes and the benchmarks. -/
structure HeldWork (s t : State) : Prop where
  rest : { t with half := s.half, chains := s.chains, jr := s.jr, rt := s.rt, str := s.str, bench := s.bench } = s
  seat : ∀ h, (t.hs h).seat = (s.hs h).seat

theorem HeldWork.trans {s t u : State} (h : HeldWork s t) (k : HeldWork t u) : HeldWork s u := by
  have e := congrArg (fun x : State =>
    { x with half := s.half, chains := s.chains, jr := s.jr, rt := s.rt, str := s.str, bench := s.bench }) k.rest
  exact ⟨e.trans h.rest, fun g => (k.seat g).trans (h.seat g)⟩

theorem RouteWork.held {s t : State} (h : RouteWork s t) : HeldWork s t := by
  have e := congrArg (fun x : State => { x with bench := s.bench }) h.rest
  exact ⟨e, h.seat⟩

theorem HeldWork.eq {s t : State} (h : HeldWork s t) :
    t = { s with half := t.half, chains := t.chains, jr := t.jr, rt := t.rt, str := t.str, bench := t.bench } := by
  have e := congrArg (fun x : State =>
    { x with half := t.half, chains := t.chains, jr := t.jr, rt := t.rt, str := t.str, bench := t.bench }) h.rest
  exact e

theorem State.endBench_work (s : State) (r : Route) (c : EndCause) : HeldWork s (s.endBench r c) := by
  unfold State.endBench
  split
  · exact ⟨rfl, fun _ => rfl⟩
  · split
    · split
      · exact ⟨rfl, fun _ => rfl⟩
      · exact ⟨rfl, fun _ => rfl⟩
    · exact ⟨rfl, fun _ => rfl⟩

theorem State.endHeld_work (s : State) (b : Binding) (x : ImgSet) (c : EndCause) : HeldWork s (s.endHeld b x c) := by
  unfold State.endHeld
  generalize s.routesOf b.handle = l
  induction l generalizing s with
  | nil => exact ⟨rfl, fun _ => rfl⟩
  | cons r l ih =>
    refine HeldWork.trans ?_ (ih _)
    dsimp only
    split
    · exact (s.endBench_work r c).trans (RouteWork.endRoute ..).held
    · exact ⟨rfl, fun _ => rfl⟩

theorem State.stopFill_work (s : State) (b : Binding) : Banks s (s.stopFill b) := by
  refine ⟨rfl, Halves.get_map_seat s fun x => ?_⟩
  dsimp only
  split
  · exact x.dropFinder_seat _
  · exact x.dropFinder_seat _

/-- What a binding's retirement leaves before it is answered. -/
def State.retired (s : State) (b : Binding) : State :=
  let t := s.endHeld b b.set .host
  (({ t with bnd := t.bnd.del (bindingIndex b.handle) } : State).stopFill b).dropFree b.set.digests

theorem State.retired_eq (s : State) (b : Binding) :
    s.retired b = { s with
      bnd := s.bnd.del (bindingIndex b.handle), img := (s.retired b).img, half := (s.retired b).half, mi := (s.retired b).mi
      chains := (s.retired b).chains, jr := (s.retired b).jr, rt := (s.retired b).rt, str := (s.retired b).str
      bench := (s.retired b).bench } := by
  have hheld := (s.endHeld_work b b.set .host).eq
  have hdrop := fun u : State => ((u.stopFill_work b).storeWork.trans (State.dropFree_work _ b.set.digests)).eq
  unfold State.retired
  dsimp only
  generalize s.endHeld b b.set .host = t at *
  rw [hdrop { t with bnd := t.bnd.del (bindingIndex b.handle) }]
  dsimp only
  generalize (({ t with bnd := t.bnd.del (bindingIndex b.handle) } : State).stopFill b).dropFree b.set.digests = u
  rw [hheld]

theorem bindingRetire_completes {b : Binding} (hb : s.binding (u32At p 0) = some b) (ho : ∀ j ∈ s.mbx.jobs, j.arg ≠ b.handle)
    (h : Granted s k cRetire p) (hs : b.state = .verified ∨ b.state = .stopped) (hl : p.length = 8) (hz : zeroAt p 4 4 = true) :
    Completes (.bindingRetire k) s fun t =>
      Replied s t k stOk ⟨skBinding, 6⟩ (toLe 4 ((s.routesOf b.handle).filter liveRoute).length) ∧
      t.bnd = s.bnd.del (bindingIndex b.handle) ∧ t.binding (u32At p 0) = none ∧ t.eng = s.eng := by
  have hb' : ({ s with jr := (s.notice k.toNat).jr } : State).binding (u32At p 0) = some b := hb
  have he := h.exec (c := .bindingRetire k) rfl rfl
  rw [retireBody, hb'] at he
  dsimp only at he
  rw [if_neg (by rcases hs with hs | hs <;> simp [hs]), if_neg (by simp [hl, hz])] at he
  have hcommit := State.commit_eq { s with jr := (s.notice k.toNat).jr } k.toNat
  have hjobs := fun j => State.mem_commit_jobs (s := { s with jr := (s.notice k.toNat).jr }) (k := k.toNat) (j := j)
  generalize ({ s with jr := (s.notice k.toNat).jr } : State).commit k.toNat = u at he hcommit hjobs
  have hret := u.retired_eq b
  have hseat : ∀ g, ((u.retired b).hs g).seat = (u.hs g).seat := fun g =>
    (((State.stopFill_work _ b).storeWork.trans (State.dropFree_work _ _)).seat g).trans ((u.endHeld_work b b.set .host).seat g)
  have he' : exec (.bindingRetire k) s = .next
      (((u.retired b).mbx.jobs.filter fun j => (j.code == cCreate || j.code == cStart) && j.arg == b.handle).foldl
        (fun u j => u.fail j.slot stState (.fixed ⟨skBinding, BState.retired.code⟩))
        ((u.retired b).reply k.toNat stOk ⟨skBinding, 6⟩ (toLe 4 ((s.routesOf b.handle).filter liveRoute).length))) := he
  generalize u.retired b = v at he' hret hseat
  have hnone : (v.mbx.jobs.filter fun j => (j.code == cCreate || j.code == cStart) && j.arg == b.handle) = [] := by
    rw [List.filter_eq_nil_iff]
    intro j hj
    rw [show v.mbx = u.mbx by rw [hret]] at hj
    obtain ⟨i, hi, c, rfl⟩ := hjobs j hj
    simp [ho i hi]
  rw [hnone, List.foldl_nil] at he'
  refine ⟨_, he', State.reply_replied k _ _ _ h.canonical ?_ ?_ (by decide) (by decide) (by rw [toLe_length]; decide), ?_⟩
  · rw [SameBox, show v.mbx = u.mbx by rw [hret], hcommit]
  · rw [hret, hcommit]
  · obtain ⟨m, n, hm⟩ := (v.reply_only k stOk ⟨skBinding, 6⟩ (toLe 4 ((s.routesOf b.handle).filter liveRoute).length)).exists_eq
    rw [hm, hret, hcommit]
    refine ⟨rfl, ?_, rfl⟩
    rw [← State.binding_handle hb, State.binding]
    dsimp only
    rw [Tab.get?_del, if_pos rfl]

end Sys2Proof.Machine

open Sys2Proof Sys2Proof.Machine

/-- Settles O10: each command's body, past its checks, is one change of the binding table and a reply. -/
theorem bindingsMove : Obligations.BindingsMove := fun _ _ _ =>
  ⟨fun _ => bindingCreate_completes, fun _ hb ho => ⟨bindingStart_completes hb ho, bindingStop_begins hb,
    fun _ => bindingSwap_completes hb, bindingRetire_completes hb ho⟩⟩

end

section
/-! A route for which nothing waits: it settles as it is, and nothing is decided after its release (10 R231, 11 R257; 04 R98). -/
namespace Sys2Proof.Machine

variable {s : State} {n : Nat} {r : Route} {b : Binding}

/-! ### Settling -/

/-- What follows the commands that waited for a route: its hold or its pause, its binding's stop, and a halt. -/
def State.afterDue (s : State) (n binding : Nat) : State :=
  ((match s.route n with
    | some q => if s.held q && q.state != RState.ended && q.state != RState.saved then
        (s.freeDrafts q).setRoute { q with saving := true, drafts := none, intake := [] }
      else if q.pauseDue && (q.state == RState.open || q.state == RState.running) then s.holdPaused q else s
    | none => s).finishStop binding).finishHalt

theorem State.settle_of_busy (hr : s.route n = some r) (h : (r.adm.isSome || r.forcedMore || r.saving) = true) : s.settle n = s := by
  unfold State.settle
  rw [hr]
  dsimp only
  rw [if_pos h]

theorem State.settle_of_free (hr : s.route n = some r) (h : (r.adm.isSome || r.forcedMore || r.saving) = false)
    (hm : r.markDue = false) :
    s.settle n = (((s.mbx.jobs.filter (routeJob n)).reverse).foldl (fun t j => t.routeJobDue j) s).afterDue n r.binding := by
  have hmark : s.markDue r = s := by simp [State.markDue, hm]
  unfold State.settle
  rw [hr]
  dsimp only
  rw [if_neg (by rw [h]; exact Bool.false_ne_true), hmark]
  rfl

theorem State.finishStop_of_binding (hb : s.binding n = some b) (hs : b.state ≠ .stopping) : s.finishStop n = s := by
  unfold State.finishStop
  rw [hb]
  dsimp only
  rw [if_neg (by simp [hs])]

theorem State.not_held (hj : ∀ j ∈ s.mbx.jobs, j.code ≠ cHalt) (hb : s.binding r.binding = some b) (hs : b.state ≠ .stopping) :
    s.held r = false := by
  have hany : (s.mbx.jobs.any fun j => j.code == cHalt) = false := by
    rw [List.any_eq_false]
    intro j hm
    simp [hj j hm]
  unfold State.held
  rw [hb, hany]
  simp [hs]

theorem State.finishHalt_of_noHalt (hj : ∀ j ∈ s.mbx.jobs, j.code ≠ cHalt) : s.finishHalt = s := by
  have hfind : (s.mbx.jobs.find? fun j => j.code == cHalt) = none := by
    rw [List.find?_eq_none]
    intro j hm
    simp [hj j hm]
  unfold State.finishHalt
  rw [hfind]

/-- Behind no fence, and with no halt, a route that is not due to pause stays as it is. -/
theorem State.afterDue_still (hr : s.route n = some r) (hb : s.binding r.binding = some b) (hs : b.state ≠ .stopping)
    (hj : ∀ j ∈ s.mbx.jobs, j.code ≠ cHalt) (hp : (r.pauseDue && (r.state == RState.open || r.state == RState.running)) = false) :
    s.afterDue n r.binding = s := by
  unfold State.afterDue
  rw [hr]
  dsimp only
  rw [State.not_held hj hb hs, hp]
  simp only [Bool.false_and, Bool.false_eq_true, if_false]
  rw [State.finishStop_of_binding hb hs, State.finishHalt_of_noHalt hj]

theorem State.settle_still (hr : s.route n = some r) (hb : s.binding r.binding = some b) (hs : b.state ≠ .stopping)
    (hj : s.mbx.jobs = []) (hm : r.markDue = false)
    (hp : (r.pauseDue && (r.state == RState.open || r.state == RState.running)) = false) : s.settle n = s := by
  cases h : (r.adm.isSome || r.forcedMore || r.saving) with
  | true => exact State.settle_of_busy hr h
  | false =>
    have hno : ∀ j ∈ s.mbx.jobs, j.code ≠ cHalt := by rw [hj]; nofun
    rw [State.settle_of_free hr h hm, hj]
    exact State.afterDue_still hr hb hs hno hp

/-! ### Entries -/

theorem State.readmit_empty (hr : s.route n = some r) (he : r.entries = []) (hc : r.copies = ⟨[], []⟩) : s.readmit n = s := by
  unfold State.readmit
  rw [hr]
  dsimp only
  rw [he, List.isEmpty_nil, if_pos rfl, State.pairDue, hr]
  dsimp only
  rw [hc]
  exact ite_self _

theorem Banks.refill (s : State) : Banks s s.refill := Banks.foldl (fun t b => Banks.fillFor t b) _ s

theorem Banks.route {t : State} (h : Banks s t) (n : Nat) : t.route n = s.route n := by
  have := congrArg State.rt h.rest
  exact State.route_congr this n

theorem Banks.binding {t : State} (h : Banks s t) (n : Nat) : t.binding n = s.binding n := by
  have := congrArg State.bnd h.rest
  exact State.binding_congr this n

/-- Masks and heads alone are prepared after the release of a route for which nothing waits. -/
theorem State.afterRelease_still (hr : s.route n = some r) (hb : s.binding r.binding = some b) (hs : b.state ≠ .stopping)
    (hj : s.mbx.jobs = []) (hm : r.markDue = false) (hp : r.pauseDue = false) (he : r.entries = []) (hc : r.copies = ⟨[], []⟩) :
    Banks s (s.afterRelease n) := by
  have hfill := Banks.refill s
  unfold State.afterRelease
  dsimp only
  rw [State.settle_still hr hb hs hj hm (by rw [hp, Bool.false_and]), State.readmit_empty hr he hc, hfill.route, hr]
  dsimp only
  rw [hfill.binding, hb]
  dsimp only
  split
  · exact hfill.trans (Banks.wantMasks ..)
  · exact hfill

theorem State.holdIfLeft_of_joined (hr : s.route n = some r) (hb : s.binding r.binding = some b) (hg : s.groupHeld b = false) :
    s.holdIfLeft n = s := by
  unfold State.holdIfLeft
  rw [hr]
  dsimp only
  rw [hb]
  dsimp only
  rw [hg, Bool.false_and, if_neg Bool.false_ne_true]

/-- An opening release whose search is free and whose data stand opens the route, or begins its forced run (01 R19). -/
theorem State.opening_opens (hr : s.route n = some r) (hb : s.binding r.binding = some b) (hw : s.searchWaits b r = false)
    (hwarn : s.safe.warn = false) (hd : s.dataGone b r [r.rel.pos.g] = false)
    (ha : 1 ≤ (allowed (s.envFor b r) r.rel.pos).length ∨ owns b r = false) :
    s.opening n = s.setRoute
      { r with openDue := false, forcedMore := decide ((allowed (s.envFor b r) r.rel.pos).length = 1) } := by
  have hempty : (owns b r && (allowed (s.envFor b r) r.rel.pos).isEmpty) = false := by
    rcases ha with h | h
    · rw [show (allowed (s.envFor b r) r.rel.pos).isEmpty = false by
        rw [List.isEmpty_eq_false_iff_exists_mem]; exact List.exists_mem_of_length_pos h, Bool.and_false]
    · rw [h, Bool.false_and]
  unfold State.opening
  rw [hr]
  dsimp only
  rw [hb]
  dsimp only
  rw [hw, hwarn, hd, hempty]
  simp only [Bool.or_self, Bool.false_eq_true, if_false]
  rfl

end Sys2Proof.Machine

end

section
/-! `route.open` (12 R277, R278; 01 R15, R17, R19). -/
namespace Sys2Proof.Machine

variable {s : State} {k : Byte} {p : List Byte}

theorem Granted.unwarned {code : Nat} (h : Granted s k code p) (hc : classE code = true) : s.safe.warn = false := by
  have hu := h.unnoticed
  simp only [State.unnoticed, Bool.and_eq_true, Bool.not_eq_true', State.warned, h.asks, hc, Bool.and_true] at hu
  exact hu.2

theorem freeIndex_lt {α : Type} {t : Tab α} {i : Nat} (h : freeIndex t = some i) : i < indexCount := by
  unfold freeIndex at h
  split at h
  · split at h
    · cases h; assumption
    · cases h
  · cases h

/-- A new handle's generation is the one that follows, and its index is its own (11 R258). -/
theorem State.routeHandle_parts {i : Nat} (hi : i < indexCount) :
    routeIndex (s.routeHandle i) = i ∧ s.routeHandle i / 2 ^ 18 < 2 ^ 64 := by
  have h18 : indexCount = 2 ^ 18 := rfl
  have hg : nextGen ((s.rtGen.get? i).getD 0) ≤ 0x3FFF := by
    have := Nat.mod_lt ((s.rtGen.get? i).getD 0) (show 0 < 0x3FFF by decide)
    simp only [nextGen]
    omega
  unfold State.routeHandle routeIndex
  omega

theorem State.addRoute_eq (i : Nat) (r : Route) (hr : r.handle / 2 ^ 18 < 2 ^ 64) :
    s.addRoute i r = ({ s with rtGen := s.rtGen.put i (r.handle / 2 ^ 18) } : State).setRoute r := by
  unfold State.addRoute
  rw [atomicWord_swap _ _ hr]

/-- What `route.open` leaves once it has been answered. -/
def State.opened (s : State) (i : Nat) (q : Route) (m : MbxSt) (mi : List MiAcc) (n : JrSt) : State :=
  { s with rtGen := s.rtGen.put i (q.handle / 2 ^ 18), rt := s.rt.put (routeIndex q.handle) q, mbx := m, mi := mi, jr := n }

theorem State.opened_route (s : State) (i : Nat) (q : Route) (m : MbxSt) (mi : List MiAcc) (n : JrSt) :
    (s.opened i q m mi n).route q.handle = some q := State.route_put rfl

/-- A route that has been entered opens as its starting step lets it, and nothing else follows. -/
theorem State.opened_opens {i : Nat} {b : Binding} {r q : Route} {m : MbxSt} {mi : List MiAcc} {n : JrSt}
    (hb : s.binding r.binding = some b) (ha : b.state = .active) (hg : s.groupHeld b = false) (hwarn : s.safe.warn = false)
    (hjobs : m.jobs = []) (hfresh : r.openDue = false ∧ r.forcedMore = false ∧ r.markDue = false ∧ r.pauseDue = false ∧
      r.entries = [] ∧ r.copies = ⟨[], []⟩)
    (hq : (r.intakeFlag = true ∧ q = r) ∨
      (r.intakeFlag = false ∧ s.searchWaits b r = false ∧ s.dataGone b r [r.rel.pos.g] = false ∧
        (1 ≤ (allowed (s.envFor b r) r.rel.pos).length ∨ owns b r = false) ∧
        q = { r with forcedMore := decide ((allowed (s.envFor b r) r.rel.pos).length = 1) })) :
    ∃ y, Banks (s.opened i q m mi n) y ∧
      (((if r.intakeFlag then s.opened i r m mi n else (s.opened i r m mi n).opening r.handle).afterRelease r.handle).holdIfLeft
        r.handle) = y := by
  obtain ⟨hopen, hforced, hmark, hpause, hentries, hcopies⟩ := hfresh
  have hx : (if r.intakeFlag then s.opened i r m mi n else (s.opened i r m mi n).opening r.handle) = s.opened i q m mi n ∧
      q.handle = r.handle ∧ q.binding = r.binding ∧ q.markDue = false ∧ q.pauseDue = false ∧ q.entries = [] ∧ q.copies = ⟨[], []⟩ := by
    rcases hq with ⟨hf, rfl⟩ | ⟨hf, hw, hd, hal, rfl⟩
    · exact ⟨if_pos hf, rfl, rfl, hmark, hpause, hentries, hcopies⟩
    · refine ⟨?_, rfl, rfl, hmark, hpause, hentries, hcopies⟩
      rw [if_neg (by rw [hf]; exact Bool.false_ne_true), State.opening_opens (b := b) (s.opened_route i r m mi n) hb hw hwarn hd hal]
      rw [State.setRoute, State.opened, Tab.put_put, hopen]
      rfl
  obtain ⟨hopened, hh, hqb, hm, hp, he, hc⟩ := hx
  rw [hopened, ← hh]
  have hb' : (s.opened i q m mi n).binding q.binding = some b := by rw [hqb]; exact hb
  have hafter := State.afterRelease_still (s.opened_route i q m mi n) hb' (by rw [ha]; nofun) hjobs hm hp he hc
  have hy : ((s.opened i q m mi n).afterRelease q.handle).groupHeld b = false := by
    have hl := congrArg State.level hafter.rest
    simp only [State.groupHeld, show ((s.opened i q m mi n).afterRelease q.handle).level = s.level from hl]
    exact hg
  exact ⟨_, hafter, State.holdIfLeft_of_joined ((hafter.route _).trans (s.opened_route i q m mi n)) ((hafter.binding _).trans hb') hy⟩

theorem State.commit_jobs_nil {k : Nat} (h : s.mbx.jobs = []) : (s.commit k).mbx.jobs = [] := by
  rw [List.eq_nil_iff_forall_not_mem]
  intro j hj
  obtain ⟨i, hi, -⟩ := State.mem_commit_jobs hj
  rw [h] at hi
  cases hi

/-- The reply to a route that has been entered. -/
theorem State.addRoute_reply (s : State) {k : Byte} {i : Nat} {r : Route} (hr : r.handle / 2 ^ 18 < 2 ^ 64) (hj : s.mbx.jobs = [])
    (o : ObjState) (q : List Byte) :
    ∃ m mi n, (((s.commit k.toNat).addRoute i r).reply k.toNat stOk o q) = s.opened i r m mi n ∧ m.jobs = [] := by
  have hjobs : (((s.commit k.toNat).addRoute i r).reply k.toNat stOk o q).mbx.jobs = [] := by
    rw [State.reply_jobs, show ((s.commit k.toNat).addRoute i r).mbx.jobs = (s.commit k.toNat).mbx.jobs from rfl,
      State.commit_jobs_nil hj, List.filter_nil]
  obtain ⟨m, n, hm⟩ := (((s.commit k.toNat).addRoute i r).reply_only k stOk o q).exists_eq
  rw [hm] at hjobs
  refine ⟨m, s.mi.filter fun a => a.notOf k.toNat, n, ?_, hjobs⟩
  rw [hm, State.addRoute_eq i r hr, State.commit_eq]
  rfl

theorem routeOpen_enters {b : Binding} {i : Nat} {h : Half} (hg : Granted s k cOpen p) (hj : s.mbx.jobs = [])
    (hb : s.binding (u32At p 0) = some b) (ha : b.state = .active) (harg : s.openArgOk b p = true) (hi : s.freeRoute = some i)
    (hplan : s.chainPlan b (chainsAt p 0x24) = some h) (hheld : s.groupHeld b = false) {r : Route}
    (hr : r = (s.notice k.toNat).newRoute b (s.routeHandle i) p (chainsAt p 0x24) h) {q : Route}
    (hq : (r.intakeFlag = true ∧ q = r) ∨
      (r.intakeFlag = false ∧ s.searchWaits b r = false ∧ s.dataGone b r [r.rel.pos.g] = false ∧
        (1 ≤ (allowed (s.envFor b r) r.rel.pos).length ∨ owns b r = false) ∧
        q = { r with forcedMore := decide ((allowed (s.envFor b r) r.rel.pos).length = 1) })) :
    Completes (.routeOpen k) s fun t =>
      Replied s t k stOk ⟨skRoute, 0⟩ (toLe 4 r.handle ++ toLe 4 (u32At p 0x10)) ∧ t.rt = s.rt.put (routeIndex r.handle) q ∧
      t.rtGen = s.rtGen.put i (r.handle / 2 ^ 18) ∧ t.route r.handle = some q ∧
      (t.eng, t.img, t.bnd, t.bench, t.lanes, t.chains, t.str) = (s.eng, s.img, s.bnd, s.bench, s.lanes, s.chains, s.str) := by
  have hb' : ({ s with jr := (s.notice k.toNat).jr } : State).binding (u32At p 0) = some b := hb
  have harg' : ({ s with jr := (s.notice k.toNat).jr } : State).openArgOk b p = true := harg
  have hi' : ({ s with jr := (s.notice k.toNat).jr } : State).freeRoute = some i := hi
  have hplan' : ({ s with jr := (s.notice k.toNat).jr } : State).chainPlan b (chainsAt p 0x24) = some h := hplan
  have hr' : ({ s with jr := (s.notice k.toNat).jr } : State).newRoute b (({ s with jr := (s.notice k.toNat).jr } : State).routeHandle i)
      p (chainsAt p 0x24) h = r := by rw [hr, State.notice_eq]; rfl
  have he := hg.exec (c := .routeOpen k) rfl rfl
  rw [openBody, hb'] at he
  dsimp only at he
  rw [if_neg (by simp [ha]), harg', if_neg (by simp), hi', hplan'] at he
  dsimp only at he
  rw [hr'] at he
  have hhandle : r.handle = s.routeHandle i := by rw [hr]; rfl
  obtain ⟨hindex, hgen⟩ := s.routeHandle_parts (freeIndex_lt hi)
  rw [← hhandle] at hindex hgen
  have hu : (({ s with jr := (s.notice k.toNat).jr } : State).commit k.toNat).addRoute i r =
      ({ s with jr := (({ s with jr := (s.notice k.toNat).jr } : State).commit k.toNat).jr
                mbx := { s.mbx with jobs := (({ s with jr := (s.notice k.toNat).jr } : State).commit k.toNat).mbx.jobs }
                rtGen := s.rtGen.put i (r.handle / 2 ^ 18) } : State).setRoute r := by
    rw [State.addRoute_eq i r hgen, State.commit_eq]
  obtain ⟨hrep, -⟩ := State.reply_replies (s := s) (k := k) (st := stOk) (o := routeObj r) (p := toLe 4 r.handle ++ toLe 4 r.next)
    hg.canonical (OnlyJournal.refl ((({ s with jr := (s.notice k.toNat).jr } : State).commit k.toNat).addRoute i r))
    (by rw [hu]; rfl) (by rw [hu]; rfl) (by decide) (routeObj_fits r) (by simp)
  obtain ⟨m, mi, n, hT, hm⟩ := State.addRoute_reply { s with jr := (s.notice k.toNat).jr } (k := k) (i := i) (r := r) hgen hj
    (routeObj r) (toLe 4 r.handle ++ toLe 4 r.next)
  rw [hT] at he hrep
  have hrb : r.binding = b.handle := by rw [hr]; rfl
  have hbb : s.binding r.binding = some b := by rw [hrb, State.binding_handle hb]; exact hb
  obtain ⟨y, hy, hdone⟩ := State.opened_opens (s := s) (i := i) (m := m) (mi := mi) (n := n) hbb ha hheld
    (hg.unwarned (by decide)) hm (by rw [hr]; exact ⟨rfl, rfl, rfl, rfl, rfl, rfl⟩) hq
  have hqh : q.handle = r.handle := by rcases hq with ⟨-, rfl⟩ | ⟨-, -, -, -, rfl⟩ <;> rfl
  have hyeq := hy.eq
  have hnext : r.next = u32At p 0x10 := by rw [hr]; rfl
  have hstate : routeObj r = ⟨skRoute, 0⟩ := by rw [hr]; rfl
  rw [hnext, hstate] at hrep
  refine ⟨y, he.trans (congrArg _ hdone), hrep.congr ?_, ?_, ?_, ?_, ?_⟩
  · rw [hyeq]; rfl
  · rw [hyeq, ← hqh]; rfl
  · rw [hyeq, ← hqh]; rfl
  · rw [hy.route, ← hqh]
    exact s.opened_route i q m mi n
  · rw [hyeq]; rfl

end Sys2Proof.Machine

open Sys2Proof Sys2Proof.Machine

/-- Settles O11: the route enters the table with the reply, and what follows it touches banks alone. -/
theorem openEntersRoute : Obligations.OpenEntersRoute := by
  rintro s k p b i h hg hj hb ha harg hi hplan hheld r hr n rfl q hq
  exact routeOpen_enters hg hj hb ha harg hi hplan hheld hr hq

end

section
/-! A resting route is paused, saved, ended and resumed (12 R279-R281; 11 R257; 10 R228; 04 R102). -/
namespace Sys2Proof.Machine

variable {s : State} {k : Byte} {p : List Byte} {r : Route} {b : Binding}

/-- Latent slots return whatever commands run, and whatever the journal holds. -/
theorem State.freeDrafts_box (s : State) (r : Route) (m : MbxSt) (n : JrSt) :
    ({ s with mbx := m, jr := n } : State).freeDrafts r = { s.freeDrafts r with mbx := m, jr := n } := by
  unfold State.freeDrafts
  split
  · split <;> rfl
  · rfl

theorem State.routeFault_none {n : Nat} {bs : List BState} {rs : List RState} (hr : s.route n = some r)
    (hb : s.binding r.binding = some b) (he : r.state ≠ .ended) (hbs : b.state ∈ bs) (hrs : r.state ∈ rs) :
    s.routeFault n bs rs = none := by
  unfold State.routeFault
  rw [hr]
  dsimp only
  rw [if_neg he, hb]
  dsimp only
  rw [if_neg (by simp [hbs]), if_neg (by simp [hrs])]

/-- The command that a request for a route becomes. -/
def waitJob (s : State) (slot : Nat) (p : List Byte) (handle : Nat) : Job :=
  { slot := slot, code := s.sealCode slot, body := p, stage := 0, left := 0, parts := [], reply := []
    obj := .route handle, arg := handle, digest := 0, half := s.slotHalf slot }

/-- A live route that rests on an active binding, with no command in execution. -/
structure Resting (s : State) (n : Nat) (r : Route) (b : Binding) : Prop where
  jobs : s.mbx.jobs = []
  route : s.route n = some r
  binding : s.binding r.binding = some b
  active : b.state = .active
  adm : r.adm = none
  forced : r.forcedMore = false
  saving : r.saving = false
  mark : r.markDue = false
  due : r.pauseDue = false

/-- A route rests whatever the journal holds. -/
theorem Resting.noted {n : Nat} (h : Resting s n r b) (k : Nat) : Resting { s with jr := (s.notice k).jr } n r b :=
  ⟨h.jobs, h.route, h.binding, h.active, h.adm, h.forced, h.saving, h.mark, h.due⟩

theorem Resting.unfenced {n : Nat} (h : Resting s n r b) : b.state ≠ .stopping := by
  rw [h.active]
  decide

/-- A route that rests has its one command take effect at once. -/
theorem Resting.routeWait {n slot : Nat} (h : Resting s n r b)
    (hc : s.sealCode slot = cPause ∨ s.sealCode slot = cSave ∨ s.sealCode slot = cEnd) :
    s.routeWait slot p n = ((s.setJob (waitJob s slot p n)).routeJobDue (waitJob s slot p n)).afterDue n r.binding := by
  have hjobs : (s.setJob (waitJob s slot p n)).mbx.jobs = [waitJob s slot p n] := by
    rw [State.setJob, h.jobs]
    rfl
  have hmine : routeJob n (waitJob s slot p n) = true := by
    rcases hc with hc | hc | hc <;> simp [routeJob, waitJob, hc]
  have hr' : (s.setJob (waitJob s slot p n)).route n = some r := h.route
  rw [State.routeWait]
  refine (State.settle_of_free hr' (by rw [h.adm, h.forced, h.saving]; rfl) h.mark).trans ?_
  rw [hjobs, List.filter_cons, if_pos hmine]
  rfl

theorem Resting.routeJobDue {n slot : Nat} (h : Resting s n r b) (hv : (s.slotServer slot).isSome = true)
    (hw : s.sealCode slot ≠ cBankWrite) :
    (s.setJob (waitJob s slot p n)).routeJobDue (waitJob s slot p n) =
      if s.sealCode slot = cEnd then (s.setJob (waitJob s slot p n)).endByHost slot n (bitOf (u32At p 4) 0)
      else if r.state = .ended ∨ r.state = .saved then (s.setJob (waitJob s slot p n)).refuse slot stState (routeObj r)
      else if s.sealCode slot = cPause then
        if r.state = .paused then (s.setJob (waitJob s slot p n)).refuse slot stState (routeObj r)
        else ((s.setJob (waitJob s slot p n)).holdPaused r).commitOk slot ⟨skRoute, RState.paused.code⟩ (toLe 4 r.next)
      else (s.setJob (waitJob s slot p n)).saveDue (waitJob s slot p n) r := by
  have hr' : (s.setJob (waitJob s slot p n)).route (waitJob s slot p n).arg = some r := h.route
  have hv' : ((s.setJob (waitJob s slot p n)).slotServer (waitJob s slot p n).slot).isSome = true := hv
  have hsave : ¬ r.saving = true := by simp [h.saving]
  unfold State.routeJobDue
  rw [hr', Option.filter_some, if_pos hv']
  dsimp only
  rw [if_neg hsave]
  exact if_neg hw

theorem Resting.noHalt {n slot : Nat} (h : Resting s n r b) (hc : s.sealCode slot ≠ cHalt) :
    ∀ j ∈ (s.setJob (waitJob s slot p n)).mbx.jobs, j.code ≠ cHalt := by
  intro j hm
  rw [State.setJob, h.jobs] at hm
  rw [List.mem_singleton.1 hm]
  exact hc

/-! ### Replies -/

/-- A reply leaves the commands of other slots, so that no halt runs where none ran. -/
theorem State.commitOk_noHalt {u : State} {o : ObjState} {q : List Byte} {n : Nat} (hj : ∀ j ∈ u.mbx.jobs, j.code ≠ cHalt) :
    ∀ j ∈ (u.commitOk n o q).mbx.jobs, j.code ≠ cHalt := by
  intro j hm
  rw [State.commitOk, State.reply_jobs] at hm
  obtain ⟨i, hi, c, rfl⟩ := State.mem_commit_jobs (List.mem_filter.1 hm).1
  exact hj i hi

theorem State.commitOk_rt (u : State) (k : Nat) (o : ObjState) (q : List Byte) : (u.commitOk k o q).rt = u.rt := by
  simp [State.commitOk, State.reply, State.answer]

theorem State.commitOk_bnd (u : State) (k : Nat) (o : ObjState) (q : List Byte) : (u.commitOk k o q).bnd = u.bnd := by
  simp [State.commitOk, State.reply, State.answer, State.commit]

/-- A reply to a command for a route with nothing left to wait for: the route stays as the command left it. -/
theorem State.commitOk_afterDue {u : State} {q : Route} {k n m : Nat} {o : ObjState} {x : List Byte}
    (hj : ∀ j ∈ u.mbx.jobs, j.code ≠ cHalt) (hr : u.route n = some q) (hm : q.binding = m) (hb : u.binding m = some b)
    (hs : b.state ≠ .stopping) (hp : q.pauseDue = false) : (u.commitOk k o x).afterDue n m = u.commitOk k o x := by
  subst hm
  exact State.afterDue_still ((State.route_congr (State.commitOk_rt ..) n).trans hr)
    ((State.binding_congr (State.commitOk_bnd ..) _).trans hb) hs (State.commitOk_noHalt hj) (by rw [hp, Bool.false_and])

/-! ### Pause -/

theorem State.pauseBody_resting {slot : Nat} (h : Resting s (u32At p 0) r b) (hc : s.sealCode slot = cPause)
    (hv : (s.slotServer slot).isSome = true) (hl : p.length = 8) (hz : zeroAt p 4 4 = true) (hst : r.state = .open ∨ r.state = .running) :
    pauseBody slot p s = ((s.setJob (waitJob s slot p (u32At p 0))).holdPaused r).commitOk slot ⟨skRoute, 2⟩ (toLe 4 r.next) := by
  have hfault : s.routeFault (u32At p 0) [.active] [.open, .running] = none :=
    State.routeFault_none h.route h.binding (by rcases hst with e | e <;> simp [e]) (by simp [h.active]) (by simpa using hst)
  have hhalt : s.sealCode slot ≠ cHalt := by rw [hc]; decide
  have hwrite : s.sealCode slot ≠ cBankWrite := by rw [hc]; decide
  have hend : ¬ s.sealCode slot = cEnd := by rw [hc]; decide
  rw [pauseBody, hfault]
  dsimp only
  rw [if_neg (by simp [hl, hz]), h.routeWait (.inl hc), h.routeJobDue hv hwrite, if_neg hend,
    if_neg (by rcases hst with e | e <;> simp [e]), if_pos hc, if_neg (by rcases hst with e | e <;> simp [e])]
  have hwork := RouteWork.holdPaused (s.setJob (waitJob s slot p (u32At p 0))) r
  refine State.commitOk_afterDue (q := { r with state := .paused, drafts := none, pauseDue := false }) ?_ ?_ rfl ?_ h.unfenced rfl
  · rw [hwork.mbx]
    exact h.noHalt hhalt
  · rw [← State.route_handle h.route]
    exact State.route_setRoute_same _ { r with state := .paused, drafts := none, pauseDue := false }
  · exact (State.binding_congr hwork.bnd _).trans h.binding

/-- What a pause changes does not depend on the commands and the journal. -/
theorem State.holdPaused_box (s : State) (hp : r.pauseDue = false) (m : MbxSt) (n : JrSt) :
    ({ s with mbx := m, jr := n } : State).holdPaused r =
      { (s.freeDrafts r).setRoute { r with state := .paused, drafts := none } with mbx := m, jr := n } := by
  have he : ({ r with state := .paused, drafts := none, pauseDue := false } : Route) = { r with state := .paused, drafts := none } := by
    rw [← hp]
  unfold State.holdPaused
  rw [he, State.freeDrafts_box]
  rfl

theorem routePause_answers (h : Granted s k cPause p) (hr : Resting s (u32At p 0) r b) (hl : p.length = 8)
    (hz : zeroAt p 4 4 = true) (hst : r.state = .open ∨ r.state = .running) :
    Answers (.routePause k) s ((s.freeDrafts r).setRoute { r with state := .paused, drafts := none }) k stOk ⟨skRoute, 2⟩
      (toLe 4 r.next) := by
  have hbody := State.pauseBody_resting (hr.noted k.toNat) h.asks h.served hl hz hst
  have he := (h.exec (c := .routePause k) rfl rfl).trans (congrArg _ hbody)
  rw [State.setJob, State.holdPaused_box s hr.due, State.commitOk, State.commit_eq] at he
  exact Answers.of_box h.canonical he rfl rfl (Banks.freeDrafts s r).aside.time (by decide) (by decide) (by simp)

/-! ### Save -/

theorem State.saveBody_resting {slot : Nat} (h : Resting s (u32At p 0) r b) (hc : s.sealCode slot = cSave)
    (hv : (s.slotServer slot).isSome = true) (hl : saveArgOk p = true) (hd : bitOf (u32At p 4) 0 = false) (hroom : s.benchRoom b r = true)
    (hst : r.state = .open ∨ r.state = .running ∨ r.state = .paused) :
    saveBody slot p s =
      ((((s.setJob (waitJob s slot p (u32At p 0))).freeDrafts r).setRoute { r with saving := true, drafts := none }).setJob
        { waitJob s slot p (u32At p 0) with stage := 1 }) := by
  have hlive : r.state ≠ .ended ∧ r.state ≠ .saved := by rcases hst with e | e | e <;> simp [e]
  have hfault : s.routeFault (u32At p 0) [.active] [.open, .running, .paused] = none :=
    State.routeFault_none h.route h.binding hlive.1 (by simp [h.active]) (by simpa using hst)
  have hhalt : s.sealCode slot ≠ cHalt := by rw [hc]; decide
  have hwrite : s.sealCode slot ≠ cBankWrite := by rw [hc]; decide
  have hend : ¬ s.sealCode slot = cEnd := by rw [hc]; decide
  have hpause : ¬ s.sealCode slot = cPause := by rw [hc]; decide
  have hb : (s.setJob (waitJob s slot p (u32At p 0))).binding r.binding = some b := h.binding
  have hroom' : (s.setJob (waitJob s slot p (u32At p 0))).benchRoom b r = true := hroom
  rw [saveBody, hfault]
  dsimp only
  rw [if_neg (by simp [hl]), h.routeWait (.inr (.inl hc)), h.routeJobDue hv hwrite, if_neg hend,
    if_neg (by simp [hlive]), if_neg hpause, State.saveDue, hb]
  dsimp only
  rw [if_neg (by simp [waitJob, hd]), if_neg (by simp [hroom'])]
  have hwork := (Banks.freeDrafts (s.setJob (waitJob s slot p (u32At p 0))) r).aside
  refine State.afterDue_still (r := { r with saving := true, drafts := none }) ?_ ?_ h.unfenced ?_ (by rw [h.due, Bool.false_and])
  · rw [← State.route_handle h.route]
    exact State.route_setRoute_same _ { r with saving := true, drafts := none }
  · exact (State.binding_congr hwork.bnd _).trans h.binding
  · intro j hm
    rcases List.mem_cons.1 hm with rfl | hm
    · exact hhalt
    · exact h.noHalt hhalt j (hwork.mbx ▸ (List.mem_filter.1 hm).1)

theorem routeSave_begins (h : Granted s k cSave p) (hr : Resting s (u32At p 0) r b) (hl : saveArgOk p = true)
    (hd : bitOf (u32At p 4) 0 = false) (hroom : s.benchRoom b r = true) (hst : r.state = .open ∨ r.state = .running ∨ r.state = .paused) :
    Completes (.routeSave k) s fun t =>
      t.rt = (s.setRoute { r with saving := true, drafts := none }).rt ∧
      { t with mbx := s.mbx, jr := s.jr, rt := s.rt } = s.freeDrafts r ∧
      { t.mbx with jobs := s.mbx.jobs } = s.mbx ∧
      ∃ j, t.jobOf k.toNat = some j ∧ j.code = cSave ∧ j.arg = r.handle ∧ j.stage = 1 ∧ j.body = p := by
  have hbody := State.saveBody_resting (hr.noted k.toNat) h.asks h.served hl hd hroom hst
  have he := (h.exec (c := .routeSave k) rfl rfl).trans (congrArg _ hbody)
  have hfree := (Banks.freeDrafts s r).aside
  have hbox (j : Job) : (({ s with jr := (s.notice k.toNat).jr } : State).setJob j).freeDrafts r =
      { s with half := (s.freeDrafts r).half, mbx := (s.setJob j).mbx, jr := (s.notice k.toNat).jr } :=
    (State.freeDrafts_box s r _ _).trans
      (congrArg (fun x : State => { x with mbx := (s.setJob j).mbx, jr := (s.notice k.toNat).jr }) (Banks.freeDrafts s r).eq)
  rw [hbox] at he
  refine ⟨_, he, ?_, ?_, ?_, _, State.jobOf_setJob .., h.asks, (State.route_handle hr.route).symm, rfl, rfl⟩
  · rfl
  · exact (Banks.freeDrafts s r).eq.symm
  · rfl


/-! ### End -/

theorem State.endBody_resting {slot : Nat} (h : Resting s (u32At p 0) r b) (hc : s.sealCode slot = cEnd)
    (hv : (s.slotServer slot).isSome = true) (hl : p.length = 8) (hk : u32At p 4 ≤ 1)
    (hst : r.state = .open ∨ r.state = .running ∨ r.state = .paused) :
    ∃ (a : State) (q : Route), RouteWork (s.setJob (waitJob s slot p (u32At p 0))) a ∧ EndedOf q r .host ∧ a.route r.handle = some q ∧
      endBody slot p s = a.commitOk slot (routeObj q) (toLe 4 q.next ++ toLe 4 q.rel.gen ++ toLe 4 0) := by
  have hlive : r.state ≠ .ended ∧ r.state ≠ .saved := by rcases hst with e | e | e <;> simp [e]
  have hfault : s.routeFault (u32At p 0) [.active, .stopped] [.open, .running, .paused, .saved] = none :=
    State.routeFault_none h.route h.binding hlive.1 (by simp [h.active]) (by rcases hst with e | e | e <;> simp [e])
  have hhalt : s.sealCode slot ≠ cHalt := by rw [hc]; decide
  have hwrite : s.sealCode slot ≠ cBankWrite := by rw [hc]; decide
  have hb : (s.setJob (waitJob s slot p (u32At p 0))).binding r.binding = some b := h.binding
  have hr : (s.setJob (waitJob s slot p (u32At p 0))).route (u32At p 0) = some r := h.route
  generalize hv' : s.setJob (waitJob s slot p (u32At p 0)) = v at hb hr
  have hwork := RouteWork.endRoute v b r b.set .host true false
  obtain ⟨q, hq, hrt⟩ := State.endRoute_rt v b r b.set .host true false
  have hroute : (v.endRoute b r b.set .host true false).route q.handle = some q := State.route_put (by rw [hq.handle]; exact hrt)
  rw [hq.handle] at hroute
  refine ⟨_, q, hwork, hq, hroute, ?_⟩
  have hne : ¬ (r.state = .ended ∧ r.ending = .host) := fun e => hlive.1 e.1
  have hkeep : ¬ (r.state = .saved ∧ bitOf (u32At p 4) 0 = true) := fun e => hlive.2 e.1
  have hroute' := hroute
  rw [State.route_handle h.route] at hroute'
  rw [endBody, hfault]
  dsimp only
  rw [if_neg (by simp [hl, hk]), h.routeWait (.inr (.inr hc)), h.routeJobDue hv hwrite, if_pos hc, hv', State.endByHost, hr]
  dsimp only
  rw [if_neg hne, if_neg hlive.1, hb]
  dsimp only
  rw [State.keepBench, if_pos hlive.2, hroute']
  dsimp only
  rw [if_neg hkeep]
  refine State.commitOk_afterDue ?_ hroute' hq.binding ?_ h.unfenced hq.rests.2.2.1
  · rw [hwork.mbx, ← hv']
    exact h.noHalt hhalt
  · exact (State.binding_congr hwork.bnd _).trans hb

theorem routeEnd_completes (h : Granted s k cEnd p) (hr : Resting s (u32At p 0) r b) (hl : p.length = 8) (hk : u32At p 4 ≤ 1)
    (hst : r.state = .open ∨ r.state = .running ∨ r.state = .paused) :
    Completes (.routeEnd k) s fun t =>
      Replied s t k stOk ⟨skRoute, 4⟩ (toLe 4 r.next ++ toLe 4 r.rel.gen ++ toLe 4 0) ∧
      (∃ q, t.route r.handle = some q ∧ q.state = .ended ∧ q.ending = .host ∧ q.next = r.next ∧ q.rel.gen = r.rel.gen) ∧
      t.bnd = s.bnd ∧ t.eng = s.eng ∧ t.bench = s.bench := by
  obtain ⟨a, q, hwork, hq, hroute, hbody⟩ := State.endBody_resting (hr.noted k.toNat) h.asks h.served hl hk hst
  have he := (h.exec (c := .routeEnd k) rfl rfl).trans (congrArg _ hbody)
  have hobj : routeObj q = ⟨skRoute, 4⟩ := by rw [routeObj, hq.state]; rfl
  rw [hobj, hq.next, hq.gen] at he
  have hbox : SameBox s a := by
    unfold SameBox
    rw [hwork.mbx]
    rfl
  obtain ⟨hrep, honly⟩ := State.reply_replies (k := k) (st := stOk) (o := ⟨skRoute, 4⟩) (p := toLe 4 r.next ++ toLe 4 r.rel.gen ++ toLe 4 0)
    h.canonical (a.commit_only k.toNat) hbox hwork.time (by decide) (by decide) (by simp)
  refine ⟨_, he, hrep, ⟨q, ?_, hq.state, hq.ending, hq.next, hq.gen⟩, ?_, ?_, ?_⟩
  · exact (State.route_congr (State.commitOk_rt ..) _).trans hroute
  · exact (State.commitOk_bnd ..).trans hwork.bnd
  · exact (congrArg State.eng honly.eq).trans hwork.eng
  · exact (congrArg State.bench honly.eq).trans hwork.bench

/-! ### Resume -/

theorem State.resumeBody_resting {slot : Nat} (hb : s.binding (u32At p 0) = some b) (hr : s.route (u32At p 8) = some r)
    (hbs : b.state = .active) (hst : r.state = .paused) (hd : bitOf (u32At p 4) 1 = false) (hf : resumeFormOk p = true)
    (hp : pausedFormOk b r p = true) : resumeBody slot p s = s.resumePaused slot b r := by
  rw [resumeBody, hb]
  dsimp only
  rw [if_neg (by simp [hd]), hr]
  dsimp only
  rw [if_neg (by simp [hbs]), if_neg (by simp [hst]), if_neg (by simp [hf]), if_neg (by simp [hst]), if_neg (by simp [hp])]

/-- A resumed route as it stands: in the state it had, with its forced run to go on or not. -/
def Route.resumedAs (r : Route) (again : Bool) : Route := { r with state := if r.ran then .running else .open, forcedMore := again }

/-- A forced run that its pause cut short goes on. -/
def State.forcedAgain (s : State) (b : Binding) (r : Route) : Bool :=
  !r.promptOpen && !r.openDue && decide ((allowed (s.envFor b r) r.rel.pos).length = 1)

theorem State.resumePaused_eq (s : State) (slot : Nat) (b : Binding) (r : Route) :
    s.resumePaused slot b r =
      let q := r.resumedAs (s.forcedAgain b r)
      let u := (((s.commit slot).setRoute q).reply slot stOk (routeObj q) (resumeReply q false)).wantMasks b q [q.rel.pos.g]
      ((if q.openDue then u.opening q.handle else u).readmit q.handle).holdIfLeft q.handle := rfl

theorem State.resumePaused_resting {slot : Nat} (hrb : s.binding r.binding = some b) (hen : r.entries = []) (hc : r.copies = ⟨[], []⟩)
    (ho : r.openDue = false) (hg : s.groupHeld b = false) :
    ∃ (again : Bool) (u t : State), u = (s.commit slot).setRoute (r.resumedAs again) ∧
      t = u.reply slot stOk (routeObj (r.resumedAs again)) (resumeReply (r.resumedAs again) false) ∧
      Banks t (s.resumePaused slot b r) := by
  rw [State.resumePaused_eq]
  dsimp only
  generalize s.forcedAgain b r = again
  refine ⟨again, _, _, rfl, rfl, ?_⟩
  generalize hu : (s.commit slot).setRoute (r.resumedAs again) = u
  generalize ht : u.reply slot stOk (routeObj (r.resumedAs again)) (resumeReply (r.resumedAs again) false) = t
  have hbanks := Banks.wantMasks t b (r.resumedAs again) [(r.resumedAs again).rel.pos.g]
  generalize t.wantMasks b (r.resumedAs again) [(r.resumedAs again).rel.pos.g] = v at hbanks ⊢
  have hur : u.route r.handle = some (r.resumedAs again) := by
    rw [← hu]
    exact State.route_setRoute_same _ (r.resumedAs again)
  have hrt : t.rt = u.rt := by rw [← ht]; simp [State.reply, State.answer]
  have hbnd : t.bnd = s.bnd := by rw [← ht, ← hu]; simp [State.reply, State.answer, State.commit]
  have hlev : t.level = s.level := by rw [← ht, ← hu]; simp [State.reply, State.answer, State.commit]
  have hvr : v.route r.handle = some (r.resumedAs again) := (hbanks.route _).trans ((State.route_congr hrt _).trans hur)
  have hvb : v.binding r.binding = some b := (hbanks.binding _).trans ((State.binding_congr hbnd _).trans hrb)
  have hvg : v.groupHeld b = false := by
    rw [State.groupHeld, hbanks.aside.level, hlev]
    exact hg
  rw [if_neg (by simp [Route.resumedAs, ho])]
  have hadmit : v.readmit (r.resumedAs again).handle = v := State.readmit_empty hvr hen hc
  have hleft : v.holdIfLeft (r.resumedAs again).handle = v := State.holdIfLeft_of_joined hvr hvb hvg
  rw [hadmit, hleft]
  exact hbanks

theorem routeResume_completes (h : Granted s k cResume p) (hb : s.binding (u32At p 0) = some b) (hrb : s.binding r.binding = some b)
    (hr : s.route (u32At p 8) = some r) (hbs : b.state = .active) (hst : r.state = .paused) (hen : r.entries = []) (hc : r.copies = ⟨[], []⟩)
    (ho : r.openDue = false) (hg : s.groupHeld b = false) (hd : bitOf (u32At p 4) 1 = false) (hf : resumeFormOk p = true)
    (hp : pausedFormOk b r p = true) :
    Completes (.routeResume k) s fun t =>
      Replied s t k stOk ⟨skRoute, if r.ran then 1 else 0⟩ (toLe 4 r.handle ++ toLe 4 r.next ++ toLe 1 0 ++ zeros 3) ∧
      (∃ q, t.route r.handle = some q ∧ q.state = (if r.ran then .running else .open) ∧
        { q with state := r.state, forcedMore := r.forcedMore } = r) ∧ t.bnd = s.bnd ∧ t.eng = s.eng := by
  have hbody : resumeBody k.toNat p { s with jr := (s.notice k.toNat).jr } = _ := State.resumeBody_resting hb hr hbs hst hd hf hp
  have he := (h.exec (c := .routeResume k) rfl rfl).trans (congrArg _ hbody)
  obtain ⟨again, u, t, hu, ht, hbanks⟩ := State.resumePaused_resting (s := { s with jr := (s.notice k.toNat).jr }) (slot := k.toNat)
    hrb hen hc ho hg
  have hobj : routeObj (r.resumedAs again) = ⟨skRoute, if r.ran then 1 else 0⟩ := by
    unfold routeObj Route.resumedAs
    cases r.ran <;> rfl
  have hfit : ObjState.Fits ⟨skRoute, if r.ran then 1 else 0⟩ := by cases r.ran <;> decide
  have hur : u.route r.handle = some (r.resumedAs again) := by
    rw [hu]
    exact State.route_setRoute_same _ (r.resumedAs again)
  have hbox : SameBox s u := by
    rw [hu]
    exact SameBox.commit (s := s) (u := { s with jr := (s.notice k.toNat).jr }) rfl k.toNat
  have htime : u.time = s.time := by rw [hu]; simp [State.commit]
  have hbnd : u.bnd = s.bnd := by rw [hu]; simp [State.commit]
  have heng : u.eng = s.eng := by rw [hu]; simp [State.commit]
  have hrep := State.reply_replied k stOk (routeObj (r.resumedAs again)) (resumeReply (r.resumedAs again) false) h.canonical hbox htime
    (by decide) (hobj ▸ hfit) (by simp [resumeReply, zeros])
  have honly := State.reply_only u k stOk (routeObj (r.resumedAs again)) (resumeReply (r.resumedAs again) false)
  rw [← ht] at hrep honly
  rw [hobj] at hrep
  refine ⟨_, he, hrep.congr hbanks.aside.mbx, ⟨_, (hbanks.route _).trans ((State.route_congr ?_ _).trans hur), rfl, rfl⟩, ?_, ?_⟩
  · have := congrArg State.rt honly.eq
    exact this
  · exact hbanks.aside.bnd.trans ((congrArg State.bnd honly.eq).trans hbnd)
  · exact hbanks.aside.eng.trans ((congrArg State.eng honly.eq).trans heng)

end Sys2Proof.Machine

open Sys2Proof Sys2Proof.Machine

/-- Settles O12: a route that rests takes its command at once, and nothing follows that release. -/
theorem restingRoutesMove : Obligations.RestingRoutesMove := by
  intro s k p r b hj hrb ha hf hs hm hp hbs
  have hrest {n : Nat} (hr : s.route n = some r) : Resting s n r b := ⟨hj, hr, hrb, hbs, ha, hf, hs, hm, hp⟩
  exact ⟨fun h hr hl hz hst => routePause_answers h (hrest hr) hl hz hst,
    fun h hr hl hd hroom hst => routeSave_begins h (hrest hr) hl hd hroom hst,
    fun h hr hl hk hst => routeEnd_completes h (hrest hr) hl hk hst,
    fun h hb hr hst he hc ho hg hd hf hp => routeResume_completes h hb hrb hr hbs hst he hc ho hg hd hf hp⟩
end

section
/-! Benchmarks are discarded and written (12 R279; 09 R210; 10 R231; 11 R257). -/
namespace Sys2Proof.Machine

variable {s : State} {k : Byte} {p : List Byte} {r : Route} {b : Binding} {e : BenchEnt}

/-! ### Discard -/

@[simp] theorem State.onHalf_hs_of_ne {s : State} {g h : Half} (f : HalfSt → HalfSt) (hg : g ≠ h) : (s.onHalf h f).hs g = s.hs g := by
  cases g <;> cases h <;> trivial

/-- What is done at each half that serves is done at those, and once. -/
theorem State.foldl_copyHalves_hs (s u : State) (f : HalfSt → HalfSt) (h : Half) :
    (s.copyHalves.foldl (fun t h => t.onHalf h f) u).hs h = if (s.hs h).serves then f (u.hs h) else u.hs h := by
  unfold State.copyHalves
  cases hw : (s.hs .west).serves <;> cases he : (s.hs .east).serves <;> cases h <;>
    simp [hw, he, State.onHalf_hs]

theorem State.foldl_onHalf_eq (u : State) (f : HalfSt → HalfSt) (l : List Half) :
    l.foldl (fun t h => t.onHalf h f) u = { u with half := (l.foldl (fun t h => t.onHalf h f) u).half } := by
  induction l generalizing u with
  | nil => rfl
  | cons h l ih => exact (ih (u.onHalf h f)).trans rfl

theorem State.benchAt_get? {n : Nat} (h : s.benchAt n = some e) : e.handle = n ∧ s.bench.get? (n % indexCount) = some e := by
  unfold State.benchAt at h
  split at h
  · split at h
    · cases h
      exact ⟨by assumption, by assumption⟩
    · cases h
  · cases h

theorem State.dropBench_eq {i : Nat} (h : s.bench.get? i = some e) :
    ∃ x : Halves HalfSt, s.dropBench i = { s with bench := s.bench.del i, half := x } ∧
      ∀ h, x.get h = if (s.hs h).serves then { s.hs h with dirty := (s.hs h).dirty + e.bytes.length } else s.hs h := by
  refine ⟨(s.dropBench i).half, ?_, fun g => ?_⟩ <;> rw [State.dropBench, h]
  · exact State.foldl_onHalf_eq ..
  · exact State.foldl_copyHalves_hs s ..

/-- The route that names a benchmark names it no longer. -/
def State.unnameBench (t : State) (q : Option Route) : State :=
  match q with
  | some r => t.setRoute { r with bench := none }
  | none => t

theorem State.discardBody_frees {slot : Nat} (he : s.benchAt (u32At p 0) = some e)
    (hs : ∀ r, s.route e.route = some r → r.bench ≠ some e.handle ∨ r.state ≠ .saved) (hl : p.length = 8) (hz : zeroAt p 4 4 = true) :
    discardBody slot p s =
      let u := ((s.commit slot).dropBench (e.handle % indexCount)).unnameBench
        ((s.route e.route).filter fun r => r.bench == some e.handle)
      u.reply slot stOk (engineObj u) [] := by
  have hnone : ((s.route e.route).filter fun r => r.bench == some e.handle).filter (fun r => r.state == .saved) = none := by
    rw [Option.filter_eq_none_iff]
    intro r hr
    obtain ⟨hr, hbench⟩ := Option.filter_eq_some_iff.1 hr
    rcases hs r hr with h | h
    · exact absurd (by simpa using hbench) h
    · simpa using h
  unfold discardBody
  rw [he]
  dsimp only
  rw [hnone]
  dsimp only
  exact if_neg (by simp [hl, hz])

theorem State.unnameBench_eq (t : State) (q : Option Route) : t.unnameBench q = { t with rt := (t.unnameBench q).rt } := by
  cases q <;> rfl

theorem routeDiscard_frees (h : Granted s k cDiscard p) (he : s.benchAt (u32At p 0) = some e)
    (hs : ∀ r, s.route e.route = some r → r.bench ≠ some e.handle ∨ r.state ≠ .saved) (hl : p.length = 8) (hz : zeroAt p 4 4 = true) :
    Completes (.routeDiscard k) s fun t =>
      Replied s t k stOk (engineObj s) [] ∧ t.bench = s.bench.del (e.handle % indexCount) ∧
      (∀ h, t.hs h = if (s.hs h).serves then { s.hs h with dirty := (s.hs h).dirty + e.bytes.length } else s.hs h) ∧
      (∀ r, s.route e.route = some r → r.bench = some e.handle → t.route e.route = some { r with bench := none }) ∧
      OnlyReply { s with bench := t.bench, half := t.half, rt := t.rt } t k := by
  obtain ⟨hn, hget⟩ := State.benchAt_get? he
  have hbody : discardBody k.toNat p { s with jr := (s.notice k.toNat).jr } = _ := State.discardBody_frees he hs hl hz
  have hex := (h.exec (c := .routeDiscard k) rfl rfl).trans (congrArg _ hbody)
  obtain ⟨x, hd, hx⟩ := State.dropBench_eq (s := ({ s with jr := (s.notice k.toNat).jr } : State).commit k.toNat) (e := e)
    (i := e.handle % indexCount) (by rw [State.commit_eq, hn]; exact hget)
  generalize hc : ({ s with jr := (s.notice k.toNat).jr } : State).commit k.toNat = c at hd hx hex
  have hjournal : OnlyJournal s c := by
    rw [← hc]
    exact OnlyJournal.trans (t := { s with jr := (s.notice k.toNat).jr }) rfl (State.commit_only _ _)
  have hrt : c.rt = s.rt := by
    have := congrArg State.rt hjournal
    exact this
  generalize hq : Option.filter (fun r => r.bench == some e.handle) (({ s with jr := (s.notice k.toNat).jr } : State).route e.route) = q
    at hex
  rw [hd, State.unnameBench_eq] at hex
  generalize hR : (State.unnameBench { c with bench := c.bench.del (e.handle % indexCount), half := x } q).rt = R at hex
  have hobj : engineObj ({ c with bench := c.bench.del (e.handle % indexCount), half := x, rt := R } : State) = engineObj s := by
    have := congrArg engineObj hjournal
    exact this
  have hbench : c.bench = s.bench := by
    have := congrArg State.bench hjournal
    exact this
  dsimp only at hex
  rw [hobj] at hex
  obtain ⟨hrep, honly⟩ := State.reply_replies (s1 := { s with bench := s.bench.del (e.handle % indexCount), half := x, rt := R })
    (u := { c with bench := c.bench.del (e.handle % indexCount), half := x, rt := R }) (o := engineObj s) (p := []) h.canonical
    (by rw [hbench]; exact congrArg (fun y : State => { y with bench := s.bench.del (e.handle % indexCount), half := x, rt := R }) hjournal)
    rfl rfl (st := stOk) (by decide) (engineObj_lt s) (by simp)
  have hx' (g : Half) : x.get g = if (s.hs g).serves then { s.hs g with dirty := (s.hs g).dirty + e.bytes.length } else s.hs g := by
    have hhalf : c.half = s.half := by
      have := congrArg State.half hjournal
      exact this
    rw [hx g, State.hs, State.hs, hhalf]
  obtain ⟨m, n, ht⟩ := honly.exists_eq
  refine ⟨_, hex, hrep, ?_, fun g => ?_, fun r hr hrb => ?_, ?_⟩
  · rw [ht]
  · rw [ht]
    exact hx' g
  · have hfilter : q = some r := by
      rw [← hq]
      exact Option.filter_eq_some_iff.2 ⟨hr, by simp [hrb]⟩
    rw [ht, ← State.route_handle hr]
    refine (State.route_congr (s := (State.unnameBench { c with bench := c.bench.del (e.handle % indexCount), half := x } q)) hR.symm _).trans ?_
    rw [hfilter]
    exact State.route_setRoute_same _ { r with bench := none }
  · rw [ht]
    rfl

theorem routeDiscard_refuses (h : Granted s k cDiscard p) (he : s.benchAt (u32At p 0) = some e) (hr : s.route e.route = some r)
    (hb : r.bench = some e.handle) (hs : r.state = .saved) : Answers (.routeDiscard k) s s k stState ⟨skRoute, 3⟩ [] := by
  have hfilter : ((s.route e.route).filter fun r => r.bench == some e.handle).filter (fun r => r.state == .saved) = some r := by
    rw [hr]
    simp [Option.filter, hb, hs]
  refine h.answers rfl rfl (fun j => ?_) (by decide) (by decide) (by simp)
  have he' : ({ s with jr := j } : State).benchAt (u32At p 0) = some e := he
  have hf' : ((({ s with jr := j } : State).route e.route).filter fun r => r.bench == some e.handle).filter (fun r => r.state == .saved) =
    some r := hfilter
  unfold discardBody
  rw [he']
  dsimp only
  rw [hf']
  dsimp only
  rw [State.refuse, routeObj, hs]
  rfl

/-! ### BENCHMARK_WRITTEN -/

/-- The completion of the one command that runs leaves none. -/
theorem State.complete_jobs_nil {u : State} {k : Nat} (hv : (u.slotServer k).isSome = true) (hj : ∀ j ∈ u.mbx.jobs, j.slot = k) (o : ObjRef)
    (q : List Byte) : (u.complete k o q).mbx.jobs = [] := by
  rcases State.complete_of_served hv o q with h | h <;> rw [h, State.reply_jobs, List.filter_eq_nil_iff]
  · intro j hm
    simp [hj j hm]
  · intro j hm
    obtain ⟨i, hi, c, rfl⟩ := State.mem_commit_jobs hm
    simp [hj i hi]

/-- The route as the benchmark of a handle holds it. -/
def Route.savedAs (r : Route) (n : Nat) : Route := { r with state := .saved, saving := false, bench := some n, drafts := none }

/-- `route.save` commits and its route is SAVED under the handle of its benchmark. -/
theorem State.saveDone_eq {i n : Nat} {j : Job} (hi : freeIndex s.bench = some i) (hn : n = i + 2 ^ 18 * nextGen ((s.benchGen.get? i).getD 0)) :
    ∃ (js : List Job) (x : JrSt) (g : Tab Nat), (∀ y ∈ js, ∃ z ∈ s.mbx.jobs, z.slot = y.slot) ∧
      s.saveDone j b r =
        ({ s with mbx := { s.mbx with jobs := js }, jr := x, bench := s.bench.put i ⟨n, r.handle, routeBench b r⟩, benchGen := g
                  rt := s.rt.put (routeIndex r.handle) (r.savedAs n) } : State).complete j.slot (.route r.handle)
          (saveReply n r.next (routeBench b r).length) := by
  have hi' : freeIndex (s.commit j.slot).bench = some i := by
    rw [State.commit_eq]
    exact hi
  have hsave : (s.commit j.slot).saveRoute b r =
      { s.commit j.slot with
        bench := s.bench.put i ⟨n, r.handle, routeBench b r⟩
        benchGen := s.benchGen.put i (nextGen ((s.benchGen.get? i).getD 0))
        rt := s.rt.put (routeIndex r.handle) (r.savedAs n) } := by
    rw [State.saveRoute, hi', hn, State.commit_eq]
    rfl
  have hroute : ((s.commit j.slot).saveRoute b r).route r.handle = some (r.savedAs n) := 
    State.route_put (r := r.savedAs n) (t := s.rt) (by rw [hsave]; rfl)
  refine ⟨(s.commit j.slot).mbx.jobs, (s.commit j.slot).jr, s.benchGen.put i (nextGen ((s.benchGen.get? i).getD 0)), fun y hy => ?_, ?_⟩
  · obtain ⟨z, hz, c, rfl⟩ := State.mem_commit_jobs hy
    exact ⟨z, hz, rfl⟩
  · rw [State.saveDone, hroute, hsave, State.commit_eq]
    rfl

theorem benchmarkWritten_saves {h : U32} {i : Nat} {j : Job} (hw : s.mbx.mem.wf = true) (hv : (s.slotServer k.toNat).isSome = true)
    (hr : s.route h.toNat = some r) (hb : s.binding r.binding = some b) (hsv : r.saving = true) (hm : r.markDue = false) (hbs : b.state = .active) (hi : freeIndex s.bench = some i)
    (hj : s.mbx.jobs = [j]) (hslot : j.slot = k.toNat) (hcode : j.code = cSave) (harg : j.arg = r.handle) (hst : j.stage = 1)
    (hex : bitOf (u32At j.body 4) 0 = false) :
    Completes (.benchmarkWritten h) s fun t =>
      let g := nextGen ((s.benchGen.get? i).getD 0)
      Replied s t k stOk ⟨skRoute, 3⟩ (toLe 4 (i + 2 ^ 18 * g) ++ toLe 4 r.next ++ toLe 8 (routeBench b r).length) ∧
      t.route r.handle = some { r with state := .saved, saving := false, bench := some (i + 2 ^ 18 * g), drafts := none } ∧
      t.bench = s.bench.put i ⟨i + 2 ^ 18 * g, r.handle, routeBench b r⟩ ∧ t.bnd = s.bnd ∧ t.eng = s.eng := by
  generalize hg : nextGen ((s.benchGen.get? i).getD 0) = g
  have hsave : s.saveJob h.toNat = some j := by
    rw [State.saveJob, hj]
    simp [hcode, harg, hst, State.route_handle hr]
  have hrun : exec (.benchmarkWritten h) s = .next ((s.saveDone j b r).settle h.toNat) := by
    show Host.Outcome.next (s.benchWritten h.toNat) = _
    unfold State.benchWritten
    rw [hr]
    dsimp only
    rw [hb]
    dsimp only
    rw [if_neg (by simp [hsv, hi]), hsave]
    dsimp only
    rw [if_neg (by simp [hex])]
  obtain ⟨js, x, gs, hjs, hdone⟩ := State.saveDone_eq (r := r) (b := b) (j := j) hi (n := i + 2 ^ 18 * g) (by rw [hg])
  rw [hslot] at hdone
  obtain ⟨u, hu⟩ : ∃ u : State, u = { s with
    mbx := { s.mbx with jobs := js }, jr := x, bench := s.bench.put i ⟨i + 2 ^ 18 * g, r.handle, routeBench b r⟩, benchGen := gs
    rt := s.rt.put (routeIndex r.handle) (r.savedAs (i + 2 ^ 18 * g)) } := ⟨_, rfl⟩
  rw [← hu] at hdone
  have huv : (u.slotServer k.toNat).isSome = true := by
    rw [hu]
    exact hv
  have hur : u.route r.handle = some (r.savedAs (i + 2 ^ 18 * g)) :=
    State.route_put (s := u) (r := r.savedAs (i + 2 ^ 18 * g)) (t := s.rt) (by rw [hu]; rfl)
  have hub : u.binding r.binding = some b := by
    rw [hu]
    exact hb
  have hujobs : ∀ y ∈ u.mbx.jobs, y.slot = k.toNat := by
    intro y hy
    rw [hu] at hy
    obtain ⟨z, hz, hzy⟩ := hjs y hy
    rw [hj, List.mem_singleton] at hz
    rw [← hzy, hz, hslot]
  have hobj : u.objOf (.route r.handle) = ⟨skRoute, 3⟩ := by
    simp only [State.objOf, hur]
    rfl
  have hbox : SameBox s u := by
    rw [hu]
    rfl
  obtain ⟨hrep, honly⟩ := State.complete_replies (u := u) (o := .route r.handle) (x := ⟨skRoute, 3⟩)
    (q := saveReply (i + 2 ^ 18 * g) r.next (routeBench b r).length) hw huv hobj hbox (by rw [hu]) (by decide) (by simp [saveReply])
  have hjobs := State.complete_jobs_nil huv hujobs (.route r.handle) (saveReply (i + 2 ^ 18 * g) r.next (routeBench b r).length)
  rw [hdone] at hrun
  generalize u.complete k.toNat (.route r.handle) (saveReply (i + 2 ^ 18 * g) r.next (routeBench b r).length) = t at *
  obtain ⟨m, n, ht⟩ := honly.exists_eq
  have htr : t.route r.handle = some (r.savedAs (i + 2 ^ 18 * g)) := by
    rw [ht]
    exact hur
  have htb : t.binding r.binding = some b := by
    rw [ht]
    exact hub
  have hstill : t.settle h.toNat = t := by
    rw [← State.route_handle hr]
    exact State.settle_still (r := r.savedAs (i + 2 ^ 18 * g)) (b := b) htr htb (by rw [hbs]; decide) hjobs hm (Bool.and_false _)
  rw [hstill] at hrun
  refine ⟨t, hrun, hrep, htr, ?_, ?_, ?_⟩ <;> rw [ht, hu]

end Sys2Proof.Machine

open Sys2Proof Sys2Proof.Machine

/-- Settles O13: a discard and a save each change the table of benchmarks and the one route. -/
theorem benchmarksComeAndGo : Obligations.BenchmarksComeAndGo := fun _ _ _ =>
  ⟨fun _ h he => ⟨fun hs hl hz => routeDiscard_frees h he hs hl hz, fun _ hr hb hs => routeDiscard_refuses h he hr hb hs⟩,
    fun _ _ _ _ _ hw hv hr hb hsv _ _ hm hbs hi hj hslot hcode harg hst hex =>
      benchmarkWritten_saves hw hv hr hb hsv hm hbs hi hj hslot hcode harg hst hex⟩
end

section
/-! Suspect plates give way to spares, and lapse (12 R288; 13 R302; 18 R439). -/
namespace Sys2Proof.Machine

variable {s : State} {k : Byte} {p : List Byte} {h : Half}

/-! ### Commands that name a half -/

theorem halfCommand_runs {n slot : Nat} {bad : State → Half → Option ObjState} (go : Nat → List Byte → Half → State → State)
    (hh : h = Half.ofCode (u8At p 0)) (hu : u8At p 0 ≤ 1) (hb : bad s h = none) (hl : p.length = 8) (hz : zeroAt p n (8 - n) = true) :
    halfCommand n bad go slot p s = go slot p h s := by
  subst hh
  unfold halfCommand
  rw [if_neg (by omega), hb]
  exact if_neg (by simp [hl, hz])

theorem limpBad_eq_none (hs : s.eng.state = .limp → h ≠ s.survivor) : limpBad s h = none := by
  unfold limpBad
  by_cases hl : s.eng.state = .limp
  · simp [hs hl]
  · simp [hl]

/-- The command that a request becomes. -/
def State.begun (s : State) (slot : Nat) (p : List Byte) (stage : Nat) : Job :=
  { slot := slot, code := s.sealCode slot, body := p, stage := stage, left := 0, parts := [], reply := []
    obj := .engine, arg := 0, digest := 0, half := s.slotHalf slot }

theorem State.begin_eq (s : State) (slot : Nat) (p : List Byte) (stage : Nat) : s.begin slot p stage = s.setJob (s.begun slot p stage) := rfl

/-- A search of the commands that run finds the one that has just begun first. -/
theorem State.find_begin {f : Job → Bool} {slot stage : Nat} (hf : f (s.begun slot p stage) = true) :
    (s.begin slot p stage).mbx.jobs.find? f = some (s.begun slot p stage) := List.find?_cons_of_pos hf

theorem State.jobOf_begin (s : State) (slot : Nat) (p : List Byte) (stage : Nat) :
    (s.begin slot p stage).jobOf slot = some (s.begun slot p stage) := State.find_begin (by simp [State.begun])

/-! ### Plates -/

/-- Nothing changes but banks of halves and records of it: the log and the journal. -/
structure Kept (s t : State) : Prop where
  rest : { t with half := s.half, safe := s.safe, jr := s.jr } = s
  seat : ∀ g, (t.hs g).seat = (s.hs g).seat
  rescue : t.safe.rescueEast = s.safe.rescueEast

namespace Kept
variable {s t u : State}

theorem trans (h : Kept s t) (g : Kept t u) : Kept s u := by
  refine ⟨?_, fun x => (g.seat x).trans (h.seat x), g.rescue.trans h.rescue⟩
  rw [← h.rest, ← g.rest]

theorem eq (h : Kept s t) : t = { s with half := t.half, safe := t.safe, jr := t.jr } := by
  rw [← h.rest]

theorem served (h : Kept s t) {k : Nat} (hv : (s.slotServer k).isSome = true) : (t.slotServer k).isSome = true := by
  have he : t.eng = s.eng := by rw [h.eq]
  have hm : t.mbx.taken = s.mbx.taken := by rw [h.eq]
  rw [State.slotServer_of_seat h.seat he hm h.rescue]
  exact hv

end Kept

theorem Banks.kept {s t : State} (h : Banks s t) : Kept s t := by
  refine ⟨?_, h.seat, ?_⟩
  · rw [h.eq]
  · rw [h.eq]

theorem Kept.log (s : State) (side sev code a0 a1 : Nat) (d : List Byte) : Kept s (s.log side sev code a0 a1 d) := by
  unfold State.log
  split <;> exact ⟨rfl, fun _ => rfl, rfl⟩

theorem Kept.journal (s : State) (h : Half) (kind subject : Nat) (q : List Byte) : Kept s (s.journal h kind subject q) := by
  rw [State.journal_eq]
  exact ⟨rfl, fun _ => rfl, rfl⟩

theorem Kept.recovery (s : State) (h : Half) (cause handle step : Nat) : Kept s (s.recovery h cause handle step) := .journal ..

theorem Kept.onHalf (s : State) (h : Half) {f : HalfSt → HalfSt} (hf : ∀ x, (f x).seat = x.seat) : Kept s (s.onHalf h f) :=
  (Banks.onHalf s h hf).kept

/-- What every retirement of a plate counts and records. -/
def State.plateOut (s : State) (h : Half) (pos : Nat) : State :=
  ((((s.countFault h 4 1).onHalf h fun x =>
    { x with retired := x.retired + 1, suspects := x.suspects.filter fun y => y.pos != pos }).log h.code 1 0x0003 pos 0 []).recovery h
      0x0003 0 0)

theorem Kept.plateOut (s : State) (h : Half) (pos : Nat) : Kept s (s.plateOut h pos) := by
  have hcount : Kept s (s.countFault h 4 1) := (Banks.countFault s h 4 1).kept
  unfold State.plateOut
  refine (hcount.trans (Kept.onHalf _ h ?_)).trans ((Kept.log ..).trans (Kept.recovery ..))
  exact fun _ => rfl

/-- A half's banks after a spare has taken a plate's position. -/
def HalfSt.spareUsed (x : HalfSt) (pos : Nat) : HalfSt :=
  (({ x with spare := x.spare - 1 } : HalfSt).clear (.spare pos) homeBank).clear .bank homeBank

theorem State.retirePlate_spared (hs : (s.hs h).spare ≠ 0) (pos : Nat) :
    s.retirePlate h pos = (s.plateOut h pos).onHalf h fun x => x.spareUsed pos := by
  unfold State.retirePlate
  dsimp only
  exact if_neg hs

theorem State.recovery_half (s : State) (h : Half) (cause handle step : Nat) : (s.recovery h cause handle step).half = s.half := by
  rw [State.recovery, State.journal_eq]

theorem State.plateOut_half (s : State) (h : Half) (pos : Nat) :
    (s.plateOut h pos).half = (s.onHalf h fun x =>
      { x with faults := bump x.faults 4 1, retired := x.retired + 1, suspects := x.suspects.filter fun y => y.pos != pos }).half := by
  rw [State.plateOut, State.recovery_half, State.log_half]
  cases h <;> rfl

theorem Kept.retirePlate (hs : (s.hs h).spare ≠ 0) (pos : Nat) : Kept s (s.retirePlate h pos) := by
  rw [State.retirePlate_spared hs]
  exact (Kept.plateOut s h pos).trans (.onHalf _ h fun _ => rfl)

/-- A spare takes the position of a plate: the half counts one plate more that is retired, and no position is empty for it. -/
theorem State.retirePlate_half (hs : (s.hs h).spare ≠ 0) (pos : Nat) :
    (s.retirePlate h pos).half = s.half.set h
      (({ s.hs h with
          faults := bump (s.hs h).faults 4 1, retired := (s.hs h).retired + 1
          suspects := (s.hs h).suspects.filter fun y => y.pos != pos } : HalfSt).spareUsed pos) := by
  rw [State.retirePlate_spared hs, State.onHalf, State.plateOut_half]
  cases h <;> rfl

/-! ### `service.retire_suspects` -/

theorem suspectsBody_begins (hh : h = Half.ofCode (u8At p 0)) (hu : u8At p 0 ≤ 1) (hl : p.length = 8) (hz : zeroAt p 1 7 = true)
    (hs : s.eng.state = .limp → h ≠ s.survivor) (slot : Nat) : suspectsBody slot p s = (s.begin slot p 0).suspectsGo :=
  halfCommand_runs _ hh hu (limpBad_eq_none hs) hl hz

theorem retireSuspects_exec (hh : h = Half.ofCode (u8At p 0)) (hu : u8At p 0 ≤ 1) (hl : p.length = 8) (hz : zeroAt p 1 7 = true)
    (hg : Granted s k cSuspects p) (hs : s.eng.state = .limp → h ≠ s.survivor) :
    exec (.serviceRetireSuspects k) s = .next ((({ s with jr := (s.notice k.toNat).jr } : State).begin k.toNat p 0).suspectsGo) :=
  (hg.exec (c := .serviceRetireSuspects k) rfl rfl).trans
    (congrArg _ (suspectsBody_begins (s := { s with jr := (s.notice k.toNat).jr }) hh hu hl hz hs k.toNat))

theorem retireSuspects_answers (hh : h = Half.ofCode (u8At p 0)) (hu : u8At p 0 ≤ 1) (hl : p.length = 8) (hz : zeroAt p 1 7 = true)
    (hg : Granted s k cSuspects p) (hs : s.eng.state = .limp → h ≠ s.survivor) (hn : (s.hs h).suspects = []) :
    Answers (.serviceRetireSuspects k) s s k stOk (engineObj s) (toLe 2 0 ++ toLe 2 (s.hs h).spare) := by
  have he := retireSuspects_exec hh hu hl hz hg hs
  obtain ⟨u, hu⟩ : ∃ u : State, u = { s with jr := (s.notice k.toNat).jr } := ⟨_, rfl⟩
  rw [← hu] at he
  have hcode : (u.begun k.toNat p 0).code = cSuspects := by rw [hu]; exact hg.asks
  have htarget : (u.begun k.toNat p 0).target = h := hh.symm
  have hgo : (u.begin k.toNat p 0).suspectsGo = (u.begin k.toNat p 0).complete k.toNat .engine (toLe 2 0 ++ toLe 2 (s.hs h).spare) := by
    have hsus : ((u.begin k.toNat p 0).hs h).suspects = [] := by rw [hu]; exact hn
    have hspare : ((u.begin k.toNat p 0).hs h).spare = (s.hs h).spare := by rw [hu]; rfl
    have harg : (((u.begin k.toNat p 0).jobOf k.toNat).map fun j => j.arg).getD 0 = 0 := by
      rw [State.jobOf_begin]
      rfl
    unfold State.suspectsGo
    rw [State.find_begin (by simp [hcode])]
    dsimp only
    rw [htarget, hsus]
    simp only [List.any_nil, Bool.and_false, Bool.false_eq_true, if_false, List.reverse_nil, State.replaceSuspects]
    rw [hsus, if_pos (.inr rfl), hspare]
    show State.complete _ k.toNat _ (toLe 2 (((State.jobOf _ k.toNat).map fun j => j.arg).getD 0) ++ _) = _
    rw [harg]
  rw [hgo] at he
  refine Answers.of_complete hg.canonical he ?_ ?_ ?_ ?_ ?_ (engineObj_lt s) (by simp)
  all_goals rw [hu]
  · exact hg.served
  all_goals rfl

theorem State.commitOnce_begin (s : State) (slot : Nat) (p : List Byte) (stage : Nat) :
    (s.begin slot p stage).commitOnce slot = (s.begin slot p stage).commit slot := by
  unfold State.commitOnce
  rw [State.jobOf_begin]
  rfl

/-- The jobs as a commit of the newest one and a plate's retirement leave them: the newest one is first, and counts the plate. -/
theorem State.countRetired_begin {slot : Nat} {t : State} (hc : s.sealCode slot = cSuspects) (hh : h = Half.ofCode (u8At p 0))
    (ht : t.mbx = ((s.begin slot p 0).commit slot).mbx) :
    (t.countRetired h).jobOf slot = some { s.begun slot p 0 with committed := true, arg := 1 } ∧ SameBox s (t.countRetired h) := by
  have hmine : ((s.begun slot p 0).code == cSuspects && Job.target { s.begun slot p 0 with committed := true } == h) = true := by
    simp [State.begun, hc, Job.target, hh]
  have hjobs : t.mbx.jobs = ((s.begin slot p 0).commit slot).mbx.jobs := by rw [ht]
  constructor
  · unfold State.jobOf State.countRetired
    dsimp only
    rw [hjobs, State.commit, State.begin_eq, State.setJob]
    simp only [State.journal_mbx, List.map_cons]
    rw [if_pos (show (s.begun slot p 0).slot = slot from rfl)]
    dsimp only
    rw [if_pos hmine, List.find?_cons_of_pos (by simp [State.begun])]
    rfl
  · unfold SameBox State.countRetired
    rw [ht, State.commit_eq]
    rfl

/-- The one suspect of a half that computes nothing gives way to a spare. -/
theorem State.replaceSuspects_one {x : Suspect} (hs : (s.hs h).spare ≠ 0) (hb : s.busySuspect h x.pos = false) :
    s.replaceSuspects h [x] = (s.retirePlate h x.pos).countRetired h := by
  unfold State.replaceSuspects
  rw [if_neg (by simp [hs, hb])]
  rfl

theorem retireSuspects_retires {x : Suspect} (hh : h = Half.ofCode (u8At p 0)) (hu : u8At p 0 ≤ 1) (hl : p.length = 8)
    (hz : zeroAt p 1 7 = true) (hg : Granted s k cSuspects p) (hs : s.eng.state = .limp → h ≠ s.survivor)
    (hx : (s.hs h).suspects = [x]) (hspare : 0 < (s.hs h).spare) (hb : s.busySuspect h x.pos = false) :
    Completes (.serviceRetireSuspects k) s fun t =>
      Replied s t k stOk (engineObj s) (toLe 2 1 ++ toLe 2 ((s.hs h).spare - 1)) ∧
      (t.hs h).suspects = [] ∧ (t.hs h).spare = (s.hs h).spare - 1 ∧ (t.hs h).retired = (s.hs h).retired + 1 ∧
      (t.hs h).emptyPos = (s.hs h).emptyPos ∧ t.hs h.other = s.hs h.other := by
  have he := retireSuspects_exec hh hu hl hz hg hs
  obtain ⟨u, hu⟩ : ∃ u : State, u = { s with jr := (s.notice k.toNat).jr } := ⟨_, rfl⟩
  rw [← hu] at he
  have hcode : u.sealCode k.toNat = cSuspects := by rw [hu]; exact hg.asks
  obtain ⟨v, hv⟩ : ∃ v : State, v = (u.begin k.toNat p 0).commit k.toNat := ⟨_, rfl⟩
  have hvhalf : v.half = s.half := by
    rw [hv, State.commit_eq, hu]
    rfl
  have hvs : (v.hs h).spare ≠ 0 := by
    rw [State.hs, hvhalf]
    exact Nat.ne_of_gt hspare
  have hvb : v.busySuspect h x.pos = false := by
    rw [hv, State.commit_eq, hu]
    exact hb
  have hret := Kept.retirePlate hvs x.pos
  have hhalf := State.retirePlate_half hvs x.pos
  obtain ⟨w, hw⟩ : ∃ w : State, w = (v.retirePlate h x.pos).countRetired h := ⟨_, rfl⟩
  obtain ⟨hwj, hwbox⟩ := State.countRetired_begin (s := u) (t := v.retirePlate h x.pos) hcode hh (by rw [hret.eq, hv])
  rw [← hw] at hwj hwbox
  have hwhalf : w.half = s.half.set h
      (({ s.hs h with
          faults := bump (s.hs h).faults 4 1, retired := (s.hs h).retired + 1
          suspects := (s.hs h).suspects.filter fun y => y.pos != x.pos } : HalfSt).spareUsed x.pos) := by
    rw [hw]
    refine hhalf.trans ?_
    rw [State.hs, hvhalf]
    rfl
  have hsus : (w.hs h).suspects = [] := by
    rw [State.hs, hwhalf, Halves.get_set_same]
    show (s.hs h).suspects.filter _ = []
    simp [hx]
  have hsp : (w.hs h).spare = (s.hs h).spare - 1 := by
    rw [State.hs, hwhalf, Halves.get_set_same]
    rfl
  have hgo : (u.begin k.toNat p 0).suspectsGo = w.complete k.toNat .engine (toLe 2 1 ++ toLe 2 ((s.hs h).spare - 1)) := by
    have hus : ((u.begin k.toNat p 0).hs h).suspects = [x] := by rw [hu]; exact hx
    have hub : ((u.begin k.toNat p 0).hs h).spare ≠ 0 := by rw [hu]; exact Nat.ne_of_gt hspare
    have huq : (u.begin k.toNat p 0).busySuspect h x.pos = false := by rw [hu]; exact hb
    have htarget : (u.begun k.toNat p 0).target = h := hh.symm
    unfold State.suspectsGo
    rw [State.find_begin (by simp [hcode, State.begun])]
    dsimp only
    rw [htarget, hus]
    simp only [hub, huq, ne_eq, not_false_eq_true, decide_true, Bool.true_and, List.any_cons, List.any_nil, Bool.not_false, Bool.true_or,
      if_true, List.reverse_singleton]
    rw [show (u.begun k.toNat p 0).slot = k.toNat from rfl, State.commitOnce_begin, ← hv, State.replaceSuspects_one hvs hvb, ← hw, hsus,
      if_pos (.inr rfl), hwj, hsp]
    rfl
  have hwv : (w.slotServer k.toNat).isSome = true := by
    rw [hw]
    exact hret.served (s := v) (by rw [hv, State.commit_eq, hu]; exact hg.served)
  have hwt : w.time = s.time := by
    rw [hw]
    refine (congrArg State.time hret.eq).trans ?_
    rw [hv, State.commit_eq, hu]
    rfl
  have hobj : w.objOf .engine = engineObj s := by
    rw [hw]
    refine (congrArg engineObj hret.eq).trans ?_
    rw [hv, State.commit_eq, hu]
    rfl
  have hbox : SameBox s w := by
    rw [hu] at hwbox
    exact hwbox
  obtain ⟨hrep, honly⟩ := State.complete_replies (u := w) (o := .engine) (q := toLe 2 1 ++ toLe 2 ((s.hs h).spare - 1)) hg.canonical hwv
    hobj hbox hwt (engineObj_lt s) (by simp)
  rw [hgo] at he
  have hfin := congrArg State.half honly.eq
  refine ⟨_, he, hrep, ?_, ?_, ?_, ?_, ?_⟩
  all_goals rw [State.hs, hfin]
  · exact hsus
  · exact hsp
  all_goals rw [hwhalf]
  · rw [Halves.get_set_same]
    rfl
  · rw [Halves.get_set_same]
    rfl
  · rw [Halves.get_set_other]
    rfl

/-! ### SUSPECT_EXPIRY -/

theorem suspectExpiry_lapses (s : State) (h : Half) (pos : BitVec 7) :
    Completes (.suspectExpiry h pos) s fun t =>
      (∀ y, y ∈ (t.hs h).suspects ↔ y ∈ (s.hs h).suspects ∧ ¬(y.pos = pos.toNat ∧ y.time + 7 * dayNs ≤ s.time.toNat)) ∧
      s.onHalf h (fun x => { x with suspects := (t.hs h).suspects }) = t := by
  refine ⟨_, rfl, fun y => ?_, ?_⟩
  · rw [State.onHalf_hs]
    simp [Decidable.imp_iff_not_or]
  · rw [State.onHalf_hs]
    cases h <;> rfl

end Sys2Proof.Machine

open Sys2Proof Sys2Proof.Machine

/-- Settles O18: the command's own job is found first, and it counts the plate that a spare has replaced. -/
theorem suspectPlates : Obligations.SuspectPlates := fun s _ _ h =>
  ⟨fun hh hu hl hz hg hs =>
    ⟨fun hn => retireSuspects_answers hh hu hl hz hg hs hn,
      fun _ hx hsp hb => retireSuspects_retires hh hu hl hz hg hs hx hsp hb⟩,
    suspectExpiry_lapses s h⟩
end

section
/-! Fuse burns, keyslot programming and revocation (12 R288, R289; 10 R217, R223; 17 R430; 09 R205). -/
namespace Sys2Proof.Machine

variable {s : State} {k : Byte} {p : List Byte} {h : Half} {n : Nat}

/-! ### Without VDD_FUSE -/

theorem fuseBad_absent (hv : s.safe.fuseV = false) : fuseBad s = some ⟨skNone, 0⟩ := by
  unfold fuseBad
  rw [hv]
  rfl

theorem fuseBad_present (hv : s.safe.fuseV = true) : fuseBad s = none := by
  unfold fuseBad
  rw [hv]
  rfl

theorem fuseBurn_unpowered (hv : s.safe.fuseV = false) (hg : Granted s k cFuseBurn p) (hn : u8At p 0 ≤ 1) :
    Answers (.serviceFuseBurn k) s s k stState ⟨skNone, 0⟩ [] := by
  refine hg.answers rfl rfl (fun j => ?_) (by decide) (by decide) (by simp)
  have hb : fuseBad { s with jr := j } = some ⟨skNone, 0⟩ := fuseBad_absent hv
  unfold fuseBurnBody halfCommand
  rw [if_neg (by omega)]
  dsimp only
  rw [hb]
  rfl

theorem keyProgram_unpowered (hv : s.safe.fuseV = false) (hg : Granted s k cKeyProgram p) :
    Answers (.serviceKeyslotProgram k) s s k stState ⟨skNone, 0⟩ [] := by
  refine hg.answers rfl rfl (fun j => ?_) (by decide) (by decide) (by simp)
  have hb : fuseBad { s with jr := j } = some ⟨skNone, 0⟩ := fuseBad_absent hv
  unfold keyProgramBody
  dsimp only
  rw [hb]
  rfl

theorem keyRevoke_unpowered (hv : s.safe.fuseV = false) (hg : Granted s k cKeyRevoke p) :
    Answers (.serviceKeyslotRevoke k) s s k stState ⟨skNone, 0⟩ [] := by
  refine hg.answers rfl rfl (fun j => ?_) (by decide) (by decide) (by simp)
  have hb : fuseBad { s with jr := j } = some ⟨skNone, 0⟩ := fuseBad_absent hv
  unfold keyRevokeBody
  dsimp only
  rw [hb]
  rfl

/-! ### A burn -/

theorem fuseBurnBody_starts (hv : s.safe.fuseV = true) (hh : h = Half.ofCode (u8At p 0)) (hn : u8At p 0 ≤ 1) (hl : p.length = 8)
    (hz : zeroAt p 1 7 = true) (slot : Nat) : fuseBurnBody slot p s = s.startBurn slot p h :=
  halfCommand_runs _ hh hn (fuseBad_present hv) hl hz

theorem fuseBurn_busy (hv : s.safe.fuseV = true) (hj : s.safe.fuseJob ≠ none) (hg : Granted s k cFuseBurn p) (hn : u8At p 0 ≤ 1)
    (hl : p.length = 8) (hz : zeroAt p 1 7 = true) : Answers (.serviceFuseBurn k) s s k stBusy (engineObj s) [] := by
  refine hg.answers rfl rfl (fun j => ?_) (by decide) (engineObj_lt s) (by simp)
  refine (fuseBurnBody_starts (s := { s with jr := j }) hv rfl hn hl hz _).trans ?_
  exact if_pos (Option.isSome_iff_ne_none.2 hj)

theorem fuseBurn_exec (hv : s.safe.fuseV = true) (hh : h = Half.ofCode (u8At p 0)) (hg : Granted s k cFuseBurn p) (hn : u8At p 0 ≤ 1)
    (hl : p.length = 8) (hz : zeroAt p 1 7 = true) :
    exec (.serviceFuseBurn k) s = .next (({ s with jr := (s.notice k.toNat).jr } : State).startBurn k.toNat p h) :=
  (hg.exec (c := .serviceFuseBurn k) rfl rfl).trans
    (congrArg _ (fuseBurnBody_starts (s := { s with jr := (s.notice k.toNat).jr }) hv hh hn hl hz k.toNat))

/-- With nothing to burn, or no budget, the reply says so at once (09 R205). -/
theorem fuseBurn_nothing (hv : s.safe.fuseV = true) (hj : s.safe.fuseJob = none) (hh : h = Half.ofCode (u8At p 0))
    (hg : Granted s k cFuseBurn p) (hn : u8At p 0 ≤ 1) (hl : p.length = 8) (hz : zeroAt p 1 7 = true)
    (h0 : (s.hs h).pendingRepairs = [] ∨ (s.hs h).left = 0) :
    Answers (.serviceFuseBurn k) s s k stOk (engineObj s)
      (toLe 2 0 ++ toLe 2 (s.hs h).pendingRepairs.length ++ toLe 2 (s.hs h).left) := by
  have he := fuseBurn_exec hv hh hg hn hl hz
  have hmin : min (s.hs h).pendingRepairs.length (s.hs h).left = 0 := by
    rcases h0 with e | e <;> simp [e]
  obtain ⟨u, hu⟩ : ∃ u : State, u = { s with jr := (s.notice k.toNat).jr } := ⟨_, rfl⟩
  rw [← hu] at he
  have hgo : u.startBurn k.toNat p h = u.complete k.toNat .engine (burnReply (s.hs h) 0) := by
    have huj : u.safe.fuseJob = none := by rw [hu]; exact hj
    have huh : u.hs h = s.hs h := by rw [hu]; rfl
    unfold State.startBurn
    dsimp only
    rw [huj, huh, if_neg (by simp), if_pos hmin, State.burnDone, huh]
  rw [hgo] at he
  refine Answers.of_complete hg.canonical he ?_ ?_ ?_ ?_ ?_ (engineObj_lt s) (by simp)
  all_goals rw [hu]
  · exact hg.served
  all_goals rfl

theorem fuseBurn_begins (hv : s.safe.fuseV = true) (hj : s.safe.fuseJob = none) (hh : h = Half.ofCode (u8At p 0))
    (hg : Granted s k cFuseBurn p) (hn : u8At p 0 ≤ 1) (hl : p.length = 8) (hz : zeroAt p 1 7 = true)
    (hr : (s.hs h).pendingRepairs ≠ []) (hb : (s.hs h).left ≠ 0) :
    Completes (.serviceFuseBurn k) s fun t =>
      Begins s { s with safe := { s.safe with fuseJob := some (.burn k.toNat h 0) } } t k p ∧
      (t.jobOf k.toNat).map (·.left) = some (min (s.hs h).pendingRepairs.length (s.hs h).left) := by
  have he := fuseBurn_exec hv hh hg hn hl hz
  have hmin : ¬ min (s.hs h).pendingRepairs.length (s.hs h).left = 0 := by
    have := List.length_pos_iff.2 hr
    omega
  obtain ⟨u, hu⟩ : ∃ u : State, u = { s with jr := (s.notice k.toNat).jr } := ⟨_, rfl⟩
  rw [← hu] at he
  have hgo : u.startBurn k.toNat p h = ((u.fuseRuns (.burn k.toNat h 0)).setJob
      { u.begun k.toNat p 0 with left := min (s.hs h).pendingRepairs.length (s.hs h).left }) := by
    have huj : u.safe.fuseJob = none := by rw [hu]; exact hj
    have huh : u.hs h = s.hs h := by rw [hu]; rfl
    have hjob : ((u.begin k.toNat p 0).fuseRuns (.burn k.toNat h 0)).jobOf k.toNat = some (u.begun k.toNat p 0) := State.jobOf_begin ..
    unfold State.startBurn
    dsimp only
    rw [huj, huh, if_neg (by simp), if_neg hmin, State.setLeft, hjob]
    exact State.setJob_setJob (u.fuseRuns (.burn k.toNat h 0)) _ _ rfl
  rw [hgo] at he
  have hfind := State.jobOf_setJob (u.fuseRuns (.burn k.toNat h 0))
    { u.begun k.toNat p 0 with left := min (s.hs h).pendingRepairs.length (s.hs h).left }
  refine ⟨_, he, ⟨⟨_, hfind, ?_, rfl⟩, ?_, ?_⟩, ?_⟩
  · rw [hu]
    rfl
  · rw [hu]
    rfl
  · rw [hu]
    rfl
  · exact congrArg (Option.map (·.left)) hfind

/-! ### Keyslots -/

theorem keyProgram_begins (hv : s.safe.fuseV = true) (hj : s.safe.fuseJob = none) (hg : Granted s k cKeyProgram p)
    (hn : u8At p 0 ≤ 7) (hs : (s.keyslot (u8At p 0)).state = .empty) (hl : p.length = 56) (h1 : u8At p 1 ≤ 1) (hz : zeroAt p 2 6 = true) :
    Completes (.serviceKeyslotProgram k) s fun t =>
      Begins s { s with safe := { s.safe with fuseJob := some (.program k.toNat (u8At p 0))
                                              cutKey := s.safe.cutKey.filter fun c => c.1 != u8At p 0 } } t k p := by
  have he := hg.exec (c := .serviceKeyslotProgram k) rfl rfl
  obtain ⟨u, hu⟩ : ∃ u : State, u = { s with jr := (s.notice k.toNat).jr } := ⟨_, rfl⟩
  rw [← hu] at he
  have hgo : keyProgramBody k.toNat p u = ((u.begin k.toNat p 0).forgetCut (u8At p 0)).fuseRuns (.program k.toNat (u8At p 0)) := by
    have huj : u.safe.fuseJob = none := by rw [hu]; exact hj
    have huv : fuseBad u = none := fuseBad_present (by rw [hu]; exact hv)
    have huk : (u.keyslot (u8At p 0)).state = .empty := by rw [hu]; exact hs
    unfold keyProgramBody
    dsimp only
    rw [huv]
    dsimp only
    rw [if_neg (by omega), if_neg (by simp [huk]), if_neg (by simp [hl, hz]; omega), if_neg (by simp [huj])]
  rw [hgo] at he
  refine ⟨_, he, ⟨_, State.jobOf_begin .., ?_, rfl⟩, ?_, ?_⟩
  all_goals
    rw [hu]
    rfl

theorem keyRevoke_begins (hv : s.safe.fuseV = true) (hj : s.safe.fuseJob = none) (hg : Granted s k cKeyRevoke p)
    (hn : u8At p 0 ≤ 7) (hs : (s.keyslot (u8At p 0)).state = .active) (hf : s.fwSigned (u8At p 0) s.eng.fwRun = none)
    (hl : p.length = 40) (hz : zeroAt p 1 7 = true) (hd : (descAt p 8).okOut = true) :
    Completes (.serviceKeyslotRevoke k) s fun t =>
      Begins s { s with safe := { s.safe with fuseJob := some (.revoke k.toNat (u8At p 0)) } } t k p := by
  have he := hg.exec (c := .serviceKeyslotRevoke k) rfl rfl
  obtain ⟨u, hu⟩ : ∃ u : State, u = { s with jr := (s.notice k.toNat).jr } := ⟨_, rfl⟩
  rw [← hu] at he
  have hgo : keyRevokeBody k.toNat p u = (u.begin k.toNat p 0).fuseRuns (.revoke k.toNat (u8At p 0)) := by
    have huj : u.safe.fuseJob = none := by rw [hu]; exact hj
    have huv : fuseBad u = none := fuseBad_present (by rw [hu]; exact hv)
    have huk : (u.keyslot (u8At p 0)).state = .active := by rw [hu]; exact hs
    have huf : u.fwSigned (u8At p 0) u.eng.fwRun = none := by rw [hu]; exact hf
    unfold keyRevokeBody
    dsimp only
    rw [huv]
    dsimp only
    rw [if_neg (by omega), if_neg (by simp [huk]), huf]
    dsimp only
    rw [if_neg (by simp [hl, hz, hd]), if_neg (by simp [huj])]
  rw [hgo] at he
  refine ⟨_, he, ⟨_, State.jobOf_begin .., ?_, rfl⟩, ?_, ?_⟩
  all_goals
    rw [hu]
    rfl

/-! ### FUSE_BURN_DONE -/

theorem State.commitOnce_eq (s : State) (n : Nat) :
    s.commitOnce n = { s with jr := (s.commitOnce n).jr, mbx := { s.mbx with jobs := (s.commitOnce n).mbx.jobs } } := by
  unfold State.commitOnce
  split
  · rfl
  · exact State.commit_eq s n

/-- A commit record marks the command that runs, and leaves its request and its bounds as they are. -/
theorem State.jobOf_commitOnce {n : Nat} {j : Job} (hj : s.jobOf n = some j) :
    ∃ c, (s.commitOnce n).jobOf n = some { j with committed := c } := by
  unfold State.commitOnce
  split
  · exact ⟨j.committed, hj⟩
  · refine ⟨true, ?_⟩
    have hslot := State.jobOf_slot hj
    unfold State.jobOf at hj ⊢
    simp only [State.commit, State.journal_mbx, List.find?_map]
    have hcomp : ((fun j : Job => j.slot == n) ∘ fun j : Job => if j.slot = n then { j with committed := true } else j) =
        fun j => j.slot == n := by
      funext i
      dsimp only [Function.comp]
      split <;> rfl
    rw [hcomp, hj, Option.map_some, if_pos hslot]

section
variable {j : Job} (hw : s.mbx.mem.wf = true) (hj : s.jobOf k.toNat = some j) (hv : (s.slotServer k.toNat).isSome = true)
include hw hj hv

theorem fuseBurnDone_programmed (hf : s.safe.fuseJob = some (.program k.toNat n)) :
    Answers (.fuseBurnDone true) s
      { s with safe := { s.safe with fuseJob := none, fuses := s.safe.fuses.set n ⟨digestAt j.body 8, u8At j.body 1, .active⟩ } }
      k stOk (engineObj s) [] := by
  have he : exec (.fuseBurnDone true) s = .next (((s.fuseEnds.commitOnce k.toNat).setKeyslot n
      ⟨digestAt j.body 8, u8At j.body 1, .active⟩).complete k.toNat .engine []) := by
    show Host.Outcome.next _ = _
    rw [hf]
    dsimp only
    rw [State.programmed, hj]
    rfl
  rw [State.commitOnce_eq] at he
  exact Answers.of_complete hw he hv rfl rfl rfl rfl (engineObj_lt s) (by simp)

theorem fuseBurnDone_notProgrammed (hf : s.safe.fuseJob = some (.program k.toNat n)) :
    Answers (.fuseBurnDone false) s { s with safe := { s.safe with fuseJob := none } } k stFault (engineObj s) [] := by
  have he : exec (.fuseBurnDone false) s = .next (s.fuseEnds.fail k.toNat stFault .engine) := by
    show Host.Outcome.next _ = _
    rw [hf]
    dsimp only
    rw [State.programmed, hj]
    rfl
  exact Answers.of_fail hw he hv rfl rfl rfl rfl (by decide) (engineObj_lt s)

theorem fuseBurnDone_burned {c : Column} {rest : List Column} {m : Nat} (hf : s.safe.fuseJob = some (.burn k.toNat h m))
    (hp : (s.hs h).pendingRepairs = c :: rest) (hl : j.left = 1) :
    Answers (.fuseBurnDone true) s
      { (s.onHalf h fun x => { x with left := x.left - 1, pendingRepairs := rest, burnt := x.burnt ++ [c] }) with
        safe := { s.safe with fuseJob := none } }
      k stOk (engineObj s) (toLe 2 (m + 1) ++ toLe 2 rest.length ++ toLe 2 ((s.hs h).left - 1)) := by
  have he : exec (.fuseBurnDone true) s = .next ((((s.commitOnce k.toNat).onHalf h fun x =>
      { x with left := x.left - 1, pendingRepairs := rest, burnt := x.burnt ++ [c] }).fuseEnds).complete k.toNat .engine
        (toLe 2 (m + 1) ++ toLe 2 rest.length ++ toLe 2 ((s.hs h).left - 1))) := by
    show Host.Outcome.next _ = _
    rw [hf]
    dsimp only
    unfold State.burned
    rw [hp, hj]
    dsimp only
    rw [if_pos (by simp [hl])]
    refine congrArg (fun q => Host.Outcome.next (State.complete _ k.toNat .engine q)) ?_
    rw [State.commitOnce_eq]
    cases h <;> rfl
  rw [State.commitOnce_eq] at he
  refine Answers.of_complete hw he ?_ rfl rfl rfl rfl (engineObj_lt s) (by simp)
  have hkept : Kept s (s.onHalf h fun x => { x with left := x.left - 1, pendingRepairs := rest, burnt := x.burnt ++ [c] }) :=
    .onHalf s h fun _ => rfl
  exact hkept.served hv

omit hw hj hv in
/-- The log is kept beside the fuses. -/
theorem State.log_fuses (s : State) (side sev code a0 a1 : Nat) (d : List Byte) :
    (s.log side sev code a0 a1 d).safe.fuses = s.safe.fuses ∧ (s.log side sev code a0 a1 d).safe.fuseJob = s.safe.fuseJob ∧
      (s.log side sev code a0 a1 d).safe.rescueEast = s.safe.rescueEast := by
  unfold State.log
  split <;> exact ⟨rfl, rfl, rfl⟩

omit hw in
/-- A revocation marks the keyslot and the images of its key; its list is written or answered. -/
theorem State.revoked_eq (n : Nat) :
    ∃ (js : List Job) (x : JrSt) (i : Job) (u : State), u = { s with
        safe := u.safe, jr := x, mbx := { s.mbx with jobs := js }
        img := s.img.mapVals fun i => if s.revokes n i then { i with state := .revoked } else i } ∧
      u.safe.fuses = s.safe.fuses.set n { s.keyslot n with state := .revoked } ∧ u.safe.fuseJob = none ∧
      u.safe.rescueEast = s.safe.rescueEast ∧ i.body = j.body ∧ u.jobOf k.toNat = some i ∧ (u.slotServer k.toNat).isSome = true ∧
      s.revoked k.toNat n = u.revokeReply k.toNat ((s.img.vals.filter fun i => s.revokes n i).map fun i => i.digest) := by
  obtain ⟨c, hc⟩ := State.jobOf_commitOnce hj
  have hcommit := State.commitOnce_eq s k.toNat
  obtain ⟨a, ha⟩ : ∃ a : State, a = (((s.commitOnce k.toNat).markRevoked n).fuseEnds).setKeyslot n { s.keyslot n with state := .revoked } :=
    ⟨_, rfl⟩
  obtain ⟨u, hu⟩ : ∃ u : State, u = if (s.fwSigned n s.eng.fwFall).isSome then
    a.log engineSide 1 0x0002 0 0 (digestPrefix s.eng.fwFall) else a := ⟨_, rfl⟩
  have hlog : u = { a with safe := u.safe } := by
    rw [hu]
    split
    · exact State.log_eq ..
    · rfl
  have hserve : (u.slotServer k.toNat).isSome = (a.slotServer k.toNat).isSome := by
    rw [hu]
    split
    · rw [State.log_slotServer]
    · rfl
  obtain ⟨hfuses, hfuse, hrescue⟩ : u.safe.fuses = a.safe.fuses ∧ u.safe.fuseJob = a.safe.fuseJob ∧
      u.safe.rescueEast = a.safe.rescueEast := by
    rw [hu]
    split
    · exact State.log_fuses ..
    · exact ⟨rfl, rfl, rfl⟩
  have hav : (a.slotServer k.toNat).isSome = true := by
    rw [ha, hcommit]
    exact hv
  refine ⟨(s.commitOnce k.toNat).mbx.jobs, (s.commitOnce k.toNat).jr, { j with committed := c }, u, ?_, hfuses.trans ?_,
    hfuse.trans ?_, hrescue.trans ?_, rfl, ?_, hserve.trans hav, ?_⟩
  · refine hlog.trans ?_
    rw [ha, hcommit]
    rfl
  · rw [ha, hcommit]
    rfl
  · rw [ha]
    rfl
  · rw [ha, hcommit]
    rfl
  · rw [State.jobOf, hlog, ha]
    exact hc
  · rw [State.revoked, hu, ha]

theorem fuseBurnDone_revoked (hf : s.safe.fuseJob = some (.revoke k.toNat n)) (hn : n < s.safe.fuses.length) :
    Completes (.fuseBurnDone true) s fun t =>
      t.keyslot n = { s.keyslot n with state := .revoked } ∧ (∀ m, m ≠ n → t.keyslot m = s.keyslot m) ∧
      t.safe.fuseJob = none ∧ t.img = s.img.mapVals (fun i => if s.revokes n i then { i with state := .revoked } else i) ∧
      (t.bnd, t.rt, t.half, t.eng) = (s.bnd, s.rt, s.half, s.eng) ∧
      let ds := (s.img.vals.filter fun i => s.revokes n i).map fun i => i.digest
      let m := min (s.naming ds).length ((descAt j.body 8).len / 4)
      let out := ((s.naming ds).take m).flatMap (toLe 4)
      (m = 0 → Replied s t k stOk (engineObj s) (toLe 4 ds.length ++ toLe 4 (s.naming ds).length ++ toLe 4 0)) ∧
      (m ≠ 0 → t.mi = s.mi ++ [⟨s.slotHalf k.toNat, freeTag s.mi (s.slotHalf k.toNat), true, (descAt j.body 8).addr,
        out.length, out, .job k.toNat 0, false⟩]) := by
  obtain ⟨js, x, i, u, hu, hfuses, hjob, hrescue, hbody, hui, huv, hrun⟩ := State.revoked_eq hj hv n
  have he : exec (.fuseBurnDone true) s = .next (s.revoked k.toNat n) := by
    show Host.Outcome.next _ = _
    rw [hf]
    rfl
  rw [hrun] at he
  dsimp only
  generalize (s.img.vals.filter fun i => s.revokes n i).map (fun i => i.digest) = ds at he ⊢
  have hnaming : u.naming ds = s.naming ds := by rw [hu]; rfl
  rw [State.revokeReply, hui] at he
  dsimp only at he
  rw [hnaming, hbody] at he
  generalize hm : min (s.naming ds).length ((descAt j.body 8).len / 4) = m at he ⊢
  have hb4 (ns : List Nat) : (ns.flatMap (toLe 4)).isEmpty = ns.isEmpty := by
    cases ns <;> rfl
  have hfuse : (s.safe.fuses.set n { s.keyslot n with state := .revoked }).getD n Keyslot.reset = { s.keyslot n with state := .revoked } := by
    simp [List.getD_eq_getElem?_getD, hn]
  have hother (q : Nat) (hq : q ≠ n) : (s.safe.fuses.set n { s.keyslot n with state := .revoked }).getD q Keyslot.reset = s.keyslot q := by
    simp [State.keyslot, List.getD_eq_getElem?_getD, Ne.symm hq]
  by_cases h0 : m = 0
  · rw [State.writeThen, if_pos (by rw [hb4, h0]; rfl), h0] at he
    obtain ⟨hrep, honly⟩ := State.complete_replies (s := s) (u := u) (o := .engine) (x := engineObj s)
      (q := toLe 4 ds.length ++ toLe 4 (s.naming ds).length ++ toLe 4 0) hw huv (by rw [hu]; rfl) (by rw [hu]; rfl) (by rw [hu])
      (engineObj_lt s) (by simp)
    obtain ⟨y, z, ht⟩ := honly.exists_eq
    refine ⟨_, he, ?_, ?_, ?_, ?_, ?_, fun _ => hrep, fun h => absurd h0 h⟩
    all_goals rw [ht]
    · exact (congrArg (fun l : List Keyslot => l.getD n Keyslot.reset) hfuses).trans hfuse
    · exact fun q hq => (congrArg (fun l : List Keyslot => l.getD q Keyslot.reset) hfuses).trans (hother q hq)
    · exact hjob
    · rw [hu]
    · rw [hu]
  · have hne : ¬ ((List.take m (s.naming ds)).flatMap (toLe 4)).isEmpty = true := by
      rw [hb4, List.isEmpty_iff, List.take_eq_nil_iff]
      rintro (h | h)
      · exact h0 h
      · rw [h] at hm
        exact h0 (by simpa using hm.symm)
    rw [State.writeThen, if_neg hne] at he
    have hmi : u.mi = s.mi := by rw [hu]
    have hslot : u.slotHalf k.toNat = s.slotHalf k.toNat := by
      have hseat (g : Half) : (u.hs g).seat = (s.hs g).seat := by rw [hu]; rfl
      have hserver : u.slotServer k.toNat = s.slotServer k.toNat :=
        State.slotServer_of_seat hseat (by rw [hu]) (by rw [hu]) hrescue k.toNat
      rw [State.slotHalf, State.slotHalf, hserver, State.survivor_of_seat hseat]
    refine ⟨_, he, ?_, ?_, ?_, ?_, ?_, fun h => absurd h h0, fun _ => ?_⟩
    · exact (congrArg (fun l : List Keyslot => l.getD n Keyslot.reset) hfuses).trans hfuse
    · exact fun q hq => (congrArg (fun l : List Keyslot => l.getD q Keyslot.reset) hfuses).trans (hother q hq)
    · exact hjob
    · show u.img = _
      rw [hu]
    · show (u.bnd, u.rt, u.half, u.eng) = _
      rw [hu]
    · rw [← hmi, ← hslot]
      rfl

end

/-! ### VDD_FUSE_REMOVED -/

theorem vddFuseRemoved_exec (hf : s.safe.fuseJob = none) :
    exec .vddFuseRemoved s = .next { s with safe := { s.safe with fuseV := false }
                                            half := s.half.map fun x => { x with railOk := x.railOk &&& 0x0FF } } := by
  have hcut : s.cutBurn = s := by
    unfold State.cutBurn
    rw [hf]
  show Host.Outcome.next _ = _
  rw [hcut]
  rfl

end Sys2Proof.Machine

open Sys2Proof Sys2Proof.Machine

/-- Settles O20: what a fuse command begins, and what each end of one leaves. -/
theorem fuseCommands : Obligations.FuseCommands := by
  rintro s k p n rfl
  refine ⟨fun hv => ⟨fuseBurn_unpowered hv, keyProgram_unpowered hv, keyRevoke_unpowered hv⟩,
    fun hv hj hg hn hl hz => fuseBurn_busy hv hj hg hn hl hz, fun hv hj => ⟨?_, ?_, ?_⟩, fun j q hw hj hv => ⟨?_, ?_, ?_⟩,
    vddFuseRemoved_exec⟩
  · exact fun h hh hg hn hl hz => ⟨fuseBurn_nothing hv hj hh hg hn hl hz, fuseBurn_begins hv hj hh hg hn hl hz⟩
  · exact keyProgram_begins hv hj
  · exact keyRevoke_begins hv hj
  · exact fun hf => ⟨fuseBurnDone_programmed hw hj hv hf, fuseBurnDone_notProgrammed hw hj hv hf⟩
  · exact fuseBurnDone_revoked hw hj hv
  · exact fun h c rest m hf hp hl => fuseBurnDone_burned hw hj hv hf hp hl
end

section
/-! Stacks leave service, are rebuilt, and return (12 R288; 13 R305; 18 R441; 17 R420). -/
namespace Sys2Proof.Machine

variable {s : State} {k : Byte} {p : List Byte} {h : Half} {n : Nat}

/-! ### What the log depends on -/

/-- What is logged depends on which controllers run and hear each other, on what they hold, on the engine and the time. -/
theorem State.log_safe_of_link {s u : State} (hup : ∀ g, (u.hs g).safeUp = (s.hs g).safeUp) (hb : ∀ g, (u.hs g).heartbeat = (s.hs g).heartbeat)
    (hs : u.safe = s.safe) (he : u.eng = s.eng) (ht : u.time = s.time) (side sev code a0 a1 : Nat) (d : List Byte) :
    (u.log side sev code a0 a1 d).safe = (s.log side sev code a0 a1 d).safe := by
  have hr : u.reach = s.reach := by
    have hw : u.half.w.safeUp = s.half.w.safeUp := hup .west
    have hx : u.half.e.safeUp = s.half.e.safeUp := hup .east
    have hbw : u.half.w.heartbeat = s.half.w.heartbeat := hb .west
    have hbe : u.half.e.heartbeat = s.half.e.heartbeat := hb .east
    simp only [State.reach, hw, hx, hbw, hbe]
  have hl : ∀ g, u.logger g = s.logger g := fun g => by simp only [State.logger, hr, hup]
  unfold State.log
  rw [hl]
  cases s.logger (if side = 1 then .east else .west) with
  | none => exact hs
  | some g => cases g <;> simp only [hs, he, ht, hr]

/-! ### A stack leaves service -/

/-- A half without one of its stacks. -/
def HalfSt.without (x : HalfSt) (i : Nat) : HalfSt :=
  { x with stackMask := x.stackMask &&& ~~~(1#16 <<< i), rebuild := x.rebuild.filter fun q => q.1 != i }

/-- What every retirement of a stack leaves and records. -/
def State.stackOut (s : State) (h : Half) (i : Nat) : State :=
  ((s.onHalf h fun x => x.without i).log h.code 1 0x0006 i 0 []).recovery h 0x0005 0 0

theorem State.stackOut_eq (s : State) (h : Half) (i : Nat) :
    ∃ x, s.stackOut h i = { s with half := s.half.set h ((s.hs h).without i), safe := (s.log h.code 1 0x0006 i 0 []).safe, jr := x } := by
  have hlink : ((s.onHalf h fun x => x.without i).log h.code 1 0x0006 i 0 []).safe = (s.log h.code 1 0x0006 i 0 []).safe :=
    State.log_safe_of_link (s := s) (u := s.onHalf h fun x => x.without i) (fun g => by cases g <;> cases h <;> rfl) (fun g => by cases g <;> cases h <;> rfl) rfl rfl rfl ..
  refine ⟨(s.stackOut h i).jr, ?_⟩
  rw [← hlink]
  unfold State.stackOut State.recovery
  rw [State.journal_eq, State.log_eq]
  rfl

theorem State.retireStack_eq (hm : (s.hs h).stackMask.getLsbD n = true) :
    s.retireStack h n =
      if (s.hs h.other).serves then
        if s.storedBytes h ≤ ((List.range 16).filter fun i => ((s.hs h).without n).stackMask.getLsbD i).length * stackBytes then
          (s.stackOut h n).onHalf h fun x => { x with rebuild := x.rebuild ++ [(n, s.storedBytes h / 16)] }
        else (s.stackOut h n).log h.code 1 0x0008 n 0 []
      else { s.stackOut h n with img := s.img.mapVals fun g =>
        if (g.copies.get h).isEmpty then g else { g with state := .failed, lost := g.lost.set h true } } := by
  obtain ⟨x, hx⟩ := s.stackOut_eq h n
  have hhs : (s.stackOut h n).hs h = (s.hs h).without n := by
    rw [hx]
    exact Halves.get_set_same ..
  have hstored : (s.stackOut h n).storedBytes h = s.storedBytes h := by
    rw [hx]
    rfl
  have himg : (s.stackOut h n).img = s.img := by rw [hx]
  unfold State.retireStack
  rw [if_neg (by simp [hm])]
  dsimp only
  rw [show ((s.onHalf h fun x => { x with stackMask := x.stackMask &&& ~~~(1#16 <<< n), rebuild := x.rebuild.filter fun q => q.1 != n }).log
    h.code 1 0x0006 n 0 []).recovery h 0x0005 0 0 = s.stackOut h n from rfl, hhs, hstored, himg]

/-- A state that a stack has left, with what it stores and logs further on. -/
theorem StackRetired.of_stackOut {x : JrSt} {t : State} {rb : List (Nat × Nat)} (hx : s.stackOut h n = { s with
      half := s.half.set h ((s.hs h).without n), safe := (s.log h.code 1 0x0006 n 0 []).safe, jr := x })
    (ht : t = { s.stackOut h n with
      half := s.half.set h { (s.hs h).without n with rebuild := ((s.hs h).without n).rebuild ++ rb }, safe := t.safe, img := t.img })
    (hfit : (s.hs h.other).serves = true →
      s.storedBytes h ≤ ((List.range 16).filter fun i => ((s.hs h).without n).stackMask.getLsbD i).length * stackBytes →
      rb = [(n, s.storedBytes h / 16)] ∧ t.safe = (s.log h.code 1 0x0006 n 0 []).safe ∧ t.img = s.img)
    (hfull : (s.hs h.other).serves = true →
      ((List.range 16).filter fun i => ((s.hs h).without n).stackMask.getLsbD i).length * stackBytes < s.storedBytes h →
      rb = [] ∧ t.safe = ((s.log h.code 1 0x0006 n 0 []).log h.code 1 0x0008 n 0 []).safe ∧ t.img = s.img)
    (halone : (s.hs h.other).serves = false → rb = [] ∧ t.safe = (s.log h.code 1 0x0006 n 0 []).safe ∧
      t.img = s.img.mapVals fun g => if (g.copies.get h).isEmpty then g else { g with state := .failed, lost := g.lost.set h true }) :
    StackRetired s t h n := by
  have hhs : t.hs h = { (s.hs h).without n with rebuild := ((s.hs h).without n).rebuild ++ rb } := by
    rw [ht]
    exact Halves.get_set_same ..
  have hmask : (t.hs h).stackMask = ((s.hs h).without n).stackMask := by rw [hhs]
  have hrb : (t.hs h).rebuild = ((s.hs h).rebuild.filter fun q => q.1 != n) ++ rb := by
    rw [hhs]
    rfl
  constructor
  · exact hmask
  · intro ho hs
    rw [hmask] at hs
    obtain ⟨hr, hl, -⟩ := hfit ho hs
    exact ⟨by rw [hrb, hr], hl⟩
  · intro ho hs
    rw [hmask] at hs
    obtain ⟨hr, hl, -⟩ := hfull ho hs
    exact ⟨by rw [hrb, hr, List.append_nil], hl⟩
  · intro ho
    obtain ⟨hr, hl, hi⟩ := halone ho
    exact ⟨by rw [hrb, hr, List.append_nil], hl, hi⟩
  · intro ho
    rcases Nat.lt_or_ge (((List.range 16).filter fun i => ((s.hs h).without n).stackMask.getLsbD i).length * stackBytes) (s.storedBytes h) with
      hs | hs
    · exact (hfull ho hs).2.2
    · exact (hfit ho hs).2.2
  · rw [hhs]
    rfl
  · rw [ht]
    exact Halves.get_set_other ..
  · rw [ht, hx]

theorem State.retireStack_retires (hm : (s.hs h).stackMask.getLsbD n = true) :
    StackRetired s (s.retireStack h n) h n ∧ ((s.retireStack h n).mbx, (s.retireStack h n).mi) = (s.mbx, s.mi) := by
  obtain ⟨x, hx⟩ := s.stackOut_eq h n
  have hlog : ((s.stackOut h n).log h.code 1 0x0008 n 0 []).safe = ((s.log h.code 1 0x0006 n 0 []).log h.code 1 0x0008 n 0 []).safe := by
    refine State.log_safe_of_link (fun g => ?_) (fun g => ?_) ?_ ?_ ?_ ..
    all_goals rw [hx]
    · rw [State.log_eq s]
      cases g <;> cases h <;> rfl
    · rw [State.log_eq s]
      cases g <;> cases h <;> rfl
    · rw [State.log_eng]
    · rw [State.log_time]
  rw [State.retireStack_eq hm]
  split
  next ho =>
    have hno : (s.hs h.other).serves ≠ false := by simp [ho]
    split
    next hs =>
      refine ⟨.of_stackOut hx (rb := [(n, s.storedBytes h / 16)]) ?_ (fun _ _ => ⟨rfl, ?_, ?_⟩) (fun _ hs' => absurd hs' (Nat.not_lt.2 hs))
        (fun h0 => absurd h0 hno), ?_⟩
      all_goals rw [hx]
      · cases h <;> rfl
      · rfl
      · rfl
      · rfl
    next hs =>
      refine ⟨.of_stackOut hx (rb := []) ?_ (fun _ hs' => absurd hs' hs) (fun _ _ => ⟨rfl, hlog, ?_⟩) (fun h0 => absurd h0 hno), ?_⟩
      · rw [hx, State.log_eq, List.append_nil]
      · rw [State.log_eq, hx]
      · rw [State.log_eq, hx]
  next ho =>
    refine ⟨.of_stackOut hx (rb := []) ?_ (fun h0 => absurd h0 ho) (fun h0 => absurd h0 ho) (fun _ => ⟨rfl, ?_, rfl⟩), ?_⟩
    all_goals rw [hx]
    · rw [List.append_nil]

/-- A stack's retirement is told by neither the mailbox nor the journal. -/
theorem StackRetired.noted {t u : State} {m : MbxSt} {x : JrSt} (h1 : StackRetired { s with mbx := m, jr := x } t h n)
    {m' : MbxSt} {mi : List MiAcc} {x' : JrSt} (hu : u = { t with mbx := m', mi := mi, jr := x' }) : StackRetired s u h n := by
  have h6 : (({ s with mbx := m, jr := x } : State).log h.code 1 0x0006 n 0 []).safe = (s.log h.code 1 0x0006 n 0 []).safe :=
    State.log_safe_congr (s := s) (u := { s with mbx := m, jr := x }) rfl rfl rfl rfl ..
  have h8 : ((({ s with mbx := m, jr := x } : State).log h.code 1 0x0006 n 0 []).log h.code 1 0x0008 n 0 []).safe =
      ((s.log h.code 1 0x0006 n 0 []).log h.code 1 0x0008 n 0 []).safe :=
    State.log_safe_congr (by rw [State.log_half, State.log_half]) h6 (by rw [State.log_eng, State.log_eng])
      (by rw [State.log_time, State.log_time]) ..
  obtain ⟨mask, rebuilt, full, alone, images, half, other, rest⟩ := h1
  rw [h8] at full
  rw [h6] at rebuilt alone
  subst hu
  exact ⟨mask, rebuilt, full, alone, images, half, other, (congrArg (fun y : State => { y with mbx := s.mbx, jr := s.jr }) rest :)⟩

/-! ### `service.stack_retire` -/

theorem stackRetireBody_runs (hh : h = Half.ofCode (u8At p 0)) (hu : u8At p 0 ≤ 1) (h15 : u8At p 1 ≤ 15) (hl : p.length = 8)
    (hz : zeroAt p 2 6 = true) (hs : s.eng.state = .limp → h ≠ s.survivor) (slot : Nat) :
    stackRetireBody slot p s = ((s.commit slot).retireStack h (u8At p 1)).reply slot stOk
      (engineObj ((s.commit slot).retireStack h (u8At p 1)))
      (toLe 8 ((((s.commit slot).retireStack h (u8At p 1)).hs h).rebuildOf (u8At p 1))) := by
  refine (halfCommand_runs _ hh hu (limpBad_eq_none hs) hl hz).trans ?_
  exact if_neg (by omega)

theorem stackRetire_exec (hh : h = Half.ofCode (u8At p 0)) (hu : u8At p 0 ≤ 1) (h15 : u8At p 1 ≤ 15) (hl : p.length = 8)
    (hz : zeroAt p 2 6 = true) (hg : Granted s k cStackRetire p) (hs : s.eng.state = .limp → h ≠ s.survivor) :
    ∃ (x : JrSt) (js : List Job) (u a : State), u = { s with jr := x, mbx := { s.mbx with jobs := js } } ∧ a = u.retireStack h (u8At p 1) ∧
      exec (.serviceStackRetire k) s = .next (a.reply k.toNat stOk (engineObj a) (toLe 8 ((a.hs h).rebuildOf (u8At p 1)))) := by
  have hbody := stackRetireBody_runs (s := { s with jr := (s.notice k.toNat).jr }) hh hu h15 hl hz hs k.toNat
  have he := (hg.exec (c := .serviceStackRetire k) rfl rfl).trans (congrArg _ hbody)
  rw [State.commit_eq] at he
  exact ⟨_, _, _, _, rfl, rfl, he⟩

theorem stackRetire_retires (hh : h = Half.ofCode (u8At p 0)) (hu : u8At p 0 ≤ 1) (h15 : u8At p 1 ≤ 15) (hl : p.length = 8)
    (hz : zeroAt p 2 6 = true) (hg : Granted s k cStackRetire p) (hs : s.eng.state = .limp → h ≠ s.survivor)
    (hm : (s.hs h).stackMask.getLsbD (u8At p 1) = true) :
    Completes (.serviceStackRetire k) s fun t =>
      Replied s t k stOk (engineObj s) (toLe 8 ((t.hs h).rebuildOf (u8At p 1))) ∧ StackRetired s t h (u8At p 1) := by
  obtain ⟨x, js, u, a, hu, ha, he⟩ := stackRetire_exec hh hu h15 hl hz hg hs
  obtain ⟨hret, hsame⟩ := State.retireStack_retires (s := u) (h := h) (n := u8At p 1) (by rw [hu]; exact hm)
  rw [← ha] at hret hsame
  have hmbx : a.mbx = u.mbx := congrArg Prod.fst hsame
  have hbox : SameBox s a := by
    rw [SameBox, hmbx, hu]
  have hrest := hret.rest
  have htime : a.time = s.time := by
    have := congrArg State.time hrest
    rw [hu] at this
    exact this
  have hobj : engineObj a = engineObj s := by
    have := congrArg engineObj hrest
    rw [hu] at this
    exact this
  rw [hobj] at he
  obtain ⟨y, z, ht⟩ := (State.reply_only a k stOk (engineObj s) (toLe 8 ((a.hs h).rebuildOf (u8At p 1)))).exists_eq
  have hrep := State.reply_replied k stOk (engineObj s) (toLe 8 ((a.hs h).rebuildOf (u8At p 1))) hg.canonical hbox htime (by decide)
    (engineObj_lt s) (by simp)
  refine ⟨_, he, ?_, ?_⟩
  · have hhs : (a.reply k.toNat stOk (engineObj s) (toLe 8 ((a.hs h).rebuildOf (u8At p 1)))).hs h = a.hs h := by rw [ht]; rfl
    rw [hhs]
    exact hrep
  · rw [hu] at hret
    exact hret.noted ht

theorem stackRetire_retired (hh : h = Half.ofCode (u8At p 0)) (hu : u8At p 0 ≤ 1) (h15 : u8At p 1 ≤ 15) (hl : p.length = 8)
    (hz : zeroAt p 2 6 = true) (hg : Granted s k cStackRetire p) (hs : s.eng.state = .limp → h ≠ s.survivor)
    (hm : (s.hs h).stackMask.getLsbD (u8At p 1) = false) :
    Answers (.serviceStackRetire k) s s k stOk (engineObj s) (toLe 8 ((s.hs h).rebuildOf (u8At p 1))) := by
  obtain ⟨x, js, u, a, hu, ha, he⟩ := stackRetire_exec hh hu h15 hl hz hg hs
  have hau : a = u := by
    rw [ha, State.retireStack]
    exact if_pos (by rw [hu]; exact congrArg (!·) hm)
  rw [hau, hu] at he
  exact Answers.of_box hg.canonical he rfl rfl rfl (by decide) (engineObj_lt s) (by simp)

/-! ### `service.stack_restore` -/

theorem stackRestoreBody_runs (hh : h = Half.ofCode (u8At p 0)) (hu : u8At p 0 ≤ 1) (h15 : u8At p 1 ≤ 15) (hl : p.length = 8)
    (hz : zeroAt p 2 6 = true) (hr : (s.hs h).rebuild = []) (hj : s.jobOn cStackRestore h = none) (slot : Nat) :
    stackRestoreBody slot p s =
      if (s.hs h).stackMask.getLsbD (u8At p 1) then s.commitOk slot (engineObj s) [] else s.begin slot p 0 := by
  refine (halfCommand_runs (bad := anyHalf) _ hh hu rfl hl hz).trans ?_
  rw [if_neg (by omega)]
  exact if_neg (by simp [hr, hj])

theorem stackRestore_answers (hh : h = Half.ofCode (u8At p 0)) (hu : u8At p 0 ≤ 1) (h15 : u8At p 1 ≤ 15) (hl : p.length = 8)
    (hz : zeroAt p 2 6 = true) (hg : Granted s k cStackRestore p) (hr : (s.hs h).rebuild = []) (hj : s.jobOn cStackRestore h = none)
    (hm : (s.hs h).stackMask.getLsbD (u8At p 1) = true) : Answers (.serviceStackRestore k) s s k stOk (engineObj s) [] :=
  hg.commits rfl rfl (fun j => (stackRestoreBody_runs (s := { s with jr := j }) hh hu h15 hl hz hr hj _).trans (if_pos hm)) rfl rfl
    (engineObj_lt s) (by simp)

theorem stackRestore_begins (hh : h = Half.ofCode (u8At p 0)) (hu : u8At p 0 ≤ 1) (h15 : u8At p 1 ≤ 15) (hl : p.length = 8)
    (hz : zeroAt p 2 6 = true) (hg : Granted s k cStackRestore p) (hr : (s.hs h).rebuild = []) (hj : s.jobOn cStackRestore h = none)
    (hm : (s.hs h).stackMask.getLsbD (u8At p 1) = false) : Completes (.serviceStackRestore k) s fun t => Begins s s t k p := by
  have hbody := (stackRestoreBody_runs (s := { s with jr := (s.notice k.toNat).jr }) hh hu h15 hl hz hr hj k.toNat).trans
    (if_neg (by rw [Bool.not_eq_true]; exact hm))
  have he := (hg.exec (c := .serviceStackRestore k) rfl rfl).trans (congrArg _ hbody)
  exact ⟨_, he, ⟨_, State.jobOf_begin .., rfl, rfl⟩, rfl, rfl⟩

/-! ### Commands of the stacks themselves -/

theorem stackFault_retires {i : BitVec 4} (hm : (s.hs h).stackMask.getLsbD i.toNat = true) :
    Completes (.stackFault h i) s fun t => StackRetired s t h i.toNat ∧ (t.mbx, t.mi) = (s.mbx, s.mi) :=
  ⟨_, rfl, State.retireStack_retires hm⟩

theorem stackFault_retired {i : BitVec 4} (hm : (s.hs h).stackMask.getLsbD i.toNat = false) : exec (.stackFault h i) s = .next s := by
  refine congrArg Host.Outcome.next (?_ : s.retireStack h i.toNat = s)
  exact if_pos (by rw [hm]; rfl)

theorem stackRebuilt_ends {i : BitVec 4} (hr : ∃ n, (i.toNat, n) ∈ (s.hs h).rebuild) :
    Completes (.stackRebuilt h i) s fun t =>
      (t.hs h).rebuild = (s.hs h).rebuild.filter (fun q => q.1 != i.toNat) ∧
      t.safe = (s.log h.code 1 0x0007 i.toNat 0 []).safe ∧ { t with safe := s.safe, half := s.half } = s := by
  obtain ⟨n, hn⟩ := hr
  have hany : ((s.hs h).rebuild.any fun q => q.1 == i.toNat) = true := List.any_eq_true.2 ⟨_, hn, by simp⟩
  refine ⟨_, congrArg Host.Outcome.next (if_pos hany), ?_, ?_, ?_⟩
  · rw [State.hs, State.log_half]
    exact congrArg HalfSt.rebuild (State.onHalf_get s h _)
  · exact State.log_safe_of_link (s := s) (u := s.onHalf h fun x => { x with rebuild := x.rebuild.filter fun p => p.1 != i.toNat })
      (fun g => by cases g <;> cases h <;> rfl) (fun g => by cases g <;> cases h <;> rfl) rfl rfl rfl ..
  · rw [State.log_eq]
    rfl

theorem stackClearDone_idle (hj : s.jobOn cStackRestore h = none) :
    exec (.stackClearDone h) s = .next (s.onHalf h fun x => { x with dirty := 0 }) := by
  have hj' : (s.onHalf h fun x => { x with dirty := 0 }).jobOn cStackRestore h = none := hj
  refine congrArg Host.Outcome.next (?_ : State.restoreCleared _ h = _)
  rw [State.restoreCleared, hj']

theorem stackClearDone_restores {j : Job} (hw : s.mbx.mem.wf = true) (hj : s.jobOn cStackRestore h = some j) (hs : j.slot = k.toNat)
    (hst : j.stage = 1) (hv : (s.slotServer k.toNat).isSome = true) :
    Answers (.stackClearDone h) s
      (s.onHalf h fun x => { x with dirty := 0, stackMask := x.stackMask ||| (1#16 <<< u8At j.body 1) }) k stOk (engineObj s) [] := by
  have hj' : (s.onHalf h fun x => { x with dirty := 0 }).jobOn cStackRestore h = some j := hj
  have he : exec (.stackClearDone h) s = .next ((s.onHalf h fun x =>
      { x with dirty := 0, stackMask := x.stackMask ||| (1#16 <<< u8At j.body 1) }).complete k.toNat .engine []) := by
    refine congrArg Host.Outcome.next (?_ : State.restoreCleared _ h = _)
    rw [State.restoreCleared, hj']
    dsimp only
    rw [if_pos hst, hs]
    cases h <;> rfl
  have hserver := State.slotServer_of_link (s := s)
    (t := s.onHalf h fun x => { x with dirty := 0, stackMask := x.stackMask ||| (1#16 <<< u8At j.body 1) })
    (fun g => by cases g <;> cases h <;> rfl) (fun g => by cases g <;> cases h <;> rfl) rfl rfl rfl k.toNat
  exact Answers.of_complete hw he (hserver ▸ hv) rfl rfl rfl rfl (engineObj_lt s) (by simp)

end Sys2Proof.Machine

open Sys2Proof Sys2Proof.Machine

/-- Settles O19: a stack is out of service from the moment that it is retired until it has been cleared. -/
theorem stacksLeaveAndReturn : Obligations.StacksLeaveAndReturn := fun _ _ _ _ =>
  ⟨fun hh hu h15 hl hz =>
    ⟨fun hg hs => ⟨stackRetire_retires hh hu h15 hl hz hg hs, stackRetire_retired hh hu h15 hl hz hg hs⟩,
      fun hg hr hj => ⟨stackRestore_answers hh hu h15 hl hz hg hr hj, stackRestore_begins hh hu h15 hl hz hg hr hj⟩⟩,
    fun _ => ⟨stackFault_retires, stackFault_retired⟩, fun _ => stackRebuilt_ends, stackClearDone_idle,
    fun _ hw hj hs hst hv => stackClearDone_restores hw hj hs hst hv⟩
end

section
/-! Bank reads and writes, and self-tests (12 R284, R285; 09 R207, R211; 14 R335). -/
namespace Sys2Proof.Machine

variable {s : State} {k : Byte} {p : List Byte} {h : Half} {j : Job}

/-! ### `diag.bank_read` -/

/-- A region belongs to an object of the tables. -/
theorem bankRef_names (p : List Byte) : ∀ x, bankRef p = .fixed x → x.Fits := by
  intro x hx
  unfold bankRef at hx
  split at hx <;> cases hx

theorem Banks.wakeHalf (s : State) (p : List Byte) : Banks s (s.wakeHalf p) := by
  unfold State.wakeHalf
  split
  · exact .refl s
  · exact .onHalf s _ fun _ => rfl

theorem Banks.sameSlot {t : State} (hb : Banks s t) (k : Nat) : SameSlot s t k := by
  refine ⟨hb.aside.mbx, hb.aside.work.mi, hb.aside.time, ?_⟩
  rw [State.slotHalf, State.slotHalf, State.survivor_of_seat hb.seat,
    State.slotServer_of_seat hb.seat hb.aside.eng (by rw [hb.aside.mbx]) (by rw [hb.aside.safe])]

theorem bankRead_sends {c : List Byte} {d : Desc} (hd : d = descAt p 0x40) (hg : Granted s k cBankRead p) (hn : bankNamed p = true)
    (hc : s.bankRegion p = some c) (ha : bankArgOk p c.length false = true) :
    Sends (.diagBankRead k) s (s.wakeHalf p) k d.addr (slice c (u64At p 8) d.len) (bankRef p) [] := by
  subst hd
  have he := hg.exec (c := .diagBankRead k) rfl rfl
  have hc' : ({ s with jr := (s.notice k.toNat).jr } : State).bankRegion p = some c := hc
  unfold bankReadBody at he
  rw [if_neg (by simp [hn]), hc'] at he
  dsimp only at he
  rw [if_neg (by simp [ha])] at he
  rw [show ({ s with jr := (s.notice k.toNat).jr } : State).wakeHalf p = { s.wakeHalf p with jr := (s.notice k.toNat).jr } by
    unfold State.wakeHalf; split <;> rfl] at he
  exact Sends.of_writeThen p hg.canonical hg.jobOf ((Banks.wakeHalf s p).sameSlot _) rfl he (State.objOf_fits _ (bankRef_names p)) (by simp)

theorem State.bankRegion_image {c : List Byte} (hc : s.bankRegion p = some c) (h1 : u8At p 0 = 1) :
    ∃ i, s.image (digestAt p 0x10) = some i ∧ c = i.copies.get (Half.ofCode (u8At p 1)) := by
  unfold State.bankRegion at hc
  dsimp only at hc
  rw [if_pos h1, Option.map_eq_some_iff] at hc
  obtain ⟨i, hi, rfl⟩ := hc
  exact ⟨i, (Option.filter_eq_some_iff.1 (Option.filter_eq_some_iff.1 hi).1).1, rfl⟩

/-! ### `diag.bank_write` -/

/-- A change that no binding's steps read leaves the routes as they are. -/
theorem State.markRoutes_of_unused {f : Binding → Bool} (hf : ∀ b ∈ s.bnd.vals, f b = false) : s.markRoutes f = s := by
  have hnone : (s.rt.vals.filter fun r => liveRoute r && ((s.binding r.binding).map f).getD false) = [] := by
    rw [List.filter_eq_nil_iff]
    intro r _
    cases hb : s.binding r.binding with
    | none => simp
    | some b => simp [hf b (State.binding_mem hb)]
  unfold State.markRoutes
  rw [hnone]
  rfl

theorem bankWrite_answers {tag : Byte} {data : List Byte} {a : MiAcc} {i : Image} {c : List Byte} (hw : s.mbx.mem.wf = true)
    (ha : s.access h tag.toNat = some a) (hrd : a.write = false) (hl : data.length = a.len) (hp : a.purpose = .job k.toNat 0)
    (hj : s.jobOf k.toNat = some j) (hc : j.code = cBankWrite) (hleft : j.left = 1) (hparts : j.parts = [[]])
    (hv : (s.slotServer k.toNat).isSome = true) (hcrc : (descAt j.body 0x40).crcOk data = true) (h1 : u8At j.body 0 = 1)
    (hi : s.image (digestAt j.body 0x10) = some i) (hr : s.bankRegion j.body = some c)
    (hb : ∀ b ∈ s.bnd.vals, b.set.digests.contains (digestAt j.body 0x10) = false) :
    Answers (.miResponse h tag data true false) s
      (({ s with mi := s.mi.filter fun x => x != a } : State).setImage
        { i with copies := i.copies.set (Half.ofCode (u8At j.body 1)) (patch c (u64At j.body 8) data) })
      k stOk ⟨skImage, i.state.code⟩ [] := by
  have hone : ¬ u8At j.body 0 = 2 := by omega
  have hslot := State.jobOf_slot hj
  obtain ⟨u, hu⟩ : ∃ u : State, u = (s.endAccess a).setJob { j with parts := [data], left := 0 } := ⟨_, rfl⟩
  have hur : u.bankRegion j.body = some c := by rw [hu]; exact hr
  have hui : (u.commit k.toNat).image (digestAt j.body 0x10) = some i := by
    rw [State.commit_eq, hu]
    exact hi
  have hid := State.image_digest hi
  have hwrite : ((u.commit k.toNat).wakeHalf j.body).writeRegion j.body c data = (u.commit k.toNat).setImage
      { i with copies := i.copies.set (Half.ofCode (u8At j.body 1)) (patch c (u64At j.body 8) data) } := by
    rw [State.wakeHalf, if_pos h1]
    unfold State.writeRegion
    dsimp only
    rw [h1, hui]
    rfl
  have hmark : (((u.commit k.toNat).wakeHalf j.body).writeRegion j.body c data).markRoutes (bankUse j.body) =
      ((u.commit k.toNat).wakeHalf j.body).writeRegion j.body c data := by
    refine State.markRoutes_of_unused fun b hb' => ?_
    rw [hwrite, State.commit_eq, hu] at hb'
    rw [bankUse, if_neg (by omega)]
    exact hb b hb'
  have hrun : (s.endAccess a).accessDone a data = ((u.commit k.toNat).setImage
      { i with copies := i.copies.set (Half.ofCode (u8At j.body 1)) (patch c (u64At j.body 8) data) }).complete k.toNat
        (.image (digestAt j.body 0x10)) [] := by
    have hj' : (s.endAccess a).jobOf k.toNat = some j := hj
    have hv' : ¬ ((s.endAccess a).slotServer k.toNat).isNone = true := by
      rw [Bool.not_eq_true, Option.isNone_eq_false_iff]
      exact hv
    rw [State.accessDone, hp]
    dsimp only
    rw [if_neg (by simp [hrd]), State.partRead, hj']
    dsimp only
    rw [hleft, hparts, if_neg (by simp), if_neg hv', State.gathered]
    dsimp only
    rw [if_neg (by rw [hc]; decide), if_neg (by rw [hc]; decide), if_neg (by rw [hc]; decide), if_pos hc]
    have hset : (s.endAccess a).setJob { j with parts := [[]].set 0 data, left := 1 - 1 } = u := hu.symm
    rw [hset, State.bankWritten]
    dsimp only
    rw [if_neg (by simp [hcrc]), hur]
    dsimp only
    rw [if_neg hone, hslot, show (([[]] : List (List Byte)).set 0 data).flatten = data by simp, hmark, hwrite, bankRef, h1]
    rfl
  have he := (miResponse_read ha hrd hl).trans (congrArg _ hrun)
  rw [State.commit_eq, hu] at he
  refine Answers.of_complete hw he hv ?_ rfl rfl rfl (imgObj_fits i) (by simp)
  rw [← hid]
  exact congrArg (fun x : Option Image => (x.map imgObj).getD noImg) (State.image_setImage_same (s := s)
    { i with copies := i.copies.set (Half.ofCode (u8At j.body 1)) (patch c (u64At j.body 8) data) })

/-! ### `diag.selftest` -/

theorem selftest_begins (hh : h = Half.ofCode (u8At p 1)) (hg : Granted s k cSelftest p) (hl : p.length = 8) (h2 : u8At p 0 ≤ 2)
    (h1 : u8At p 1 ≤ 1) (hz : zeroAt p 2 6 = true) (ht : s.testing = false)
    (hs : u8At p 0 = 0 ∨ (s.hs h).code = .drained ∧ s.eng.state = .limp) :
    Completes (.diagSelftest k) s fun t =>
      Begins s (if u8At p 0 = 0 then s.onHalf h fun x => { x with spare := 0, underTest := x.spare } else s) t k p := by
  have he := hg.exec (c := .diagSelftest k) rfl rfl
  obtain ⟨u, hu⟩ : ∃ u : State, u = { s with jr := (s.notice k.toNat).jr } := ⟨_, rfl⟩
  rw [← hu] at he
  have hrun : selftestBody k.toNat p u =
      if u8At p 0 = 0 then
        (u.setJob { u.begun k.toNat p 1 with code := cSelftest, arg := (u.hs h).tested (u8At p 0) }).onHalf h fun x =>
          { x with spare := 0, underTest := x.spare }
      else u.setJob { u.begun k.toNat p 1 with code := cSelftest, arg := (u.hs h).tested (u8At p 0) } := by
    have hut : u.testing = false := by rw [hu]; exact ht
    have hus : ¬ ((u8At p 0 = 1 ∨ u8At p 0 = 2) ∧ u8At p 1 ≤ 1 ∧
        (!((u.hs (Half.ofCode (u8At p 1))).code == .drained && u.eng.state == .limp)) = true) := by
      rw [← hh, hu]
      rcases hs with h0 | ⟨hd, hlimp⟩
      · omega
      · rintro ⟨-, -, hbad⟩
        have hd' : (State.hs { s with jr := (s.notice k.toNat).jr } h).code = .drained := hd
        simp [hd', hlimp] at hbad
    unfold selftestBody
    dsimp only
    rw [if_neg hus, if_neg (by simp [hl, hz]; omega), if_neg (by simp [hut]), ← hh]
    rfl
  rw [hrun] at he
  refine ⟨_, he, ?_⟩
  split
  · refine ⟨⟨_, State.jobOf_setJob u _, hg.asks.symm, rfl⟩, ?_, ?_⟩ <;> rw [hu] <;> rfl
  · refine ⟨⟨_, State.jobOf_setJob u _, hg.asks.symm, rfl⟩, ?_, ?_⟩ <;> rw [hu] <;> rfl

/-- Spare plates that failed leave service, one after the other. -/
theorem State.retireSpares_hs (n : Nat) :
    ((((List.range n).foldl (fun t _ => t.retireSpare h) s).hs h).spare = (s.hs h).spare - n) ∧
    ((((List.range n).foldl (fun t _ => t.retireSpare h) s).hs h).retired = (s.hs h).retired + n) ∧
    ((((List.range n).foldl (fun t _ => t.retireSpare h) s).hs h).underTest = (s.hs h).underTest) ∧
    (((List.range n).foldl (fun t _ => t.retireSpare h) s).hs h.other) = s.hs h.other ∧
    Kept s ((List.range n).foldl (fun t _ => t.retireSpare h) s) := by
  induction n with
  | zero => exact ⟨rfl, rfl, rfl, rfl, ⟨rfl, fun _ => rfl, rfl⟩⟩
  | succ n ih =>
    rw [List.range_succ, List.foldl_append]
    generalize (List.range n).foldl (fun t _ => t.retireSpare h) s = t at ih
    obtain ⟨hsp, hret, hut, hoth, hkept⟩ := ih
    have hhalf : (t.retireSpare h).half = t.half.set h
        { t.hs h with faults := bump (t.hs h).faults 4 1, spare := (t.hs h).spare - 1, retired := (t.hs h).retired + 1 } := by
      rw [State.retireSpare, State.recovery_half]
      cases h <;> rfl
    have hcount : Kept t (t.countFault h 4 1) := (Banks.countFault t h 4 1).kept
    have hnext : Kept t (t.retireSpare h) :=
      (hcount.trans (Kept.onHalf (t.countFault h 4 1) h (f := fun x => { x with spare := x.spare - 1, retired := x.retired + 1 })
        fun _ => rfl)).trans (Kept.recovery ..)
    have hget : (t.retireSpare h).hs h =
        { t.hs h with faults := bump (t.hs h).faults 4 1, spare := (t.hs h).spare - 1, retired := (t.hs h).retired + 1 } := by
      rw [State.hs, hhalf, Halves.get_set_same]
    refine ⟨?_, ?_, ?_, ?_, hkept.trans hnext⟩
    · exact (congrArg HalfSt.spare hget).trans (by rw [← Nat.sub_sub, ← hsp])
    · exact (congrArg HalfSt.retired hget).trans (by rw [← Nat.add_assoc, ← hret])
    · exact (congrArg HalfSt.underTest hget).trans hut
    · refine Eq.trans ?_ hoth
      show (t.retireSpare h).half.get h.other = _
      rw [hhalf, Halves.get_set_other]
      rfl

theorem selftestDone_completes {failed : U16} {n : Nat} (hw : s.mbx.mem.wf = true) (hv : (s.slotServer k.toNat).isSome = true)
    (hs : j.slot = k.toNat) (hn : n = min failed.toNat j.arg)
    (hf : s.mbx.jobs.find? (fun j => j.code == cSelftest && Half.ofCode (u8At j.body 1) == h) = some j) (h0 : u8At j.body 0 = 0) :
    Completes (.selftestDone h failed) s fun t =>
      Replied s t k stOk (engineObj s)
        (toLe 2 j.arg ++ toLe 2 n ++ zeros 4 ++ toLe 8 (Config.selftestSignature s.free).toNat) ∧
      (t.hs h).spare = (s.hs h).spare + (s.hs h).underTest - n ∧ (t.hs h).retired = (s.hs h).retired + n ∧
      (t.hs h).underTest = 0 ∧ (t.hs h).signature = Config.selftestSignature s.free ∧ t.hs h.other = s.hs h.other := by
  obtain ⟨v, hv'⟩ : ∃ v : State, v = s.onHalf h fun x => { x with spare := x.spare + x.underTest, underTest := 0 } := ⟨_, rfl⟩
  obtain ⟨hsp, hret, hut, hoth, hkept⟩ := State.retireSpares_hs (s := v) (h := h) n
  obtain ⟨w, hw'⟩ : ∃ w : State, w = (List.range n).foldl (fun t _ => t.retireSpare h) v := ⟨_, rfl⟩
  rw [← hw'] at hsp hret hut hoth hkept
  have hsv : Kept s v := by
    rw [hv']
    exact .onHalf s h fun _ => rfl
  have hsw := hsv.trans hkept
  have hfree : w.free = s.free := by rw [hsw.eq]
  obtain ⟨u, hu⟩ : ∃ u : State, u = { w.onHalf h (fun x => { x with signature := Config.selftestSignature s.free }) with free := s.free + 1 } :=
    ⟨_, rfl⟩
  have he : exec (.selftestDone h failed) s = .next (u.complete k.toNat .engine
      (toLe 2 j.arg ++ toLe 2 n ++ zeros 4 ++ toLe 8 (Config.selftestSignature s.free).toNat)) := by
    refine congrArg Host.Outcome.next (?_ : s.selftestDone h failed.toNat = _)
    unfold State.selftestDone
    rw [hf]
    dsimp only
    rw [if_pos h0, ← hv', ← hn, ← hw', State.takeFree, hfree, hs, hu]
    rfl
  have huk : Kept w (w.onHalf h fun x => { x with signature := Config.selftestSignature s.free }) := .onHalf w h fun _ => rfl
  have huv : (u.slotServer k.toNat).isSome = true := by
    rw [hu]
    exact (hsw.trans huk).served hv
  have hbox : SameBox s u := by
    rw [hu, SameBox]
    show { w.mbx with jobs := s.mbx.jobs, waits := s.mbx.waits } = s.mbx
    rw [hsw.eq]
  have htime : u.time = s.time := by
    rw [hu]
    show w.time = s.time
    rw [hsw.eq]
  have hobj : u.objOf .engine = engineObj s := by
    rw [hu]
    show engineObj w = engineObj s
    rw [hsw.eq]
    rfl
  obtain ⟨hrep, honly⟩ := State.complete_replies (k := k) (u := u) (o := .engine)
    (q := toLe 2 j.arg ++ toLe 2 n ++ zeros 4 ++ toLe 8 (Config.selftestSignature s.free).toNat) hw huv hobj hbox htime
    (engineObj_lt s) (by simp [zeros])
  have hhs (g : Half) : (u.complete k.toNat .engine
      (toLe 2 j.arg ++ toLe 2 n ++ zeros 4 ++ toLe 8 (Config.selftestSignature s.free).toNat)).hs g =
      (w.onHalf h fun x => { x with signature := Config.selftestSignature s.free }).hs g := by
    rw [State.hs, congrArg State.half honly.eq, hu]
    rfl
  have hvh : v.hs h = { s.hs h with spare := (s.hs h).spare + (s.hs h).underTest, underTest := 0 } := by
    rw [hv', State.onHalf_hs]
  have hvo : v.hs h.other = s.hs h.other := by
    rw [hv']
    exact State.onHalf_other ..
  refine ⟨_, he, hrep, ?_, ?_, ?_, ?_, ?_⟩
  all_goals rw [hhs]
  · rw [State.onHalf_hs]
    exact hsp.trans (by rw [hvh])
  · rw [State.onHalf_hs]
    exact hret.trans (by rw [hvh])
  · rw [State.onHalf_hs]
    exact hut.trans (by rw [hvh])
  · rw [State.onHalf_hs]
  · exact (State.onHalf_other ..).trans (hoth.trans hvo)

end Sys2Proof.Machine

open Sys2Proof Sys2Proof.Machine

/-- Settles O14: a diagnostic read and write name one region, and a self-test moves the spare plates out and back. -/
theorem bankReadsAndSelftests : Obligations.BankReadsAndSelftests := fun _ _ _ =>
  ⟨fun _ _ hd hg hn hc ha => ⟨bankRead_sends hd hg hn hc ha, State.bankRegion_image hc⟩,
    fun _ _ _ _ _ _ _ hw ha hrd hl hp hj hc hleft hparts hv hcrc h1 hi hr hb =>
      bankWrite_answers hw ha hrd hl hp hj hc hleft hparts hv hcrc h1 hi hr hb,
    fun _ hh hg hl h2 h1 hz ht hs => selftest_begins hh hg hl h2 h1 hz ht hs,
    fun _ _ _ _ hw hv hs _ hn hf h0 => selftestDone_completes hw hv hs hn hf h0⟩
end

section
/-! Journal flushes write whole unflushed records, and are marked done (12 R287, R290; 15 R379; 14 R342). -/
namespace Sys2Proof.Machine

variable {s : State} {k : Byte} {p : List Byte}

/-- A journal record leaves the flushes as they are. -/
theorem JrSt.add_flushes (j : JrSt) (east : Bool) (kind time subject : Nat) (q : List Byte) :
    (j.add east kind time subject q).host = j.host ∧ (j.add east kind time subject q).warn = j.warn := by
  have hafter : (j.after east subject).host = j.host ∧ (j.after east subject).warn = j.warn := by
    unfold JrSt.after
    split <;> exact ⟨rfl, rfl⟩
  have hnumber (x : JrSt) : (x.number east).2.host = x.host ∧ (x.number east).2.warn = x.warn := by
    unfold JrSt.number
    split
    · split <;> exact ⟨rfl, rfl⟩
    · exact ⟨rfl, rfl⟩
  exact ⟨(hnumber _).1.trans hafter.1, (hnumber _).2.trans hafter.2⟩

theorem State.journal_flushes (s : State) (h : Half) (kind subject : Nat) (q : List Byte) :
    (s.journal h kind subject q).jr.host = s.jr.host ∧ (s.journal h kind subject q).jr.warn = s.jr.warn := by
  unfold State.journal
  split
  · exact JrSt.add_flushes ..
  · exact ⟨rfl, rfl⟩

theorem State.notice_warn (s : State) (n : Nat) : (s.notice n).jr.warn = s.jr.warn := (State.journal_flushes ..).2

theorem State.reply_host (s : State) (n st : Nat) (o : ObjState) (q : List Byte) : (s.reply n st o q).jr.host = s.jr.host :=
  (State.journal_flushes ..).1

theorem State.reply_mi (s : State) (n st : Nat) (o : ObjState) (q : List Byte) :
    (s.reply n st o q).mi = s.mi.filter fun a => a.notOf n := by
  simp [State.reply, State.answer]

theorem JRec.bytes_ne_nil (r : JRec) : r.bytes ≠ [] := by
  refine List.ne_nil_of_length_pos ?_
  simp only [JRec.bytes, List.length_append, toLe_length]
  omega

theorem flushStart_writes {n : State} {l : List JRec} {g : Nat} (hn : n = s.notice k.toNat)
    (hl : l = exportRecs n.jr.recs.length (descAt p 8).len
      (n.jr.unflushed.filter fun r => !(s.jr.warn.any fun f => f.numbers.contains r.number)))
    (hg : g = (l.head?.map fun r => r.number).getD n.jr.next) (h : Granted s k cFlush p) (h1 : u8At p 0 ≠ 1) (hp : p.length = 40)
    (hz : zeroAt p 0 8 = true) (hd : (descAt p 8).okOut = true) (hf : ∀ f, s.jr.host = some f → f.done = true) :
    Completes (.serviceJournalFlushStart k) s fun t =>
      Replied s t k stOk (engineObj s) (flushReply 0 g l.length 0) ∧
      t.jr.host = some ⟨(descAt p 8).region, l.map fun r => r.number, g, l.length, (l.flatMap JRec.bytes).length, false⟩ ∧
      (l ≠ [] → ∃ a ∈ t.mi, a.write = true ∧ a.addr = (descAt p 8).addr ∧ a.data = l.flatMap JRec.bytes ∧ a.purpose = .hostFlush) ∧
      { t with mbx := s.mbx, jr := s.jr, mi := s.mi } = s := by
  have he := h.exec (c := .serviceJournalFlushStart k) rfl (by simp [h1])
  obtain ⟨u, hu⟩ : ∃ u : State, u = { s with jr := (s.notice k.toNat).jr } := ⟨_, rfl⟩
  rw [← hu] at he
  have hujr : u.jr = n.jr := by rw [hu, hn]
  have hto : u.toFlush = n.jr.unflushed.filter fun r => !(s.jr.warn.any fun f => f.numbers.contains r.number) := by
    rw [State.toFlush, hujr, hn, State.notice_warn]
  have hbusy : ¬ (u.jr.host.map fun f => !f.done).getD false = true := by
    rw [hujr, hn, State.notice_host]
    cases hh : s.jr.host with
    | none => simp
    | some f => simp [hf f hh]
  have hrun : flushStartBody k.toNat p u = u.startFlush k.toNat (descAt p 8).region := by
    unfold flushStartBody
    dsimp only
    rw [if_neg (by simp [hp, hz, hd]), if_neg hbusy]
  have hregion : (descAt p 8).region.len = (descAt p 8).len := rfl
  rw [hrun, State.startFlush] at he
  dsimp only at he
  rw [hto, hregion, hujr, ← hl] at he
  have hfirst : (Flush.of (descAt p 8).region l n.jr.next).first = g := hg.symm
  rw [hfirst] at he
  obtain ⟨a, ha⟩ : ∃ a : State, a = { u with jr := { n.jr with host := some (Flush.of (descAt p 8).region l n.jr.next) } } := ⟨_, rfl⟩
  obtain ⟨v, hv⟩ : ∃ v : State, v = if (l.flatMap JRec.bytes).isEmpty then a
    else a.miWrite a.survivor (descAt p 8).region.addr (l.flatMap JRec.bytes) .hostFlush := ⟨_, rfl⟩
  have hve : v = { s with jr := { n.jr with host := some (Flush.of (descAt p 8).region l n.jr.next) }, mi := v.mi } := by
    rw [hv, ha, hu]
    split <;> rfl
  have hobj : engineObj u = engineObj s := by rw [hu]; rfl
  have hrun' : exec (.serviceJournalFlushStart k) s = .next (v.reply k.toNat stOk (engineObj s) (flushReply 0 g l.length 0)) := by
    rw [he, hv, ha, hobj]
    rfl
  have hbox : SameBox s v := by
    rw [hve]
    rfl
  have htime : v.time = s.time := by rw [hve]
  have hrep := State.reply_replied (u := v) k stOk (engineObj s) (flushReply 0 g l.length 0) h.canonical hbox htime (by decide)
    (engineObj_lt s) (by simp [flushReply, zeros])
  obtain ⟨y, z, ht⟩ := (State.reply_only v k stOk (engineObj s) (flushReply 0 g l.length 0)).exists_eq
  refine ⟨_, hrun', hrep, ?_, fun hl0 => ?_, ?_⟩
  · rw [State.reply_host, hve]
    rw [← hfirst]
    rfl
  · have hne : ¬ (l.flatMap JRec.bytes).isEmpty = true := by
      cases l with
      | nil => exact absurd rfl hl0
      | cons x l =>
        simp [JRec.bytes_ne_nil x]
    have hmi : v.mi = u.mi ++ [⟨a.survivor, freeTag a.mi a.survivor, true, (descAt p 8).region.addr, (l.flatMap JRec.bytes).length,
        l.flatMap JRec.bytes, .hostFlush, false⟩] := by
      rw [hv, if_neg hne, ha]
      rfl
    rw [State.reply_mi, hmi]
    exact ⟨_, List.mem_filter.2 ⟨List.mem_append_right _ (List.mem_singleton_self _), rfl⟩, rfl, rfl, rfl, rfl⟩
  · rw [ht, hve]

theorem journalFlushDone_host {f : Flush} (hh : s.jr.host = some f) (hd : f.done = false) (ha : ∀ a ∈ s.mi, a.purpose ≠ .hostFlush)
    (hw : s.jr.warn = none ∨ s.safe.flush ≠ 1) :
    exec .journalFlushDone s =
      .next { s with jr := { s.jr with
        host := some { f with done := true }
        recs := s.jr.recs.map fun r => if f.numbers.contains r.number then { r with saved := true } else r } } := by
  have hwarn : (s.flushEnds s.jr.warn .warnFlush).filter (fun _ => s.safe.flush == 1) = none := by
    rcases hw with hw | hw
    · rw [hw]
      rfl
    · rw [Option.filter_eq_none_iff]
      simp [hw]
  have hhost : s.flushEnds s.jr.host .hostFlush = some f := by
    have hwr : s.writes .hostFlush = false := by
      rw [State.writes, List.any_eq_false]
      intro a hm
      simpa using ha a hm
    rw [State.flushEnds, hh, hwr]
    simp [Option.filter, hd]
  show Host.Outcome.next _ = _
  rw [hwarn]
  dsimp only
  rw [hhost]
  rfl

theorem journalFlushDone_warn {f : Flush} (hh : s.jr.warn = some f) (hd : f.done = false) (hf : s.safe.flush = 1)
    (ha : ∀ a ∈ s.mi, a.purpose ≠ .warnFlush) :
    Completes .journalFlushDone s fun t =>
      t.safe = { s.safe with flush := 2 } ∧
      t.jr = { s.jr with
        warn := some { f with done := true }
        recs := s.jr.recs.map fun r => if f.numbers.contains r.number then { r with saved := true } else r } ∧
      (∃ a, t.mi = s.mi ++ [a] ∧ a.write = true ∧ a.addr = f.region.addr ∧ a.data = flushHeader true f s.eng.serial ∧
        a.purpose = .warnFlush) ∧
      { t with safe := s.safe, jr := s.jr, mi := s.mi } = s := by
  have hwarn : (s.flushEnds s.jr.warn .warnFlush).filter (fun _ => s.safe.flush == 1) = some f := by
    have hwr : s.writes .warnFlush = false := by
      rw [State.writes, List.any_eq_false]
      intro a hm
      simpa using ha a hm
    rw [State.flushEnds, hh, hwr]
    simp [Option.filter, hd, hf]
  refine ⟨s.warnFlushed f, ?_, rfl, rfl, ⟨_, rfl, rfl, rfl, rfl, rfl⟩, rfl⟩
  show Host.Outcome.next _ = _
  rw [hwarn]

end Sys2Proof.Machine

open Sys2Proof Sys2Proof.Machine

/-- Settles O15: a flush's records are those that no flush of a supply warning takes, and its end saves them. -/
theorem flushesWriteTheJournal : Obligations.FlushesWriteTheJournal := fun _ _ _ =>
  ⟨fun _ hn _ hl _ hg h h1 hp hz hd hf => flushStart_writes hn hl hg h h1 hp hz hd hf,
    fun _ hh hd ha hw => journalFlushDone_host hh hd ha hw, fun _ hh hd hf ha => journalFlushDone_warn hh hd hf ha⟩
end

section
/-! Chains: what frames that leave change, acknowledgements, credits and frames that are not taken (16 R391-R394). -/
namespace Sys2Proof.Machine

variable {s : State} {h : Half} {c : Nat}

/-! ### One chain of a half -/

theorem getD_of_le {α : Type} {l : List α} {n : Nat} (d : α) (h : l.length ≤ n) : l.getD n d = d := by
  rw [List.getD_eq_getElem?_getD, List.getElem?_eq_none h, Option.getD_none]

/-- Beyond the half's chains every number reads as a chain at reset. -/
theorem State.chain_of_le (hc : (s.chains.get h).length ≤ c) : s.chain h c = Chain.reset := getD_of_le Chain.reset hc

/-- A chain in service is one of the half's. -/
theorem State.chain_lt (hu : (s.chain h c).up = true) : c < (s.chains.get h).length := by
  refine Nat.lt_of_not_le fun hc => ?_
  rw [State.chain_of_le hc] at hu
  revert hu
  decide

theorem State.onChain_congr {f g : Chain → Chain} (hf : f (s.chain h c) = g (s.chain h c)) : s.onChain h c f = s.onChain h c g := by
  have hset : (s.chains.get h).set c (f (s.chain h c)) = (s.chains.get h).set c (g (s.chain h c)) := by rw [hf]
  exact congrArg (fun l => ({ s with chains := s.chains.set h l } : State)) hset

theorem chainAt_set_same {l : List Chain} (hc : c < l.length) (x : Chain) : chainAt (l.set c x) c = x := by
  simp [chainAt, List.getD_eq_getElem?_getD, hc]

theorem State.chain_onChain (hu : (s.chain h c).up = true) (f : Chain → Chain) : (s.onChain h c f).chain h c = f (s.chain h c) := by
  rw [State.chain, State.onChain, Halves.modify, Halves.get_set_same]
  exact chainAt_set_same (State.chain_lt hu) _

theorem State.onChain_self {f : Chain → Chain} (hf : f (s.chain h c) = s.chain h c) : s.onChain h c f = s := by
  have hset : (s.chains.get h).set c (f (s.chain h c)) = s.chains.get h := by
    rw [hf, State.chain, chainAt, List.getD_eq_getElem?_getD]
    by_cases hc : c < (s.chains.get h).length
    · rw [List.getElem?_eq_getElem hc, Option.getD_some, List.set_getElem_self]
    · exact List.set_eq_of_length_le (Nat.not_lt.1 hc)
  have hchains : s.chains.modify h (fun l => l.set c (f (chainAt l c))) = s.chains := by
    rw [Halves.modify]
    refine (congrArg (s.chains.set h) hset).trans ?_
    cases h <;> rfl
  unfold State.onChain
  rw [hchains]

/-- A change of one chain is told by what the chain has become. -/
theorem State.onChain_chain (hu : (s.chain h c).up = true) (f : Chain → Chain) :
    s.onChain h c (fun _ => (s.onChain h c f).chain h c) = s.onChain h c f := by
  rw [State.chain_onChain hu]
  exact State.onChain_congr rfl

/-! ### Frames leave -/

theorem Chain.pump_frame (x : Chain) (n : Nat) :
    x.pump n = { x with replay := (x.pump n).replay, seq := (x.pump n).seq, sentCost := (x.pump n).sentCost, wait := (x.pump n).wait } ∧
      ∃ sent, (x.pump n).replay = x.replay ++ sent := by
  induction n generalizing x with
  | zero => exact ⟨rfl, [], (List.append_nil _).symm⟩
  | succ n ih =>
    unfold Chain.pump
    split
    · next r hr =>
      obtain ⟨hframe, sent, hsent⟩ := ih (({ x with wait := r.2 } : Chain).send r.1)
      exact ⟨hframe, _, hsent.trans (List.append_assoc ..)⟩
    · exact ⟨rfl, [], (List.append_nil _).symm⟩

theorem Chain.flow_replay (x : Chain) : ∃ sent, x.flow.replay = x.replay ++ sent := (x.pump_frame _).2

theorem Chain.flow_ctl (x : Chain) : x.flow.ctl = x.ctl := by
  have := congrArg Chain.ctl (x.pump_frame x.wait.length).1
  exact this

theorem Chain.flow_idle {x : Chain} (hw : x.wait = []) : x.flow = x := by
  unfold Chain.flow
  rw [hw]
  rfl

theorem Chain.resend_frame (x : Chain) : x.resend.replay = x.replay ∧ x.resend.ctl = x.ctl ++ x.replay.map (·.out) := by
  unfold Chain.resend
  split
  next he =>
    exact ⟨rfl, by rw [List.isEmpty_iff.1 he]; exact (List.append_nil _).symm⟩
  · exact ⟨rfl, rfl⟩

/-! ### Acknowledgements and credits -/

section
variable {ch : BitVec 4} {f : Frame} (hu : (s.chain h ch.toNat).up = true)
include hu

theorem ack_acknowledges (hf : ctlFrameOk ftAck f = true) (hh : fHello f = false) (hn : fNak f = false) :
    Completes (.ack h ch f) s fun t =>
      (∃ sent, (t.chain h ch.toNat).replay = (s.chain h ch.toNat).replay.filter (fun r => !covered16 (fAcked f) r.seq) ++ sent) ∧
      ((s.chain h ch.toNat).wait = [] → t.chain h ch.toNat = (s.chain h ch.toNat).acknowledge (fAcked f)) ∧
      s.onChain h ch.toNat (fun _ => t.chain h ch.toNat) = t := by
  refine ⟨_, congrArg Host.Outcome.next (if_pos (by simp [hu, hf, hh, hn])), ?_, fun hw => ?_, State.onChain_chain hu _⟩
  all_goals rw [State.chain_onChain hu]
  · exact Chain.flow_replay _
  · exact Chain.flow_idle hw

theorem nak_resends (hf : ctlFrameOk ftAck f = true) (hh : fHello f = false) (hn : fNak f = true) :
    Completes (.nak h ch f) s fun t =>
      (∃ sent, (t.chain h ch.toNat).replay = (s.chain h ch.toNat).replay.filter (fun r => !covered16 (fAcked f) r.seq) ++ sent) ∧
      (t.chain h ch.toNat).ctl = (s.chain h ch.toNat).ctl ++
        ((s.chain h ch.toNat).replay.filter fun r => !covered16 (fAcked f) r.seq).map (·.out) ∧
      s.onChain h ch.toNat (fun _ => t.chain h ch.toNat) = t := by
  refine ⟨_, congrArg Host.Outcome.next (if_pos (by simp [hu, hf, hh, hn])), ?_, ?_, State.onChain_chain hu _⟩
  all_goals rw [State.chain_onChain hu]
  · obtain ⟨sent, hs⟩ := Chain.flow_replay ((s.chain h ch.toNat).acknowledge (fAcked f)).resend
    exact ⟨sent, hs.trans (by rw [(Chain.resend_frame _).1]; rfl)⟩
  · exact (Chain.flow_ctl _).trans (Chain.resend_frame _).2

theorem crd_exec (hf : ctlFrameOk ftCrd f = true) (hk : fCrdClass f ≤ 2) (hw : (s.chain h ch.toNat).wait = []) :
    exec (.crd h ch f) s = .next (s.onChain h ch.toNat fun y => y.raise (fCrdClass f) (fCrdLimit f)) := by
  refine congrArg Host.Outcome.next ((if_pos (by simp [hu, hf, hk])).trans (State.onChain_congr ?_))
  refine Chain.flow_idle ?_
  unfold Chain.raise
  split
  · exact hw
  · exact hw

theorem crd_raises (hf : ctlFrameOk ftCrd f = true) (hk : fCrdClass f ≤ 2) (hw : (s.chain h ch.toNat).wait = [])
    (hl : (fCrdLimit f + 2 ^ 32 - trip (s.chain h ch.toNat).limit (fCrdClass f)) % 2 ^ 32 < 2 ^ 31) :
    exec (.crd h ch f) s = .next (s.onChain h ch.toNat fun y => { y with limit := tripSet y.limit (fCrdClass f) (fCrdLimit f) }) :=
  (crd_exec hu hf hk hw).trans (congrArg _ (State.onChain_congr (if_pos hl)))

theorem crd_old (hf : ctlFrameOk ftCrd f = true) (hk : fCrdClass f ≤ 2) (hw : (s.chain h ch.toNat).wait = [])
    (hl : 2 ^ 31 ≤ (fCrdLimit f + 2 ^ 32 - trip (s.chain h ch.toNat).limit (fCrdClass f)) % 2 ^ 32) :
    exec (.crd h ch f) s = .next s :=
  (crd_exec hu hf hk hw).trans (congrArg _ (State.onChain_self (if_neg (Nat.not_lt.2 hl))))

theorem replayTimeout_resends (hp : (s.chain h ch.toNat).paused = false) :
    Completes (.replayTimeout h ch) s fun t =>
      (t.chain h ch.toNat).ctl = (s.chain h ch.toNat).ctl ++ (s.chain h ch.toNat).replay.map (·.out) ∧
      (t.chain h ch.toNat).replay = (s.chain h ch.toNat).replay ∧ s.onChain h ch.toNat (fun _ => t.chain h ch.toNat) = t := by
  refine ⟨_, congrArg Host.Outcome.next (if_pos (by simp [hu, hp])), ?_, ?_, State.onChain_chain hu _⟩
  all_goals rw [State.chain_onChain hu]
  · exact (Chain.resend_frame _).2
  · exact (Chain.resend_frame _).1

theorem replayTimeout_idle (hp : (s.chain h ch.toNat).paused = false) (hr : (s.chain h ch.toNat).replay = []) :
    exec (.replayTimeout h ch) s = .next s := by
  refine congrArg Host.Outcome.next ((if_pos (by simp [hu, hp])).trans (State.onChain_self ?_))
  exact if_pos (by rw [hr]; rfl)

/-! ### Frames that are not taken -/

theorem State.takeFrame_bad {typ : Nat} (use : List Byte → State → State) (hj : (s.chain h ch.toNat).judge typ f = .bad) :
    s.takeFrame h ch.toNat typ f use = s.onChain h ch.toNat fun y => y.discard (!frameCrcOk typ f) := by
  unfold State.takeFrame
  dsimp only
  rw [if_neg (by simp [hu]), hj]

theorem State.takeFrame_duplicate {typ : Nat} (use : List Byte → State → State) (hj : (s.chain h ch.toNat).judge typ f = .duplicate) :
    s.takeFrame h ch.toNat typ f use = s.onChain h ch.toNat Chain.ackAgain := by
  unfold State.takeFrame
  dsimp only
  rw [if_neg (by simp [hu]), hj]

omit hu in
theorem Chain.judge_bad {x : Chain} {typ : Nat} (hx : frameCrcOk typ f = false ∨ (f.seq ≠ x.expected ∧ 2 ^ 31 < (x.expected - f.seq).toNat)) :
    x.judge typ f = .bad := by
  unfold Chain.judge
  rcases hx with hx | ⟨hs, hd⟩
  · rw [if_pos (by simp [hx])]
  · rw [if_neg hs, if_neg (Nat.not_le.2 hd)]
    exact ite_self _

omit hu in
theorem Chain.judge_duplicate {x : Chain} {typ : Nat} (hc : frameCrcOk typ f = true) (hs : f.seq ≠ x.expected)
    (hd : (x.expected - f.seq).toNat ≤ 2 ^ 31) : x.judge typ f = .duplicate := by
  unfold Chain.judge
  rw [if_neg (by simp [hc]), if_neg hs, if_pos hd]

omit hu in
theorem Chain.discard_nakked {x : Chain} (hn : x.nakked = true) (bad : Bool) : x.discard bad = if bad then x.count 2 else x := by
  unfold Chain.discard
  cases bad
  · exact if_pos hn
  · exact if_pos hn

omit hu in
/-- The first frame that is not expected is answered by one NAK of the last accepted number. -/
theorem Chain.discard_naks {x : Chain} (hn : x.nakked = false) (bad : Bool) :
    (x.discard bad).ctl = x.ctl ++ [ackOut true (x.expected - 1)] ∧ (x.discard bad).nakked = true ∧
      (x.discard bad).expected = x.expected ∧ (x.discard bad).replay = x.replay := by
  have hne : ¬ x.nakked = true := by simp [hn]
  cases bad
  · have he : x.discard false = { x with nakked := true, ctl := x.ctl ++ [ackOut true (x.expected - 1)] } := if_neg hne
    rw [he]
    exact ⟨rfl, rfl, rfl, rfl⟩
  · have he : x.discard true = { x.count 2 with nakked := true, ctl := x.ctl ++ [ackOut true (x.expected - 1)] } := if_neg hne
    rw [he]
    exact ⟨rfl, rfl, rfl, rfl⟩

theorem frameDiscarded_naks {ty : Byte} (hn : (s.chain h ch.toNat).nakked = false)
    (hx : frameCrcOk ty.toNat f = false ∨ (ty.toNat ≠ ftAck ∧ ty.toNat ≠ ftCrd ∧ f.seq ≠ (s.chain h ch.toNat).expected ∧
      2 ^ 31 < ((s.chain h ch.toNat).expected - f.seq).toNat)) :
    Completes (.frameDiscarded h ch ty f) s fun t =>
      (t.chain h ch.toNat).ctl = (s.chain h ch.toNat).ctl ++ [ackOut true ((s.chain h ch.toNat).expected - 1)] ∧
      (t.chain h ch.toNat).nakked = true ∧ (t.chain h ch.toNat).expected = (s.chain h ch.toNat).expected ∧
      (t.chain h ch.toNat).replay = (s.chain h ch.toNat).replay ∧ s.onChain h ch.toNat (fun _ => t.chain h ch.toNat) = t := by
  have he : exec (.frameDiscarded h ch ty f) s = .next (s.onChain h ch.toNat fun y => y.discard (!frameCrcOk ty.toNat f)) := by
    refine congrArg Host.Outcome.next ?_
    split
    next hctl =>
      have hbad : frameCrcOk ty.toNat f = false := by
        rcases hx with hx | ⟨h1, h2, -⟩
        · exact hx
        · exact absurd hctl (by simp [h1, h2])
      rw [if_pos (by simp [hu, hbad]), hbad]
      rfl
    next hctl =>
      have hj : (s.chain h ch.toNat).judge ty.toNat f = .bad :=
        Chain.judge_bad (hx.imp_right fun ⟨_, _, hs, hd⟩ => ⟨hs, hd⟩)
      rw [if_neg (by simp [hj])]
      exact State.takeFrame_bad hu _ hj
  refine ⟨_, he, ?_⟩
  dsimp only
  rw [State.onChain_chain hu, State.chain_onChain hu]
  obtain ⟨hctl, hnak, hexp, hrep⟩ := Chain.discard_naks hn (!frameCrcOk ty.toNat f)
  exact ⟨hctl, hnak, hexp, hrep, rfl⟩

omit hu in
theorem frameDiscarded_exec {ty : Byte} {v : Verdict16} (h1 : ty.toNat ≠ ftAck) (h2 : ty.toNat ≠ ftCrd)
    (hj : (s.chain h ch.toNat).judge ty.toNat f = v) (hv : v ≠ .accepted) :
    exec (.frameDiscarded h ch ty f) s = .next (s.takeFrame h ch.toNat ty.toNat f fun _ u => u) := by
  refine congrArg Host.Outcome.next ?_
  rw [if_neg (by simp [h1, h2]), if_neg (by simp [hj, hv])]

theorem frameDiscarded_silent {ty : Byte} (hn : (s.chain h ch.toNat).nakked = true) (h1 : ty.toNat ≠ ftAck) (h2 : ty.toNat ≠ ftCrd)
    (hc : frameCrcOk ty.toNat f = true) (hs : f.seq ≠ (s.chain h ch.toNat).expected)
    (hd : 2 ^ 31 < ((s.chain h ch.toNat).expected - f.seq).toNat) :
    exec (.frameDiscarded h ch ty f) s = .next (s.onChain h ch.toNat fun y => y) := by
  have hj : (s.chain h ch.toNat).judge ty.toNat f = .bad := Chain.judge_bad (.inr ⟨hs, hd⟩)
  rw [frameDiscarded_exec h1 h2 hj (by decide), State.takeFrame_bad hu _ hj, hc]
  exact congrArg _ (State.onChain_congr (Chain.discard_nakked hn false))

theorem frameDiscarded_again {ty : Byte} (h1 : ty.toNat ≠ ftAck) (h2 : ty.toNat ≠ ftCrd) (hc : frameCrcOk ty.toNat f = true)
    (hs : f.seq ≠ (s.chain h ch.toNat).expected) (hd : ((s.chain h ch.toNat).expected - f.seq).toNat ≤ 2 ^ 31) :
    exec (.frameDiscarded h ch ty f) s =
      .next (s.onChain h ch.toNat fun y => { y with ctl := y.ctl ++ [ackOut false (y.expected - 1)] }) := by
  have hj := Chain.judge_duplicate (x := s.chain h ch.toNat) hc hs hd
  rw [frameDiscarded_exec h1 h2 hj (by decide), State.takeFrame_duplicate hu _ hj]
  rfl

end

end Sys2Proof.Machine

open Sys2Proof Sys2Proof.Machine

/-- Settles O30: each of the four changes one chain, and of its replay buffer only what ACKED covers. -/
theorem acknowledgementsAndCredits : Obligations.AcknowledgementsAndCredits := by
  rintro s h ch f x rfl hu
  exact ⟨fun hf hh => ⟨ack_acknowledges hu hf hh, nak_resends hu hf hh⟩, fun hf hk hw => ⟨crd_raises hu hf hk hw, crd_old hu hf hk hw⟩,
    fun hp => ⟨fun _ => replayTimeout_resends hu hp, replayTimeout_idle hu hp⟩⟩

/-- Settles O31: what is not taken is answered on its own chain, once. -/
theorem discardedFrames : Obligations.DiscardedFrames := by
  rintro s h ch ty f x rfl hu
  exact ⟨frameDiscarded_naks hu, frameDiscarded_silent hu, frameDiscarded_again hu⟩
end

section
/-! The safelight controllers: heartbeats, WAITING, and islands that come up and go down (13 R314, R315; 11 R261; 19 R454, R457;
17 R423, R429). -/
namespace Sys2Proof.Machine

variable {s : State} {h : Half}

/-! ### Heartbeats -/

theorem partnerSilent_waits (hc : s.half.e.code = .inReset) (hb : s.half.w.heartbeat = false) (hu : s.half.e.safeUp = true)
    (hw : s.safe.waiting = false) :
    Completes .partnerSilent s fun t =>
      t.safe.waiting = true ∧ t.safe.inband.e = s.safe.inband.e + 1 ∧ t.safe.events = inc32 s.safe.events ∧
      (∃ e, t.safe.logs.e = logPush s.safe.logs.e e ∧ e.code = 0x0014 ∧ e.half = 1 ∧ e.sev = 3 ∧ e.src = 1) ∧
      { t with safe := s.safe } = s := by
  obtain ⟨u, hu'⟩ : ∃ u : State, u = { s with safe := { s.safe with waiting := true, inband := s.safe.inband.modify .east (· + 1) } } :=
    ⟨_, rfl⟩
  have hlogger : u.logger .east = some .east := by
    have hreach : u.reach = false := by
      rw [hu']
      show (_ && _ && s.half.w.heartbeat && _) = false
      rw [hb, Bool.and_false, Bool.false_and]
    have hup : (u.hs .east).safeUp = true := by
      rw [hu']
      exact hu
    simp [State.logger, hreach, hup]
  have he : exec .partnerSilent s = .next (u.log 1 3 0x0014 0 0 []) := by
    refine congrArg Host.Outcome.next ((if_pos ?_).trans ?_)
    · simp [hc, hb, hu, hw]
    · rw [hu']
  refine ⟨_, he, ?_⟩
  unfold State.log
  rw [if_pos rfl, hlogger]
  dsimp only
  rw [hu']
  exact ⟨rfl, rfl, rfl, ⟨_, rfl, rfl, rfl, rfl, rfl⟩, rfl⟩

/-- Both controllers' logs change alone as they copy what they lack. -/
theorem State.mergeLogs_eq (s : State) :
    ∃ (l : Halves (List LogEnt)) (n : Nat), s.mergeLogs = { s with safe := { s.safe with logs := l, nextW := n } } := by
  unfold State.mergeLogs
  split
  · exact ⟨_, _, rfl⟩
  · exact ⟨s.safe.logs, s.safe.nextW, rfl⟩

theorem heartbeatResumed_clears (hu : s.half.w.safeUp = true) :
    Completes .heartbeatResumed s fun t =>
      t.half.w.heartbeat = true ∧ t.half.e.heartbeat = true ∧ t.safe.waiting = false ∧ t.safe.rescueEast = false ∧
      (t.eng, t.mbx, t.rt, t.img, t.bnd, t.jr) = (s.eng, s.mbx, s.rt, s.img, s.bnd, s.jr) := by
  refine ⟨_, congrArg Host.Outcome.next (if_pos hu), ?_⟩
  obtain ⟨l, n, hm⟩ := State.mergeLogs_eq
    { s with half := s.half.map (fun x => { x with heartbeat := true }), safe := { s.safe with waiting := false, rescueEast := false } }
  rw [hm]
  exact ⟨rfl, rfl, rfl, rfl, rfl⟩

theorem heartbeatMissed_serves (hu : s.half.e.safeUp = true) (hj : ∀ j ∈ s.mbx.jobs, j.due = false) :
    Completes .safelightHeartbeatMissed s fun t =>
      t.rescueServer = some .east ∧ t.half.w.heartbeat = false ∧ t.level.ready = false ∧
      (t.eng, t.mbx, t.rt, t.img, t.bnd, t.jr, t.half.e) = (s.eng, s.mbx, s.rt, s.img, s.bnd, s.jr, s.half.e) := by
  have hm : s.heartbeatMissed = { s with
      half := s.half.modify .west (fun x => { x with heartbeat := false })
      safe := { s.safe with rescueEast := true }, level := { s.level with ready := false } } := if_pos hu
  refine ⟨s.heartbeatMissed.serveDue, rfl, ?_⟩
  rw [State.serveDue_eq_self (by rw [hm]; exact hj), hm]
  refine ⟨?_, rfl, rfl, rfl⟩
  show (if s.half.w.safeUp && !true then some Half.west else if s.half.e.safeUp then some .east else _) = _
  rw [hu]
  simp

/-! ### Logs that are copied -/

theorem mem_logInsert {e x : LogEnt} (l : List LogEnt) : x ∈ logInsert e l ↔ x = e ∨ x ∈ l := by
  induction l with
  | nil => simp [logInsert]
  | cons y l ih =>
    unfold logInsert
    split
    · split
      next hey => simp [hey]
      · simp
    · simp only [List.mem_cons, ih]
      exact or_left_comm

theorem length_logInsert (e : LogEnt) (l : List LogEnt) : (logInsert e l).length ≤ l.length + 1 := by
  induction l with
  | nil => exact Nat.le_refl _
  | cons y l ih =>
    unfold logInsert
    split
    · split <;> simp
    · simpa using ih

/-- What a controller holds after it has copied the entries of the other one that it lacks. -/
def copyLog (l : List LogEnt) (e : LogEnt) : List LogEnt := if l.contains e then l else logInsert e l

theorem mem_foldl_copyLog {x : LogEnt} (es l : List LogEnt) : x ∈ es.foldl copyLog l ↔ x ∈ l ∨ x ∈ es := by
  induction es generalizing l with
  | nil => simp
  | cons e es ih =>
    rw [List.foldl_cons, ih, copyLog]
    split
    next hc =>
      have hmem : e ∈ l := by simpa using hc
      constructor
      · rintro (h | h)
        · exact .inl h
        · exact .inr (List.mem_cons_of_mem _ h)
      · rintro (h | h)
        · exact .inl h
        · rcases List.mem_cons.1 h with rfl | h
          · exact .inl hmem
          · exact .inr h
    · rw [mem_logInsert, List.mem_cons]
      exact or_assoc.trans or_left_comm

theorem length_foldl_copyLog (es l : List LogEnt) : (es.foldl copyLog l).length ≤ l.length + es.length := by
  induction es generalizing l with
  | nil => exact Nat.le_refl _
  | cons e es ih =>
    have hstep : (copyLog l e).length ≤ l.length + 1 := by
      unfold copyLog
      split
      · exact Nat.le_succ _
      · exact length_logInsert e l
    exact Nat.le_trans (ih _) (by simp only [List.length_cons]; omega)

/-- Of a list that fits its room nothing is dropped. -/
theorem drop_of_fits {α : Type} {l : List α} {n : Nat} (hl : l.length ≤ n) : l.drop (l.length - n) = l := by
  rw [Nat.sub_eq_zero_of_le hl, List.drop_zero]

/-- Two logs that fit one ring are each copied whole. -/
theorem State.mergeLogs_mem (hr : s.reach = true) (hl : s.safe.logs.w.length + s.safe.logs.e.length ≤ logRing) (g : Half) (e : LogEnt) :
    e ∈ s.mergeLogs.safe.logs.get g ↔ e ∈ s.safe.logs.w ∨ e ∈ s.safe.logs.e := by
  have hall : s.mergeLogs.safe.logs.get g = s.safe.logs.e.foldl copyLog s.safe.logs.w := by
    have hlen := length_foldl_copyLog s.safe.logs.e s.safe.logs.w
    unfold State.mergeLogs
    rw [if_pos hr]
    dsimp only
    rw [show (fun (l : List LogEnt) (e : LogEnt) => if l.contains e then l else logInsert e l) = copyLog from rfl,
      drop_of_fits (Nat.le_trans hlen hl)]
    cases g <;> rfl
  rw [hall, mem_foldl_copyLog]

/-! ### Islands -/

theorem State.islandPowers_joins (hd : (s.hs h).safeUp = false) (ho : (s.hs h.other).safeUp = true) :
    s.islandPowers h = (s.onHalf h HalfSt.islandUp).islandJoins h := by
  unfold State.islandPowers
  rw [if_neg (by simp [hd]), if_pos ho]

theorem State.islandPowers_fresh (hd : (s.hs h).safeUp = false) (ho : (s.hs h.other).safeUp = false) :
    s.islandPowers h = (s.onHalf h HalfSt.islandUp).islandFresh h := by
  unfold State.islandPowers
  rw [if_neg (by simp [hd]), if_neg (by simp [ho])]

theorem islandPowerUp_joins (hd : (s.hs h).safeUp = false) (hj : ∀ j ∈ s.mbx.jobs, j.due = false) (ho : (s.hs h.other).safeUp = true) :
    Completes (.safelightIslandPowerUp h) s fun t =>
      (t.hs h).safeUp = true ∧ (t.hs h).tpeak = 0x80 ∧ t.safe.events = s.safe.events ∧ t.mbx = s.mbx ∧
      t.safe.rescueEast = (if h = .west then false else s.safe.rescueEast) ∧
      ((s.hs h.other).heartbeat = false → t.safe.logs = s.safe.logs) ∧
      ((s.hs h.other).heartbeat = true → s.safe.logs.w.length + s.safe.logs.e.length ≤ logRing →
        ∀ g e, e ∈ t.safe.logs.get g ↔ e ∈ s.safe.logs.w ∨ e ∈ s.safe.logs.e) := by
  obtain ⟨u, hu⟩ : ∃ u : State, u = { s.onHalf h HalfSt.islandUp with
    safe := { s.safe with rescueEast := if h == .west then false else s.safe.rescueEast } } := ⟨_, rfl⟩
  have hpow : s.islandPowers h = u.mergeLogs := by
    rw [State.islandPowers_joins hd ho, hu]
    rfl
  obtain ⟨l, n, hm⟩ := u.mergeLogs_eq
  have hjobs : ∀ j ∈ (s.islandPowers h).mbx.jobs, j.due = false := by
    rw [hpow, hm, hu]
    exact hj
  have hreach : u.reach = (s.hs h.other).heartbeat := by
    rw [hu]
    cases h
    · have ho' : s.half.e.safeUp = true := ho
      show (true && s.half.e.safeUp && true && s.half.e.heartbeat) = s.half.e.heartbeat
      rw [ho']
      simp
    · have ho' : s.half.w.safeUp = true := ho
      show (s.half.w.safeUp && true && s.half.w.heartbeat && true) = s.half.w.heartbeat
      rw [ho']
      simp
  have hlogs : u.safe.logs = s.safe.logs := by rw [hu]
  refine ⟨(s.islandPowers h).serveDue, rfl, ?_⟩
  rw [State.serveDue_eq_self hjobs, hpow]
  refine ⟨?_, ?_, ?_, ?_, ?_, fun hb => ?_, fun hb hl g e => ?_⟩
  · rw [hm, hu]
    cases h <;> rfl
  · rw [hm, hu]
    cases h <;> rfl
  · rw [hm, hu]
  · rw [hm, hu]
    rfl
  · rw [hm, hu]
    cases h <;> rfl
  · rw [State.mergeLogs, if_neg (by rw [hreach, hb]; exact Bool.false_ne_true), hlogs]
  · rw [← hlogs]
    exact State.mergeLogs_mem (hreach.trans hb) (by rw [hlogs]; exact hl) g e

theorem islandPowerUp_fresh (hd : (s.hs h).safeUp = false) (hj : ∀ j ∈ s.mbx.jobs, j.due = false) (ho : (s.hs h.other).safeUp = false) :
    Completes (.safelightIslandPowerUp h) s fun t =>
      (t.hs h).safeUp = true ∧ t.safe.events = 0 ∧ t.safe.logs = ⟨[], []⟩ ∧ t.safe.nextW = 0 ∧ t.safe.nextE = 0 ∧
      t.lastOf 255 = 0 ∧ t.jobOf 255 = none ∧ (∀ n, n ≠ 255 → t.lastOf n = s.lastOf n) ∧
      (∀ a, a < slotBase 255 → t.mbx.mem.read a = s.mbx.mem.read a) ∧ t.safe.fuses = s.safe.fuses := by
  have hfresh := State.islandPowers_fresh hd ho
  have hjobs : ∀ j ∈ (s.islandPowers h).mbx.jobs, j.due = false := by
    rw [hfresh]
    exact fun j hm => hj j (List.mem_filter.1 hm).1
  obtain ⟨t, ht, h255, hlast⟩ := safelightIslandPowerUp_clearsLast255 h hd ho hj
  have hrun : exec (.safelightIslandPowerUp h) s = .next (s.islandPowers h) :=
    congrArg Host.Outcome.next (State.serveDue_eq_self hjobs)
  obtain rfl : s.islandPowers h = t := Host.Outcome.next.inj (hrun.symm.trans ht)
  refine ⟨_, hrun, ?_, ?_, ?_, ?_, ?_, h255, ?_, hlast, fun a ha => ?_, ?_⟩
  all_goals rw [hfresh]
  · cases h <;> rfl
  · rfl
  · rfl
  · rfl
  · rfl
  · show (List.find? _ (List.filter _ _)) = none
    rw [List.find?_filter, List.find?_eq_none]
    simp
  · refine (Mem.read_clear ..).trans (if_neg ?_)
    omega
  · rfl

/-! ### Rails of an island -/

theorem railOutOfRange_safe (s : State) (h : Half) :
    Completes (.railOutOfRange h 0) s fun t =>
      (t.hs h).safeUp = false ∧ (t.hs h).heartbeat = false ∧ (t.hs h).rail rSafe = false ∧
      ((s.hs h.other).safeUp = true → t.rescueServer = some h.other) ∧
      (t.eng, t.mbx, t.rt, t.img, t.bnd, t.jr) = (s.eng, s.mbx, s.rt, s.img, s.bnd, s.jr) := by
  have he : exec (.railOutOfRange h 0) s = .next ((s.onHalf h fun x => x.withoutRail 0).islandDown h) := rfl
  refine ⟨_, he, ?_, ?_, ?_, fun ho => ?_, rfl⟩
  · cases h <;> rfl
  · cases h <;> rfl
  · have hrail (x : HalfSt) : (x.withoutRail 0).rail rSafe = false := by
      simp [HalfSt.withoutRail, HalfSt.rail, rSafe]
    cases h
    · exact hrail s.half.w
    · exact hrail s.half.e
  · cases h
    · have ho' : s.half.e.safeUp = true := ho
      show (if false && _ then some Half.west else if s.half.e.safeUp then some .east else _) = some .east
      rw [ho']
      rfl
    · have ho' : s.half.w.safeUp = true := ho
      show (if s.half.w.safeUp && !false then some Half.west else _) = some .west
      rw [ho']
      rfl

theorem railOutOfRange_sio (s : State) (h : Half) :
    exec (.railOutOfRange h 1) s = .next (s.onHalf h fun x => { x with railOk := x.railOk &&& ~~~2#9 }) := rfl

end Sys2Proof.Machine

open Sys2Proof Sys2Proof.Machine

/-- Settles O42: each controller's own state decides what it serves, logs and copies. -/
theorem safelightControllers : Obligations.SafelightControllers := fun s h =>
  ⟨partnerSilent_waits, heartbeatResumed_clears, heartbeatMissed_serves,
    fun hd hj => ⟨islandPowerUp_joins hd hj, islandPowerUp_fresh hd hj⟩, railOutOfRange_safe s h, railOutOfRange_sio s h⟩
end

section
/-! Reset inputs, cold start and core rails: what they clear and keep (11 R256; 15 R348-R352, R354, R366). -/
namespace Sys2Proof.Machine

variable {s : State} {h : Half}

/-! ### Lanes at electrical idle -/

/-- Lanes are at electrical idle where every one is reset and no chain is of a kind. -/
theorem LanesIdle.of_reset {t : State} (hl : ∀ h, t.lanes.get h = List.replicate 16 Lane.reset)
    (hc : ∀ h, ∀ x ∈ t.chains.get h, x.kind = .none) : LanesIdle t := by
  refine ⟨fun h l hm => List.eq_of_mem_replicate (hl h ▸ hm), fun h c => ?_⟩
  rw [State.chain, chainAt, List.getD_eq_getElem?_getD]
  cases hx : (t.chains.get h)[c]? with
  | none => rfl
  | some x =>
    have hk := hc h x (List.mem_of_getElem? hx)
    simp [Chain.up, hk]

theorem Chain.idle_kind (x : Chain) : x.idle.kind = .none := rfl

/-- The chains of a list that has been brought to idle, whatever is then done to each that is not to its kind. -/
theorem kind_of_mem_map {f : Chain → Chain} (hf : ∀ x, (f x).kind = .none) {l : List Chain} {x : Chain} (hx : x ∈ l.map f) :
    x.kind = .none := by
  obtain ⟨y, -, rfl⟩ := List.mem_map.1 hx
  exact hf y

theorem State.idle_lanesIdle (s : State) : LanesIdle ((s.idleLanes .west).idleLanes .east) := by
  refine .of_reset (fun h => by cases h <;> rfl) fun h x hx => ?_
  cases h
  · exact kind_of_mem_map Chain.idle_kind hx
  · exact kind_of_mem_map Chain.idle_kind hx

theorem LanesIdle.congr {s t : State} (h : LanesIdle s) (hl : t.lanes = s.lanes) (hc : t.chains = s.chains) : LanesIdle t := by
  refine ⟨fun g l hm => h.lanes g l (hl ▸ hm), fun g c => ?_⟩
  rw [State.chain, hc]
  exact h.chains g c

/-! ### What each of them leaves -/

theorem State.cutFuse_idle (hf : s.safe.fuseJob = none) : s.cutFuse = s := by
  unfold State.cutFuse
  rw [hf]

theorem HalfSt.put_code (x : HalfSt) (c : HCode) (f : FCode) : (x.put c f).code = if x.code = .drained then .drained else c := by
  by_cases hd : x.code = .drained
  · simp [HalfSt.put, hd]
  · simp [HalfSt.put, hd]

theorem coreRstNAssert_holds (hf : s.safe.fuseJob = none) :
    Completes .coreRstNAssert s fun t =>
      t.eng.state = .reset ∧ t.eng.coreRst = true ∧ LanesIdle t ∧
      (∀ h, (t.hs h).code = if (s.hs h).code = .drained then .drained else .inReset) ∧ t.mi = s.rescueAccesses ∧
      (∀ r ∈ t.rt.vals, r.adm = none ∧ r.copies = ⟨[], []⟩) ∧
      (t.mbx, t.img, t.bnd, t.bench, t.safe) = (s.mbx, s.img, s.bnd, s.bench, s.safe) := by
  refine ⟨_, rfl, ?_⟩
  rw [State.cutFuse_idle hf]
  refine ⟨rfl, rfl, (State.idle_lanesIdle s.dropUncommitted).congr rfl rfl, fun h => ?_, rfl, fun r hr => ?_, rfl⟩
  · cases h
    · exact HalfSt.put_code { s.half.w with waiting := [] } .inReset .booting
    · exact HalfSt.put_code { s.half.e with waiting := [] } .inReset .booting
  · have hr' : r ∈ (s.rt.mapVals Route.uncommitted).vals := hr
    simp only [Tab.vals, Tab.mapVals, List.map_map] at hr'
    obtain ⟨c, -, rfl⟩ := List.mem_map.1 hr'
    exact ⟨rfl, rfl⟩

theorem coreRailsRemoved_empties (hf : s.safe.fuseJob = none) :
    Completes .coreRailsRemoved s fun t =>
      t.eng.state = .off ∧ LanesIdle t ∧ (∀ h, (t.hs h).code = if (s.hs h).code = .drained then .drained else .down) ∧
      (t.rt, t.bnd, t.img, t.bench, t.jr, t.mi) = ([], [], [], [], JrSt.reset, s.rescueAccesses) ∧ t.safe.fuses = s.safe.fuses := by
  refine ⟨_, rfl, ?_⟩
  rw [State.cutFuse_idle hf]
  refine ⟨rfl, (State.idle_lanesIdle s).congr rfl rfl, fun h => ?_, rfl, rfl⟩
  cases h
  · exact HalfSt.put_code s.half.w.wiped .down .stopped
  · exact HalfSt.put_code s.half.e.wiped .down .stopped

/-! ### A cold start -/

theorem State.readBootList_frame (s : State) :
    s.readBootList = { s with safe := s.readBootList.safe, mi := s.readBootList.mi } ∧
      s.readBootList.safe.target = s.safe.target ∧ s.readBootList.safe.fuses = s.safe.fuses ∧ s.readBootList.safe.warn = s.safe.warn := by
  unfold State.readBootList
  split
  · refine ⟨?_, ?_⟩
    · rw [State.log_eq]
    · unfold State.log
      split <;> exact ⟨rfl, rfl, rfl⟩
  · exact ⟨rfl, rfl, rfl, rfl⟩

/-- A log entry is one event more, where a controller runs to write it. -/
theorem State.log_events (s : State) (side sev code a0 a1 : Nat) (d : List Byte) :
    (s.log side sev code a0 a1 d).safe.events =
      if (s.logger (if side = 1 then .east else .west)).isSome then inc32 s.safe.events else s.safe.events := by
  unfold State.log
  split
  next h => simp [h]
  next h => simp [h]
  next h => simp [h]

theorem filter_rescueAccesses (s : State) : s.clearMailbox.rescueAccesses = s.rescueAccesses := by
  unfold State.rescueAccesses State.clearMailbox
  dsimp only
  rw [List.filter_filter]
  refine List.filter_congr fun a _ => ?_
  cases a.purpose <;> simp

theorem State.jobOf_clearMailbox {n : Nat} (hn : n < 255) : s.clearMailbox.jobOf n = none := by
  unfold State.jobOf State.clearMailbox
  dsimp only
  rw [List.find?_filter, List.find?_eq_none]
  intro j _
  simp only [beq_iff_eq, decide_eq_true_eq, not_and]
  omega

/-- A zero pointer leaves the engine in RESET, with that logged; any other is read (15 R350, R352). -/
theorem State.readBootList_reads (hb : 64 ≤ s.safe.bootPtr.toNat) :
    s.readBootList.mi = s.mi ++
      [⟨.west, freeTag s.mi .west, false, s.safe.bootPtr.toNat / 64 * 64, 64, [], .bootHeader, false⟩] := by
  unfold State.readBootList
  rw [if_neg (by omega)]
  rfl

theorem State.readBootList_zero (hb : s.safe.bootPtr = 0) : s.readBootList = s.log engineSide 0 0x0001 0 0 [] := by
  unfold State.readBootList
  exact if_pos (by rw [hb]; rfl)

theorem State.logger_of_link {u : State} (hup : ∀ g, (u.hs g).safeUp = (s.hs g).safeUp)
    (hb : ∀ g, (u.hs g).heartbeat = (s.hs g).heartbeat) (g : Half) : u.logger g = s.logger g := by
  have hw : u.half.w.safeUp = s.half.w.safeUp := hup .west
  have hx : u.half.e.safeUp = s.half.e.safeUp := hup .east
  have hbw : u.half.w.heartbeat = s.half.w.heartbeat := hb .west
  have hbe : u.half.e.heartbeat = s.half.e.heartbeat := hb .east
  have hr : u.reach = s.reach := by simp only [State.reach, hw, hx, hbw, hbe]
  simp only [State.logger, hr, hup]

theorem coreRstNRelease_starts (hc : s.eng.coreRst = true) (hs : s.eng.safeRst = false) :
    Completes .coreRstNRelease s fun t =>
      t.eng.state = .reset ∧ t.eng.coreRst = false ∧ t.eng.phase = .bootList ∧ t.eng.warm = false ∧ t.eng.strict = false ∧
      (t.img, t.bnd, t.rt, t.bench, t.jr) = ([], [], [], [], JrSt.reset) ∧ t.mbx.irqEn = 0 ∧ t.mbx.taken = ⟨false, false⟩ ∧
      (∀ n, n < 255 → t.lastOf n = 0 ∧ t.jobOf n = none) ∧ t.safe.target = none ∧ t.safe.fuses = s.safe.fuses ∧ LanesIdle t ∧
      (64 ≤ s.safe.bootPtr.toNat →
        t.mi = s.rescueAccesses ++
          [⟨.west, freeTag s.rescueAccesses .west, false, s.safe.bootPtr.toNat / 64 * 64, 64, [], .bootHeader, false⟩]) ∧
      (s.safe.bootPtr = 0 → t.mi = s.rescueAccesses ∧ t.safe.events = (s.log engineSide 0 0x0001 0 0 []).safe.events) := by
  have he : exec .coreRstNRelease s = .next s.coldStart := congrArg Host.Outcome.next (if_pos (by simp [hc, hs]))
  obtain ⟨d, hd, heng, htabs, hmbx, hsafe, hlanes, hchains, hmi, hlink⟩ : ∃ d : State, s.coldStart = d.readBootList ∧
      (d.eng.state = .reset ∧ d.eng.coreRst = false ∧ d.eng.phase = .bootList ∧ d.eng.warm = false ∧ d.eng.strict = false) ∧
      (d.img, d.bnd, d.rt, d.bench, d.jr) = ([], [], [], [], JrSt.reset) ∧
      d.mbx = { s.clearMailbox.mbx with taken := ⟨false, false⟩ } ∧
      d.safe = { s.safe with flush := 0, target := none, waiting := false } ∧
      (∀ h, d.lanes.get h = List.replicate 16 Lane.reset) ∧ (∀ h, ∀ x ∈ d.chains.get h, x.kind = .none) ∧
      d.mi = s.clearMailbox.rescueAccesses ∧
      (∀ h, (d.hs h).safeUp = (s.hs h).safeUp ∧ (d.hs h).heartbeat = (s.hs h).heartbeat) := by
    refine ⟨_, rfl, ⟨rfl, rfl, rfl, rfl, rfl⟩, rfl, rfl, rfl, fun h => ?_, fun h x hx => ?_, rfl, fun h => ?_⟩
    · cases h <;> rfl
    · have hkind (l : List Chain) : ∀ y ∈ ((l.map Chain.idle).map fun c => { c with cnt := [0, 0, 0, 0] }).map
          fun c => { c with quiet := false }, y.kind = .none := fun y hy => by
        simp only [List.map_map] at hy
        exact kind_of_mem_map (fun _ => rfl) hy
      cases h
      · exact hkind s.chains.w x hx
      · exact hkind s.chains.e x hx
    · cases h <;> exact ⟨rfl, rfl⟩
  rw [filter_rescueAccesses] at hmi
  obtain ⟨hframe, htarget, hfuses, -⟩ := d.readBootList_frame
  have hboot : d.safe.bootPtr = s.safe.bootPtr := by rw [hsafe]
  have hmail : d.readBootList.mbx = { s.clearMailbox.mbx with taken := ⟨false, false⟩ } := d.readBootList_mbx.trans hmbx
  have heng' : d.readBootList.eng = d.eng := d.readBootList_eng
  have hlast (n : Nat) : d.readBootList.lastOf n = s.clearMailbox.lastOf n := by rw [State.lastOf, hmail]; rfl
  have hjob (n : Nat) : d.readBootList.jobOf n = s.clearMailbox.jobOf n := by rw [State.jobOf, hmail]; rfl
  obtain ⟨hst, hcore, hphase, hwarm, hstrict⟩ := heng
  refine ⟨_, he, ?_⟩
  rw [hd]
  refine ⟨by rw [heng', hst], by rw [heng', hcore], by rw [heng', hphase], by rw [heng', hwarm], by rw [heng', hstrict],
    by rw [hframe]; exact htabs, by rw [hmail]; rfl, by rw [hmail], fun n hn => ⟨?_, ?_⟩, by rw [htarget, hsafe],
    by rw [hfuses, hsafe], (LanesIdle.of_reset hlanes hchains).congr (by rw [hframe]) (by rw [hframe]), fun hb => ?_, fun hz => ⟨?_, ?_⟩⟩
  · rw [hlast, State.lastOf_clearMailbox, if_neg (by omega)]
  · rw [hjob, State.jobOf_clearMailbox hn]
  · rw [State.readBootList_reads (by rw [hboot]; exact hb), hmi, hboot]
  · rw [State.readBootList_zero (by rw [hboot]; exact hz), State.log_mi, hmi]
  · rw [State.readBootList_zero (by rw [hboot]; exact hz), State.log_events, State.log_events,
      State.logger_of_link (fun h => (hlink h).1) fun h => (hlink h).2, hsafe]

theorem safeRstNRelease_samples (datum : Bool) (addrW addrE : BitVec 2) :
    Completes (.safeRstNRelease datum addrW addrE) s fun t =>
      t.eng = { s.eng with safeRst := false } ∧ t.safe = { s.safe with bootPtr := 0 } ∧ t.level.strap = datum ∧
      t.half.w.strapAddr = addrW ∧ t.half.e.strapAddr = addrE ∧ t.half.w.safeUp = true ∧ t.half.e.safeUp = true ∧
      (t.mbx, t.rt, t.img, t.bnd, t.jr, t.lanes) = (s.mbx, s.rt, s.img, s.bnd, s.jr, s.lanes) :=
  ⟨_, rfl, rfl, rfl, rfl, rfl, rfl, rfl, rfl, rfl⟩

end Sys2Proof.Machine

open Sys2Proof Sys2Proof.Machine

/-- Settles O43: each of the four commands by its own lemma; the cold start by what it leaves before it reads the boot list. -/
theorem resetsAndColdStarts : Obligations.ResetsAndColdStarts := by
  intro s
  exact ⟨fun _ _ _ => safeRstNRelease_samples .., coreRstNAssert_holds, coreRstNRelease_starts, coreRailsRemoved_empties⟩

end

section
/-! Warm restarts: what begins them, and what they keep (11 R256; 13 R321; 15 R349, R374; 10 R224, R227). -/
namespace Sys2Proof.Machine

variable {s : State}

/-! ### The start itself -/

/-- Idle lanes of one half stay so when the other's go idle, and are so from then on. -/
theorem State.restartHalf_lanes (s : State) (h : Half) (out : Bool) :
    (s.restartHalf h out).lanes = s.lanes.set h (List.replicate 16 Lane.reset) := by
  cases out <;> cases h <;> rfl

theorem State.restartHalf_kind (s : State) (h : Half) (out : Bool) : ∀ x ∈ (s.restartHalf h out).chains.get h, x.kind = .none := by
  intro x hx
  cases out with
  | true => exact kind_of_mem_map Chain.idle_kind (l := s.chains.get h) (by cases h <;> exact hx)
  | false =>
    have hx' : x ∈ ((s.chains.get h).map Chain.idle).map fun c => { c with cnt := [0, 0, 0, 0] } := by cases h <;> exact hx
    rw [List.map_map] at hx'
    exact kind_of_mem_map (fun _ => rfl) hx'

theorem State.restartHalf_chains_other (s : State) (h : Half) (out : Bool) :
    (s.restartHalf h out).chains.get h.other = s.chains.get h.other := by
  cases out <;> cases h <;> rfl

/-- What a warm start makes of the engine's tables, before it reads the boot list. -/
structure WarmTables (s d : State) : Prop where
  img : d.img = warmImages s.img
  bnd : d.bnd = warmBindings s.bnd
  bench : d.bench = s.bench
  jr : d.jr = s.jr
  safe : d.safe = { s.safe with flush := 0, waiting := false }
  mbx : d.mbx = { s.clearMailbox.mbx with taken := ⟨s.half.w.out, s.half.e.out⟩ }
  lanes : LanesIdle d

theorem State.restartHalf_frame (s : State) (h : Half) (out : Bool) :
    s.restartHalf h out = { s with half := (s.restartHalf h out).half, lanes := (s.restartHalf h out).lanes
                                   chains := (s.restartHalf h out).chains, owed := (s.restartHalf h out).owed } := by
  cases out <;> cases h <;> rfl

theorem State.restartHalves_idle (s : State) (w e : Bool) : LanesIdle ((s.restartHalf .west w).restartHalf .east e) := by
  refine .of_reset (fun h => ?_) fun h x hx => ?_
  · rw [State.restartHalf_lanes, State.restartHalf_lanes]
    cases h <;> rfl
  · cases h with
    | east => exact State.restartHalf_kind _ .east e x hx
    | west =>
      have hw := State.restartHalf_chains_other (s.restartHalf .west w) .east e
      exact State.restartHalf_kind s .west w x (hw ▸ hx)

theorem State.warmStart_of_idle (hf : s.safe.fuseJob = none) : ∃ d, s.warmStart = d.readBootList ∧ WarmTables s d := by
  refine ⟨_, rfl, ?_⟩
  rw [State.cutFuse_idle hf]
  have hfw := s.clearMailbox.dropUncommitted.restartHalf_frame .west s.half.w.out
  have hfe := (s.clearMailbox.dropUncommitted.restartHalf .west s.half.w.out).restartHalf_frame .east s.half.e.out
  obtain ⟨b, hb⟩ : ∃ b : State, b = (s.clearMailbox.dropUncommitted.restartHalf .west s.half.w.out).restartHalf .east s.half.e.out :=
    ⟨_, rfl⟩
  have hidle : LanesIdle b := hb ▸ State.restartHalves_idle ..
  have hframe : b = { s.clearMailbox.dropUncommitted with
      half := b.half, lanes := b.lanes, chains := b.chains, owed := b.owed } := by
    rw [hb, hfe, hfw]
  have himg : b.img = s.img := by rw [hframe]; rfl
  have hbnd : b.bnd = s.bnd := by rw [hframe]; rfl
  have hbench : b.bench = s.bench := by rw [hframe]; rfl
  have hjr : b.jr = s.jr := by rw [hframe]; rfl
  have hsafe : b.safe = s.safe := by rw [hframe]; rfl
  have hmbx : b.mbx = s.clearMailbox.mbx := by rw [hframe]; rfl
  have htables : WarmTables s
      { b with
        eng := { b.eng with state := .reset, phase := .bootList, warm := true, restartDue := false, recovered := false }
        merid := Merid.reset, img := warmImages b.img, bnd := warmBindings b.bnd
        safe := { b.safe with flush := 0, waiting := false }
        level := { b.level with
          member := false, alone := false, delay := none, ready := false, formed := false
          joining := (b.level.members.filter fun x => x.inBarrier || b.level.joining.contains x.position).map (·.position)
          members := b.level.members.map fun x => { x with inBarrier := false } }
        mbx := { b.mbx with taken := ⟨s.half.w.out, s.half.e.out⟩ } } :=
    { img := congrArg warmImages himg
      bnd := congrArg warmBindings hbnd
      bench := hbench
      jr := hjr
      safe := congrArg (fun x : SafeSt => { x with flush := 0, waiting := false }) hsafe
      mbx := congrArg (fun x : MbxSt => { x with taken := ⟨s.half.w.out, s.half.e.out⟩ }) hmbx
      lanes := hidle.congr rfl rfl }
  rw [hb] at htables
  exact htables

/-- A warm start keeps what it does not name. -/
structure WarmStarted (s t : State) : Prop where
  img : t.img = warmImages s.img
  bnd : t.bnd = warmBindings s.bnd
  bench : t.bench = s.bench
  jr : t.jr = s.jr
  fuses : t.safe.fuses = s.safe.fuses
  warn : t.safe.warn = s.safe.warn
  mbx : t.mbx = { s.clearMailbox.mbx with taken := ⟨s.half.w.out, s.half.e.out⟩ }
  lanes : LanesIdle t

theorem State.warmStart_started (hf : s.safe.fuseJob = none) : WarmStarted s s.warmStart := by
  obtain ⟨d, hd, htab⟩ := State.warmStart_of_idle hf
  obtain ⟨hframe, -, hfuses, hwarn⟩ := d.readBootList_frame
  rw [hd]
  exact
    { img := by rw [hframe]; exact htab.img
      bnd := by rw [hframe]; exact htab.bnd
      bench := by rw [hframe]; exact htab.bench
      jr := by rw [hframe]; exact htab.jr
      fuses := by rw [hfuses, htab.safe]
      warn := by rw [hwarn, htab.safe]
      mbx := by rw [State.readBootList_mbx, htab.mbx]
      lanes := htab.lanes.congr (by rw [hframe]) (by rw [hframe]) }

/-! ### The restart that was decided -/

/-- Where nothing is being created or swapped, a warm restart drops no image by itself. -/
theorem State.warmAgain_of_rest (hb : ∀ b ∈ s.bnd.vals, b.state ≠ .loading ∧ b.newSet = none) : s.warmAgain = s.warmStart := by
  have hnone : (s.bnd.vals.flatMap fun b =>
      (if b.state = .loading then b.set.digests else []) ++ (b.newSet.map fun n => n.1.digests).getD []) = [] := by
    rw [List.flatMap_eq_nil_iff]
    intro b hm
    obtain ⟨hl, hn⟩ := hb b hm
    simp [hl, hn]
  unfold State.warmAgain
  rw [hnone]
  rfl

theorem Tab.get?_mapVals {α : Type} (t : Tab α) (f : α → α) (n : Nat) : (t.mapVals f).get? n = (t.get? n).map f := by
  induction t with
  | nil => rfl
  | cons p t ih =>
    show (if p.1 = n then some (f p.2) else (Tab.mapVals t f).get? n) = (if p.1 = n then some p.2 else Tab.get? t n).map f
    split
    · rfl
    · exact ih

/-- The halves as a warm restart takes them, once no thermal hold keeps them. -/
def State.cooled (s : State) : State :=
  { s with half := s.half.map fun x => { x with hold := false, hot := 0, code := if x.hold then .inReset else x.code } }

theorem warmRestart_keeps (hd : s.eng.restartDue = true) (hw : s.half.w.hold = false) (he : s.half.e.hold = false)
    (hf : s.safe.fuseJob = none) (hb : ∀ b ∈ s.bnd.vals, b.state ≠ .loading ∧ b.newSet = none) :
    Completes .warmRestart s fun t =>
      t.eng.state = .reset ∧ t.eng.warm = true ∧ t.eng.phase = .bootList ∧ t.eng.restartDue = false ∧
      t.eng.strict = s.eng.strict ∧ t.eng.pcapW = s.eng.pcapW ∧ t.eng.pcapE = s.eng.pcapE ∧ t.safe.fuses = s.safe.fuses ∧
      LanesIdle t ∧ t.img = warmImages s.img ∧ t.bnd = warmBindings s.bnd ∧ t.bench = s.bench ∧
      (∀ n r, s.rt.get? n = some r → ∃ q, t.rt.get? n = some q ∧ q.rel = r.rel ∧ q.state = r.state ∧ q.adm = none) ∧
      (∀ n, n < 255 → t.lastOf n = 0 ∧ t.jobOf n = none) ∧ t.lastOf 255 = s.lastOf 255 := by
  have hexec : exec .warmRestart s = .next s.cooled.warmAgain :=
    congrArg Host.Outcome.next (if_pos (by simp [hd, hw, he]))
  have hwarm : s.cooled.warmAgain = s.cooled.warmStart := State.warmAgain_of_rest hb
  have hst := State.warmStart_started (s := s.cooled) hf
  have heng : s.cooled.warmStart.eng =
      { s.eng with state := .reset, phase := .bootList, warm := true, restartDue := false, recovered := false } :=
    s.cooled.warmStart_eng
  have hrt : s.cooled.warmStart.rt = s.rt.mapVals Route.uncommitted := s.cooled.warmStart_rt
  have hlast (n : Nat) : s.cooled.warmStart.lastOf n = s.clearMailbox.lastOf n := by rw [State.lastOf, hst.mbx]; rfl
  have hjob (n : Nat) : s.cooled.warmStart.jobOf n = s.clearMailbox.jobOf n := by rw [State.jobOf, hst.mbx]; rfl
  refine ⟨_, hexec, ?_⟩
  rw [hwarm]
  dsimp only
  rw [heng]
  refine ⟨rfl, rfl, rfl, rfl, rfl, rfl, rfl, hst.fuses, hst.lanes, hst.img, hst.bnd, hst.bench, fun n r hr => ?_,
    fun n hn => ⟨?_, ?_⟩, ?_⟩
  · exact ⟨r.uncommitted, by rw [hrt, Tab.get?_mapVals, hr]; rfl, rfl, rfl, rfl⟩
  · rw [hlast, State.lastOf_clearMailbox, if_neg (by omega)]
  · rw [hjob, State.jobOf_clearMailbox hn]
  · rw [hlast, State.lastOf_clearMailbox, if_pos rfl]

theorem commonCauseFault_halts (hoff : s.eng.state ≠ .off) (hres : s.eng.state ≠ .reset) (hj : s.mbx.jobs = []) (hw : s.mbx.waits = []) :
    Completes .commonCauseFault s fun t =>
      t.eng = { s.eng with state := .halt, restartDue := true } ∧ LanesIdle t ∧ t.level.withdrawn = true ∧ t.level.ready = false ∧
      (t.mbx, t.half, t.img, t.bnd, t.bench) = (s.mbx, s.half, s.img, s.bnd, s.bench) := by
  obtain ⟨ow, lv, hh, hwd, hrd⟩ := State.enterHalt_of_idle hj hw
  have hexec : exec .commonCauseFault s = .next s.commonCause := congrArg Host.Outcome.next (if_neg (by simp [hoff, hres]))
  have hcause : s.commonCause = { s.quieted ow lv with eng := { (s.quieted ow lv).eng with restartDue := true } } := by
    unfold State.commonCause
    rw [hh]
  refine ⟨_, hexec, ?_⟩
  rw [hcause]
  exact ⟨rfl, ⟨fun g l hl => s.quieted_lanes ow lv g l hl, fun g c => s.quieted_chain_up ow lv g c⟩, hwd, hrd, rfl⟩

end Sys2Proof.Machine

open Sys2Proof Sys2Proof.Machine

/-- Settles O44: the fault halts the engine as `engine.halt` does; the restart is a warm start, which drops no image where no
creation and no swap runs. -/
theorem warmRestarts : Obligations.WarmRestarts := by
  intro s
  exact ⟨commonCauseFault_halts, warmRestart_keeps⟩

end

section
/-! Supply warnings: what they hold, where the journal goes, and what their release begins (15 R378-R381). -/
namespace Sys2Proof.Machine

variable {s : State}

/-! ### Commands of class E that have not committed -/

theorem State.undoJob_frame (s : State) (j : Job) : ∃ B R, s.undoJob j = { s with bnd := B, rt := R } := by
  unfold State.undoJob
  split
  · split
    · split <;> exact ⟨_, _, rfl⟩
    · exact ⟨_, _, rfl⟩
  · split
    · split
      · split <;> exact ⟨_, _, rfl⟩
      · exact ⟨_, _, rfl⟩
    · split
      · split <;> exact ⟨_, _, rfl⟩
      · exact ⟨_, _, rfl⟩

/-- Commands go back to where they were before they were noticed: what they had begun in bindings and routes is undone, and the
commands of their slots are gone. -/
structure SentBack (s : State) (slots : List Nat) (t : State) : Prop where
  frame : ∃ M B R, t = { s with mbx := { s.mbx with jobs := s.mbx.jobs.filter fun k => !slots.contains k.slot }
                                mi := M, bnd := B, rt := R }

theorem State.restartJob_sentBack {slots : List Nat} {t : State} (h : SentBack s slots t) (j : Job) :
    SentBack s (slots ++ [j.slot]) (t.restartJob j) := by
  obtain ⟨M, B, R, rfl⟩ := h.frame
  obtain ⟨B', R', hu⟩ := State.undoJob_frame
    { s with mbx := { s.mbx with jobs := s.mbx.jobs.filter fun k => !slots.contains k.slot }, mi := M, bnd := B, rt := R } j
  unfold State.restartJob
  rw [hu]
  refine ⟨M.filter fun a => a.notOf j.slot, B', R', ?_⟩
  dsimp only
  rw [List.filter_filter]
  have hp : (fun k : Job => (k.slot != j.slot) && !slots.contains k.slot) = fun k => !(slots ++ [j.slot]).contains k.slot := by
    funext k
    simp only [List.contains_append, List.contains_cons, List.contains_nil, Bool.or_false, Bool.not_or, bne, Bool.and_comm]
  rw [hp]

theorem State.restartJobs_sentBack (js : List Job) : ∀ (slots : List Nat) (t : State), SentBack s slots t →
    SentBack s (slots ++ js.map (·.slot)) (js.foldl (fun t j => t.restartJob j) t) := by
  induction js with
  | nil => intro slots t h; simpa using h
  | cons j js ih =>
    intro slots t h
    have := ih _ _ (State.restartJob_sentBack h j)
    simpa using this

/-- No command of class E that has not committed is left (15 R378). -/
theorem State.holdCommands_holds (s : State) : ∃ J M B R, s.holdCommands =
      { s with mbx := { s.mbx with jobs := J }, mi := M, bnd := B, rt := R } ∧
    (∀ j ∈ J, classE j.code = true → j.committed = true) := by
  have hjobs : (s.mbx.jobs.filter fun k => !([] : List Nat).contains k.slot) = s.mbx.jobs := List.filter_eq_self.2 fun _ _ => rfl
  have hself : SentBack s [] s := ⟨s.mi, s.bnd, s.rt, by rw [hjobs]⟩
  obtain ⟨M, B, R, h⟩ := (State.restartJobs_sentBack (s.mbx.jobs.filter fun j => classE j.code && !j.committed) [] s hself).frame
  refine ⟨_, M, B, R, h, fun j hj he => ?_⟩
  obtain ⟨hm, hno⟩ := List.mem_filter.1 hj
  refine Decidable.byContradiction fun hc => ?_
  have hin : j.slot ∈ (s.mbx.jobs.filter fun j => classE j.code && !j.committed).map (·.slot) :=
    List.mem_map.2 ⟨j, List.mem_filter.2 ⟨hm, by simp [he, hc]⟩, rfl⟩
  simp [hin] at hno

theorem State.holdCommands_of_idle (hj : s.mbx.jobs = []) : s.holdCommands = s := by
  unfold State.holdCommands
  rw [hj]
  rfl

/-! ### The warning -/

/-- Where a warning stands before it sees to the journal: nothing that has not committed is left. -/
def State.atWarning (s : State) : State :=
  let a := s.holdCommands.dropUncommitted
  { a with safe := { a.safe with warn := true } }

structure Warned (s t : State) : Prop where
  eng : t.eng = s.eng
  img : t.img = s.img
  bench : t.bench = s.bench
  jr : t.jr = s.jr
  safe : t.safe = { s.safe with warn := true }
  links : ∀ h, (t.hs h).safeUp = (s.hs h).safeUp ∧ (t.hs h).heartbeat = (s.hs h).heartbeat
  waiting : ∀ h, (t.hs h).waiting = []
  routes : ∀ r ∈ t.rt.vals, r.adm = none
  jobs : ∀ j ∈ t.mbx.jobs, classE j.code = true → j.committed = true
  idle : s.mbx.jobs = [] → (t.mbx, t.bnd, t.mi) = (s.mbx, s.bnd, s.mi)

theorem State.atWarning_warned (s : State) : Warned s s.atWarning := by
  obtain ⟨J, M, B, R, hh, hjobs⟩ := s.holdCommands_holds
  have hidle : s.mbx.jobs = [] → (s.atWarning.mbx, s.atWarning.bnd, s.atWarning.mi) = (s.mbx, s.bnd, s.mi) := fun hj => by
    unfold State.atWarning
    rw [State.holdCommands_of_idle hj]
    rfl
  have hw : s.atWarning = ({ s with
      mbx := { s.mbx with jobs := J }, mi := M, bnd := B, rt := R, safe := { s.safe with warn := true } } : State).dropUncommitted := by
    unfold State.atWarning
    rw [hh]
    rfl
  exact
    { eng := by rw [hw]; rfl
      img := by rw [hw]; rfl
      bench := by rw [hw]; rfl
      jr := by rw [hw]; rfl
      safe := by rw [hw]; rfl
      links := fun h => by rw [hw]; cases h <;> exact ⟨rfl, rfl⟩
      waiting := fun h => by rw [hw]; cases h <;> rfl
      routes := by rw [hw]; exact Tab.adm_mapVals_uncommitted R
      jobs := by rw [hw]; exact hjobs
      idle := hidle }

/-- What a warning does with the journal of an engine that holds one (15 R379). -/
def State.warnJournal (b : State) : State :=
  match b.safe.target with
  | some g =>
    let f := Flush.of g (newest b.jr.unflushed) b.jr.next
    let t : State := { b with jr := { b.jr with warn := some f }, safe := { b.safe with flush := 1 } }
    t.miWrite t.survivor g.addr (flushHeader false f b.eng.serial ++ (newest b.jr.unflushed).flatMap JRec.bytes) .warnFlush
  | none =>
    let t := b.log engineSide 0 0x000E 0 0 []
    { t with safe := { t.safe with flush := 3 } }

theorem State.warnJournal_frame (b : State) :
    b.warnJournal = { b with jr := b.warnJournal.jr, safe := b.warnJournal.safe, mi := b.warnJournal.mi } := by
  unfold State.warnJournal
  split
  · rfl
  · dsimp only
    rw [State.log_eq]

theorem State.warnJournal_warn (b : State) : b.warnJournal.safe.warn = b.safe.warn := by
  unfold State.warnJournal
  split
  · rfl
  · dsimp only
    unfold State.log
    split <;> rfl

theorem State.warnJournal_without {b : State} (ht : b.safe.target = none) :
    b.warnJournal.safe.flush = 3 ∧ b.warnJournal.mi = b.mi ∧
      b.warnJournal.safe.events = (b.log engineSide 0 0x000E 0 0 []).safe.events := by
  unfold State.warnJournal
  rw [ht]
  exact ⟨rfl, State.log_mi .., rfl⟩

theorem State.warnJournal_to {b : State} {g : Region} (ht : b.safe.target = some g) :
    b.warnJournal.safe.flush = 1 ∧ b.warnJournal.jr.warn = some (Flush.of g (newest b.jr.unflushed) b.jr.next) ∧
      ∃ n, b.warnJournal.mi = b.mi ++ [⟨b.survivor, freeTag b.mi b.survivor, true, g.addr, n,
        flushHeader false (Flush.of g (newest b.jr.unflushed) b.jr.next) b.eng.serial ++ (newest b.jr.unflushed).flatMap JRec.bytes,
        .warnFlush, false⟩] := by
  unfold State.warnJournal
  rw [ht]
  exact ⟨rfl, rfl, _, rfl⟩

theorem State.ringHeld_of_warned {b : State} (h : b.eng.state = .service ∨ b.eng.state = .reset ∧ b.eng.warm = true ∧ b.eng.coreRst = false) :
    b.ringHeld = true := by
  rcases h with h | ⟨h, hw, hc⟩
  · simp [State.ringHeld, State.journals, h]
  · simp [State.ringHeld, h, hw, hc]

theorem supplyWarnN_runs (hw : s.safe.warn = false) (hf : s.safe.fuseJob = none)
    (hst : s.eng.state = .service ∨ s.eng.state = .reset ∧ s.eng.warm = true ∧ s.eng.coreRst = false) :
    exec .supplyWarnN s = .next ((s.atWarning.warnJournal.idleLanes .west).idleLanes .east).withdraw := by
  have hcut : s.cutBurn = s := by
    unfold State.cutBurn
    rw [hf]
  have hring : s.atWarning.ringHeld = true := State.ringHeld_of_warned (by rw [s.atWarning_warned.eng]; exact hst)
  refine congrArg Host.Outcome.next ((if_neg (by simp [hw])).trans ?_)
  rw [hcut]
  refine congrArg (fun x : State => ((x.idleLanes .west).idleLanes .east).withdraw) ?_
  show (match s.atWarning.safe.target with
    | some g => if s.atWarning.ringHeld then _ else s.atWarning
    | none => if s.atWarning.ringHeld then _ else s.atWarning) = s.atWarning.warnJournal
  unfold State.warnJournal
  cases s.atWarning.safe.target with
  | none => exact if_pos hring
  | some g => exact if_pos hring

theorem supplyWarnN_flushes (hw : s.safe.warn = false) (hf : s.safe.fuseJob = none)
    (hst : s.eng.state = .service ∨ s.eng.state = .reset ∧ s.eng.warm = true ∧ s.eng.coreRst = false) :
    Completes .supplyWarnN s fun t =>
      t.safe.warn = true ∧ LanesIdle t ∧ (∀ r ∈ t.rt.vals, r.adm = none) ∧ t.level.withdrawn = true ∧ t.level.ready = false ∧
      (∀ h, (t.hs h).waiting = []) ∧ (∀ j ∈ t.mbx.jobs, classE j.code = true → j.committed = true) ∧
      (s.safe.target = none → t.safe.flush = 3 ∧ (s.mbx.jobs = [] → t.mi = s.mi) ∧
        t.safe.events = (s.log engineSide 0 0x000E 0 0 []).safe.events) ∧
      (∀ g, s.safe.target = some g → ∀ l, l = newest s.jr.unflushed → ∀ f, f = Flush.of g l s.jr.next →
        t.safe.flush = 1 ∧ t.jr.warn = some f ∧
        ∃ a m, t.mi = m ++ [a] ∧ (s.mbx.jobs = [] → m = s.mi) ∧ a.write = true ∧ a.addr = g.addr ∧ a.purpose = .warnFlush ∧
          a.data = flushHeader false f s.eng.serial ++ l.flatMap JRec.bytes) ∧
      (t.eng, t.img, t.bench) = (s.eng, s.img, s.bench) ∧ (s.mbx.jobs = [] → (t.mbx, t.bnd) = (s.mbx, s.bnd)) := by
  have hb := s.atWarning_warned
  have hrun := supplyWarnN_runs hw hf hst
  obtain ⟨b, hdef⟩ : ∃ b, b = s.atWarning := ⟨_, rfl⟩
  rw [← hdef] at hb hrun
  have hframe := b.warnJournal_frame
  have hwarn := b.warnJournal_warn
  obtain ⟨w, hwd⟩ : ∃ w, w = b.warnJournal := ⟨_, rfl⟩
  rw [← hwd] at hrun hframe hwarn
  obtain ⟨lv, hlv, hout, hready⟩ := ((w.idleLanes .west).idleLanes .east).withdraw_eq
  have hlanes := w.idle_lanesIdle
  rw [hlv] at hrun
  have hsafe : w.safe.warn = true := by rw [hwarn, hb.safe]
  have heng : w.eng = s.eng := by rw [hframe]; exact hb.eng
  have hidle := hb.idle
  refine ⟨_, hrun, hsafe, hlanes.congr rfl rfl, ?_, hout, hready, fun h => ?_, ?_, fun ht => ?_, fun g ht l hl f hfl => ?_, ?_, fun hj => ?_⟩
  · show ∀ r ∈ w.rt.vals, r.adm = none
    rw [hframe]
    exact hb.routes
  · have : (w.hs h).waiting = [] := by rw [hframe]; exact hb.waiting h
    cases h <;> exact this
  · show ∀ j ∈ w.mbx.jobs, _
    rw [hframe]
    exact hb.jobs
  · have htar : b.safe.target = none := by rw [hb.safe]; exact ht
    have hjn := State.warnJournal_without htar
    rw [← hwd] at hjn
    obtain ⟨hfl, hmi, hev⟩ := hjn
    refine ⟨hfl, fun hj => ?_, ?_⟩
    · have := hidle hj
      simp only [Prod.mk.injEq] at this
      exact hmi.trans this.2.2
    · refine hev.trans ?_
      rw [State.log_events, State.log_events, State.logger_of_link (fun h => (hb.links h).1) fun h => (hb.links h).2, hb.safe]
  · have htar : b.safe.target = some g := by rw [hb.safe]; exact ht
    have hjn := State.warnJournal_to htar
    rw [← hwd, hb.jr, hb.eng, ← hl, ← hfl] at hjn
    obtain ⟨hfs, hjw, n, hmi⟩ := hjn
    refine ⟨hfs, hjw, _, b.mi, hmi, fun hj => ?_, rfl, rfl, rfl, rfl⟩
    have := hidle hj
    simp only [Prod.mk.injEq] at this
    exact this.2.2
  · show (w.eng, w.img, w.bench) = _
    rw [heng, ← hb.img, ← hb.bench, hframe]
  · have := hidle hj
    simp only [Prod.mk.injEq] at this
    obtain ⟨hm, hbd, -⟩ := this
    show (w.mbx, w.bnd) = _
    rw [← hm, ← hbd, hframe]

/-! ### Its release -/

theorem supplyWarnNRelease_ends (hw : s.safe.warn = true) : exec (.supplyWarnNRelease false) s =
    .next { s with safe := { s.safe with warn := false }, jr := { s.jr with warn := none } } :=
  congrArg Host.Outcome.next (if_pos hw)

theorem State.dropIfFree_rest (s : State) (d : Digest) :
    ((s.dropIfFree d).eng, (s.dropIfFree d).jr, (s.dropIfFree d).safe, (s.dropIfFree d).bench) = (s.eng, s.jr, s.safe, s.bench) := by
  have hd : ((s.dropUnnamed d).eng, (s.dropUnnamed d).jr, (s.dropUnnamed d).safe, (s.dropUnnamed d).bench) =
      (s.eng, s.jr, s.safe, s.bench) := by
    rw [State.dropUnnamed_eq]
  unfold State.dropIfFree
  dsimp only
  split
  · exact hd
  · split
    · exact hd
    · exact hd

theorem State.dropFree_rest (s : State) (ds : List Digest) :
    ((s.dropFree ds).eng, (s.dropFree ds).jr, (s.dropFree ds).safe, (s.dropFree ds).bench) = (s.eng, s.jr, s.safe, s.bench) :=
  List.foldlRecOn ds State.dropIfFree (motive := fun t => (t.eng, t.jr, t.safe, t.bench) = (s.eng, s.jr, s.safe, s.bench)) rfl
    fun t h d _ => (t.dropIfFree_rest d).trans h

theorem supplyWarnNRelease_restarts (hw : s.safe.warn = true) (hoff : s.eng.state ≠ .off) (hres : s.eng.state ≠ .reset)
    (hf : s.safe.fuseJob = none) :
    Completes (.supplyWarnNRelease true) s fun t =>
      t.safe.warn = false ∧ t.jr.warn = none ∧ t.eng.state = .reset ∧ t.eng.warm = true ∧ t.eng.phase = .bootList ∧
      t.bench = s.bench ∧ t.safe.fuses = s.safe.fuses := by
  obtain ⟨a, ha⟩ : ∃ a : State, a = { s with safe := { s.safe with warn := false }, jr := { s.jr with warn := none } } := ⟨_, rfl⟩
  have hexec : exec (.supplyWarnNRelease true) s = .next a.warmAgain := by
    rw [ha]
    exact congrArg Host.Outcome.next ((if_pos hw).trans (if_pos (by simp [hoff, hres])))
  have hst : WarmStarted a a.warmStart := State.warmStart_started (by rw [ha]; exact hf)
  have heng := a.warmStart_eng
  have hrest : (a.warmAgain.eng, a.warmAgain.jr, a.warmAgain.safe, a.warmAgain.bench) =
      (a.warmStart.eng, a.warmStart.jr, a.warmStart.safe, a.warmStart.bench) := State.dropFree_rest ..
  simp only [Prod.mk.injEq] at hrest
  obtain ⟨he, hj, hs, hb⟩ := hrest
  refine ⟨_, hexec, ?_, ?_, by rw [he, heng], by rw [he, heng], by rw [he, heng], ?_, ?_⟩
  · rw [hs, hst.warn, ha]
  · rw [hj, hst.jr, ha]
  · rw [hb, hst.bench, ha]
  · rw [hs, hst.fuses, ha]

end Sys2Proof.Machine

open Sys2Proof Sys2Proof.Machine

/-- Settles O45: the warning by what it leaves before it sees to the journal; its release is a warm start. -/
theorem supplyWarnings : Obligations.SupplyWarnings := by
  intro s
  exact ⟨supplyWarnN_flushes, fun hw => ⟨supplyWarnNRelease_ends hw, supplyWarnNRelease_restarts hw⟩⟩

end

section
/-! Refresh and scrub: what a parity error changes, and the regions that are loaded again (09 R202-R206; 06 R134, R147; 13 R303). -/
namespace Sys2Proof.Machine

variable {s : State} {h : Half}

theorem State.onHalf_onHalf (s : State) (h : Half) (f g : HalfSt → HalfSt) :
    (s.onHalf h f).onHalf h g = s.onHalf h fun x => g (f x) := by
  cases h <;> rfl

theorem State.onHalf_congr {f g : HalfSt → HalfSt} (hfg : f (s.hs h) = g (s.hs h)) : s.onHalf h f = s.onHalf h g := by
  unfold State.onHalf Halves.modify
  exact congrArg (fun x => { s with half := s.half.set h x }) hfg

theorem State.onHalf_restored (s : State) (h : Half) (f : HalfSt → HalfSt) : { s.onHalf h f with half := s.half } = s := rfl

theorem State.countFault_hs (s : State) (h : Half) (i n : Nat) :
    (s.countFault h i n).hs h = { s.hs h with faults := bump (s.hs h).faults i n } := State.onHalf_hs ..

/-! ### Columns and groups -/

theorem seeColumn_new {now : Nat} {c : Column} {l : List ColSeen} (hl : ∀ x ∈ l, x.col ≠ c) :
    seeColumn now c l = l ++ [⟨c, [now]⟩] := by
  induction l with
  | nil => rfl
  | cons x l ih =>
    rw [seeColumn, if_neg (hl x (List.mem_cons_self ..)), ih fun y hy => hl y (List.mem_cons_of_mem _ hy)]
    rfl

theorem timesSeen_new {now : Nat} {c : Column} {l : List ColSeen} (hl : ∀ x ∈ l, x.col ≠ c) :
    timesSeen c (l ++ [⟨c, [now]⟩]) = 1 := by
  have hnone : l.find? (fun x => x.col == c) = none := List.find?_eq_none.2 fun x hx => by simp [hl x hx]
  simp [timesSeen, List.find?_append, hnone]

theorem filter_columns_new {now : Nat} {c : Column} {l : List ColSeen} (hl : ∀ x ∈ l, x.col ≠ c) :
    (l ++ [(⟨c, [now]⟩ : ColSeen)]).filter (fun y => y.col != c) = l := by
  have hself : l.filter (fun y => y.col != c) = l := List.filter_eq_self.2 fun x hx => by simp [hl x hx]
  simp [List.filter_append, hself]

theorem HalfSt.setGroup_groupLeft (x : HalfSt) (e : ColErr) (n : Nat) : (x.setGroup e n).groupLeft e = n := by
  have hnone : (x.groups.filter fun y => !(y.tray == e.tray && y.bank == e.bank.toNat && y.group == e.column.toNat / 512)).find?
      (fun g => g.tray == e.tray && g.bank == e.bank.toNat && g.group == e.column.toNat / 512) = none :=
    List.find?_eq_none.2 fun g hg => by
      simpa only [Bool.not_eq_true', Bool.not_eq_true] using (List.mem_filter.1 hg).2
  simp only [HalfSt.groupLeft, HalfSt.setGroup, List.find?_append, hnone]
  simp

theorem HalfSt.groupLeft_congr {x y : HalfSt} (hg : x.groups = y.groups) (e : ColErr) : x.groupLeft e = y.groupLeft e := by
  unfold HalfSt.groupLeft
  rw [hg]

theorem HalfSt.loseTray_groups (x : HalfSt) (b : Nat) : (x.loseTray b).groups = x.groups := by
  unfold HalfSt.loseTray
  dsimp only
  split
  · rfl
  · split <;> rfl

theorem HalfSt.loseTray_pendingRepairs (x : HalfSt) (b : Nat) : (x.loseTray b).pendingRepairs = x.pendingRepairs := by
  unfold HalfSt.loseTray
  dsimp only
  split
  · rfl
  · split <;> rfl

theorem HalfSt.loseTray_trays {x y : HalfSt} (ht : x.trays = y.trays) (b : Nat) : (x.loseTray b).trays = (y.loseTray b).trays := by
  unfold HalfSt.loseTray HalfSt.clear
  dsimp only
  rw [ht]
  split
  · rfl
  · split <;> rfl

/-! ### One error of a refresh -/

/-- An error at a column that was not seen before is counted, and the column remembered (09 R203). -/
def HalfSt.sawColumn (x : HalfSt) (now : Nat) (e : ColErr) : HalfSt :=
  { x with faults := bump x.faults 0 1, colErrs := x.colErrs ++ [⟨columnOf e, [now]⟩] }

/-- A column is repaired: it is forgotten, one redundant column of its group is gone, and the repair is to be burnt (09 R204). -/
def HalfSt.repairedColumn (x : HalfSt) (e : ColErr) : HalfSt :=
  ({ x with faults := bump x.faults 6 1, pendingRepairs := x.pendingRepairs ++ [columnOf e] } : HalfSt).setGroup e (x.groupLeft e - 1)

def HalfSt.forgetColumn (x : HalfSt) (c : Column) : HalfSt := { x with colErrs := x.colErrs.filter fun y => y.col != c }

theorem State.sawColumn_eq {e : ColErr} (hnew : ∀ x ∈ (s.hs h).colErrs, x.col ≠ columnOf e) :
    ((s.countFault h 0 1).onHalf h fun x => { x with colErrs := seeColumn s.time.toNat (columnOf e) x.colErrs }) =
      s.onHalf h fun x => x.sawColumn s.time.toNat e := by
  unfold State.countFault
  rw [State.onHalf_onHalf]
  exact State.onHalf_congr (congrArg (fun l => { s.hs h with faults := bump (s.hs h).faults 0 1, colErrs := l }) (seeColumn_new hnew))

theorem State.columnSeen_once {e : ColErr} (hnew : ∀ x ∈ (s.hs h).colErrs, x.col ≠ columnOf e) (hp : e.persists = false) :
    s.columnSeen h e = s.onHalf h fun x => x.sawColumn s.time.toNat e := by
  unfold State.columnSeen
  dsimp only
  rw [State.sawColumn_eq hnew, State.onHalf_hs]
  exact if_neg (by simp [hp, HalfSt.sawColumn, timesSeen_new hnew])

theorem State.columnSeen_persisting {e : ColErr} (hnew : ∀ x ∈ (s.hs h).colErrs, x.col ≠ columnOf e) (hp : e.persists = true) :
    s.columnSeen h e =
      ((s.onHalf h fun x => x.sawColumn s.time.toNat e).softRepair h e).onHalf h fun x => x.forgetColumn (columnOf e) := by
  unfold State.columnSeen
  dsimp only
  rw [State.sawColumn_eq hnew]
  exact if_pos (by simp [hp])

theorem State.softRepair_repairs {e : ColErr} (hn : 1 ≤ (s.hs h).groupLeft e) (hpen : columnOf e ∉ (s.hs h).pendingRepairs)
    (hb : columnOf e ∉ (s.hs h).burnt) : s.softRepair h e = s.onHalf h fun x => x.repairedColumn e := by
  unfold State.softRepair
  dsimp only
  rw [if_neg (by omega), if_neg (by simp [hpen, hb])]
  unfold State.countFault
  rw [State.onHalf_onHalf]
  cases h <;> rfl

theorem State.softRepair_losesTray {e : ColErr} (hn : (s.hs h).groupLeft e = 0) (ht : e.tray = true) :
    s.softRepair h e = s.onHalf h fun x => (x.setGroup e 0).loseTray e.bank.toNat := by
  unfold State.softRepair
  dsimp only
  rw [if_pos hn, if_pos ht, State.onHalf_onHalf]

/-- A refresh that finds one error at a word that only forms again. -/
theorem refresh_formed {e : ColErr} (hj : s.mbx.jobs = []) (ho : e.owner = .formed) (hm : (s.columnSeen h e).mbx = s.mbx) :
    exec (.refresh h [e]) s = .next (s.columnSeen h e) := by
  have hc : s.columnError h e = s.columnSeen h e := by
    unfold State.columnError
    rw [ho]
    rfl
  show Host.Outcome.next (s.columnError h e).stepEnded = _
  rw [hc, State.stepEnded_eq_self (by rw [hm, hj])]

theorem satAdd_bump {l : List Nat} {i n : Nat} (hi : i < l.length) : (bump l i n).getD i 0 = satAdd (l.getD i 0) n := by
  simp [bump, List.getD_eq_getElem?_getD, hi]

theorem bump_getD_of_ne {l : List Nat} {i k n : Nat} (hk : i ≠ k) : (bump l i n).getD k 0 = l.getD k 0 := by
  simp [bump, List.getD_eq_getElem?_getD, List.getElem?_set_ne hk]

theorem refresh_once {e : ColErr} (hj : s.mbx.jobs = []) (hlen : 6 < (s.hs h).faults.length)
    (hnew : ∀ x ∈ (s.hs h).colErrs, x.col ≠ columnOf e) (ho : e.owner = .formed) (hp : e.persists = false) :
    Completes (.refresh h [e]) s fun t =>
      (t.hs h).pendingRepairs = (s.hs h).pendingRepairs ∧
      (t.hs h).colErrs = (s.hs h).colErrs ++ [⟨columnOf e, [s.time.toNat]⟩] ∧
      (t.hs h).faults.getD 0 0 = satAdd ((s.hs h).faults.getD 0 0) 1 ∧ t.hs h.other = s.hs h.other ∧
      { t with half := s.half } = s := by
  have hseen := State.columnSeen_once hnew hp
  refine ⟨_, refresh_formed hj ho (by rw [hseen]; rfl), ?_⟩
  rw [hseen]
  refine ⟨by rw [State.onHalf_hs]; rfl, by rw [State.onHalf_hs]; rfl, ?_, State.onHalf_other .., rfl⟩
  rw [State.onHalf_hs]
  exact satAdd_bump (by omega)

theorem refresh_repairs {e : ColErr} (hj : s.mbx.jobs = []) (hlen : 6 < (s.hs h).faults.length)
    (hnew : ∀ x ∈ (s.hs h).colErrs, x.col ≠ columnOf e) (ho : e.owner = .formed) (hp : e.persists = true)
    (hn : 1 ≤ (s.hs h).groupLeft e) (hpen : columnOf e ∉ (s.hs h).pendingRepairs) (hb : columnOf e ∉ (s.hs h).burnt) :
    Completes (.refresh h [e]) s fun t =>
      (t.hs h).pendingRepairs = (s.hs h).pendingRepairs ++ [columnOf e] ∧ (t.hs h).colErrs = (s.hs h).colErrs ∧
      (t.hs h).groupLeft e = (s.hs h).groupLeft e - 1 ∧
      (t.hs h).faults.getD 6 0 = satAdd ((s.hs h).faults.getD 6 0) 1 ∧ t.hs h.other = s.hs h.other ∧
      { t with half := s.half } = s := by
  have hseen : s.columnSeen h e =
      s.onHalf h fun x => ((x.sawColumn s.time.toNat e).repairedColumn e).forgetColumn (columnOf e) := by
    rw [State.columnSeen_persisting hnew hp, State.softRepair_repairs (by rw [State.onHalf_hs]; exact hn)
      (by rw [State.onHalf_hs]; exact hpen) (by rw [State.onHalf_hs]; exact hb), State.onHalf_onHalf, State.onHalf_onHalf]
  refine ⟨_, refresh_formed hj ho (by rw [hseen]; rfl), ?_⟩
  rw [hseen]
  have hhs := s.onHalf_hs h fun x => ((x.sawColumn s.time.toNat e).repairedColumn e).forgetColumn (columnOf e)
  refine ⟨by rw [hhs]; rfl, ?_, ?_, ?_, State.onHalf_other .., rfl⟩
  · rw [hhs]
    exact filter_columns_new hnew
  · rw [hhs]
    exact HalfSt.setGroup_groupLeft ..
  · rw [hhs]
    have h6 : 6 < (bump (s.hs h).faults 0 1).length := by simpa [bump] using hlen
    exact (satAdd_bump h6).trans (congrArg (satAdd · 1) (bump_getD_of_ne (by decide)))

theorem refresh_losesTray {e : ColErr} (hj : s.mbx.jobs = []) (hnew : ∀ x ∈ (s.hs h).colErrs, x.col ≠ columnOf e)
    (ho : e.owner = .formed) (hp : e.persists = true) (hn : (s.hs h).groupLeft e = 0) (ht : e.tray = true) :
    Completes (.refresh h [e]) s fun t =>
      (t.hs h).trays = ((s.hs h).loseTray e.bank.toNat).trays ∧ (t.hs h).groupLeft e = 0 ∧
      (t.hs h).pendingRepairs = (s.hs h).pendingRepairs ∧ t.hs h.other = s.hs h.other ∧ { t with half := s.half } = s := by
  have hseen : s.columnSeen h e = s.onHalf h fun x =>
      (((x.sawColumn s.time.toNat e).setGroup e 0).loseTray e.bank.toNat).forgetColumn (columnOf e) := by
    rw [State.columnSeen_persisting hnew hp, State.softRepair_losesTray (by rw [State.onHalf_hs]; exact hn) ht,
      State.onHalf_onHalf, State.onHalf_onHalf]
  refine ⟨_, refresh_formed hj ho (by rw [hseen]; rfl), ?_⟩
  rw [hseen]
  have hhs := s.onHalf_hs h fun x =>
    (((x.sawColumn s.time.toNat e).setGroup e 0).loseTray e.bank.toNat).forgetColumn (columnOf e)
  refine ⟨?_, ?_, ?_, State.onHalf_other .., rfl⟩
  · rw [hhs]
    exact HalfSt.loseTray_trays (by rfl) _
  · rw [hhs]
    exact (HalfSt.groupLeft_congr (HalfSt.loseTray_groups _ e.bank.toNat) e).trans
      (HalfSt.setGroup_groupLeft ((s.hs h).sawColumn s.time.toNat e) e 0)
  · rw [hhs]
    exact HalfSt.loseTray_pendingRepairs ..

/-! ### Words that are fetched again -/

/-- A half's banks after a word is fetched again: it is zeroed first, and counted (09 R203, 13 R303). -/
def HalfSt.refetching (x : HalfSt) : HalfSt := { x.clear .bank 8 with faults := bump x.faults 5 1 }

theorem State.refetched_eq (s : State) (h : Half) :
    ∃ j, s.refetched h = { s.onHalf h HalfSt.refetching with jr := j } := by
  unfold State.refetched State.countFault State.recovery
  rw [State.onHalf_onHalf, State.journal_eq]
  exact ⟨_, rfl⟩

theorem State.formAgain_of_empty (hr : s.rt = []) (d : Digest) : s.formAgain h d = s := by
  unfold State.formAgain
  rw [hr]
  rfl

theorem refresh_dropsRow {e : ColErr} {d : Digest} {u : U32} (hj : s.mbx.jobs = []) (hlen : 6 < (s.hs h).faults.length)
    (hnew : ∀ x ∈ (s.hs h).colErrs, x.col ≠ columnOf e) (ho : e.owner = .row d u) (hp : e.persists = false) (hr : s.rt = []) :
    Completes (.refresh h [e]) s fun t =>
      (∀ x, x ∈ (t.hs h).vocCache ↔ x ∈ (s.hs h).vocCache ∧ x.key ≠ ⟨d, u.toNat⟩) ∧
      (t.hs h).faults.getD 5 0 = satAdd ((s.hs h).faults.getD 5 0) 1 ∧ t.hs h.other = s.hs h.other ∧
      { t with half := s.half, jr := s.jr } = s := by
  obtain ⟨j, hre⟩ := State.refetched_eq
    (s.onHalf h fun x => (x.sawColumn s.time.toNat e).dropRow d u.toNat) h
  rw [State.onHalf_onHalf] at hre
  have hc : s.columnError h e =
      { s.onHalf h fun x => ((x.sawColumn s.time.toNat e).dropRow d u.toNat).refetching with jr := j } := by
    unfold State.columnError
    rw [ho, State.columnSeen_once hnew hp]
    simp only [ownerImage, State.recoverOwner]
    rw [State.onHalf_onHalf, hre]
    exact State.formAgain_of_empty (s := { s.onHalf h _ with jr := j }) hr d
  have hexec : exec (.refresh h [e]) s =
      .next { s.onHalf h fun x => ((x.sawColumn s.time.toNat e).dropRow d u.toNat).refetching with jr := j } := by
    show Host.Outcome.next (s.columnError h e).stepEnded = _
    rw [hc]
    exact congrArg Host.Outcome.next (State.stepEnded_eq_self (s := { s.onHalf h _ with jr := j }) hj)
  have hhs := s.onHalf_hs h fun x => ((x.sawColumn s.time.toNat e).dropRow d u.toNat).refetching
  refine ⟨_, hexec, fun x => ?_, ?_, State.onHalf_other .., rfl⟩
  · show x ∈ ((s.onHalf h _).hs h).vocCache ↔ _
    rw [hhs]
    show x ∈ (s.hs h).vocCache.filter _ ↔ _
    simp [List.mem_filter]
  · show ((s.onHalf h _).hs h).faults.getD 5 0 = _
    rw [hhs]
    have h5 : 5 < (bump (s.hs h).faults 0 1).length := by simp only [bump, List.length_set]; omega
    exact (satAdd_bump h5).trans (congrArg (satAdd · 1) (bump_getD_of_ne (by decide)))

/-! ### Scrub -/

theorem finderScrub_reloads {b : BadRegion} (hj : s.mbx.jobs = [])
    (hb : ((s.hs h).regions.any fun r => r.has (.image b.digest)) = true) (hr : s.rt = []) :
    Completes (.finderScrub h [b]) s fun t =>
      t.half = (((s.countFault h 0 1).reloadRegion h (.image b.digest) b.second).refetched h).half ∧
      { t with half := s.half, jr := s.jr } = s := by
  obtain ⟨j, hre⟩ := State.refetched_eq ((s.countFault h 0 1).reloadRegion h (.image b.digest) b.second) h
  have hs : s.scrubbed h b = ((s.countFault h 0 1).reloadRegion h (.image b.digest) b.second).refetched h := by
    unfold State.scrubbed
    rw [if_pos hb, State.formAgain_of_empty (by rw [hre]; exact hr)]
  refine ⟨_, ?_, rfl, ?_⟩
  · show Host.Outcome.next (s.scrubbed h b).stepEnded = _
    rw [hs, State.stepEnded_eq_self (by rw [hre]; exact hj)]
  · rw [hre]
    rfl

theorem finderScrub_elsewhere {b : BadRegion} (hj : s.mbx.jobs = [])
    (hb : ((s.hs h).regions.any fun r => r.has (.image b.digest)) = false) : exec (.finderScrub h [b]) s = .next s := by
  have hs : s.scrubbed h b = s := if_neg (by simp [hb])
  show Host.Outcome.next (s.scrubbed h b).stepEnded = _
  rw [hs, State.stepEnded_eq_self hj]

end Sys2Proof.Machine

open Sys2Proof Sys2Proof.Machine

/-- Settles O50: a refresh and a scrub work through what they find; each kind of error has its lemma. -/
theorem upkeepRepairs : Obligations.UpkeepRepairs := by
  intro s h hj
  refine ⟨congrArg Host.Outcome.next (State.stepEnded_eq_self hj), congrArg Host.Outcome.next (State.stepEnded_eq_self hj),
    fun e hlen hnew => ⟨fun ho => ⟨refresh_once hj hlen hnew ho, refresh_repairs hj hlen hnew ho, refresh_losesTray hj hnew ho⟩, ?_⟩,
    fun b => ⟨finderScrub_reloads hj, finderScrub_elsewhere hj⟩⟩
  exact fun d u ho hp hr => refresh_dropsRow hj hlen hnew ho hp hr

end

section
/-! Images that become STORED, VERIFIED or FAILED, and the loads that wait for them (10 R219, R221; 12 R269). -/
namespace Sys2Proof.Machine

variable {s : State} {d : Digest} {i : Image}

theorem State.imageGo_of_idle (hj : s.mbx.jobs = []) (d : Digest) : s.imageGo d = s := by
  simp [State.imageGo, State.loadsOf, hj]

/-! ### Fetched -/

theorem imageFetchDone_runs (hi : s.image d = some i) (hst : i.state = .fetching) (hf : s.fetching d = false) (hc : s.cleared = true)
    (hlen : ∀ h ∈ s.copyHalves, (i.copies.get h).length = i.total) :
    exec (.imageFetchDone d) s = .next ((s.setImage { i with state := .stored, prior := none }).imageGo d) := by
  have hall : (s.copyHalves.all fun h => (i.copies.get h).length == i.total) = true :=
    List.all_eq_true.2 fun h hm => beq_iff_eq.2 (hlen h hm)
  show Host.Outcome.next (match s.image d with
    | none => s
    | some i => _) = _
  rw [hi]
  exact congrArg Host.Outcome.next (if_neg (by simp [hst, hf, hc, hall]))

/-- A load that does not ask for verification completes with its stored image. -/
theorem State.loadGo_stored {j : Job} (hi : s.image j.digest = some i) (hst : i.state = .stored) (hv : u32At j.body 0 = 0) :
    s.loadGo j = (s.setImage { i with hostRef := true }).complete j.slot (.image j.digest) (loadReply { i with hostRef := true }) := by
  unfold State.loadGo
  rw [hi]
  dsimp only
  rw [hst, hv]
  rfl

theorem loadReply_length (i : Image) : (loadReply i).length = 64 := by
  simp [loadReply]

theorem State.imageGo_of_load {j : Job} (hj : s.mbx.jobs = [j]) (hc : j.code = cLoad) (hg : j.stage = 3) (hd : j.digest = d)
    (hdone : (s.loadGo j).mbx.jobs = []) : s.imageGo d = s.loadGo j := by
  have hl : s.loadsOf d = [j] := by simp [State.loadsOf, hj, hc, hg, hd]
  unfold State.imageGo
  rw [hl, List.foldl_cons, List.foldl_nil]
  dsimp only
  rw [hdone]
  rfl

theorem State.setImage_setImage (i k : Image) (h : i.digest = k.digest) : (s.setImage i).setImage k = s.setImage k := by
  unfold State.setImage
  rw [h, Tab.put_put]

theorem imageFetchDone_completes {j : Job} {k : Byte} (hi : s.image d = some i) (hst : i.state = .fetching)
    (hf : s.fetching d = false) (hcl : s.cleared = true) (hlen : ∀ h ∈ s.copyHalves, (i.copies.get h).length = i.total)
    (hw : s.mbx.mem.wf = true) (hj : s.mbx.jobs = [j]) (hk : j.slot = k.toNat) (hc : j.code = cLoad) (hg : j.stage = 3)
    (hd : j.digest = d) (hv : (s.slotServer k.toNat).isSome = true) (hb : u32At j.body 0 = 0) :
    Answers (.imageFetchDone d) s (s.setImage { i with state := .stored, prior := none, hostRef := true }) k stOk
      ⟨skImage, IState.stored.code⟩ (loadReply { i with state := .stored, hostRef := true }) := by
  have hdig := State.image_digest hi
  subst hd
  obtain ⟨u, hu⟩ : ∃ u : State, u = s.setImage { i with state := .stored, prior := none, hostRef := true } := ⟨_, rfl⟩
  have hmbx : u.mbx = s.mbx := by rw [hu]; rfl
  have himg : u.image j.digest = some { i with state := .stored, prior := none, hostRef := true } := by
    rw [hu, State.image_setImage, if_pos hdig]
  have hserve : (u.slotServer j.slot).isSome = true := by rw [hu, hk]; exact hv
  have hload : (s.setImage { i with state := .stored, prior := none }).loadGo j =
      u.complete j.slot (.image j.digest) (loadReply { i with state := .stored, hostRef := true }) := by
    rw [State.loadGo_stored (s := s.setImage { i with state := .stored, prior := none }) (by rw [State.image_setImage, if_pos hdig]) rfl hb,
      State.setImage_setImage { i with state := .stored, prior := none } { i with state := .stored, prior := none, hostRef := true } rfl, hu]
    rfl
  have hdone : (u.complete j.slot (.image j.digest) (loadReply { i with state := .stored, hostRef := true })).mbx.jobs = [] :=
    State.complete_jobs_nil hserve (fun x hx => by rw [hmbx, hj] at hx; rw [List.mem_singleton.1 hx]) ..
  have hgo := State.imageGo_of_load (s := s.setImage { i with state := .stored, prior := none }) hj hc hg rfl (by rw [hload]; exact hdone)
  have he := (imageFetchDone_runs hi hst hf hcl hlen).trans (congrArg _ (hgo.trans hload))
  rw [hk] at he
  have hobj : u.objOf (.image j.digest) = ⟨skImage, IState.stored.code⟩ := by
    simp only [State.objOf, himg]
    rfl
  refine Answers.of_complete hw he (hk ▸ hserve) hobj ?_ (by rw [hu]) (by rw [hu]; rfl) ?_ (by rw [loadReply_length]; decide)
  · rw [hu]
    exact SameBox.refl _
  · exact imgObj_fits { i with state := .stored }

/-! ### Verified -/

theorem State.storeHalves_of_both (hb : s.bothServe = true) : s.storeHalves = [.west, .east] := by
  simp only [State.bothServe, Bool.and_eq_true] at hb
  obtain ⟨hw, he⟩ := hb
  unfold State.storeHalves
  simp [State.hs, Halves.get, hw, he]

theorem imageVerifyDone_runs {t : State} (hi : s.image d = some i) (hst : i.state = .verifying) (ht : s.verifyImage i = t)
    (hj : t.mbx.jobs = []) : exec (.imageVerifyDone d) s = .next t := by
  show Host.Outcome.next (match s.image d with
    | none => s
    | some i => _) = _
  rw [hi]
  refine congrArg Host.Outcome.next ((if_pos hst).trans ?_)
  rw [ht, State.imageGo_of_idle hj]

section
variable (hb : s.bothServe = true) (hw : i.copies.w ≠ []) (he : i.copies.e ≠ [])
include hb hw he

theorem State.verifyImage_both : s.verifyImage i =
    if verifyStatus s.safe.fuses i.copies.w = stOk ∧ verifyStatus s.safe.fuses i.copies.e = stOk then
      s.setImage { i with state := .verified, vstatus := stOk, refetch := ⟨false, false⟩ }
    else if verifyStatus s.safe.fuses i.copies.w = stOk then
      (s.countFault .east 5 1).setImage { i with copies := i.copies.set .east i.copies.w, refetch := i.refetch.set .east true }
    else if verifyStatus s.safe.fuses i.copies.e = stOk then
      (s.countFault .west 5 1).setImage { i with copies := i.copies.set .west i.copies.e, refetch := i.refetch.set .west true }
    else s.setImage { i with state := .failed, vstatus := verifyStatus s.safe.fuses i.copies.w, refetch := ⟨false, false⟩ } := by
  have hf : (s.storeHalves.filter fun h => !(i.copies.get h).isEmpty) = [.west, .east] := by
    simp [State.storeHalves_of_both hb, Halves.get, hw, he]
  unfold State.verifyImage
  dsimp only
  rw [hf]
  by_cases h1 : verifyStatus s.safe.fuses i.copies.w = stOk
  · by_cases h2 : verifyStatus s.safe.fuses i.copies.e = stOk
    · simp [Halves.get, h1, h2]
    · simp [Halves.get, h1, h2, Half.other]
  · by_cases h2 : verifyStatus s.safe.fuses i.copies.e = stOk
    · simp [Halves.get, h1, h2, Half.other]
    · simp [Halves.get, h1, h2]

end

end Sys2Proof.Machine

open Sys2Proof Sys2Proof.Machine

/-- Settles O51: a fetched image is stored and its load goes on; a verified one by what its two copies give. -/
theorem imagesAreStoredAndVerified : Obligations.ImagesAreStoredAndVerified := by
  intro s d i hi
  refine ⟨fun hst hf hcl hlen => ⟨fun hj => ?_, ?_⟩, fun hst hj hb hcw hce vw ve hvw hve => ?_⟩
  · rw [imageFetchDone_runs hi hst hf hcl hlen]
    exact congrArg Host.Outcome.next (State.imageGo_of_idle (s := s.setImage { i with state := .stored, prior := none }) hj d)
  · intro j k hw hj hk hc hg hd hv hb _
    exact imageFetchDone_completes hi hst hf hcl hlen hw hj hk hc hg hd hv hb
  · subst hvw hve
    have hver := State.verifyImage_both hb hcw hce
    refine ⟨fun h1 h2 => ?_, fun h1 h2 => ?_, fun h1 h2 => ?_⟩
    · rw [if_pos ⟨h1, h2⟩] at hver
      exact imageVerifyDone_runs hi hst hver hj
    · rw [if_neg (fun h => h1 h.1), if_neg h1, if_neg h2] at hver
      exact imageVerifyDone_runs hi hst hver hj
    · rw [if_neg (fun h => h2 h.2), if_pos h1] at hver
      exact ⟨_, imageVerifyDone_runs hi hst hver hj, rfl, rfl⟩

end

section
/-! Fences: what FENCE_ACK does to a binding with no route to hold, and to one with a route that rests (10 R229-R232). -/
namespace Sys2Proof.Machine

variable {s : State} {b : Binding} {r : Route} {j : Job} {n : Nat}

/-! ### The command -/

theorem State.commit_jobs_singleton (hj : s.mbx.jobs = [j]) (k : Nat) (hk : j.slot = k) :
    (s.commit k).mbx.jobs = [{ j with committed := true }] := by
  simp [State.commit, hj, hk]

/-- The binding as its fence leaves it. -/
def Binding.fenced (b : Binding) : Binding := { b with fence := .set, state := .stopping, fences := b.fences + 1 }

/-- Where a fence is set, before its SYN frames leave. -/
def State.fencedBy (s : State) (j : Job) (b : Binding) : State := (s.commit j.slot).setBinding b.fenced

theorem State.fenceAck_eq (hb : s.binding n = some b) (hf : b.fence = .phase1) (hj : s.mbx.jobs = [j]) (hc : j.code = cStop)
    (ha : j.arg = n) :
    s.fenceAck n =
      let u := (s.fencedBy j b).fenceSyns b.fenced
      let hs := (u.routesOf n).filter liveRoute
      let t := ((hs.foldl (fun t r => t.refuseWaiting r.handle) u).readmitHalf .west).readmitHalf .east
      (hs.foldl (fun t r => t.settle r.handle) t).finishStop n := by
  have hfind : (s.mbx.jobs.find? fun j => j.code == cStop && j.arg == n) = some j := by simp [hj, hc, ha]
  unfold State.fenceAck
  rw [hb]
  dsimp only
  rw [if_neg (by simp [hf]), hfind]
  rfl

/-- With nothing that waits on a half, nothing is decided again there. -/
theorem State.readmitHalf_empty {h : Half} (hw : (s.hs h).waiting = []) : s.readmitHalf h = s := by
  have hself : (s.onHalf h fun x => { x with waiting := [] }) = s := by
    have hx : (fun x : HalfSt => { x with waiting := [] }) (s.hs h) = s.hs h := by rw [← hw]
    cases h
    · exact congrArg (fun x => { s with half := { s.half with w := x } }) hx
    · exact congrArg (fun x => { s with half := { s.half with e := x } }) hx
  unfold State.readmitHalf
  rw [hself, hw]
  rfl

theorem State.readmitHalves_empty (hw : s.half.w.waiting = []) (he : s.half.e.waiting = []) :
    (s.readmitHalf .west).readmitHalf .east = s := by
  rw [State.readmitHalf_empty (h := .west) hw, State.readmitHalf_empty (h := .east) he]

/-! ### No route to hold -/

theorem State.fenceSyns_of_none (hr : s.routesOf b.handle = []) : s.fenceSyns b = s := by
  have hc (h : Half) : s.chainsOf b h = [] := by simp [State.chainsOf, hr]
  unfold State.fenceSyns
  simp [hc]

theorem State.finishStop_done {b : Binding} (hb : s.binding n = some b) (hs : b.state = .stopping) (hf : b.fence = .set)
    (hr : s.routesOf b.handle = []) (hj : s.mbx.jobs = [j]) (hc : j.code = cStop) (ha : j.arg = n) (hl : u32At j.body 4 = 0) :
    s.finishStop n =
      (s.setBinding { b with state := .stopped }).complete j.slot (.binding b.handle) (toLe 4 0 ++ toLe 4 0) := by
  have hdone : s.heldDone b = true := by simp [State.heldDone, hr]
  have hfind : ((s.setBinding { b with state := .stopped }).mbx.jobs.find? fun j => j.code == cStop && j.arg == n) = some j := by
    show (s.mbx.jobs.find? fun j => j.code == cStop && j.arg == n) = some j
    simp [hj, hc, ha]
  have hheld : (s.setBinding { b with state := .stopped }).heldRoutes { b with state := .stopped } = [] := by
    show (s.routesOf b.handle).filter _ = []
    rw [hr]
    rfl
  unfold State.finishStop
  rw [hb]
  dsimp only
  rw [if_pos (by simp [hs, hf, hdone]), hfind]
  dsimp only
  unfold State.stopReply
  rw [hheld, hl]
  rfl

theorem fenceAck_stops {d : U32} {k : Byte} (hw : s.mbx.mem.wf = true) (hb : s.binding d.toNat = some b) (hf : b.fence = .phase1)
    (hj : s.mbx.jobs = [j]) (hk : j.slot = k.toNat) (hc : j.code = cStop) (ha : j.arg = d.toNat) (hl : u32At j.body 4 = 0)
    (hww : s.half.w.waiting = []) (hwe : s.half.e.waiting = []) (hv : (s.slotServer k.toNat).isSome = true)
    (hr : ∀ r ∈ s.rt.vals, r.binding ≠ b.handle) :
    Answers (.fenceAck d) s (s.setBinding { b with fence := .set, fences := b.fences + 1, state := .stopped }) k stOk
      ⟨skBinding, BState.stopped.code⟩ (toLe 4 0 ++ toLe 4 0) := by
  have hbh := State.binding_handle hb
  have hnone : s.routesOf b.handle = [] := List.filter_eq_nil_iff.2 fun r hm => by simpa using hr r hm
  obtain ⟨u, hu⟩ : ∃ u, u = s.fencedBy j b := ⟨_, rfl⟩
  have hcommit := s.commit_eq j.slot
  have hframe : u = { s with jr := u.jr, mbx := { s.mbx with jobs := u.mbx.jobs }, bnd := u.bnd } := by
    rw [hu, State.fencedBy, hcommit]
    rfl
  have hnone' : u.routesOf b.handle = [] := by rw [hframe]; exact hnone
  have hjobs : u.mbx.jobs = [{ j with committed := true }] := by
    rw [hu]
    exact State.commit_jobs_singleton hj _ rfl
  have hbu : u.binding d.toNat = some b.fenced := by
    rw [hu, ← hbh]
    exact State.binding_setBinding_same _ b.fenced
  have hack : s.fenceAck d.toNat = u.finishStop d.toNat := by
    rw [State.fenceAck_eq hb hf hj hc ha, ← hu]
    dsimp only
    rw [State.fenceSyns_of_none (b := b.fenced) hnone', ← hbh, hnone']
    simp only [List.filter_nil, List.foldl_nil]
    rw [State.readmitHalves_empty (by rw [hframe]; exact hww) (by rw [hframe]; exact hwe)]
  have hstop := State.finishStop_done hbu rfl rfl hnone' hjobs hc ha hl
  have hexec : exec (.fenceAck d) s = .next ((u.setBinding { b.fenced with state := .stopped }).complete k.toNat
      (.binding b.fenced.handle) (toLe 4 0 ++ toLe 4 0)) := by
    rw [← hk]
    exact congrArg Host.Outcome.next (hack.trans hstop)
  have hbnd : (u.setBinding { b.fenced with state := .stopped }).bnd =
      (s.setBinding { b with fence := .set, fences := b.fences + 1, state := .stopped }).bnd := by
    have hub : u.bnd = s.bnd.put (bindingIndex b.handle) b.fenced := by
      rw [hu, State.fencedBy, hcommit]
      rfl
    show u.bnd.put (bindingIndex b.handle) _ = s.bnd.put (bindingIndex b.handle) _
    rw [hub, Tab.put_put]
    rfl
  refine Answers.of_complete hw hexec ?_ ?_ ?_ ?_ ?_ (bndObj_fits { b with state := .stopped }) (by simp)
  · rw [hframe]
    exact hv
  · have := State.binding_setBinding_same u { b.fenced with state := .stopped }
    simp only [State.objOf]
    rw [this]
    rfl
  · rw [hframe]
    rfl
  · have hs : { u.setBinding { b.fenced with state := .stopped } with mbx := s.mbx, jr := s.jr } =
        { s with bnd := (u.setBinding { b.fenced with state := .stopped }).bnd } := by
      rw [hframe]
      rfl
    exact hs.trans (congrArg (fun B => { s with bnd := B }) hbnd)
  · rw [hframe]
    rfl

/-! ### A route that rests -/

theorem State.setRoute_self (hr : s.rt = [(routeIndex r.handle, r)]) : s.setRoute r = s := by
  unfold State.setRoute
  rw [hr]
  simp only [Tab.put, if_neg (Nat.lt_irrefl _), if_pos]
  rw [← hr]

theorem State.route_of_singleton (hr : s.rt = [(routeIndex r.handle, r)]) : s.route r.handle = some r := by
  simp [State.route, hr, Tab.get?]

theorem Route.kept_entries (h : r.entries = []) : { r with entries := [] } = r := by rw [← h]

theorem State.refuseLone_empty {h : Half} (hr : s.rt = [(routeIndex r.handle, r)]) (hc : r.copies = ⟨[], []⟩) :
    s.refuseLone r.handle h = s := by
  have hq : { r with copies := r.copies.set h []
                     stoppedSteps := r.stoppedSteps ++ (r.copies.get h).map fun c => (h.other, c.step) } = r := by
    obtain ⟨⟩ := r
    cases hc
    cases h <;> simp [Halves.get, Halves.set]
  have hn : r.copies.get h = [] := by rw [hc]; cases h <;> rfl
  unfold State.refuseLone
  rw [State.route_of_singleton hr]
  dsimp only
  rw [hq, hn, State.setRoute_self hr]
  rfl

/-- A route for which nothing waits loses its prepared drafts alone. -/
theorem State.refuseWaiting_of_rest (hr : s.rt = [(routeIndex r.handle, r)]) (he : r.entries = []) (hc : r.copies = ⟨[], []⟩)
    (hww : s.half.w.waiting = []) (hwe : s.half.e.waiting = []) :
    s.refuseWaiting r.handle = (s.freeDrafts r).setRoute { r with drafts := none } := by
  have hroute := State.route_of_singleton hr
  have hhalf : (s.half.map fun x => { x with waiting := x.waiting.filter fun w => !(eHandle w.bytes == r.handle) }) = s.half := by
    have hx (x : HalfSt) (hx : x.waiting = []) :
        { x with waiting := x.waiting.filter fun w => !(eHandle w.bytes == r.handle) } = x := by
      rw [hx, List.filter_nil, ← hx]
    exact congr (congrArg Halves.mk (hx _ hww)) (hx _ hwe)
  have hw : (s.hs .west).waiting = [] := hww
  have hx : (s.hs .east).waiting = [] := hwe
  unfold State.refuseWaiting
  rw [hroute]
  dsimp only
  rw [hw, hx, he, Route.kept_entries he, State.setRoute_self hr, hhalf]
  simp only [List.filter_nil, List.append_nil, List.foldl_nil]
  rw [State.refuseLone_empty hr hc, State.refuseLone_empty hr hc, State.dropDrafts, hroute]
  dsimp only
  rw [he]

theorem State.finishStop_waits (hb : s.binding n = some b) (hm : r ∈ s.routesOf b.handle) (hst : r.state ≠ .ended ∧ r.state ≠ .saved) :
    s.finishStop n = s := by
  have hdone : s.heldDone b = false := List.all_eq_false.2 ⟨r, hm, by simp [hst]⟩
  unfold State.finishStop
  rw [hb]
  dsimp only
  rw [if_neg (by simp [hdone])]

theorem State.setRoute_rt_singleton (hr : s.rt = [(routeIndex r.handle, r)]) {q : Route} (hq : q.handle = r.handle) :
    (s.setRoute q).rt = [(routeIndex q.handle, q)] := by
  show s.rt.put (routeIndex q.handle) q = _
  rw [hr, hq]
  simp [Tab.put]

theorem State.mem_routesOf_singleton (hr : s.rt = [(routeIndex r.handle, r)]) (hb : r.binding = n) : r ∈ s.routesOf n := by
  simp [State.routesOf, hr, Tab.vals, hb]

/-- A route that rests behind the fence is held for its benchmark (10 R231). -/
theorem State.afterDue_holds (hr : s.rt = [(routeIndex r.handle, r)]) (hb : s.binding r.binding = some b) (hs : b.state = .stopping)
    (hf : b.fence = .set) (hst : r.state ≠ .ended ∧ r.state ≠ .saved) (hn : r.drafts = none) (hj : ∀ j ∈ s.mbx.jobs, j.code ≠ cHalt) :
    s.afterDue r.handle r.binding = s.setRoute { r with saving := true, drafts := none, intake := [] } := by
  have hheld : s.held r = true := by simp [State.held, hb, hs, hf]
  have hfree : s.freeDrafts r = s := by simp [State.freeDrafts, hn]
  have hrt := State.setRoute_rt_singleton hr (q := { r with saving := true, drafts := none, intake := [] }) rfl
  unfold State.afterDue
  rw [State.route_of_singleton hr]
  dsimp only
  rw [if_pos (by simp [hheld, hst]), hfree]
  have hstop : (s.setRoute { r with saving := true, drafts := none, intake := [] }).finishStop r.binding =
      s.setRoute { r with saving := true, drafts := none, intake := [] } :=
    State.finishStop_waits (s := s.setRoute _) hb (State.mem_routesOf_singleton hrt (State.binding_handle hb).symm) hst
  rw [hstop]
  exact State.finishHalt_of_noHalt hj

theorem State.fenceSyns_frame (s : State) (b : Binding) : ∃ c, s.fenceSyns b = { s with chains := c } := by
  have hin (h : Half) (l : List Nat) (t : State) :
      ∃ c, l.foldl (fun t c => t.sendSyn h c (synFence b.handle b.fences)) t = { t with chains := c } :=
    List.foldlRecOn l _ (motive := fun u => ∃ c, u = { t with chains := c }) ⟨_, rfl⟩ fun u hu c _ => by
      obtain ⟨cs, rfl⟩ := hu
      exact ⟨_, rfl⟩
  unfold State.fenceSyns
  simp only [List.foldl_cons, List.foldl_nil]
  obtain ⟨c, hc⟩ := hin .west (s.chainsOf b .west) s
  rw [hc]
  exact hin ..

theorem State.freeDrafts_waiting (s : State) (r : Route) (h : Half) : ((s.freeDrafts r).hs h).waiting = (s.hs h).waiting := by
  have hfree (x : HalfSt) (n : Nat) : (x.freeSlots n).waiting = x.waiting := by
    unfold HalfSt.freeSlots
    split <;> rfl
  unfold State.freeDrafts
  split
  next p _ =>
    split
    · by_cases hp : h = p.half
      · subst hp
        rw [State.onHalf_hs, hfree]
      · rw [State.onHalf_hs_of_ne _ hp]
    · rfl
  next => rfl

/-- A route that rests, of a binding whose fence is set, loses its prepared drafts and is held. -/
theorem State.settle_holds (hr : s.rt = [(routeIndex r.handle, r)]) (hb : s.binding r.binding = some b) (hs : b.state = .stopping)
    (hf : b.fence = .set) (hst : r.state ≠ .ended ∧ r.state ≠ .saved) (hn : r.drafts = none)
    (hbusy : (r.adm.isSome || r.forcedMore || r.saving) = false) (hm : r.markDue = false)
    (hj : ∀ j ∈ s.mbx.jobs, j.code = cStop) :
    s.settle r.handle = s.setRoute { r with saving := true, drafts := none, intake := [] } := by
  have hjobs : s.mbx.jobs.filter (routeJob r.handle) = [] :=
    List.filter_eq_nil_iff.2 fun j hx => by simp [routeJob, hj j hx, cStop, cPause, cSave, cEnd, cBankWrite]
  rw [State.settle_of_free (State.route_of_singleton hr) hbusy hm, hjobs]
  exact State.afterDue_holds hr hb hs hf hst hn fun j hx => by simp [hj j hx, cStop, cHalt]

theorem fenceAck_holds {d : U32} {k : Byte} (hb : s.binding d.toNat = some b) (hf : b.fence = .phase1)
    (hj : s.mbx.jobs = [j]) (hk : j.slot = k.toNat) (hc : j.code = cStop) (ha : j.arg = d.toNat)
    (hww : s.half.w.waiting = []) (hwe : s.half.e.waiting = [])
    (hr : s.rt = [(routeIndex r.handle, r)]) (hrb : r.binding = b.handle) (hst : r.state = .open ∨ r.state = .running ∨ r.state = .paused)
    (hadm : r.adm = none) (hfm : r.forcedMore = false) (hsv : r.saving = false) (hmd : r.markDue = false) (hen : r.entries = [])
    (hcp : r.copies = ⟨[], []⟩) :
    Completes (.fenceAck d) s fun t =>
      t.bnd = (s.setBinding { b with fence := .set, fences := b.fences + 1, state := .stopping }).bnd ∧
      t.route r.handle = some { r with saving := true, drafts := none, intake := [] } ∧
      t.jobOf k.toNat = some { j with committed := true } ∧ { t.mbx with jobs := s.mbx.jobs } = s.mbx := by
  have hbh := State.binding_handle hb
  have hne : r.state ≠ .ended ∧ r.state ≠ .saved := by rcases hst with h | h | h <;> simp [h]
  have hcommit := s.commit_eq j.slot
  obtain ⟨u, hu⟩ : ∃ u, u = s.fencedBy j b := ⟨_, rfl⟩
  have hframe : u = { s with jr := u.jr, mbx := { s.mbx with jobs := u.mbx.jobs }, bnd := u.bnd } := by
    rw [hu, State.fencedBy, hcommit]
    rfl
  have hjobs : u.mbx.jobs = [{ j with committed := true }] := by
    rw [hu]
    exact State.commit_jobs_singleton hj _ rfl
  have hbnd : u.bnd = (s.setBinding b.fenced).bnd := by
    rw [hu, State.fencedBy, hcommit]
    rfl
  have hbu : u.binding b.handle = some b.fenced := by
    rw [hu]
    exact State.binding_setBinding_same _ b.fenced
  obtain ⟨c, hc'⟩ := u.fenceSyns_frame b.fenced
  have hvrt : ({ u with chains := c } : State).rt = [(routeIndex r.handle, r)] := by
    rw [hframe]
    exact hr
  have hroutes : (({ u with chains := c } : State).routesOf d.toNat).filter liveRoute = [r] := by
    have hurt : u.rt = [(routeIndex r.handle, r)] := hvrt
    simp [State.routesOf, hurt, Tab.vals, hrb, hbh, liveRoute, hne.1]
  have hrefuse := State.refuseWaiting_of_rest hvrt hen hcp (by rw [hframe]; exact hww) (by rw [hframe]; exact hwe)
  obtain ⟨w, hw⟩ : ∃ w, w = (({ u with chains := c } : State).freeDrafts r).setRoute { r with drafts := none } := ⟨_, rfl⟩
  have hbanks := (Banks.freeDrafts ({ u with chains := c } : State) r).eq
  have hwait (h : Half) : (w.hs h).waiting = [] := by
    rw [hw]
    refine (State.freeDrafts_waiting ({ u with chains := c } : State) r h).trans ?_
    rw [hframe]
    cases h
    · exact hww
    · exact hwe
  have hwrt : w.rt = [(routeIndex r.handle, { r with drafts := none })] := by
    rw [hw]
    refine State.setRoute_rt_singleton (r := r) ?_ rfl
    rw [hbanks]
    exact hvrt
  have hwb : w.bnd = u.bnd := by rw [hw, hbanks]; rfl
  have hwm : w.mbx = u.mbx := by rw [hw, hbanks]; rfl
  have hbw : w.binding r.binding = some b.fenced := by
    rw [hrb, State.binding_congr hwb]
    exact hbu
  have hsettle : w.settle r.handle = w.setRoute { r with saving := true, drafts := none, intake := [] } :=
    State.settle_holds (r := { r with drafts := none }) hwrt hbw rfl rfl hne rfl (by simp [hadm, hfm, hsv]) hmd
      (by rw [hwm, hjobs]; intro x hx; rw [List.mem_singleton.1 hx]; exact hc)
  have htrt : (w.setRoute { r with saving := true, drafts := none, intake := [] }).rt =
      [(routeIndex r.handle, { r with saving := true, drafts := none, intake := [] })] :=
    State.setRoute_rt_singleton (r := { r with drafts := none }) hwrt rfl
  have hstop : (w.setRoute { r with saving := true, drafts := none, intake := [] }).finishStop d.toNat =
      w.setRoute { r with saving := true, drafts := none, intake := [] } := by
    rw [← hbh, ← hrb]
    exact State.finishStop_waits (s := w.setRoute _) (r := { r with saving := true, drafts := none, intake := [] }) hbw
      (State.mem_routesOf_singleton (r := { r with saving := true, drafts := none, intake := [] }) htrt hrb) hne
  have hack : s.fenceAck d.toNat = w.setRoute { r with saving := true, drafts := none, intake := [] } := by
    rw [State.fenceAck_eq hb hf hj hc ha, ← hu, hc']
    dsimp only
    rw [hroutes]
    simp only [List.foldl_cons, List.foldl_nil]
    rw [hrefuse, ← hw, State.readmitHalves_empty (hwait .west) (hwait .east), hsettle, hstop]
  refine ⟨_, congrArg Host.Outcome.next hack, hwb.trans hbnd, ?_, ?_, ?_⟩
  · exact State.route_of_singleton (r := { r with saving := true, drafts := none, intake := [] }) htrt
  · show (w.mbx.jobs.find? fun x => x.slot == k.toNat) = _
    rw [hwm, hjobs]
    simp [hk]
  · show { w.mbx with jobs := s.mbx.jobs } = s.mbx
    rw [hwm, hframe]

end Sys2Proof.Machine

open Sys2Proof Sys2Proof.Machine

/-- Settles O52: with no route to hold the stop completes at once; a route that rests is held, and the stop waits for its
benchmark. -/
theorem fencesAreSet : Obligations.FencesAreSet := by
  intro s d k b j hw hb hf _ hj hk hc ha hl hww hwe hv
  exact ⟨fenceAck_stops hw hb hf hj hk hc ha hl hww hwe hv, fun r => fenceAck_holds hb hf hj hk hc ha hww hwe⟩

end

section
/-! Level messages and the timers of the level tree (15 R363-R372). -/
namespace Sys2Proof.Machine

variable {s : State} {i : BitVec 2} {m : LmMsg}

/-! ### Messages that leave -/

/-- A message of the engine's own joins those to send, with its CRC. -/
theorem State.lmSend_says (s : State) (p : Pair) (code position iflevel alevel : Nat) (serial : U64) (arg : Nat) :
    Says s.level.out (s.lmSend p code position iflevel alevel serial arg).level.out p code position arg serial :=
  ⟨_, rfl, rfl, rfl, rfl, rfl⟩

theorem State.hear_of_joined (h : s.level.alone = false) : s.hear = s := if_neg (by simp [h])

theorem State.maskMember_of_quiet (hj : s.mbx.jobs = []) (hr : s.rt = []) (pos : Nat) : s.maskMember pos =
    if s.level.acts then
      { s with level := { s.level with
          members := s.level.members.map fun x => if x.position = pos then { x with inBarrier := false } else x
          joining := s.level.joining.filter fun q => q != pos } }
    else s := by
  have hquiet (t : State) (ht : t.rt = []) (hk : t.mbx.jobs = []) : (t.memberGone pos).stepEnded = t := by
    have hgone : t.memberGone pos = t := by simp [State.memberGone, State.groupRoutes, ht, Tab.vals]
    rw [hgone, State.stepEnded_eq_self hk]
  unfold State.maskMember
  dsimp only
  split
  · exact hquiet _ hr hj
  · exact hquiet _ hr hj

/-! ### Announcements -/

theorem lmAnnounce_heard (hup : s.half.w.safeUp = true) (hc : m.crc = lmCrc lmAnnounceCode m) (ha : m.arg = 0) :
    exec (.lmAnnounce (.dn i) m) s = .next (if (s.learn (.dn i) m.serial).enumerates then
      if m.iflevel.toNat ≠ ifLevel ∨ m.alevel.toNat ≠ aLevel then
        (s.learn (.dn i) m.serial).lmSend (.dn i) lmRefuseCode 0xFF 0 0 m.serial 1
      else if 63 ≤ (s.level.members.filter fun x => x.serial != m.serial.toNat).length then
        (s.learn (.dn i) m.serial).lmSend (.dn i) lmRefuseCode 0xFF 0 0 m.serial 2
      else (s.learn (.dn i) m.serial).admitMember (.dn i) m
    else if s.level.acts then s.learn (.dn i) m.serial
    else (s.learn (.dn i) m.serial).relay .up lmAnnounceCode m) := by
  have hbit : m.arg.getLsbD 0 = false := by rw [ha]; rfl
  have hup' : s.levelUp = true := hup
  refine congrArg Host.Outcome.next ((if_neg ?_).trans ?_)
  · simp [hup', ← hc]
  · dsimp only
    rw [hbit]
    rfl

/-- The lowest free position is one of 1 to 63, and every lower one is taken (15 R365). -/
theorem freePosition_lowest {ms : List Member} {pos : Nat} (h : freePosition ms 0xFF = some pos) :
    1 ≤ pos ∧ pos ≤ 63 ∧ (∀ x ∈ ms, x.position ≠ pos) ∧ ∀ q, 1 ≤ q → q < pos → ∃ x ∈ ms, x.position = q := by
  have hfind : (List.range 64).find? (fun p => decide (1 ≤ p) && !(ms.any fun m => m.position == p)) = some pos := by
    unfold freePosition at h
    dsimp only at h
    rwa [if_neg (by omega)] at h
  rw [List.find?_range_eq_some] at hfind
  obtain ⟨hp, hlt, hlow⟩ := hfind
  simp only [Bool.and_eq_true, decide_eq_true_eq, Bool.not_eq_true', List.any_eq_false, beq_iff_eq] at hp
  obtain ⟨hp1, hpf⟩ := hp
  refine ⟨hp1, by simpa using Nat.le_of_lt_succ (List.mem_range.1 hlt), hpf, fun q hq hqp => ?_⟩
  have := hlow q hqp
  simpa [hq] using this

theorem lmAnnounce_admits (hup : s.half.w.safeUp = true) (hc : m.crc = lmCrc lmAnnounceCode m) (ha : m.arg = 0)
    (hacts : s.level.acts = true) (hst : s.eng.state = .ready ∨ s.inService = true) (hnew : ∀ x ∈ s.level.members, x.serial ≠ m.serial.toNat)
    (hif : m.iflevel.toNat = ifLevel) (hal : m.alevel.toNat = aLevel) (hlen : s.level.members.length < 63) (hpos : m.position = 0xFF)
    (pos : Nat) (hfree : freePosition s.level.members 0xFF = some pos) :
    Completes (.lmAnnounce (.dn i) m) s fun t =>
      t.level.members = s.level.members ++ [⟨pos, m.serial.toNat, i.toNat, false⟩] ∧ 1 ≤ pos ∧ pos ≤ 63 ∧
      (∀ x ∈ s.level.members, x.position ≠ pos) ∧ (∀ q, 1 ≤ q → q < pos → ∃ x ∈ s.level.members, x.position = q) ∧
      t.level.count = s.level.members.length + 2 ∧ pos ∈ t.level.joining ∧
      Says s.level.out t.level.out (.dn i) lmAdmitCode pos (s.level.members.length + 2) m.serial ∧
      { t with level := s.level } = s := by
  have hothers : (s.level.members.filter fun x => x.serial != m.serial.toNat) = s.level.members :=
    List.filter_eq_self.2 fun x hx => by simp [hnew x hx]
  have hknown : (s.level.members.find? fun x => x.serial == m.serial.toNat) = none :=
    List.find?_eq_none.2 fun x hx => by simp [hnew x hx]
  have henum : (s.learn (.dn i) m.serial).enumerates = true := by
    show (s.level.acts && (s.eng.state == .ready || s.inService)) = true
    rcases hst with h | h <;> simp [hacts, h]
  have hexec := lmAnnounce_heard (i := i) hup hc ha
  rw [if_pos henum, if_neg (by simp [hif, hal]), if_neg (by rw [hothers]; omega)] at hexec
  obtain ⟨h1, h63, hnot, hlow⟩ := freePosition_lowest hfree
  have hadmit : (s.learn (.dn i) m.serial).admitMember (.dn i) m =
      ({ s.learn (.dn i) m.serial with level := { (s.learn (.dn i) m.serial).level with
          members := s.level.members ++ [⟨pos, m.serial.toNat, i.toNat, false⟩], count := s.level.members.length + 2
          joining := (s.level.joining.filter fun q => q != pos) ++ [pos] } } : State).lmSend (.dn i) lmAdmitCode pos 0 0 m.serial
        (s.level.members.length + 2) := by
    have hp : m.position.toNat = 0xFF := by rw [hpos]; rfl
    unfold State.admitMember
    dsimp only
    rw [show (s.learn (.dn i) m.serial).level.members = s.level.members from rfl, hothers, hknown, hp]
    dsimp only
    rw [hfree]
    simp only [List.length_append, List.length_singleton]
    rfl
  rw [hadmit] at hexec
  exact ⟨_, hexec, rfl, h1, h63, hnot, hlow, rfl, List.mem_append_right _ (List.mem_singleton_self _), State.lmSend_says .., rfl⟩

theorem lmAnnounce_refuses (hup : s.half.w.safeUp = true) (hc : m.crc = lmCrc lmAnnounceCode m) (ha : m.arg = 0)
    (hacts : s.level.acts = true) (hst : s.eng.state = .ready ∨ s.inService = true)
    (hlev : m.iflevel.toNat ≠ ifLevel ∨ m.alevel.toNat ≠ aLevel) :
    Completes (.lmAnnounce (.dn i) m) s fun t =>
      t.level.members = s.level.members ∧ Says s.level.out t.level.out (.dn i) lmRefuseCode 0xFF 1 m.serial ∧
      { t with level := s.level } = s := by
  have henum : (s.learn (.dn i) m.serial).enumerates = true := by
    show (s.level.acts && (s.eng.state == .ready || s.inService)) = true
    rcases hst with h | h <;> simp [hacts, h]
  have hexec := lmAnnounce_heard (i := i) hup hc ha
  rw [if_pos henum, if_pos hlev] at hexec
  exact ⟨_, hexec, rfl, State.lmSend_says .., rfl⟩

theorem lmAnnounce_relays (hup : s.half.w.safeUp = true) (hc : m.crc = lmCrc lmAnnounceCode m) (ha : m.arg = 0)
    (hacts : s.level.acts = false) :
    Completes (.lmAnnounce (.dn i) m) s fun t =>
      t.level.out = s.level.out ++ [⟨.up, lmAnnounceCode, m⟩] ∧ t.level.members = s.level.members ∧
      { t with level := s.level } = s := by
  have henum : (s.learn (.dn i) m.serial).enumerates = false := by
    show (s.level.acts && _) = false
    rw [hacts]
    rfl
  have hexec := lmAnnounce_heard (i := i) hup hc ha
  rw [henum, hacts] at hexec
  exact ⟨_, hexec, rfl, rfl, rfl⟩

/-! ### Admission and refusal -/

/-- The engine's place in the tree once it is admitted (15 R365). -/
def State.joinedAs (s : State) (m : LmMsg) : State :=
  { s with level := { s.level with member := true, alone := false, refused := false, seeking := false, withdrawn := false
                                   ready := s.serving, position := m.position.toNat, count := m.arg.toNat } }

theorem lmAdmit_heard (hup : s.half.w.safeUp = true) (hc : m.crc = lmCrc lmAdmitCode m) (hs : m.serial = s.eng.serial) :
    exec (.lmAdmit .up m) s = .next (match s.mbx.jobs.find? fun j => j.code == cRejoin with
      | some j => (s.joinedAs m).complete j.slot .engine (toLe 1 m.position.toNat)
      | none => s.joinedAs m) := by
  have hup' : s.levelUp = true := hup
  exact congrArg Host.Outcome.next ((if_neg (by simp [hup', ← hc])).trans (if_neg (by simp [hs])))

theorem lmAdmit_admits (hup : s.half.w.safeUp = true) (hc : m.crc = lmCrc lmAdmitCode m) (hs : m.serial = s.eng.serial)
    (hj : s.mbx.jobs = []) :
    Completes (.lmAdmit .up m) s fun t =>
      t.level.member = true ∧ t.level.alone = false ∧ t.level.refused = false ∧ t.level.position = m.position.toNat ∧
      t.level.count = m.arg.toNat ∧ t.level.ready = s.serving ∧ { t with level := s.level } = s := by
  have hexec := lmAdmit_heard hup hc hs
  rw [hj] at hexec
  exact ⟨_, hexec, rfl, rfl, rfl, rfl, rfl, rfl, rfl⟩

theorem lmAdmit_completes {j : Job} {k : Byte} (hup : s.half.w.safeUp = true) (hc : m.crc = lmCrc lmAdmitCode m)
    (hs : m.serial = s.eng.serial) (hw : s.mbx.mem.wf = true) (hj : s.mbx.jobs = [j]) (hcode : j.code = cRejoin) (hk : j.slot = k.toNat)
    (hv : (s.slotServer k.toNat).isSome = true) :
    Completes (.lmAdmit .up m) s fun t =>
      Replied s t k stOk (engineObj s) (toLe 1 m.position.toNat) ∧ t.level.member = true ∧
      t.level.position = m.position.toNat := by
  have hexec := lmAdmit_heard hup hc hs
  have hfind : (s.mbx.jobs.find? fun j => j.code == cRejoin) = some j := by simp [hj, hcode]
  rw [hfind] at hexec
  dsimp only at hexec
  rw [hk] at hexec
  obtain ⟨hreply, honly⟩ := State.complete_replies (s := s) (u := s.joinedAs m) (k := k) (o := .engine) (x := engineObj s)
    (q := toLe 1 m.position.toNat) hw hv rfl (SameBox.refl _) rfl (engineObj_lt s) (by simp)
  have hlevel : ((s.joinedAs m).complete k.toNat .engine (toLe 1 m.position.toNat)).level = (s.joinedAs m).level := by
    have := congrArg State.level honly.eq
    exact this
  exact ⟨_, hexec, hreply, by rw [hlevel]; rfl, by rw [hlevel]; rfl⟩

theorem State.enterService_cold (hst : s.eng.state = .ready) (hw : s.eng.warm = false) : s.enterService = s.openService := by
  unfold State.enterService
  rw [if_neg (by simp [hst, hw]), if_neg (by simp [hw])]

theorem State.enterService_elsewhere (hst : s.eng.state ≠ .ready) : s.enterService = s := if_pos (by simp [hst])

theorem lmRefuse_servesAlone (hup : s.half.w.safeUp = true) (hc : m.crc = lmCrc lmRefuseCode m) (hs : m.serial = s.eng.serial)
    (hj : s.mbx.jobs = []) (hb : s.bothServe = true) (hw : s.eng.warm = false) :
    Completes (.lmRefuse .up m) s fun t =>
      t.level.refused = true ∧ t.level.member = false ∧ t.level.alone = true ∧ t.level.acts = false ∧
      t.eng.state = (if s.eng.state = .ready then .service else s.eng.state) ∧
      t.safe.events = (s.log engineSide 0 0x0010 m.arg.toNat 0 []).safe.events := by
  have hup' : s.levelUp = true := hup
  obtain ⟨a, ha⟩ : ∃ a, a = ({ s with level := { s.level with refused := true, checking := false, acts := false, seeking := false } } : State).log
    engineSide 0 0x0010 m.arg.toNat 0 [] := ⟨_, rfl⟩
  have hmbx : a.mbx.jobs = [] := by rw [ha, State.log_mbx]; exact hj
  have hexec : exec (.lmRefuse .up m) s = .next a.serveAlone := by
    refine congrArg Host.Outcome.next ((if_neg (by simp [hup', ← hc])).trans ((if_neg (by simp [hs])).trans ?_))
    rw [← ha]
    dsimp only
    rw [hmbx]
    rfl
  have hlev : a.level = { s.level with refused := true, checking := false, acts := false, seeking := false } := by
    rw [ha, State.log_level]
  have heng : a.eng = s.eng := by rw [ha, State.log_eng]
  have hhalf : a.half = s.half := by rw [ha, State.log_half]
  have hev : a.safe.events = (s.log engineSide 0 0x0010 m.arg.toNat 0 []).safe.events := by
    rw [ha, State.log_events, State.log_events]
    rfl
  refine ⟨_, hexec, ?_⟩
  unfold State.serveAlone
  by_cases hst : s.eng.state = .ready
  · rw [State.enterService_cold (by rw [← hst, ← heng]) (by rw [← hw, ← heng]), if_pos hst]
    refine ⟨?_, rfl, rfl, ?_, ?_, hev⟩
    · show a.level.refused = true
      rw [hlev]
    · show a.level.acts = false
      rw [hlev]
    · show (if a.bothServe then EState.service else .limp) = .service
      rw [if_pos (by unfold State.bothServe; rw [hhalf]; exact hb)]
  · rw [State.enterService_elsewhere (by rw [← heng] at hst; exact hst), if_neg hst]
    refine ⟨?_, rfl, rfl, ?_, by rw [← heng], hev⟩
    · show a.level.refused = true
      rw [hlev]
    · show a.level.acts = false
      rw [hlev]

/-! ### Base, echo, withdrawal -/

theorem State.recordBase_eq (s : State) (base : U64) :
    ∃ j, s.recordBase base = { s with level := { s.level with base := base }, jr := j } := by
  unfold State.recordBase State.mark
  rw [State.journal_eq]
  exact ⟨_, rfl⟩

theorem lmBase_relays (hup : s.half.w.safeUp = true) (hc : m.crc = lmCrc lmBaseCode m) (hal : s.level.alone = false) :
    Completes (.lmBase .up m) s fun t =>
      t.level.out = s.level.out ++ (dnPairs.map fun q => ⟨q, lmBaseCode, m⟩) ∧
      t.level.base = (if s.level.member then m.serial else s.level.base) ∧ { t with level := s.level, jr := s.jr } = s := by
  have hup' : s.levelUp = true := hup
  have hfold (l : List Pair) : ∀ t : State, l.foldl (fun t q => t.relay q lmBaseCode m) t =
      { t with level := { t.level with out := t.level.out ++ l.map fun q => ⟨q, lmBaseCode, m⟩ } } := by
    induction l with
    | nil => intro t; simp
    | cons q l ih => intro t; rw [List.foldl_cons, ih]; simp [State.relay]
  have hexec : exec (.lmBase .up m) s = .next (if s.level.member then
      ({ s with level := { s.level with out := s.level.out ++ dnPairs.map fun q => ⟨q, lmBaseCode, m⟩ } } : State).recordBase m.serial
      else { s with level := { s.level with out := s.level.out ++ dnPairs.map fun q => ⟨q, lmBaseCode, m⟩ } }) := by
    refine congrArg Host.Outcome.next ((if_neg (by simp [hup', ← hc])).trans ?_)
    rw [State.hear_of_joined hal, hfold]
  refine ⟨_, hexec, ?_⟩
  cases hm : s.level.member with
  | true =>
    obtain ⟨j, hb⟩ := State.recordBase_eq
      ({ s with level := { s.level with out := s.level.out ++ dnPairs.map fun q => ⟨q, lmBaseCode, m⟩ } } : State) m.serial
    rw [if_pos rfl, hb]
    exact ⟨rfl, rfl, rfl⟩
  | false => exact ⟨rfl, rfl, rfl⟩

theorem lmEcho_returns (hup : s.half.w.safeUp = true) (hc : m.crc = lmCrc lmEchoCode m) (hal : s.level.alone = false) :
    exec (.lmEcho .up m) s = .next { s with level := { s.level with out := s.level.out ++ [⟨.up, lmEchoCode, m⟩] } } := by
  have hup' : s.levelUp = true := hup
  refine congrArg Host.Outcome.next ((if_neg (by simp [hup', ← hc])).trans ((if_pos (by simp)).trans ?_))
  rw [State.hear_of_joined hal]
  rfl

theorem lmEcho_ends (hup : s.half.w.safeUp = true) (hc : m.crc = lmCrc lmEchoCode m) (he : m.arg.toNat = s.level.echo) :
    exec (.lmEcho (.dn i) m) s = .next s := by
  have hup' : s.levelUp = true := hup
  exact congrArg Host.Outcome.next ((if_neg (by simp [hup', ← hc])).trans (if_neg (by simp [he])))

theorem lmWithdraw_heard (hup : s.half.w.safeUp = true) (hc : m.crc = lmCrc lmWithdrawCode m) :
    exec (.lmWithdraw (.dn i) m) s =
      .next (if s.level.acts then s.maskMember m.position.toNat else (s.maskMember m.position.toNat).relay .up lmWithdrawCode m) := by
  have hup' : s.levelUp = true := hup
  exact congrArg Host.Outcome.next (if_neg (by simp [hup', ← hc]))

theorem lmWithdraw_masks (hup : s.half.w.safeUp = true) (hc : m.crc = lmCrc lmWithdrawCode m) (hj : s.mbx.jobs = []) (hr : s.rt = [])
    (hacts : s.level.acts = true) :
    Completes (.lmWithdraw (.dn i) m) s fun t =>
      (∀ x, x ∈ t.level.members ↔ ∃ y ∈ s.level.members,
        x = if y.position = m.position.toNat then { y with inBarrier := false } else y) ∧
      m.position.toNat ∉ t.level.joining ∧ { t with level := s.level } = s := by
  have hexec := lmWithdraw_heard (i := i) hup hc
  rw [if_pos hacts, State.maskMember_of_quiet hj hr, if_pos hacts] at hexec
  refine ⟨_, hexec, fun x => ?_, ?_, rfl⟩
  · simp only [List.mem_map, eq_comm (a := x)]
  · simp [List.mem_filter]

theorem lmWithdraw_relays (hup : s.half.w.safeUp = true) (hc : m.crc = lmCrc lmWithdrawCode m) (hj : s.mbx.jobs = []) (hr : s.rt = [])
    (hacts : s.level.acts = false) : exec (.lmWithdraw (.dn i) m) s =
      .next { s with level := { s.level with out := s.level.out ++ [⟨.up, lmWithdrawCode, m⟩] } } := by
  have hexec := lmWithdraw_heard (i := i) hup hc
  rw [hacts, State.maskMember_of_quiet hj hr, hacts] at hexec
  exact hexec

end Sys2Proof.Machine

open Sys2Proof Sys2Proof.Machine

/-- Settles O47: each message by its own lemma. -/
theorem levelMessages : Obligations.LevelMessages := by
  intro s i m hup
  exact ⟨fun hc ha => ⟨fun hacts hst hnew => ⟨lmAnnounce_admits hup hc ha hacts hst hnew, lmAnnounce_refuses hup hc ha hacts hst⟩,
      fun hacts _ => lmAnnounce_relays hup hc ha hacts⟩,
    fun hc hs => ⟨lmAdmit_admits hup hc hs, fun j k hw hj hcode hk hv => lmAdmit_completes hup hc hs hw hj hcode hk hv⟩,
    lmRefuse_servesAlone hup, lmBase_relays hup, fun hc hal => ⟨lmEcho_returns hup hc hal, lmEcho_ends hup hc⟩,
    fun hc hj hr => ⟨lmWithdraw_masks hup hc hj hr, lmWithdraw_relays hup hc hj hr⟩⟩

end

section
/-! The timers of the level tree: announcements, formation, releases, calibration (15 R365-R372, R381). -/
namespace Sys2Proof.Machine

variable {s : State}

/-! ### Announcements and releases -/

theorem announceTimer_checks (hup : s.half.w.safeUp = true) (hc : s.level.checking = true) :
    Completes .announceTimer s fun t =>
      Says s.level.out t.level.out .up lmAnnounceCode 0xFF 1 s.eng.serial ∧ { t with level := s.level } = s := by
  have hup' : s.levelUp = true := hup
  exact ⟨_, congrArg Host.Outcome.next ((if_neg (by simp [hup'])).trans (if_pos hc)), State.lmSend_says .., rfl⟩

theorem announceTimer_announces (hup : s.half.w.safeUp = true) (hc : s.level.checking = false) (hacts : s.level.acts = false)
    (hm : s.level.member = false) (hr : s.level.refused = false) (hst : s.eng.state = .ready) (hp : s.level.position = 0) :
    Completes .announceTimer s fun t =>
      Says s.level.out t.level.out .up lmAnnounceCode 0xFF 0 s.eng.serial ∧ { t with level := s.level } = s := by
  have hup' : s.levelUp = true := hup
  have hexec : exec .announceTimer s =
      .next (s.lmSend .up lmAnnounceCode (if s.level.position = 0 then 0xFF else s.level.position) ifLevel aLevel s.eng.serial 0) :=
    congrArg Host.Outcome.next ((if_neg (by simp [hup'])).trans ((if_neg (by simp [hc])).trans ((if_neg (by simp [hacts, hm])).trans
      ((if_neg (by simp [hr])).trans (if_pos (by simp [hst]))))))
  rw [if_pos hp] at hexec
  exact ⟨_, hexec, State.lmSend_says .., rfl⟩

theorem levelRelease_heard (hup : s.half.w.safeUp = true) (hacts : s.level.acts = false) :
    exec .levelRelease s = .next (if s.level.member && s.level.delay.isSome then s.edge.enterService else s.edge) := by
  have hup' : s.levelUp = true := hup
  exact congrArg Host.Outcome.next (if_neg (by simp [hup', hacts]))

theorem levelRelease_forwards (hup : s.half.w.safeUp = true) (hacts : s.level.acts = false)
    (h : s.level.member = false ∨ s.level.delay = none) :
    exec .levelRelease s = .next { s with level := { s.level with edges := s.level.edges + 1 } } := by
  rw [levelRelease_heard hup hacts, if_neg (by rcases h with h | h <;> simp [h])]
  rfl

theorem levelRelease_serves {d : Nat} (hup : s.half.w.safeUp = true) (hacts : s.level.acts = false) (hm : s.level.member = true)
    (hd : s.level.delay = some d) (hst : s.eng.state = .ready) (hw : s.eng.warm = false) (hb : s.bothServe = true) :
    Completes .levelRelease s fun t =>
      t.eng.state = .service ∧ t.eng.limp = false ∧ t.level.ready = true ∧ t.level.edges = s.level.edges + 1 := by
  have hexec := levelRelease_heard hup hacts
  rw [if_pos (by simp [hm, hd]), State.enterService_cold (s := s.edge) hst hw] at hexec
  have hb' : s.edge.bothServe = true := hb
  exact ⟨_, hexec, if_pos hb', by simp [State.openService, hb'], rfl, rfl⟩

/-! ### Formation -/

/-- Messages that leave change nothing else. -/
theorem State.foldl_lmSend (f : State → Pair → State)
    (hf : ∀ t q, ∃ o, f t q = { t with level := { t.level with out := o } }) (l : List Pair) :
    ∀ t : State, ∃ o, l.foldl f t = { t with level := { t.level with out := o } } := by
  induction l with
  | nil => exact fun t => ⟨_, rfl⟩
  | cons q l ih =>
    intro t
    obtain ⟨o, ho⟩ := hf t q
    obtain ⟨o', ho'⟩ := ih (f t q)
    rw [List.foldl_cons, ho', ho]
    exact ⟨_, rfl⟩

theorem State.echoRound_eq (s : State) :
    ∃ o, s.echoRound = { s with level := { s.level with echo := topOut (2 ^ 16) (s.level.echo + 1), out := o } } := by
  unfold State.echoRound
  exact State.foldl_lmSend _ (fun t q => ⟨_, rfl⟩) _ _

/-- A release with an echo round: the members that have been calibrated are in the barrier (15 R369). -/
theorem State.echoRound_release (s : State) :
    ∃ o, s.echoRound.release s.level.joining = { s with level := { s.level with
      echo := topOut (2 ^ 16) (s.level.echo + 1), out := o, edges := s.level.edges + 1
      members := s.level.members.map fun x => if s.level.joining.contains x.position then { x with inBarrier := true } else x
      joining := s.level.joining.filter fun q => !s.level.joining.contains q } } := by
  obtain ⟨o, ho⟩ := s.echoRound_eq
  rw [ho]
  exact ⟨_, rfl⟩

theorem filter_not_contains_self (l : List Nat) : (l.filter fun q => !l.contains q) = [] :=
  List.filter_eq_nil_iff.2 fun q hq => by simpa using hq

theorem inBarrier_of_joining {ms : List Member} {js : List Nat} {x : Member}
    (hx : x ∈ ms.map fun x => if js.contains x.position then { x with inBarrier := true } else x) (hp : x.position ∈ js) :
    x.inBarrier = true := by
  obtain ⟨y, -, rfl⟩ := List.mem_map.1 hx
  by_cases hy : js.contains y.position = true
  · rw [if_pos hy]
  · rw [if_neg hy] at hp
    exact absurd (List.contains_iff_mem.2 hp) hy

theorem formation_forms (hacts : s.level.acts = true) (hst : s.eng.state = .ready) (hf : s.level.formed = false)
    (hw : s.eng.warm = false) (hb : s.bothServe = true) (hbase : s.level.base ≠ 0xFFFFFFFFFFFFFFFF) :
    Completes .formation s fun t =>
      t.eng.state = .service ∧ t.level.formed = true ∧ t.level.base = s.level.base + 1 ∧ t.level.position = 0 ∧
      t.level.member = true ∧ t.level.count = s.level.members.length + 1 ∧ t.level.edges = s.level.edges + 1 ∧
      t.level.echo = topOut (2 ^ 16) (s.level.echo + 1) ∧ t.level.joining = [] ∧
      (∀ x ∈ t.level.members, x.position ∈ s.level.joining → x.inBarrier = true) ∧ t.level.delay = some 1000 := by
  obtain ⟨o, ho⟩ := State.foldl_lmSend (fun t q => t.lmSend q lmBaseCode 0xFF 0 0 (s.level.base + 1) 0) (fun t q => ⟨_, rfl⟩)
    (dnPairs.filter fun q => s.level.members.any fun x => x.pair == pairNo q) s
  obtain ⟨j, hj⟩ := State.recordBase_eq { s with level := { s.level with out := o } } (s.level.base + 1)
  obtain ⟨c, hc⟩ : ∃ c : State, c = { s with
      jr := j
      level := { s.level with out := o, base := s.level.base + 1, formed := true, member := true, alone := false, position := 0
                              count := s.level.members.length + 1, delay := some 1000 } } := ⟨_, rfl⟩
  have hexec : exec .formation s = .next (c.echoRound.release c.level.joining).enterService := by
    refine congrArg Host.Outcome.next ((if_pos (by simp [hacts, hst, hf, hw])).trans ?_)
    dsimp only
    rw [if_neg (show ¬ s.level.base = 0xFFFFFFFFFFFFFFFF#64 from hbase), ho, hj, hc]
  obtain ⟨o', ho'⟩ := c.echoRound_release
  rw [ho', State.enterService_cold (by rw [hc]; exact hst) (by rw [hc]; exact hw), hc] at hexec
  refine ⟨_, hexec, if_pos hb, rfl, rfl, rfl, rfl, rfl, rfl, rfl, filter_not_contains_self _, fun x hx hp => ?_, rfl⟩
  exact inBarrier_of_joining hx hp

theorem formation_waits (hw : s.eng.warm = true) (hr : s.eng.recovered = false) : exec .formation s = .next s :=
  congrArg Host.Outcome.next (if_neg (by simp [hw, hr]))

theorem barrierReleaseTimer_releases (hacts : s.level.acts = true) (hf : s.level.formed = true) (hsv : s.serving = true)
    (hwd : s.level.withdrawn = false) :
    Completes .barrierReleaseTimer s fun t =>
      t.level.edges = s.level.edges + 1 ∧ t.level.echo = topOut (2 ^ 16) (s.level.echo + 1) ∧ t.level.joining = [] ∧
      (∀ x ∈ t.level.members, x.position ∈ s.level.joining → x.inBarrier = true) ∧ { t with level := s.level } = s := by
  have hexec : exec .barrierReleaseTimer s = .next (s.echoRound.release s.level.joining) :=
    congrArg Host.Outcome.next (if_pos (by simp [hacts, hf, hsv, hwd]))
  obtain ⟨o, ho⟩ := s.echoRound_release
  rw [ho] at hexec
  exact ⟨_, hexec, rfl, rfl, filter_not_contains_self _, fun x hx hp => inBarrier_of_joining hx hp, rfl⟩

/-! ### Members that fall silent, and the absent datum engine -/

theorem not_inBarrier_of_masked {ms : List Member} {x : Member} {pos : Nat}
    (hx : x ∈ ms.map fun x => if x.position = pos then { x with inBarrier := false } else x) (hp : x.position = pos) :
    x.inBarrier = false := by
  obtain ⟨y, -, rfl⟩ := List.mem_map.1 hx
  by_cases hy : y.position = pos
  · rw [if_pos hy]
  · rw [if_neg hy] at hp
    exact absurd hp hy

theorem memberSilent_masks (position : Byte) (hacts : s.level.acts = true) (hj : s.mbx.jobs = []) (hr : s.rt = []) :
    Completes (.memberSilent position) s fun t =>
      (∀ x ∈ t.level.members, x.position = position.toNat → x.inBarrier = false) ∧ position.toNat ∉ t.level.joining ∧
      { t with level := s.level } = s := by
  have hexec : exec (.memberSilent position) s = .next (s.maskMember position.toNat) := rfl
  rw [State.maskMember_of_quiet hj hr, if_pos hacts] at hexec
  exact ⟨_, hexec, fun x hx hp => not_inBarrier_of_masked hx hp, by simp [List.mem_filter], rfl⟩

theorem datumAbsent_servesAlone (hst : s.eng.state = .ready) (hacts : s.level.acts = false) (hw : s.eng.warm = false)
    (hb : s.bothServe = true) :
    Completes .datumAbsent s fun t =>
      t.eng.state = .service ∧ t.level.alone = true ∧ t.level.member = false ∧ t.level.position = 0 ∧ t.level.count = 1 ∧
      (t.mbx, t.half, t.rt, t.img, t.bnd, t.safe) = (s.mbx, s.half, s.rt, s.img, s.bnd, s.safe) := by
  have hexec : exec .datumAbsent s = .next s.serveAlone := congrArg Host.Outcome.next (if_pos (by simp [hst, hacts]))
  have halone : s.serveAlone =
      ({ s with level := { s.level with member := false, alone := true, position := 0, count := 1 } } : State).openService :=
    State.enterService_cold hst hw
  rw [halone] at hexec
  exact ⟨_, hexec, if_pos hb, rfl, rfl, rfl, rfl, rfl⟩

/-! ### Calibration -/

/-- The engine's own release delay. -/
def State.delayed (s : State) (ns : U16) : State := { s with level := { s.level with delay := some (1000 - ns.toNat) } }

theorem calibrationDone_own {position : Byte} {ns : U16} {ok : Bool} (hp : position.toNat = s.level.position)
    (h : s.level.acts = false ∨ position = 0) : exec (.calibrationDone position ns ok) s =
      .next (if ok && ns.toNat ≤ 1000 then s.delayed ns else (s.delayed ns).log engineSide 0 0x0011 position.toNat 0 []) := by
  have hown : ¬ (s.level.acts && position.toNat ≠ 0) = true := by rcases h with h | rfl <;> simp [*]
  exact congrArg Host.Outcome.next ((if_neg hown).trans (if_pos hp))

theorem calibrationDone_sets {position : Byte} {ns : U16} {ok : Bool} (hp : position.toNat = s.level.position)
    (h : s.level.acts = false ∨ position = 0) (hok : ok = true) (hns : ns.toNat ≤ 1000) :
    exec (.calibrationDone position ns ok) s = .next { s with level := { s.level with delay := some (1000 - ns.toNat) } } := by
  rw [calibrationDone_own hp h, if_pos (by simp [hok, hns])]
  rfl

theorem calibrationDone_fails {position : Byte} {ns : U16} {ok : Bool} (hp : position.toNat = s.level.position)
    (h : s.level.acts = false ∨ position = 0) (hbad : ok = false ∨ 1000 < ns.toNat) :
    Completes (.calibrationDone position ns ok) s fun t =>
      t.safe = (s.log engineSide 0 0x0011 position.toNat 0 []).safe ∧ t.level.delay = some (1000 - ns.toNat) ∧
      { t with safe := s.safe, level := { t.level with delay := s.level.delay } } = s := by
  have hexec := calibrationDone_own (ns := ns) (ok := ok) hp h
  rw [if_neg (by rcases hbad with h | h <;> simp [h])] at hexec
  refine ⟨_, hexec, State.log_safe_of_link (s := s) (u := s.delayed ns) (fun _ => rfl) (fun _ => rfl) rfl rfl rfl .., ?_, ?_⟩
  · rw [State.log_level]
    rfl
  · rw [State.log_eq]
    rfl

theorem calibrationDone_masks {position : Byte} {ns : U16} (hacts : s.level.acts = true) (hp : position ≠ 0) (hns : 1000 < ns.toNat)
    (hj : s.mbx.jobs = []) (hr : s.rt = []) :
    Completes (.calibrationDone position ns true) s fun t =>
      (∀ x ∈ t.level.members, x.position = position.toNat → x.inBarrier = false) ∧ position.toNat ∉ t.level.joining ∧
      t.safe.events = (s.log engineSide 0 0x0011 position.toNat 0 []).safe.events := by
  have hpn : position.toNat ≠ 0 := fun h => hp (BitVec.eq_of_toNat_eq h)
  have hexec : exec (.calibrationDone position ns true) s =
      .next ((s.maskMember position.toNat).log engineSide 0 0x0011 position.toNat 0 []) :=
    congrArg Host.Outcome.next ((if_pos (by simp [hacts, hpn])).trans (if_neg (by simp [hns])))
  rw [State.maskMember_of_quiet hj hr, if_pos hacts] at hexec
  refine ⟨_, hexec, ?_, ?_, ?_⟩
  · rw [State.log_level]
    exact fun x hx hp => not_inBarrier_of_masked hx hp
  · rw [State.log_level]
    simp [List.mem_filter]
  · rw [State.log_events, State.log_events]
    rfl

end Sys2Proof.Machine

open Sys2Proof Sys2Proof.Machine

/-- Settles O48: each timer by its own lemma. -/
theorem levelTimers : Obligations.LevelTimers := by
  intro s
  exact ⟨fun hup => ⟨announceTimer_checks hup, announceTimer_announces hup,
      fun hacts => ⟨levelRelease_forwards hup hacts, fun _ => levelRelease_serves hup hacts⟩⟩,
    fun hst hc => congrArg Host.Outcome.next (if_pos (by simp [hst, hc])),
    formation_forms, formation_waits, barrierReleaseTimer_releases, memberSilent_masks, datumAbsent_servesAlone,
    fun _ _ _ hp h => ⟨calibrationDone_sets hp h, calibrationDone_fails hp h⟩, fun _ _ => calibrationDone_masks⟩

end

section
/-! What a step reads of the halves and of the store, and that the bookkeeping of outputs leaves it as it is
(03 R59; 06 R128, R136; 13 R303, R305; 17 R413). -/
namespace Sys2Proof.Machine

/-- What searches, masks and rows are read from on a half. -/
def HalfSt.reads (x : HalfSt) :
    HCode × FCode × Nat × List HeadRes × List RowEnt × Finder × List Unplaced × List MaskCell :=
  (x.code, x.fw, x.rate, x.heads, x.vocCache, x.regions, x.unplaced, x.maskCache)

/-- Two states whose halves and images give a step the same. -/
structure SameReads (s t : State) : Prop where
  img : t.img = s.img
  halves : ∀ h, (t.hs h).reads = (s.hs h).reads

namespace SameReads

variable {s t u : State} {h : Half}

theorem refl (s : State) : SameReads s s := ⟨rfl, fun _ => rfl⟩

theorem trans (k : SameReads s t) (l : SameReads t u) : SameReads s u :=
  ⟨l.img.trans k.img, fun g => (l.halves g).trans (k.halves g)⟩

theorem foldl {α : Type} {f : State → α → State} (hf : ∀ t x, SameReads t (f t x)) (l : List α) (s : State) :
    SameReads s (l.foldl f s) := by
  induction l generalizing s with
  | nil => exact refl s
  | cons x l ih => exact (hf s x).trans (ih _)

theorem of_eq (himg : t.img = s.img) (hhalf : t.half = s.half) : SameReads s t :=
  ⟨himg, fun g => by rw [State.hs, hhalf, ← State.hs]⟩

theorem onHalf (s : State) (h : Half) {f : HalfSt → HalfSt} (hf : ∀ x, (f x).reads = x.reads) : SameReads s (s.onHalf h f) := by
  refine ⟨rfl, fun g => ?_⟩
  cases h <;> cases g
  · exact hf _
  · rfl
  · rfl
  · exact hf _

theorem eachHalf (s : State) (hs : List Half) {f : HalfSt → HalfSt} (hf : ∀ x, (f x).reads = x.reads) : SameReads s (s.eachHalf hs f) :=
  foldl (fun t h => onHalf t h hf) hs s

/-! ### What is read -/

theorem parts (k : SameReads s t) (h : Half) :
    (t.hs h).code = (s.hs h).code ∧ (t.hs h).fw = (s.hs h).fw ∧ (t.hs h).rate = (s.hs h).rate ∧ (t.hs h).heads = (s.hs h).heads ∧
      (t.hs h).vocCache = (s.hs h).vocCache ∧ (t.hs h).regions = (s.hs h).regions ∧ (t.hs h).unplaced = (s.hs h).unplaced ∧
      (t.hs h).maskCache = (s.hs h).maskCache := by
  have e := k.halves h
  simpa only [HalfSt.reads, Prod.mk.injEq] using e

theorem serves (k : SameReads s t) (h : Half) : (t.hs h).serves = (s.hs h).serves := by
  obtain ⟨hc, -⟩ := k.parts h
  simp only [HalfSt.serves, hc]

theorem bothServe (k : SameReads s t) : t.bothServe = s.bothServe := by
  have hw : t.half.w.serves = s.half.w.serves := k.serves .west
  have he : t.half.e.serves = s.half.e.serves := k.serves .east
  rw [State.bothServe, hw, he, State.bothServe]

theorem image (k : SameReads s t) (d : Digest) : t.image d = s.image d := by rw [State.image, k.img, State.image]

theorem imageOn (k : SameReads s t) (h : Half) (d : Digest) : t.imageOn h d = s.imageOn h d := by
  unfold State.imageOn
  rw [k.image, k.bothServe]

theorem imageGone (k : SameReads s t) (h : Half) (d : Digest) : t.imageGone h d = s.imageGone h d := by
  unfold State.imageGone
  rw [k.image, k.bothServe]

theorem rowsOn (k : SameReads s t) (h : Half) (b : Binding) (all : Bool) : t.rowsOn h b all = s.rowsOn h b all := by
  obtain ⟨-, -, -, hh, hv, -⟩ := k.parts h
  unfold State.rowsOn HalfSt.headFor
  rw [hh, hv, k.imageOn]

theorem finderView (k : SameReads s t) (h : Half) (j : FJob) (d : Digest) (v : FView) : t.finderView h j d v = s.finderView h j d v := by
  obtain ⟨-, -, -, -, -, hr, -⟩ := k.parts h
  unfold State.finderView
  rw [hr]

theorem envOn (k : SameReads s t) (h : Half) (both : Bool) (b : Binding) : t.envOn h both b = s.envOn h both b := by
  obtain ⟨-, -, -, -, -, -, -, hm⟩ := k.parts h
  unfold State.envOn
  simp only [k.imageOn, k.rowsOn, k.finderView, hm]

variable {q r : Route}

theorem paired (k : SameReads s t) (hc : q.chains = r.chains) : t.paired q = s.paired r := by
  unfold State.paired
  rw [hc, k.bothServe]

theorem routeHalves (k : SameReads s t) (hh : q.half = r.half) (hc : q.chains = r.chains) : t.routeHalves q = s.routeHalves r := by
  unfold State.routeHalves
  rw [k.paired hc, hh]

theorem envFor (k : SameReads s t) (hh : q.half = r.half) (hc : q.chains = r.chains) (b : Binding) : t.envFor b q = s.envFor b r := by
  unfold State.envFor
  rw [k.paired hc, hh, k.envOn]

theorem finderHeld (k : SameReads s t) (h : Half) (b : Binding) : t.finderHeld h b = s.finderHeld h b := by
  obtain ⟨-, -, -, -, -, -, hu, -⟩ := k.parts h
  unfold State.finderHeld
  rw [hu]

theorem searchWaits (k : SameReads s t) (hh : q.half = r.half) (hc : q.chains = r.chains) (b : Binding) :
    t.searchWaits b q = s.searchWaits b r := by
  unfold State.searchWaits
  rw [k.routeHalves hh hc]
  refine congrArg (fun f => (s.routeHalves r).any f) (funext fun h => ?_)
  obtain ⟨-, -, hr, -⟩ := k.parts h
  rw [k.finderHeld, hr]

theorem dataGone (k : SameReads s t) (hh : q.half = r.half) (b : Binding) (gs : List Nat) : t.dataGone b q gs = s.dataGone b r gs := by
  obtain ⟨-, -, -, -, -, hreg, -, hm⟩ := k.parts r.half
  unfold State.dataGone HalfSt.hasMask
  rw [hh, k.imageGone, k.imageGone, k.imageGone, hreg, hm]

end SameReads

/-! ### Outputs -/

theorem HalfSt.clear_reads (x : HalfSt) (w : ClearFor) (n : Nat) : (x.clear w n).reads = x.reads := rfl

namespace SameReads

theorem setRoute (s : State) (r : Route) : SameReads s (s.setRoute r) := of_eq rfl rfl

theorem journal (s : State) (h : Half) (kind subject : Nat) (p : List Byte) : SameReads s (s.journal h kind subject p) :=
  of_eq (by rw [State.journal_eq]) (by rw [State.journal_eq])

theorem sendTok (s : State) (h : Half) (c : Option Nat) (x : TokEntry) : SameReads s (s.sendTok h c x) := by
  unfold State.sendTok
  split
  · exact of_eq rfl rfl
  · exact refl s

theorem queueRecs (s : State) (r : Route) (recs : List (List Byte)) : SameReads s (s.queueRecs r recs) := of_eq rfl rfl

theorem emit (s : State) (r : Route) (recs : List OutRec) : SameReads s (s.emit r recs) := queueRecs ..

theorem freeSpent (s : State) (r : Route) : SameReads s (s.freeSpent r) := by
  unfold State.freeSpent
  split
  · exact refl s
  · exact (eachHalf s _ fun _ => by dsimp only; split <;> rfl).trans (setRoute ..)

theorem output (s : State) (r : Route) (tok : Option TokEntry) (recs : List OutRec) (more : Bool) :
    SameReads s (s.output r tok recs more) := by
  have h : ∀ t : State, SameReads t (match t.route r.handle with
      | some q => t.freeSpent q
      | none => t) := by
    intro t
    split
    · exact freeSpent ..
    · exact refl t
  unfold State.output
  dsimp only
  refine trans ?_ (h _)
  cases tok with
  | none => exact emit ..
  | some x => exact (sendTok s ..).trans (emit ..)

end SameReads

/-! ### The rest of an output's route -/

namespace Route.OutputOf

variable {q r : Route}

theorem promptN (h : q.OutputOf r) : q.promptN = r.promptN := by have := congrArg Route.promptN h; exact this
theorem promptDigest (h : q.OutputOf r) : q.promptDigest = r.promptDigest := by have := congrArg Route.promptDigest h; exact this
theorem tries (h : q.OutputOf r) : q.tries = r.tries := by have := congrArg Route.tries h; exact this
theorem intake (h : q.OutputOf r) : q.intake = r.intake := by have := congrArg Route.intake h; exact this
theorem intakeEnded (h : q.OutputOf r) : q.intakeEnded = r.intakeEnded := by have := congrArg Route.intakeEnded h; exact this
theorem inSeq (h : q.OutputOf r) : q.inSeq = r.inSeq := by have := congrArg Route.inSeq h; exact this
theorem half (h : q.OutputOf r) : q.half = r.half := by have := congrArg Route.half h; exact this
theorem chains (h : q.OutputOf r) : q.chains = r.chains := by have := congrArg Route.chains h; exact this
theorem entries (h : q.OutputOf r) : q.entries = r.entries := by have := congrArg Route.entries h; exact this
theorem copies (h : q.OutputOf r) : q.copies = r.copies := by have := congrArg Route.copies h; exact this
theorem markDue (h : q.OutputOf r) : q.markDue = r.markDue := by have := congrArg Route.markDue h; exact this
theorem pauseDue (h : q.OutputOf r) : q.pauseDue = r.pauseDue := by have := congrArg Route.pauseDue h; exact this
theorem saving (h : q.OutputOf r) : q.saving = r.saving := by have := congrArg Route.saving h; exact this
theorem forcedMore (h : q.OutputOf r) : q.forcedMore = r.forcedMore := by have := congrArg Route.forcedMore h; exact this
theorem openDue (h : q.OutputOf r) : q.openDue = r.openDue := by have := congrArg Route.openDue h; exact this

end Route.OutputOf

end Sys2Proof.Machine

end

section
/-! Stream records: what joins the intake, what is refused, and the opening release that follows the last prompt token
(07 R162-R169; 01 R19). -/
namespace Sys2Proof.Machine

variable {s : State} {h : Half} {x : InRec} {r : Route} {b : Binding} {ts : List Nat}

/-! ### Prompt tokens -/

/-- A route once prompt tokens of its have been released (07 R165, R168; 02 R48). -/
def Route.promptedBy (r : Route) (b : Binding) (ts : List Nat) : Route :=
  let p := profileOf b.profile
  { r with promptN := r.promptN + ts.length, promptDigest := crc64From r.promptDigest (u32s ts), tries := 0, tried := []
           rel := { r.rel with pos := { r.rel.pos with
             pen := if p.penPrompt then ts.foldl (fun h t => h.add p.penWindow t) r.rel.pos.pen else r.rel.pos.pen } } }

/-- The release of prompt tokens is bookkeeping of the route's outputs. -/
theorem State.releasePrompt_work (s : State) (b : Binding) (r : Route) (ts : List Nat) (last : Bool) :
    RouteWork s (s.releasePrompt b r ts last) ∧ SameReads s (s.releasePrompt b r ts last) ∧
      ∃ q, q.OutputOf (r.promptedBy b ts) ∧ (s.releasePrompt b r ts last).rt = s.rt.put (routeIndex r.handle) q := by
  obtain ⟨a, ha⟩ : ∃ a, a = s.journal r.stream 0x20 r.handle
    (toLe 4 r.salt ++ toLe 4 r.promptN ++ toLe 4 ts.length ++ toLe 4 (b2n last) ++ u32s ts) := ⟨_, rfl⟩
  have hwork : RouteWork s a := ha ▸ (Aside.journal s ..).work
  have hreads : SameReads s a := ha ▸ SameReads.journal ..
  have hrt : a.rt = s.rt := by rw [ha]; exact State.journal_rt ..
  have hset (t : State) (q : Route) (hq : q.OutputOf (r.promptedBy b ts)) (htw : RouteWork s t) (htk : SameReads s t) (ht : t.rt = s.rt) :
      RouteWork s (t.setRoute q) ∧ SameReads s (t.setRoute q) ∧
        ∃ q, q.OutputOf (r.promptedBy b ts) ∧ (t.setRoute _).rt = s.rt.put (routeIndex r.handle) q :=
    ⟨htw.trans (.setRoute ..), htk.trans (.setRoute ..), q, hq, by rw [State.setRoute, ht, hq.handle]; rfl⟩
  unfold State.releasePrompt
  dsimp only
  rw [← ha]
  split
  · exact hset a _ (State.twin_outputOf ..) hwork hreads hrt
  · split
    · have hsent (l : List (Nat × List Nat × Bool)) (t : State) :
          Aside t (l.foldl (fun t x => t.sendTok r.half (r.chains.get r.half) (promptTok r.handle x)) t) ∧
          SameReads t (l.foldl (fun t x => t.sendTok r.half (r.chains.get r.half) (promptTok r.handle x)) t) :=
        ⟨Aside.foldl (fun t x => Aside.sendTok t ..) l t, SameReads.foldl (fun t x => SameReads.sendTok t ..) l t⟩
      obtain ⟨haside, hsame⟩ := hsent (promptPieces promptEntry last (ts.length + 1) r.promptN ts) a
      refine hset _ _ (Route.OutputOf.trans ?_ (State.twin_outputOf a _)) (hwork.trans haside.work) (hreads.trans hsame)
        (haside.rt.trans hrt)
      rfl
    · obtain ⟨q, hq, hout, -⟩ := a.output_rt (a.twin (r.promptedBy b ts)) none
        ((promptPieces promptRecord last (ts.length + 1) r.promptN ts).map fun x => ⟨0x81, b2n x.2.2, stOk, u32s x.2.1⟩) false
      refine ⟨hwork.trans (.output ..), hreads.trans (.output ..), q, (State.twin_outputOf a _).trans hq, ?_⟩
      exact hout.trans (by rw [hrt, (State.twin_outputOf a _).handle]; rfl)

/-- An opening that finds everything free does so in any state that reads the same. -/
theorem OpensFreely.congr {s t : State} {r q : Route} (ho : OpensFreely s b r) (k : SameReads s t) (hh : q.half = r.half)
    (hc : q.chains = r.chains) (hg : q.rel.pos.g = r.rel.pos.g) (hsw : q.rel.pos.sw = r.rel.pos.sw) : OpensFreely t b q where
  searches := (k.searchWaits hh hc b).trans ho.searches
  data := by rw [hg, k.dataGone hh]; exact ho.data
  set := by
    have ha : allowed (t.envFor b q) q.rel.pos = allowed (s.envFor b r) r.rel.pos := by
      unfold allowed
      rw [k.envFor hh hc, hg, hsw]
    rw [ha]
    exact ho.set

/-- Where nothing waits for the route, and its opening is free, the last prompt token brings the opening release (07 R165, R166;
01 R19). -/
theorem State.promptEnds_opens (hb : s.binding r.binding = some b) (hact : b.state = .active) (hnw : NothingWaits r)
    (hj : s.mbx.jobs = []) (hwarn : s.safe.warn = false) (ho : OpensFreely s b r) :
    RouteWork s (s.promptEnds b r ts) ∧ ∃ q, (s.promptEnds b r ts).route r.handle = some q ∧ q.promptN = r.promptN + ts.length ∧
      q.promptDigest = crc64From r.promptDigest (u32s ts) ∧ q.intake = [] ∧ q.intakeEnded = true ∧ q.state = r.state ∧
      q.openDue = false ∧ q.forcedMore = false ∧ q.rel.gen = r.rel.gen ∧ q.inSeq = r.inSeq := by
  obtain ⟨hwork, hreads, y, hy, hrt⟩ := s.releasePrompt_work b { r with intakeEnded := true, intake := [] } ts true
  obtain ⟨u, hu⟩ : ∃ u, u = s.releasePrompt b { r with intakeEnded := true, intake := [] } ts true := ⟨_, rfl⟩
  rw [← hu] at hwork hreads hrt
  have hyh : y.handle = r.handle := hy.handle
  have hyb : y.binding = r.binding := hy.binding
  have hroute : u.route r.handle = some y := by
    rw [← hyh]
    exact State.route_put (t := s.rt) (by rw [hrt, hyh])
  have hub : u.binding y.binding = some b := by rw [State.binding_congr hwork.bnd, hyb]; exact hb
  have hfree : OpensFreely u b y := ho.congr hreads hy.half hy.chains (by rw [hy.rel]; rfl) (by rw [hy.rel]; rfl)
  have hopen := State.opening_opens hroute hub hfree.searches (by rw [hwork.safe]; exact hwarn) hfree.data (.inl (by have := hfree.set; omega))
  obtain ⟨z, hz⟩ : ∃ z : Route, z = { y with openDue := false, forcedMore := decide ((allowed (u.envFor b y) y.rel.pos).length = 1) } :=
    ⟨_, rfl⟩
  have hmore : z.forcedMore = false := by
    rw [hz]
    have := hfree.set
    exact decide_eq_false (by omega)
  rw [← hz] at hopen
  have hzh : z.handle = r.handle := by rw [hz]; exact hyh
  have hzr : (u.setRoute z).route r.handle = some z := by rw [← hzh]; exact State.route_setRoute_same ..
  have hzb : (u.setRoute z).binding z.binding = some b := by rw [hz]; exact hub
  have hafter := State.afterRelease_still hzr hzb (by rw [hact]; nofun) (by show u.mbx.jobs = []; rw [hwork.mbx]; exact hj)
    (by rw [hz]; exact hy.markDue.trans hnw.mark) (by rw [hz]; exact hy.pauseDue.trans hnw.pause)
    (by rw [hz]; exact hy.entries.trans hnw.entries) (by rw [hz]; exact hy.copies.trans hnw.copies)
  have hends : s.promptEnds b r ts = (u.setRoute z).afterRelease r.handle := by
    rw [State.promptEnds, ← hu, ← hopen]
  rw [hends]
  refine ⟨(hwork.trans (.setRoute ..)).trans hafter.aside.work, z, (hafter.route _).trans hzr, ?_⟩
  rw [hz] at hmore ⊢
  exact ⟨hy.promptN, hy.promptDigest, hy.intake, hy.intakeEnded, hy.state, rfl, hmore, by rw [hy.rel]; rfl, hy.inSeq⟩

/-! ### The refusal table -/

/-- A route whose stream takes records: it is OPEN for intake, and nothing holds it (07 R164, rows 1 to 4). -/
structure TakesRecords (s : State) (h : Half) (x : InRec) (r : Route) (b : Binding) : Prop where
  up : s.streamUp h = true
  route : s.route x.handle.toNat = some r
  binding : s.binding r.binding = some b
  flag : r.intakeFlag = true
  state : r.state = .open
  saving : r.saving = false
  ended : r.intakeEnded = false
  adm : r.adm = none
  active : b.state = .active
  stream : r.stream = h

theorem TakesRecords.refusal (k : TakesRecords s h x r b) (kind vocab : Nat) : recRefusal h kind vocab x r b =
    if x.seq.toNat ≠ r.inSeq then some stArg
    else if !recFormOk kind x then some stArg
    else if kind = kTokens && (words32 (recPayload x)).any fun t => decide (vocab ≤ t) then some stArg
    else if kind = kText && decide (2 ^ 26 < intakeText r.intake + (recPayload x).length) then some stArg
    else if kind = kTokens && decide (2 ^ 20 < intakeToks r.intake + (recPayload x).length / 4) then some stArg
    else none := by
  have hstop : stoppedBinding b = false := by simp [stoppedBinding, k.active]
  unfold recRefusal
  dsimp only
  rw [if_neg (by simp [k.flag, k.state, k.ended, k.adm]), if_neg (by simp [hstop]), if_neg (by simp [k.saving]), if_neg (by simp [k.stream])]

theorem TakesRecords.takeRecord (k : TakesRecords s h x r b) (kind : Nat) :
    s.takeRecord h kind x =
      match recRefusal h kind (tkiOf (s.imageOn r.half b.set.tki)).vocab x r b with
      | some st => s.refuseRecord r x.seq.toNat st
      | none =>
        let waits := s.tokeniserWaits b r || s.imageGone r.half b.set.tki
        let q : Route := { r with inSeq := topOut (2 ^ 32) (r.inSeq + 1), intake := r.intake ++ recItems kind x, intakeEnded := kind == kEnd }
        if !waits && !intakeAgrees (tkiOf (s.imageOn r.half b.set.tki)) (kind == kEnd) q.intake r.promptN r.promptDigest then
          s.refuseRecord r.restarted x.seq.toNat stArg
        else
          let a := s.journalIntake r kind x
          if (kind == kEnd) && (q.intake.isEmpty || (!waits && promptDone (tkiOf (s.imageOn r.half b.set.tki)) q)) then a.promptEnds b q []
          else a.setRoute q := by
  unfold State.takeRecord
  rw [if_neg (by simp [k.up]), k.route]
  dsimp only
  rw [k.binding] <;> rfl

/-- The first records of an intake agree with what has been released, which is nothing (07 R168). -/
theorem TakesRecords.admits (k : TakesRecords s h x r b) {kind : Nat} (hn : r.promptN = 0)
    (hr : recRefusal h kind (tkiOf (s.imageOn r.half b.set.tki)).vocab x r b = none) :
    s.takeRecord h kind x =
      let waits := s.tokeniserWaits b r || s.imageGone r.half b.set.tki
      let q : Route := { r with inSeq := topOut (2 ^ 32) (r.inSeq + 1), intake := r.intake ++ recItems kind x, intakeEnded := kind == kEnd }
      let a := s.journalIntake r kind x
      if (kind == kEnd) && (q.intake.isEmpty || (!waits && promptDone (tkiOf (s.imageOn r.half b.set.tki)) q)) then a.promptEnds b q []
      else a.setRoute q := by
  rw [k.takeRecord, hr]
  dsimp only
  rw [if_neg (by simp [intakeAgrees, hn])]

theorem State.journalIntake_eq (s : State) (r : Route) (kind : Nat) (x : InRec) :
    ∃ j, s.journalIntake r kind x = { s with jr := j } := by
  unfold State.journalIntake
  dsimp only
  rw [State.journal_eq]
  exact ⟨_, rfl⟩

/-- A record that joins the intake changes the route alone. -/
theorem State.joins_intake (s : State) (r : Route) (kind : Nat) (x : InRec) {q : Route} (hq : q.handle = r.handle) {c : Instr}
    (he : exec c s = .next ((s.journalIntake r kind x).setRoute q)) :
    Completes c s fun t => t.rt = s.rt.put (routeIndex r.handle) q ∧
      (t.bnd, t.img, t.eng, t.mbx, t.half, t.str, t.chains) = (s.bnd, s.img, s.eng, s.mbx, s.half, s.str, s.chains) := by
  obtain ⟨j, hj⟩ := s.journalIntake_eq r kind x
  rw [hj] at he
  exact ⟨_, he, by rw [← hq]; rfl, rfl⟩

theorem inText_joins (k : TakesRecords s h x r b) (hseq : x.seq.toNat = r.inSeq) (hn : r.promptN = 0) (hf : recFormOk kText x = true)
    (hlen : intakeText r.intake + (recPayload x).length ≤ 2 ^ 26) :
    Completes (.inText h x) s fun t =>
      t.rt = s.rt.put (routeIndex r.handle)
        { r with inSeq := topOut (2 ^ 32) (r.inSeq + 1), intake := r.intake ++ [.text (x.flags.getLsbD 0) (recPayload x)] } ∧
      (t.bnd, t.img, t.eng, t.mbx, t.half, t.str, t.chains) = (s.bnd, s.img, s.eng, s.mbx, s.half, s.str, s.chains) := by
  have hr : recRefusal h kText (tkiOf (s.imageOn r.half b.set.tki)).vocab x r b = none := by
    rw [k.refusal, if_neg (by simp [hseq]), if_neg (by simp [hf]), if_neg (by simp [kText, kTokens]), if_neg (by simp; omega),
      if_neg (by simp [kText, kTokens])]
  have hq : { r with inSeq := topOut (2 ^ 32) (r.inSeq + 1), intake := r.intake ++ recItems kText x, intakeEnded := kText == kEnd } =
      { r with inSeq := topOut (2 ^ 32) (r.inSeq + 1), intake := r.intake ++ [.text (x.flags.getLsbD 0) (recPayload x)] } := by
    have hended : (kText == kEnd) = r.intakeEnded := k.ended.symm
    rw [hended]
    rfl
  refine s.joins_intake r kText x
    (q := { r with inSeq := topOut (2 ^ 32) (r.inSeq + 1), intake := r.intake ++ [.text (x.flags.getLsbD 0) (recPayload x)] }) rfl ?_
  rw [← hq]
  exact congrArg Host.Outcome.next (k.admits hn hr)

theorem inTokens_joins (k : TakesRecords s h x r b) (hseq : x.seq.toNat = r.inSeq) (hn : r.promptN = 0) (hf : recFormOk kTokens x = true)
    (hv : ∀ t ∈ words32 (recPayload x), t < (tkiOf (s.imageOn r.half b.set.tki)).vocab)
    (hlen : intakeToks r.intake + (recPayload x).length / 4 ≤ 2 ^ 20) :
    Completes (.inTokens h x) s fun t =>
      t.rt = s.rt.put (routeIndex r.handle)
        { r with inSeq := topOut (2 ^ 32) (r.inSeq + 1), intake := r.intake ++ [.toks (words32 (recPayload x))] } ∧
      (t.bnd, t.img, t.eng, t.mbx, t.half, t.str, t.chains) = (s.bnd, s.img, s.eng, s.mbx, s.half, s.str, s.chains) := by
  have hany : ((words32 (recPayload x)).any fun t => decide ((tkiOf (s.imageOn r.half b.set.tki)).vocab ≤ t)) = false :=
    List.any_eq_false.2 fun t ht => by simpa using hv t ht
  have hr : recRefusal h kTokens (tkiOf (s.imageOn r.half b.set.tki)).vocab x r b = none := by
    rw [k.refusal, if_neg (by simp [hseq]), if_neg (by simp [hf]), if_neg (by simp [hany]), if_neg (by simp [kText, kTokens]),
      if_neg (by simp; omega)]
  have hq : { r with inSeq := topOut (2 ^ 32) (r.inSeq + 1), intake := r.intake ++ recItems kTokens x, intakeEnded := kTokens == kEnd } =
      { r with inSeq := topOut (2 ^ 32) (r.inSeq + 1), intake := r.intake ++ [.toks (words32 (recPayload x))] } := by
    have hended : (kTokens == kEnd) = r.intakeEnded := k.ended.symm
    rw [hended]
    rfl
  refine s.joins_intake r kTokens x
    (q := { r with inSeq := topOut (2 ^ 32) (r.inSeq + 1), intake := r.intake ++ [.toks (words32 (recPayload x))] }) rfl ?_
  rw [← hq]
  exact congrArg Host.Outcome.next (k.admits hn hr)

theorem TakesRecords.endAdmitted (k : TakesRecords s h x r b) (hseq : x.seq.toNat = r.inSeq) (hf : recFormOk kEnd x = true) (v : Nat) :
    recRefusal h kEnd v x r b = none := by
  rw [k.refusal, if_neg (by simp [hseq]), if_neg (by simp [hf]), if_neg (by simp [kEnd, kTokens]), if_neg (by simp [kEnd, kText]),
    if_neg (by simp [kEnd, kTokens])]

theorem inEnd_ends (k : TakesRecords s h x r b) (hseq : x.seq.toNat = r.inSeq) (hn : r.promptN = 0) (hf : recFormOk kEnd x = true)
    (hi : r.intake ≠ []) (hp : (tkiOf (s.imageOn r.half b.set.tki)).prompt true r.intake ≠ []) :
    Completes (.inEnd h x) s fun t =>
      t.rt = s.rt.put (routeIndex r.handle) { r with inSeq := topOut (2 ^ 32) (r.inSeq + 1), intakeEnded := true } ∧
      (t.bnd, t.img, t.eng, t.mbx, t.half, t.str, t.chains) = (s.bnd, s.img, s.eng, s.mbx, s.half, s.str, s.chains) := by
  have hq : { r with inSeq := topOut (2 ^ 32) (r.inSeq + 1), intake := r.intake ++ recItems kEnd x, intakeEnded := kEnd == kEnd } =
      { r with inSeq := topOut (2 ^ 32) (r.inSeq + 1), intakeEnded := true } := by
    have hitems : recItems kEnd x = [] := rfl
    rw [hitems, List.append_nil]
    rfl
  have hdone : promptDone (tkiOf (s.imageOn r.half b.set.tki))
      { r with inSeq := topOut (2 ^ 32) (r.inSeq + 1), intake := r.intake ++ recItems kEnd x, intakeEnded := kEnd == kEnd } = false := by
    rw [hq]
    refine decide_eq_false ?_
    have := List.length_pos_iff.2 hp
    show ¬ ((tkiOf (s.imageOn r.half b.set.tki)).prompt true r.intake).length ≤ r.promptN
    omega
  have hempty : (r.intake ++ recItems kEnd x).isEmpty = false := by
    rw [show recItems kEnd x = [] from rfl, List.append_nil]
    simpa using hi
  refine s.joins_intake r kEnd x (q := { r with inSeq := topOut (2 ^ 32) (r.inSeq + 1), intakeEnded := true }) rfl ?_
  refine congrArg Host.Outcome.next ((k.admits hn (k.endAdmitted hseq hf _)).trans ?_)
  rw [← hq]
  refine if_neg ?_
  dsimp only
  rw [hdone, hempty]
  simp

theorem inEnd_opens (k : TakesRecords s h x r b) (hj : s.mbx.jobs = []) (hseq : x.seq.toNat = r.inSeq) (hn : r.promptN = 0)
    (hf : recFormOk kEnd x = true) (hi : r.intake = []) (hnw : NothingWaits r) (ho : OpensFreely s b r) :
    Completes (.inEnd h x) s fun t =>
      (∃ q, t.route r.handle = some q ∧ q.intakeEnded = true ∧ q.intake = [] ∧ q.state = .open ∧ q.openDue = false ∧
        q.forcedMore = false ∧ q.inSeq = topOut (2 ^ 32) (r.inSeq + 1) ∧ q.promptN = 0 ∧ q.rel.gen = r.rel.gen) ∧
      (t.bnd, t.img, t.eng, t.mbx) = (s.bnd, s.img, s.eng, s.mbx) := by
  obtain ⟨j, hjr⟩ := s.journalIntake_eq r kEnd x
  obtain ⟨q0, hq0⟩ : ∃ q0 : Route, q0 =
    { r with inSeq := topOut (2 ^ 32) (r.inSeq + 1), intake := r.intake ++ recItems kEnd x, intakeEnded := kEnd == kEnd } := ⟨_, rfl⟩
  have hexec : exec (.inEnd h x) s = .next (({ s with jr := j } : State).promptEnds b q0 []) := by
    refine congrArg Host.Outcome.next ((k.admits hn (k.endAdmitted hseq hf _)).trans ?_)
    rw [← hjr, hq0]
    exact if_pos (by simp [hi, recItems, kEnd, kText, kTokens])
  have hwarn : s.safe.warn = false := by
    have := k.up
    simp only [State.streamUp, Bool.and_eq_true, Bool.not_eq_true'] at this
    exact this.2
  have hnq : NothingWaits q0 := by
    rw [hq0]
    exact ⟨hnw.entries, hnw.copies, hnw.mark, hnw.pause, hnw.saving⟩
  have hoq : OpensFreely { s with jr := j } b q0 := ho.congr (SameReads.of_eq rfl rfl) (by rw [hq0]) (by rw [hq0]) (by rw [hq0]) (by rw [hq0])
  obtain ⟨hwork, q, hroute, hpn, -, hin, hie, hst, hod, hfm, hgen, hsq⟩ := State.promptEnds_opens (s := { s with jr := j }) (r := q0)
    (ts := []) (by rw [hq0]; exact k.binding) k.active hnq hj hwarn hoq
  refine ⟨_, hexec, ⟨q, by rw [hq0] at hroute ⊢; exact hroute, hie, hin, ?_, hod, hfm, ?_, ?_, ?_⟩, ?_⟩
  · rw [hst, hq0]; exact k.state
  · rw [hsq, hq0]
  · rw [hpn, hq0]; exact hn
  · rw [hgen, hq0]
  · rw [hwork.bnd, hwork.img, hwork.eng, hwork.mbx]

/-! ### Refusals -/

theorem records_refused (k : TakesRecords s h x r b) {c : Instr} {rec : List Byte}
    (hrec : rec = streamRecord r.handle 0x82 0 stArg (topOut (2 ^ 32) r.outSeq) (toLe 4 x.seq.toNat ++ toLe 4 r.inSeq))
    (hwait : r.waitRecs = []) (hroom : (s.str.get h).room rec = true)
    (hc : ((c = .inText h x ∨ c = .inTokens h x ∨ c = .inEnd h x) ∧ x.seq.toNat ≠ r.inSeq ∨
      ∃ kind : Byte, c = .reservedKindRecord h kind x ∧ kind.toNat ≠ kText ∧ kind.toNat ≠ kTokens ∧ kind.toNat ≠ kEnd)) :
    Completes c s fun t =>
      (t.str.get h).queue = (s.str.get h).queue ++ slotsOf rec ∧
      t.rt = s.rt.put (routeIndex r.handle) (s.twin { r with outSeq := topOut (2 ^ 32) (r.outSeq + 1) }) ∧
      { t with str := s.str, rt := s.rt } = s := by
  have hrefuse : exec c s = .next (s.refuseRecord r x.seq.toNat stArg) := by
    have hkind (kind : Nat) (hr : ∀ v, recRefusal h kind v x r b = some stArg) :
        s.takeRecord h kind x = s.refuseRecord r x.seq.toNat stArg := by
      rw [k.takeRecord, hr]
    rcases hc with ⟨hc, hseq⟩ | ⟨kind, rfl, h1, h2, h3⟩
    · have hr (kind v : Nat) : recRefusal h kind v x r b = some stArg := (k.refusal kind v).trans (if_pos hseq)
      rcases hc with rfl | rfl | rfl
      · exact congrArg Host.Outcome.next (hkind kText (hr _))
      · exact congrArg Host.Outcome.next (hkind kTokens (hr _))
      · exact congrArg Host.Outcome.next (hkind kEnd (hr _))
    · have hform : recFormOk kind.toNat x = false := by simp [recFormOk, h1, h2, h3]
      refine congrArg Host.Outcome.next ((if_neg (by simp [h1, h2, h3])).trans (hkind _ fun v => ?_))
      rw [k.refusal, hform]
      simp
  have hemit : s.refuseRecord r x.seq.toNat stArg = s.emit r [⟨0x82, 0, stArg, toLe 4 x.seq.toNat ++ toLe 4 r.inSeq⟩] :=
    if_neg (by simp [k.state])
  obtain ⟨q, hq⟩ : ∃ q, q = s.twin { r with outSeq := topOut (2 ^ 32) (r.outSeq + 1) } := ⟨_, rfl⟩
  have hqo := s.twin_outputOf { r with outSeq := topOut (2 ^ 32) (r.outSeq + 1) }
  have hqw : q.waitRecs = [] ∧ q.stream = h ∧ q.handle = r.handle := by
    rw [hq]
    unfold State.twin
    split <;> exact ⟨hwait, k.stream, rfl⟩
  obtain ⟨hq1, hq2, hq3⟩ := hqw
  have hself : { q with stream := h, waitRecs := [] } = q := by rw [← hq2, ← hq1]
  have htake : (s.str.get h).take [rec] = ({ s.str.get h with queue := (s.str.get h).queue ++ slotsOf rec }, []) := by
    unfold StrSt.take
    rw [if_pos hroom]
    rfl
  have hqueue : s.emit r [⟨0x82, 0, stArg, toLe 4 x.seq.toNat ++ toLe 4 r.inSeq⟩] =
      ({ s with str := s.str.set h { s.str.get h with queue := (s.str.get h).queue ++ slotsOf rec } } : State).setRoute q := by
    have hone : numberRecs r.handle r.outSeq [⟨0x82, 0, stArg, toLe 4 x.seq.toNat ++ toLe 4 r.inSeq⟩] = [rec] := by rw [hrec]; rfl
    unfold State.emit
    rw [hone]
    show s.queueRecs (s.twin { r with outSeq := topOut (2 ^ 32) (r.outSeq + 1) }) [rec] = _
    rw [← hq]
    unfold State.queueRecs
    rw [hq1, hq2, List.nil_append, htake]
    dsimp only
    exact congrArg (State.setRoute _) hself
  refine ⟨_, hrefuse.trans (congrArg Host.Outcome.next (hemit.trans hqueue)), ?_, ?_, rfl⟩
  · show ((s.str.set h _).get h).queue = _
    cases h <;> rfl
  · rw [← hq, ← hq3]
    rfl

end Sys2Proof.Machine

open Sys2Proof Sys2Proof.Machine

/-- Settles O37: the records that the table admits by the intake that they leave, the refused ones by the record that answers
them. -/
theorem recordsAreTaken : Obligations.RecordsAreTaken := by
  intro s h x r b k hj hup hr hb hfl hst hsv hie hadm hact hstr hk
  subst hk
  have hT : TakesRecords s h x r b := ⟨hup, hr, hb, hfl, hst, hsv, hie, hadm, hact, hstr⟩
  exact ⟨fun hseq hn => ⟨inText_joins hT hseq hn, inTokens_joins hT hseq hn, fun hf =>
      ⟨fun hi hnw _ ho => inEnd_opens hT hj hseq hn hf hi hnw ho, inEnd_ends hT hseq hn hf⟩⟩,
    fun c rec hrec hw hroom hc => records_refused hT hrec hw hroom hc⟩

end

section
/-! Frames that have been given to a chain stay with it until an ACK covers them (16 R393), and what a failed check recovers
(09 R203; 13 R301, R303). -/
namespace Sys2Proof.Machine

variable {s t : State} {h : Half} {o : Out}

/-! ### Frames on a chain -/

/-- The frames that a chain has to deliver: those that wait, and those that no ACK has covered. -/
def Chain.holds (x : Chain) : List Out := x.wait ++ x.replay.map (·.out)

theorem Chain.nextOut_splits (x : Chain) : ∀ {l : List Out} {p : Out × List Out}, x.nextOut l = some p → ∀ o ∈ l, o = p.1 ∨ o ∈ p.2
  | [], _, hp => by cases hp
  | y :: l, p, hp => by
    intro o ho
    unfold Chain.nextOut at hp
    split at hp
    · cases hp
      exact List.mem_cons.1 ho
    · split at hp
      · rw [Option.bind_eq_some_iff] at hp
        obtain ⟨r, hr, hp⟩ := hp
        split at hp
        · cases hp
          rcases List.mem_cons.1 ho with rfl | hol
          · exact .inr (List.mem_cons_self ..)
          · exact (x.nextOut_splits hr o hol).imp_right (List.mem_cons_of_mem _)
        · cases hp
      · cases hp

theorem Chain.pump_holds (n : Nat) : ∀ x : Chain, ∀ o ∈ x.holds, o ∈ (x.pump n).holds := by
  induction n with
  | zero => exact fun x o ho => ho
  | succ n ih =>
    intro x o ho
    unfold Chain.pump
    split
    next p hp =>
      refine ih _ o ?_
      unfold Chain.holds Chain.send
      rcases List.mem_append.1 ho with hw | hr
      · rcases x.nextOut_splits hp o hw with rfl | hin
        · simp
        · exact List.mem_append_left _ hin
      · simp only [List.map_append]
        exact List.mem_append_right _ (List.mem_append_left _ hr)
    next => exact ho

theorem Chain.queue_holds (x : Chain) (o : Out) : o ∈ (({ x with wait := x.wait ++ [o] } : Chain).flow).holds :=
  Chain.pump_holds _ _ o (by simp [Chain.holds])

theorem Chain.queue_keeps {x : Chain} {p : Out} (hp : p ∈ x.holds) (o : Out) : p ∈ (({ x with wait := x.wait ++ [o] } : Chain).flow).holds := by
  refine Chain.pump_holds _ _ p ?_
  unfold Chain.holds at hp ⊢
  rcases List.mem_append.1 hp with hw | hr
  · exact List.mem_append_left _ (List.mem_append_left _ hw)
  · exact List.mem_append_right _ hr

/-! ### Frames of a half -/

theorem SentOn.congr (hs : SentOn s h o) (hc : t.chains = s.chains) : SentOn t h o := by
  obtain ⟨c, hm⟩ := hs
  exact ⟨c, by rw [State.chain, hc]; exact hm⟩

theorem State.chain_onChain_cases (s : State) (h g : Half) (c d : Nat) (f : Chain → Chain) :
    (s.onChain h c f).chain g d = s.chain g d ∨ (g = h ∧ d = c ∧ (s.onChain h c f).chain g d = f (s.chain g d)) := by
  by_cases hg : g = h
  · subst hg
    have hget : (s.onChain g c f).chain g d = chainAt ((s.chains.get g).set c (f (s.chain g c))) d := by cases g <;> rfl
    rw [hget]
    by_cases hd : d = c
    · subst hd
      by_cases hl : d < (s.chains.get g).length
      · exact .inr ⟨rfl, rfl, chainAt_set_same hl _⟩
      · refine .inl ?_
        rw [List.set_eq_of_length_le (by omega)]
        rfl
    · refine .inl ?_
      simp [chainAt, List.getD_eq_getElem?_getD, State.chain, List.getElem?_set_ne (Ne.symm hd)]
  · refine .inl ?_
    cases g <;> cases h <;> trivial

theorem SentOn.sendOut (hs : SentOn s h o) (g : Half) (c : Nat) (p : Out) : SentOn (s.sendOut g c p) h o := by
  obtain ⟨d, hm⟩ := hs
  refine ⟨d, ?_⟩
  rcases s.chain_onChain_cases g h c d fun x => ({ x with wait := x.wait ++ [p] } : Chain).flow with he | ⟨-, -, he⟩
  · rw [State.sendOut, he]
    exact hm
  · rw [State.sendOut, he]
    exact Chain.queue_keeps hm p

theorem State.sendOut_sends {c : Nat} (hc : c < (s.chains.get h).length) (o : Out) : SentOn (s.sendOut h c o) h o := by
  have he : (s.sendOut h c o).chain h c = ({ s.chain h c with wait := (s.chain h c).wait ++ [o] } : Chain).flow := by
    rw [State.sendOut, State.chain, State.onChain, Halves.modify, Halves.get_set_same]
    exact chainAt_set_same hc _
  exact ⟨c, by rw [he]; exact Chain.queue_holds ..⟩

theorem State.sendOut_chains_length (s : State) (h g : Half) (c : Nat) (o : Out) :
    ((s.sendOut h c o).chains.get g).length = (s.chains.get g).length := by
  cases h <;> cases g <;> simp [State.sendOut, State.onChain, Halves.modify, Halves.get, Halves.set]

/-- Frames that are sent one after the other are all on the chain. -/
theorem State.sendOuts_sent {α : Type} (f : α → Out) {c : Nat} (l : List α) :
    ∀ s : State, c < (s.chains.get h).length →
      (∀ o, SentOn s h o → SentOn (l.foldl (fun t x => t.sendOut h c (f x)) s) h o) ∧
      ∀ x ∈ l, SentOn (l.foldl (fun t x => t.sendOut h c (f x)) s) h (f x) := by
  induction l with
  | nil => exact fun s _ => ⟨fun o ho => ho, by simp⟩
  | cons y l ih =>
    intro s hc
    obtain ⟨hkeep, hsent⟩ := ih (s.sendOut h c (f y)) (by rw [State.sendOut_chains_length]; exact hc)
    refine ⟨fun o ho => hkeep o (ho.sendOut ..), fun x hx => ?_⟩
    rcases List.mem_cons.1 hx with rfl | hx
    · exact hkeep _ (State.sendOut_sends hc _)
    · exact hsent x hx

/-! ### Failed checks -/

theorem Kept.refl (s : State) : Kept s s := ⟨rfl, fun _ => rfl, rfl⟩

theorem Kept.foldl {α : Type} {f : State → α → State} (hf : ∀ t x, Kept t (f t x)) (l : List α) (s : State) : Kept s (l.foldl f s) := by
  induction l generalizing s with
  | nil => exact .refl s
  | cons x l ih => exact (hf s x).trans (ih _)

theorem Kept.countFault (s : State) (h : Half) (i n : Nat) : Kept s (s.countFault h i n) := .onHalf _ _ fun _ => rfl

theorem HalfSt.foldl_seat {α : Type} {f : HalfSt → α → HalfSt} (hf : ∀ x a, (f x a).seat = x.seat) (l : List α) (x : HalfSt) :
    (l.foldl f x).seat = x.seat := by
  induction l generalizing x with
  | nil => rfl
  | cons a l ih => exact (ih _).trans (hf x a)

theorem Kept.refitHeads (s : State) (h : Half) : Kept s (s.refitHeads h) := by
  unfold State.refitHeads
  dsimp only
  refine Kept.trans (Kept.onHalf s h fun x => ?_) (Kept.foldl (fun t _ => Kept.log t ..) _ _)
  exact HalfSt.foldl_seat (fun x e => x.clear_seat _ _) _ _

/-- A plate that leaves, to a spare or to an empty position, changes banks and what records it. -/
theorem Kept.plateRetired (s : State) (h : Half) (pos : Nat) : Kept s (s.retirePlate h pos) := by
  by_cases hs : (s.hs h).spare = 0
  · unfold State.retirePlate
    dsimp only
    rw [if_pos hs]
    have hout : Kept s (s.plateOut h pos) := .plateOut ..
    unfold State.plateOut at hout
    split
    · exact hout
    · refine Kept.trans (Kept.trans (Kept.trans hout ?_) (.log ..)) (.refitHeads ..)
      exact .onHalf _ h fun _ => rfl
  · exact .retirePlate hs pos

theorem HalfSt.loseTray_seat (x : HalfSt) (b : Nat) : (x.loseTray b).seat = x.seat := by
  unfold HalfSt.loseTray
  dsimp only
  split
  · rfl
  · split <;> rfl

theorem Kept.softRepair (s : State) (h : Half) (e : ColErr) : Kept s (s.softRepair h e) := by
  unfold State.softRepair
  dsimp only
  split
  · have hg : Kept s (s.onHalf h fun x => x.setGroup e 0) := .onHalf _ _ fun _ => rfl
    split
    · exact hg.trans (.onHalf _ _ fun x => x.loseTray_seat _)
    · exact hg.trans (.plateRetired ..)
  · split
    · exact .refl s
    · exact (Kept.countFault s ..).trans (.onHalf _ _ fun _ => rfl)

theorem Kept.columnSeen (s : State) (h : Half) (e : ColErr) : Kept s (s.columnSeen h e) := by
  have hseen : Kept s ((s.countFault h 0 1).onHalf h fun x => { x with colErrs := seeColumn s.time.toNat (columnOf e) x.colErrs }) :=
    (Kept.countFault s ..).trans (.onHalf _ _ fun _ => rfl)
  unfold State.columnSeen
  dsimp only
  split
  · exact (hseen.trans (.softRepair ..)).trans (.onHalf _ _ fun _ => rfl)
  · exact hseen

theorem Kept.refetched (s : State) (h : Half) : Kept s (s.refetched h) := by
  unfold State.refetched
  refine Kept.trans (Kept.trans ?_ (.countFault ..)) (.recovery ..)
  exact .onHalf s h fun _ => rfl

theorem HalfSt.dropMask_seat (x : HalfSt) (d : Digest) (q : Nat) : (x.dropMask d q).seat = x.seat := by
  unfold HalfSt.dropMask
  split <;> rfl

/-- Words that are not a route record are recovered in banks and their records alone. -/
theorem Kept.recoverOwner {w : WordOwner} (hw : ∀ n, w ≠ .record n) (s : State) (h : Half) : Kept s (s.recoverOwner h w) := by
  cases w with
  | head d =>
    refine Kept.trans (t := s.refetchHead h d) ?_ (.refetched ..)
    exact .onHalf s h fun _ => rfl
  | row d t =>
    refine Kept.trans (t := s.onHalf h fun x => x.dropRow d t.toNat) ?_ (.refetched ..)
    exact .onHalf s h fun _ => rfl
  | mask d q =>
    refine Kept.trans (t := s.onHalf h fun x => x.dropMask d q.toNat) ?_ (.refetched ..)
    exact .onHalf s h fun x => x.dropMask_seat ..
  | record n => exact absurd rfl (hw n)
  | formed => exact .refl s

theorem Kept.recoverCheck {k : CheckKind} (hk : sparesRecords k) (s : State) (b : Binding) (h : Half) : Kept s (s.recoverCheck b h k) := by
  cases k with
  | parity e => exact (Kept.columnSeen s h e).trans (.recoverOwner (fun n => hk e n rfl) ..)
  | maskRead q => exact Kept.recoverOwner (w := .mask b.set.csi q) (fun n hn => by cases hn) s h
  | finderRecord d second =>
    refine Kept.trans (t := s.reloadRegion h (.image d) second) ?_ (.refetched ..)
    exact .onHalf s h fun _ => rfl
  | path => exact .refl s
  | residue => exact .refl s
  | proofPrint q => exact .refl s
  | unitPair q => exact .refl s

theorem Kept.countCheck (s : State) (h : Half) (k : CheckKind) : Kept s (s.countCheck h k) := by
  cases k with
  | path => exact .countFault ..
  | maskRead q => exact .countFault ..
  | residue => exact .countFault ..
  | proofPrint q => exact .countFault ..
  | parity e => exact .refl s
  | unitPair q => exact .refl s
  | finderRecord d second => exact .refl s

/-- A failed check takes a free value, and changes banks and what records it. -/
theorem State.checkFailed_kept {k : CheckKind} (hk : sparesRecords k) (s : State) (b : Binding) (h : Half) (pos : Nat) :
    Kept { s with free := s.free + 1 } (s.checkFailed b h pos k).2 :=
  (Kept.countCheck { s with free := s.free + 1 } h k).trans (.recoverCheck hk _ b h)

end Sys2Proof.Machine

end

section
/-! PRETOKEN_TOKENISED: groups of prompt tokens that pass their checks, and those that fail them (07 R165, R169; 13 R301, R302). -/
namespace Sys2Proof.Machine

variable {s : State} {h : U32} {r : Route} {b : Binding} {k : Tki} {g : Group} {ts : List Nat}

/-! ### The group that is due -/

/-- A route whose next group of prompt tokens is due: nothing keeps it from its checks (07 R165, R168). -/
structure GroupDue (s : State) (h : U32) (r : Route) (b : Binding) (k : Tki) (g : Group) (ts : List Nat) : Prop where
  jobs : s.mbx.jobs = []
  route : s.route h.toNat = some r
  binding : s.binding r.binding = some b
  active : b.state = .active
  state : r.state = .open
  saving : r.saving = false
  prompt : r.promptOpen = true
  adm : r.adm = none
  intake : r.intake ≠ []
  searches : s.tokeniserWaits b r = false
  warn : s.safe.warn = false
  data : s.imageGone r.half b.set.tki = false
  image : k = tkiOf (s.imageOn r.half b.set.tki)
  agrees : intakeAgrees k r.intakeEnded r.intake r.promptN r.promptDigest = true
  group : nextGroup (k.groupsFrom r.intakeEnded r.intake []) r.promptN = some (g, ts)

theorem GroupDue.pretoken (d : GroupDue s h r b k g ts) (res : CheckResult) : s.pretoken h.toNat res =
    match res with
    | .fail f pos kind => s.tryAgain b h.toNat f pos.toNat kind
    | .pass => s.pretokenPassed b r k := by
  unfold State.pretoken
  rw [d.route]
  dsimp only
  rw [d.binding]
  dsimp only
  rw [if_neg (by simp [d.state, d.saving, d.prompt, d.adm, d.intake, d.searches, d.warn]), if_neg (by simp [d.data]), d.image] <;> rfl

theorem GroupDue.passes (d : GroupDue s h r b k g ts) (ht : r.tried = []) (hs : k.spells g = true) :
    s.pretoken h.toNat .pass =
      if r.intakeEnded && promptDone k { r with promptN := r.promptN + ts.length } then s.promptEnds b { r with tries := 0, tried := [] } ts
      else s.releasePrompt b { r with tries := 0, tried := [] } ts false := by
  rw [d.pretoken]
  dsimp only
  unfold State.pretokenPassed
  rw [if_neg (by simp [d.agrees]), d.group]
  dsimp only
  rw [if_neg (by simp [hs]), ht]
  rfl

theorem GroupDue.handle (d : GroupDue s h r b k g ts) : r.handle = h.toNat := State.route_handle d.route

theorem pretoken_runs {res : CheckResult} {t : State} (ht : s.pretoken h.toNat res = t) (hj : t.mbx.jobs = []) :
    exec (.pretokenTokenised h res) s = .next t := by
  show Host.Outcome.next (s.pretoken h.toNat res).stepEnded = _
  rw [ht, State.stepEnded_eq_self hj]

/-! ### A group that passes -/

/-- The pieces of a release are on the owner's chain (03 R68, 16 R400). -/
theorem State.releasePrompt_delivers {c : Nat} (ho : owns b r = true) (hd : r.deliver = true) (hc : r.chains.get r.half = some c)
    (hl : c < (s.chains.get r.half).length) (last : Bool) :
    ∀ p ∈ promptPieces promptEntry last (ts.length + 1) r.promptN ts,
      SentOn (s.releasePrompt b r ts last) r.half (tokOut r.handle (promptTok r.handle p).bytes) := by
  obtain ⟨a, ha⟩ : ∃ a, a = s.journal r.stream 0x20 r.handle
    (toLe 4 r.salt ++ toLe 4 r.promptN ++ toLe 4 ts.length ++ toLe 4 (b2n last) ++ u32s ts) := ⟨_, rfl⟩
  have hla : c < (a.chains.get r.half).length := by rw [ha, State.journal_chains]; exact hl
  obtain ⟨-, hsent⟩ := State.sendOuts_sent (h := r.half) (c := c) (fun p => tokOut r.handle (promptTok r.handle p).bytes)
    (promptPieces promptEntry last (ts.length + 1) r.promptN ts) a hla
  have hfold : (promptPieces promptEntry last (ts.length + 1) r.promptN ts).foldl
      (fun t x => t.sendTok r.half (r.chains.get r.half) (promptTok r.handle x)) a =
      (promptPieces promptEntry last (ts.length + 1) r.promptN ts).foldl
        (fun t x => t.sendOut r.half c (tokOut r.handle (promptTok r.handle x).bytes)) a := by
    rw [hc]
    rfl
  intro p hp
  refine (hsent p hp).congr ?_
  rw [← hfold]
  unfold State.releasePrompt
  dsimp only
  rw [if_neg (by simp [ho]), if_pos hd, ← ha]
  rfl

theorem pretoken_releases (d : GroupDue s h r b k g ts) (ht : r.tried = []) (hs : k.spells g = true)
    (hmore : (r.intakeEnded && promptDone k { r with promptN := r.promptN + ts.length }) = false) :
    Completes (.pretokenTokenised h .pass) s fun t =>
      (∃ q, t.route h.toNat = some q ∧ q.promptN = r.promptN + ts.length ∧ q.tries = 0 ∧
        q.promptDigest = crc64From r.promptDigest (u32s ts) ∧ q.intake = r.intake ∧ q.intakeEnded = r.intakeEnded ∧
        q.state = .open ∧ q.inSeq = r.inSeq) ∧
      (∀ c, owns b r = true → r.deliver = true → r.chains.get r.half = some c → c < (s.chains.get r.half).length →
        ∀ p ∈ promptPieces promptEntry false (ts.length + 1) r.promptN ts,
          SentOn t r.half (tokOut r.handle (promptTok r.handle p).bytes)) ∧
      (t.bnd, t.img, t.eng, t.mbx) = (s.bnd, s.img, s.eng, s.mbx) := by
  obtain ⟨hwork, -, q, hq, hrt⟩ := s.releasePrompt_work b { r with tries := 0, tried := [] } ts false
  have hpass := (d.passes ht hs).trans (if_neg (by rw [hmore]; exact Bool.false_ne_true))
  have hqh : q.handle = h.toNat := hq.handle.trans d.handle
  refine ⟨_, pretoken_runs hpass (by rw [hwork.mbx]; exact d.jobs), ⟨q, ?_, hq.promptN, hq.tries, hq.promptDigest, hq.intake,
    hq.intakeEnded, hq.state.trans d.state, hq.inSeq⟩, ?_, by rw [hwork.bnd, hwork.img, hwork.eng, hwork.mbx]⟩
  · rw [← hqh]
    exact State.route_put (t := s.rt) (by rw [hrt, hqh, ← d.handle])
  · intro c ho hd hc hl
    exact State.releasePrompt_delivers (r := { r with tries := 0, tried := [] }) ho hd hc hl false

theorem pretoken_opens (d : GroupDue s h r b k g ts) (ht : r.tried = []) (hs : k.spells g = true)
    (hlast : (r.intakeEnded && promptDone k { r with promptN := r.promptN + ts.length }) = true) (hnw : NothingWaits r)
    (ho : OpensFreely s b r) :
    Completes (.pretokenTokenised h .pass) s fun t =>
      (∃ q, t.route h.toNat = some q ∧ q.promptN = r.promptN + ts.length ∧ q.intake = [] ∧ q.intakeEnded = true ∧
        q.promptDigest = crc64From r.promptDigest (u32s ts) ∧ q.state = .open ∧ q.openDue = false ∧ q.forcedMore = false ∧
        q.rel.gen = r.rel.gen) ∧
      (t.bnd, t.img, t.eng, t.mbx) = (s.bnd, s.img, s.eng, s.mbx) := by
  obtain ⟨hwork, q, hroute, hpn, hpd, hin, hie, hst, hod, hfm, hgen, -⟩ := State.promptEnds_opens (s := s)
    (r := { r with tries := 0, tried := [] }) (ts := ts) d.binding d.active ⟨hnw.entries, hnw.copies, hnw.mark, hnw.pause, hnw.saving⟩
    d.jobs d.warn (ho.congr (.refl s) rfl rfl rfl rfl)
  have hpass := (d.passes ht hs).trans (if_pos hlast)
  refine ⟨_, pretoken_runs hpass (by rw [hwork.mbx]; exact d.jobs), ⟨q, ?_, hpn, hin, hie, hpd, hst.trans d.state, hod, hfm, hgen⟩,
    by rw [hwork.bnd, hwork.img, hwork.eng, hwork.mbx]⟩
  rw [← d.handle]
  exact hroute

/-! ### A group that fails -/

theorem State.formedAgain_retries {n : Nat} {cs : List (Half × Nat)} (hr : s.route n = some r) (ht : r.tries < 3) :
    s.formedAgain n cs =
      ((s.countFault r.half 3 1).recovery r.half 0x0001 n r.next).setRoute { r with tries := r.tries + 1, tried := r.tried ++ cs } := by
  unfold State.formedAgain
  rw [hr]
  dsimp only
  rw [if_neg (by omega)]

theorem pretoken_retries (d : GroupDue s h r b k g ts) {f : Half} {pos : BitVec 7} {kind : CheckKind} (hk : sparesRecords kind)
    (ht : r.tries < 3) :
    Completes (.pretokenTokenised h (.fail f pos kind)) s fun t =>
      t.rt = s.rt.put (routeIndex r.handle)
        { r with tries := r.tries + 1, tried := r.tried ++ chargesOf s.free f pos.toNat kind } ∧
      (∀ q, kind = .unitPair q → t.half = (s.countFault r.half 3 1).half) ∧
      (t.bnd, t.img, t.eng, t.mbx, t.str, t.chains) = (s.bnd, s.img, s.eng, s.mbx, s.str, s.chains) := by
  have hkept := State.checkFailed_kept hk s b f pos.toNat
  obtain ⟨u, hu⟩ : ∃ u, u = (s.checkFailed b f pos.toNat kind).2 := ⟨_, rfl⟩
  rw [← hu] at hkept
  have heq := hkept.eq
  have hroute : u.route h.toNat = some r := by rw [heq]; exact d.route
  have hform := State.formedAgain_retries (cs := chargesOf s.free f pos.toNat kind) hroute ht
  have hjr := (u.countFault r.half 3 1).journal_eq r.half 0x30 h.toNat (toLe 2 0x0001 ++ zeros 2 ++ toLe 4 h.toNat ++ toLe 4 r.next)
  have hrun : s.pretoken h.toNat (.fail f pos kind) = u.formedAgain h.toNat (chargesOf s.free f pos.toNat kind) := by
    rw [d.pretoken, hu]
    rfl
  unfold State.recovery at hform
  rw [hjr] at hform
  refine ⟨_, pretoken_runs (hrun.trans hform) ?_, ?_, ?_, ?_⟩
  · show u.mbx.jobs = []
    rw [heq]
    exact d.jobs
  · show u.rt.put _ _ = _
    rw [heq]
  · rintro q rfl
    have hhalf : u.half = s.half := by rw [hu]; rfl
    show (u.countFault r.half 3 1).half = _
    unfold State.countFault State.onHalf
    rw [hhalf]
  · show (u.bnd, u.img, u.eng, u.mbx, u.str, u.chains) = _
    rw [heq]

theorem State.faultRoute_ends (hb : s.binding r.binding = some b) :
    (∃ q, EndedOf q r .fault ∧ (s.faultRoute r).rt = s.rt.put (routeIndex r.handle) q) ∧
      ∃ a, RouteWork a (s.faultRoute r) ∧ a = s.log engineSide 2 0x000B r.handle r.next [] := by
  have hf : s.faultRoute r = (s.log engineSide 2 0x000B r.handle r.next []).endRoute b r b.set .fault true false := by
    unfold State.faultRoute
    rw [hb]
  rw [hf]
  obtain ⟨q, hq, hrt⟩ := (s.log engineSide 2 0x000B r.handle r.next []).endRoute_rt b r b.set .fault true false
  exact ⟨⟨q, hq, by rw [hrt, State.log_rt]⟩, _, RouteWork.endRoute .., rfl⟩

/-- A route that ends for a fault, and for which nothing waited, stands ENDED at its last release (13 R318). -/
theorem State.faulted_settles (hr : r.handle = n) (hb : s.binding r.binding = some b) (hs : b.state ≠ .stopping) (hj : s.mbx.jobs = [])
    (he : r.entries = []) (hm : r.markDue = false) :
    (∃ q, EndedOf q r .fault ∧ ((s.faultRoute r).afterRelease n).route n = some q) ∧
      (let t := (s.faultRoute r).afterRelease n; (t.bnd, t.img, t.eng, t.mbx) = (s.bnd, s.img, s.eng, s.mbx)) := by
  subst hr
  obtain ⟨⟨q, hq, hrt⟩, a, hwork, ha⟩ := State.faultRoute_ends hb
  obtain ⟨t, htd⟩ : ∃ t, t = s.faultRoute r := ⟨_, rfl⟩
  rw [← htd] at hwork hrt
  have hroute : t.route r.handle = some q := by
    rw [← hq.handle]
    exact State.route_put (t := s.rt) (by rw [hrt, hq.handle])
  have hbnd : t.bnd = s.bnd := by rw [hwork.bnd, ha, State.log_bnd]
  have hmbx : t.mbx = s.mbx := by rw [hwork.mbx, ha, State.log_mbx]
  obtain ⟨hfm, hsv, hpd, hen, hmd⟩ := hq.rests
  have hafter := State.afterRelease_still hroute (b := b) (by rw [State.binding_congr hbnd, hq.binding]; exact hb) hs (by rw [hmbx]; exact hj)
    (hmd.trans hm) hpd (hen.trans he) hq.copies
  rw [← htd]
  refine ⟨⟨q, hq, (hafter.route _).trans hroute⟩, ?_⟩
  have hbanks := hafter.aside
  dsimp only
  rw [hbanks.bnd, hbanks.img, hbanks.eng, hbanks.mbx, hbnd, hmbx, hwork.img, hwork.eng, ha, State.log_img, State.log_eng]

theorem pretoken_faults (d : GroupDue s h r b k g ts) {f : Half} {pos : BitVec 7} {kind : CheckKind} (hk : sparesRecords kind)
    (ht : 3 ≤ r.tries) (he : r.entries = []) (hm : r.markDue = false) :
    Completes (.pretokenTokenised h (.fail f pos kind)) s fun t =>
      (∃ q, t.route h.toNat = some q ∧ q.state = .ended ∧ q.ending = .fault ∧ q.next = r.next) ∧
      (t.bnd, t.img, t.eng, t.mbx) = (s.bnd, s.img, s.eng, s.mbx) := by
  have hkept := State.checkFailed_kept hk s b f pos.toNat
  obtain ⟨u, hu⟩ : ∃ u, u = (s.checkFailed b f pos.toNat kind).2 := ⟨_, rfl⟩
  rw [← hu] at hkept
  have heq := hkept.eq
  have hroute : u.route h.toNat = some r := by rw [heq]; exact d.route
  have hbind : u.binding r.binding = some b := by rw [heq]; exact d.binding
  have hrun : s.pretoken h.toNat (.fail f pos kind) = (u.faultRoute { r with forcedMore := false }).afterRelease h.toNat := by
    rw [d.pretoken]
    show (s.checkFailed b f pos.toNat kind).2.formedAgain h.toNat _ = _
    rw [← hu]
    unfold State.formedAgain
    rw [hroute]
    dsimp only
    rw [if_pos ht]
  obtain ⟨⟨q, hq, hqr⟩, hrest⟩ := State.faulted_settles (s := u) (r := { r with forcedMore := false }) d.handle hbind
    (by rw [d.active]; nofun) (by rw [heq]; exact d.jobs) he hm
  have hsame : (u.bnd, u.img, u.eng, u.mbx) = (s.bnd, s.img, s.eng, s.mbx) := by rw [heq]
  dsimp only at hrest
  refine ⟨_, pretoken_runs hrun ?_, ⟨q, hqr, hq.state, hq.ending, hq.next⟩, hrest.trans hsame⟩
  simp only [Prod.mk.injEq] at hrest hsame
  obtain ⟨-, -, -, hmbx⟩ := hrest
  rw [hmbx, hsame.2.2.2]
  exact d.jobs

end Sys2Proof.Machine

open Sys2Proof Sys2Proof.Machine

/-- Settles O38: a group that passes by the release of its tokens, one that fails by what its check recovers. -/
theorem pretokensAreReleased : Obligations.PretokensAreReleased := by
  intro s h r b k g ts hj hr hb hact hst hsv hpo hadm hin hw hwarn hd hk hag hg
  have hdue : GroupDue s h r b k g ts := ⟨hj, hr, hb, hact, hst, hsv, hpo, hadm, hin, hw, hwarn, hd, hk, hag, hg⟩
  exact ⟨fun ht hs => ⟨pretoken_releases hdue ht hs, fun hlast hnw _ ho => pretoken_opens hdue ht hs hlast hnw ho⟩,
    fun f pos kind hkind => ⟨pretoken_retries hdue hkind, pretoken_faults hdue hkind⟩⟩

end

section
/-! Entries at admission (01 R22-R24; 09 R197; 04 R99): what the decision reads, what admission leaves, and what a frame that is taken
leaves of its chain (16 R392). -/
namespace Sys2Proof.Machine

variable {s t : State} {h : Half} {c : Nat} {hid : Bool} {b : List Byte} {r : Route} {bd : Binding} {e : Env}

/-! ### Routes of one half or of both -/

theorem State.paired_of_seat (hs : ∀ h, (t.hs h).seat = (s.hs h).seat) {q : Route} (hc : q.chains = r.chains) :
    t.paired q = s.paired r := by
  unfold State.paired
  rw [hc, State.bothServe_of_seat hs]

theorem State.routeHalves_of_seat (hs : ∀ h, (t.hs h).seat = (s.hs h).seat) {q : Route} (hh : q.half = r.half)
    (hc : q.chains = r.chains) : t.routeHalves q = s.routeHalves r := by
  unfold State.routeHalves
  rw [State.paired_of_seat hs hc, hh]

theorem State.onHalf_proj {α : Type} (p : HalfSt → α) {f : HalfSt → HalfSt} (hf : ∀ x, p (f x) = p x) (s : State) (h g : Half) :
    p ((s.onHalf h f).hs g) = p (s.hs g) := by
  cases h <;> cases g
  · exact hf _
  · rfl
  · rfl
  · exact hf _

theorem State.eachHalf_proj {α : Type} (p : HalfSt → α) {f : HalfSt → HalfSt} (hf : ∀ x, p (f x) = p x) (l : List Half) (s : State)
    (g : Half) : p ((s.eachHalf l f).hs g) = p (s.hs g) :=
  List.foldlRecOn l _ (motive := fun u : State => p (u.hs g) = p (s.hs g)) rfl fun u hu h _ => (u.onHalf_proj p hf h g).trans hu

theorem State.wantMasks_waiting (s : State) (b : Binding) (r : Route) (gs : List Nat) (g : Half) :
    ((s.wantMasks b r gs).hs g).waiting = (s.hs g).waiting :=
  State.eachHalf_proj (f := fun x => x.wantMasks (maskKeys b gs)) HalfSt.waiting (fun _ => rfl) _ s g

/-! ### What the decision reads -/

/-- Two states that give the decision on an entry the same: at most the entries that wait on a half differ, and how the chains
stand, but not what waits on them. -/
structure SameDesk (s t : State) : Prop where
  tables : (t.rt, t.bnd, t.img, t.eng, t.time, t.mbx, t.safe) = (s.rt, s.bnd, s.img, s.eng, s.time, s.mbx, s.safe)
  half : ∀ g, { t.hs g with waiting := (s.hs g).waiting } = s.hs g
  out : ∀ r, t.outputsLeft r = s.outputsLeft r

namespace SameDesk

theorem parts (k : SameDesk s t) : t.rt = s.rt ∧ t.bnd = s.bnd ∧ t.img = s.img ∧ t.eng = s.eng ∧ t.time = s.time ∧ t.mbx = s.mbx ∧
    t.safe = s.safe := by
  simpa only [Prod.mk.injEq] using k.tables

theorem proj {α : Type} (k : SameDesk s t) (p : HalfSt → α) (hp : ∀ x w, p { x with waiting := w } = p x) (g : Half) :
    p (t.hs g) = p (s.hs g) := (hp _ _).symm.trans (congrArg p (k.half g))

theorem seat (k : SameDesk s t) (g : Half) : (t.hs g).seat = (s.hs g).seat := k.proj HalfSt.seat (fun _ _ => rfl) g

theorem reads (k : SameDesk s t) : SameReads s t := ⟨k.parts.2.2.1, k.proj HalfSt.reads fun _ _ => rfl⟩

theorem route (k : SameDesk s t) (n : Nat) : t.route n = s.route n := State.route_congr k.parts.1 n

theorem binding (k : SameDesk s t) (n : Nat) : t.binding n = s.binding n := State.binding_congr k.parts.2.1 n

theorem routeHalves (k : SameDesk s t) (r : Route) : t.routeHalves r = s.routeHalves r := State.routeHalves_of_seat k.seat rfl rfl

theorem holds (k : SameDesk s t) (g : Half) (r : Route) : t.holds g r = s.holds g r := by
  rw [State.holds, k.routeHalves, State.holds]

theorem blocked (k : SameDesk s t) (r : Route) : t.blocked r = s.blocked r := by rw [State.blocked, k.out, State.blocked]

theorem hasRoom (k : SameDesk s t) (g : Half) (n : Nat) : t.hasRoom g n = s.hasRoom g n := by
  obtain ⟨hrt, -⟩ := k.parts
  have hclear := k.proj HalfSt.inputClearing (fun _ _ => rfl) g
  have hfix := k.proj HalfSt.fixClearing (fun _ _ => rfl) g
  have hbanks := k.proj HalfSt.inBanks (fun _ _ => rfl) g
  have hbuf := k.proj HalfSt.fixBuffer (fun _ _ => rfl) g
  simp only [State.hasRoom, State.inputUsed, State.fixUsed, k.holds, hrt, hclear, hfix, hbanks, hbuf]
  rfl

theorem slotRoom (k : SameDesk s t) (g : Half) (n : Nat) : t.slotRoom g n = s.slotRoom g n := by
  obtain ⟨hrt, -⟩ := k.parts
  have hclear := k.proj HalfSt.slotsClearing (fun _ _ => rfl) g
  have hpool := k.proj HalfSt.slotPool (fun _ _ => rfl) g
  simp only [State.slotRoom, State.slotsUsed, k.holds, hrt, hclear, hpool]
  rfl

theorem setRoute (k : SameDesk s t) (r : Route) : SameDesk (s.setRoute r) (t.setRoute r) := by
  obtain ⟨hrt, hbnd, himg, heng, htime, hmbx, hsafe⟩ := k.parts
  refine ⟨?_, k.half, k.out⟩
  simp only [State.setRoute, hrt, hbnd, himg, heng, htime, hmbx, hsafe]

theorem freeDrafts (k : SameDesk s t) (r : Route) : SameDesk (s.freeDrafts r) (t.freeDrafts r) := by
  have hfree (x : HalfSt) (w : List WaitEntry) (n : Nat) : { x.freeSlots n with waiting := w } = { x with waiting := w }.freeSlots n := by
    unfold HalfSt.freeSlots
    split <;> rfl
  have hwait (x : HalfSt) (n : Nat) : (x.freeSlots n).waiting = x.waiting := by
    unfold HalfSt.freeSlots
    split <;> rfl
  unfold State.freeDrafts
  split
  · split
    next p _ _ =>
      refine ⟨k.tables, fun g => ?_, k.out⟩
      by_cases hg : g = p.half
      · subst hg
        rw [State.onHalf_hs, State.onHalf_hs, hwait, hfree]
        exact congrArg (fun x : HalfSt => x.freeSlots p.drafts.length) (k.half p.half)
      · rw [State.onHalf_hs_of_ne _ hg, State.onHalf_hs_of_ne _ hg]
        exact k.half g
    next => exact k
  · exact k

end SameDesk

/-! ### Admission -/

/-- What the entry makes of its route. -/
def Route.admittedAs (r : Route) (a : Adm) : Route :=
  { r with drafts := none, adm := some a, state := .running, ran := true, intakeEnded := true, intake := [], openDue := false
           copies := r.copies.map fun l => l.filter fun c => c.step != a.step }

/-- The step that an entry begins with latent slots for its drafts (01 R24). -/
def State.stepOf (s : State) (e : Env) (r : Route) (hid : Bool) (b : List Byte) : Adm :=
  { hid := hid, step := eStep b, drafts := eDrafts b, body := eBody b, env := e, slots := latentOf e r (eDrafts b)
    strict := s.eng.strict, execs := 1, phase := .waitMask, formed := none, charges := [], places := [] }

/-- The records and counts of an admission. -/
theorem Aside.admission (s : State) (r : Route) (hid : Bool) (b : List Byte) :
    Aside s ((((s.freeDrafts r).journalEntry r hid b stOk r.capture).endIntake r).countStep r.half 0 1) := by
  have hrec (u : State) : Aside u (u.journalEntry r hid b stOk r.capture) := by
    unfold State.journalEntry
    dsimp only
    split
    · exact (Aside.journal u ..).trans (.journal ..)
    · exact .journal ..
  have hend (u : State) : Aside u (u.endIntake r) := by
    unfold State.endIntake
    split
    · exact .journal ..
    · exact .refl u
  exact (((Banks.freeDrafts s r).aside.trans (hrec _)).trans (hend _)).trans (Banks.countStep ..).aside

theorem State.journal_links (s : State) (h : Half) (kind subject : Nat) (p : List Byte) :
    (s.journal h kind subject p).half = s.half ∧ (s.journal h kind subject p).chains = s.chains := by
  rw [State.journal_eq]
  exact ⟨rfl, rfl⟩

theorem State.admission_frame (s : State) (r : Route) (hid : Bool) (b : List Byte) (g : Half) :
    ((((((s.freeDrafts r).journalEntry r hid b stOk r.capture).endIntake r).countStep r.half 0 1).hs g).waiting = (s.hs g).waiting) ∧
    ((((s.freeDrafts r).journalEntry r hid b stOk r.capture).endIntake r).countStep r.half 0 1).chains = s.chains := by
  have hrec (u : State) : (u.journalEntry r hid b stOk r.capture).half = u.half ∧
      (u.journalEntry r hid b stOk r.capture).chains = u.chains := by
    unfold State.journalEntry
    dsimp only
    have h1 := fun p => u.journal_links r.half 0x10 r.handle p
    split
    · have h2 := fun (v : State) p => v.journal_links r.half 0x11 r.handle p
      exact ⟨(h2 _ _).1.trans (h1 _).1, (h2 _ _).2.trans (h1 _).2⟩
    · exact h1 _
  have hend (u : State) : (u.endIntake r).half = u.half ∧ (u.endIntake r).chains = u.chains := by
    unfold State.endIntake
    split
    · exact State.journal_links ..
    · exact ⟨rfl, rfl⟩
  have hfree : (s.freeDrafts r).chains = s.chains := by
    unfold State.freeDrafts
    split
    · split <;> rfl
    · rfl
  refine ⟨?_, (hend _).2.trans ((hrec _).2.trans hfree)⟩
  have hcount (u : State) : ((u.countStep r.half 0 1).hs g).waiting = (u.hs g).waiting := by
    refine State.onHalf_proj HalfSt.waiting ?_ u r.half g
    exact fun _ => rfl
  rw [hcount, State.hs, (hend _).1, (hrec _).1]
  exact s.freeDrafts_waiting r g

/-- With latent slots for its drafts the entry is admitted at once (01 R24; 04 R99). -/
theorem State.admitNow_eq (hs : ∀ g ∈ s.routeHalves r, ((s.freeDrafts r).setRoute { r with drafts := none }).slotRoom g (eDrafts b).length = true) :
    s.admitNow bd e r hid b =
      (((((s.freeDrafts r).journalEntry r hid b stOk r.capture).endIntake r).countStep r.half 0 1).setRoute
        (r.admittedAs (s.stepOf e r hid b))).wantMasks bd (r.admittedAs (s.stepOf e r hid b)) (statesOf e r (eDrafts b)) := by
  have hroom : (((s.freeDrafts r).routeHalves r).all fun g =>
      ((s.freeDrafts r).setRoute { r with drafts := none }).slotRoom g (eDrafts b).length) = true := by
    rw [State.routeHalves_of_seat (Banks.freeDrafts s r).seat rfl rfl]
    exact List.all_eq_true.2 hs
  unfold State.admitNow
  dsimp only
  rw [hroom, Bool.or_true, if_pos rfl, if_pos rfl, if_pos rfl]
  rfl

theorem State.admitNow_admits (he : eStep b = r.next)
    (hs : ∀ g ∈ s.routeHalves r, ((s.freeDrafts r).setRoute { r with drafts := none }).slotRoom g (eDrafts b).length = true) :
    EntryAdmitted s (s.admitNow bd e r hid b) hid b r ∧ (∀ g, ((s.admitNow bd e r hid b).hs g).waiting = (s.hs g).waiting) ∧
      (s.admitNow bd e r hid b).chains = s.chains := by
  rw [State.admitNow_eq hs]
  have hw := Aside.admission s r hid b
  have hframe := State.admission_frame s r hid b
  revert hw hframe
  generalize (((s.freeDrafts r).journalEntry r hid b stOk r.capture).endIntake r).countStep r.half 0 1 = u
  intro hw hframe
  generalize hq : r.admittedAs (s.stepOf e r hid b) = q
  have hbanks := Banks.wantMasks (u.setRoute q) bd q (statesOf e r (eDrafts b))
  have hh : q.handle = r.handle := by subst hq; rfl
  have hrt : ((u.setRoute q).wantMasks bd q (statesOf e r (eDrafts b))).rt = s.rt.put (routeIndex r.handle) q := by
    rw [hbanks.aside.rt, ← hw.rt, ← hh]
    rfl
  refine ⟨⟨⟨q, s.stepOf e r hid b, ?_, hrt, ?_⟩, ?_⟩, fun g => ?_, ?_⟩
  · rw [hbanks.route, ← hh, State.route_setRoute_same]
  · subst hq
    exact ⟨rfl, rfl, rfl, rfl, rfl, he, rfl, rfl, rfl, rfl, rfl, rfl⟩
  · rw [hbanks.aside.bnd, hbanks.aside.img, hbanks.aside.eng, hbanks.aside.mbx, hbanks.aside.bench, hbanks.aside.str]
    show (u.bnd, u.img, u.eng, u.mbx, u.bench, u.str) = _
    rw [hw.bnd, hw.img, hw.eng, hw.mbx, hw.bench, hw.str]
  · rw [State.wantMasks_waiting]
    exact (hframe g).1
  · have hc := congrArg State.chains hbanks.rest
    exact (hc : _ = (u.setRoute q).chains).trans (hframe .west).2

/-! ### The decision -/

/-- An entry of the next step that meets every row of R23 is admitted. -/
theorem State.decideEntry_admits (ha : Admissible s h c hid b r bd e) :
    s.decideEntry ⟨h, c, hid, b⟩ r bd false false = s.admitNow bd e r hid b := by
  obtain ⟨hadm, hsv, hfm⟩ := ha.rests
  have hstop : stoppedBinding bd = false := by simp [stoppedBinding, ha.active.1]
  have hstate : (r.state == .paused || r.state == .saved || r.saving) = false := by
    rcases ha.state with hst | hst <;> simp [hst, hsv]
  have htime : (owns bd r && passed s.time.toNat r.deadline) = false := by
    cases ho : owns bd r
    · rfl
    · rw [ha.inTime ho]
      rfl
  have hroom : ((s.routeHalves r).all fun g => s.hasRoom g (eLen b)) = true := List.all_eq_true.2 ha.room
  unfold State.decideEntry
  dsimp only
  rw [hstop, if_neg Bool.false_ne_true, hstate, if_neg Bool.false_ne_true, ha.step, hadm, if_neg (by simp), if_neg (Nat.lt_irrefl _),
    ← ha.env, ha.form, if_neg (by simp), htime, if_neg Bool.false_ne_true, if_pos hroom]

theorem State.admitEntry_admits (ha : Admissible s h c hid b r bd e) :
    s.admitEntry ⟨h, c, hid, b⟩ = s.admitNow bd e r hid b := by
  obtain ⟨-, -, hfm⟩ := ha.rests
  obtain ⟨hserving, hblocked⟩ := ha.serves
  have hend : (r.state == .ended) = false := by
    rcases ha.state with hst | hst <;> simp [hst]
  have hwrong : (r.chains.get h != some c) = false := by simp [ha.chain]
  unfold State.admitEntry
  dsimp only
  rw [ha.route]
  dsimp only
  rw [hend, if_neg Bool.false_ne_true, ha.binding]
  dsimp only
  rw [hserving, if_neg (by simp), hfm, hblocked, if_neg (by simp), ha.active.2, ha.admits, if_neg (by simp), State.judge]
  dsimp only
  rw [ha.alone, if_neg Bool.false_ne_true, hwrong]
  exact State.decideEntry_admits ha

/-- An admitted route is busy: nothing that waited for its end happens. -/
theorem State.takeEntry_admits (ha : Admissible s h c hid b r bd e) : EntryAdmitted s (s.takeEntry ⟨h, c, hid, b⟩) hid b r ∧
    (∀ g, ((s.takeEntry ⟨h, c, hid, b⟩).hs g).waiting = (s.hs g).waiting) ∧ (s.takeEntry ⟨h, c, hid, b⟩).chains = s.chains := by
  have hd := State.admitNow_admits (bd := bd) (e := e) (hid := hid) ha.step ha.slots
  obtain ⟨q, a, hq, -, -, -, -, hadm, -⟩ := hd.1.runs
  have hsettle : s.takeEntry ⟨h, c, hid, b⟩ = s.admitNow bd e r hid b := by
    rw [State.takeEntry, State.admitEntry_admits ha]
    rw [State.route_handle ha.route] at hq
    exact State.settle_of_busy hq (by rw [hadm]; rfl)
  rw [hsettle]
  exact hd

/-- The decision stands where the chains and the entries that wait elsewhere differ. -/
theorem Admissible.congr (ha : Admissible s h c hid b r bd e) (k : SameDesk s t) : Admissible t h c hid b r bd e := by
  obtain ⟨-, -, -, heng, htime, hmbx, hsafe⟩ := k.parts
  refine ⟨(k.route _).trans ha.route, ha.state, ha.rests, ha.chain, (State.paired_of_seat k.seat rfl).trans ha.alone,
    (k.binding _).trans ha.binding, ha.active, ?_, ha.step, ⟨?_, (k.blocked r).trans ha.serves.2⟩, ?_, ha.form, ?_, ?_, ?_⟩
  · rw [State.drains, State.jobOn, hmbx]
    exact ha.admits
  · rw [State.serving, State.inService, heng, hsafe]
    exact ha.serves.1
  · rw [k.reads.envFor rfl rfl]
    exact ha.env
  · rw [htime]
    exact ha.inTime
  · intro g hg
    rw [k.hasRoom]
    exact ha.room g (by rwa [k.routeHalves] at hg)
  · intro g hg
    rw [((k.freeDrafts r).setRoute _).slotRoom]
    exact ha.slots g (by rwa [k.routeHalves] at hg)

theorem EntryAdmitted.congr {u : State} (ha : EntryAdmitted s t hid b r) (hs : (u.rt, u.bnd, u.img, u.eng, u.mbx, u.bench, u.str) =
    (s.rt, s.bnd, s.img, s.eng, s.mbx, s.bench, s.str)) : EntryAdmitted u t hid b r := by
  simp only [Prod.mk.injEq] at hs
  obtain ⟨hrt, hbnd, himg, heng, hmbx, hbench, hstr⟩ := hs
  refine ⟨?_, ?_⟩
  · rw [hrt, heng]
    exact ha.runs
  · rw [hbnd, himg, heng, hmbx, hbench, hstr]
    exact ha.rest

/-! ### A frame that is taken -/

theorem State.outputsLeft_of_wait (hw : ∀ g, (t.chains.get g).map Chain.wait = (s.chains.get g).map Chain.wait) (r : Route) :
    t.outputsLeft r = s.outputsLeft r := by
  have hall (u : State) (g : Half) : ((u.chains.get g).all fun c => c.wait.all fun o => !(o.typ == ftTok && o.handle == r.handle)) =
      ((u.chains.get g).map Chain.wait).all fun l => l.all fun o => !(o.typ == ftTok && o.handle == r.handle) := by
    rw [List.all_map]
    rfl
  simp only [State.outputsLeft, hall, hw]

theorem State.onChain_wait {f : Chain → Chain} (hf : (f (s.chain h c)).wait = (s.chain h c).wait) (g : Half) :
    ((s.onChain h c f).chains.get g).map Chain.wait = (s.chains.get g).map Chain.wait := by
  have hset (l : List Chain) (hl : (f (chainAt l c)).wait = (chainAt l c).wait) :
      (l.set c (f (chainAt l c))).map Chain.wait = l.map Chain.wait := by
    rw [List.map_set, hl]
    refine List.ext_getElem (by simp) fun n h1 h2 => ?_
    rw [List.getElem_set]
    split
    next hn =>
      subst hn
      have hlt : c < l.length := by simpa using h2
      simp [chainAt, hlt]
    next => rfl
  cases h <;> cases g
  · exact hset _ hf
  · rfl
  · rfl
  · exact hset _ hf

theorem SameDesk.onChain {f : Chain → Chain} (hf : (f (s.chain h c)).wait = (s.chain h c).wait) : SameDesk s (s.onChain h c f) :=
  ⟨rfl, fun _ => rfl, State.outputsLeft_of_wait (State.onChain_wait hf)⟩

/-- The chain as a frame that it takes leaves it, nothing being left open. -/
def Chain.arrived (x : Chain) (typ : Nat) (f : Frame) : Chain := { x.accept typ f with part := none }

def State.arrived (s : State) (h : Half) (c typ : Nat) (f : Frame) : State := s.onChain h c fun x => x.arrived typ f

variable {typ : Nat} {f : Frame}

theorem State.onChain_onChain (s : State) (h : Half) (c : Nat) (f g : Chain → Chain) :
    (s.onChain h c f).onChain h c g = s.onChain h c fun x => g (f x) := by
  have hset (l : List Chain) : (l.set c (f (chainAt l c))).set c (g (chainAt (l.set c (f (chainAt l c))) c)) =
      l.set c (g (f (chainAt l c))) := by
    by_cases hc : c < l.length
    · rw [chainAt_set_same hc, List.set_set]
    · rw [List.set_eq_of_length_le (by simpa using hc), List.set_eq_of_length_le (by omega), List.set_eq_of_length_le (by omega)]
  cases h
  · exact congrArg (fun x => { s with chains := { s.chains with w := x } }) (hset _)
  · exact congrArg (fun x => { s with chains := { s.chains with e := x } }) (hset _)

theorem takeFrame_oneEntry (ho : OneEntry s h c typ f b) (use : List Byte → State → State) :
    s.takeFrame h c typ f use = (use b (s.arrived h c typ f)).grantChain h c := by
  unfold State.takeFrame
  dsimp only
  rw [ho.up, if_neg (by simp), ho.accepted]
  dsimp only
  rw [ho.whole]
  dsimp only
  rw [State.onChain_onChain, List.foldl_cons, List.foldl_nil]
  rfl

theorem State.arrived_chain (ho : OneEntry s h c typ f b) : (s.arrived h c typ f).chain h c = (s.chain h c).arrived typ f :=
  State.chain_onChain ho.up _

theorem State.arrived_taken (ho : OneEntry s h c typ f b) : FrameTaken s (s.arrived h c typ f) h c typ f := by
  have hc := State.arrived_chain ho
  refine ⟨by rw [hc]; rfl, ?_, ?_⟩
  · rw [hc]
    exact List.mem_append_right _ (List.mem_singleton_self _)
  · rw [hc]
    exact ho.up

theorem SameDesk.arrived (s : State) (h : Half) (c typ : Nat) (f : Frame) : SameDesk s (s.arrived h c typ f) := SameDesk.onChain rfl

theorem FrameTaken.congr {u : State} (k : FrameTaken s t h c typ f) (hc : u.chains = t.chains) : FrameTaken s u h c typ f := by
  obtain ⟨he, ha, hu⟩ := k
  refine ⟨?_, ?_, ?_⟩ <;> rw [State.chain, hc] <;> assumption

theorem Chain.grant_frame (x : Chain) (n : Nat) : (x.grant n).expected = x.expected ∧ (∀ o ∈ x.ctl, o ∈ (x.grant n).ctl) ∧
    (x.grant n).up = x.up ∧ (x.grant n).wait = x.wait := by
  unfold Chain.grant
  split
  · exact ⟨rfl, fun _ ho => ho, rfl, rfl⟩
  · exact ⟨rfl, fun _ ho => List.mem_append_left _ ho, rfl, rfl⟩

/-- Credits leave a frame that a chain has taken acknowledged. -/
theorem FrameTaken.grantChain (k : FrameTaken s t h c typ f) : FrameTaken s (t.grantChain h c) h c typ f := by
  unfold State.grantChain
  have hup := k.up
  refine ⟨?_, ?_, ?_⟩ <;> rw [State.chain_onChain hup]
  · rw [← k.expected]
    split
    · exact (Chain.grant_frame _ 1).1
    · split
      · exact (Chain.grant_frame _ 0).1
      · rfl
  · split
    · exact (Chain.grant_frame _ 1).2.1 _ k.ack
    · split
      · exact (Chain.grant_frame _ 0).2.1 _ k.ack
      · exact k.ack
  · split
    · exact (Chain.grant_frame _ 1).2.2.1.trans hup
    · split
      · exact (Chain.grant_frame _ 0).2.2.1.trans hup
      · exact hup

theorem EntryAdmitted.grantChain (ha : EntryAdmitted s t hid b r) (g : Half) (n : Nat) : EntryAdmitted s (t.grantChain g n) hid b r :=
  ⟨ha.runs, ha.rest⟩

/-- A frame of one entry that admission takes is acknowledged, and its entry is admitted (01 R23; 16 R392). -/
theorem takeFrame_admits (ho : OneEntry s h c typ f b) (ha : Admissible s h c hid b r bd e) :
    FrameTaken s (s.takeFrame h c typ f fun b t => t.takeEntry ⟨h, c, hid, b⟩) h c typ f ∧
      EntryAdmitted s (s.takeFrame h c typ f fun b t => t.takeEntry ⟨h, c, hid, b⟩) hid b r := by
  obtain ⟨hadm, -, hchains⟩ := State.takeEntry_admits (ha.congr (SameDesk.arrived s h c typ f))
  rw [takeFrame_oneEntry ho]
  refine ⟨((State.arrived_taken ho).congr hchains).grantChain, ?_⟩
  exact (hadm.congr (u := s) rfl).grantChain h c

end Sys2Proof.Machine

open Sys2Proof Sys2Proof.Machine

/-- Settles O27: the frame's chain advances before the entry is decided, and the decision reads nothing of it but what waits. -/
theorem entriesAreAdmitted : Obligations.EntriesAreAdmitted := by
  intro s h ch f hid b r bd e ho ha
  cases hid with
  | true => exact ⟨_, rfl, takeFrame_admits ho ha⟩
  | false => exact ⟨_, rfl, takeFrame_admits ho ha⟩

end

section
/-! Drafts ahead of their entry (04 R93, R99): latent slots, and the masks of the states that they lead to. -/
namespace Sys2Proof.Machine

variable {s t : State} {h : Half} {c : Nat} {b : List Byte} {r : Route} {bd : Binding} {f : Frame}

/-! ### Masks that are wanted -/

/-- A mask is held, or on its way (05 R117). -/
def HalfSt.coming (x : HalfSt) (k : CacheKey) : Prop := x.hasMask k = true ∨ k ∈ x.maskFetch

theorem mem_readMask (k : CacheKey) (l : List MaskCell) (m : MaskCell) : m ∈ readMask k l ↔ m ∈ l := by
  simp only [readMask, List.mem_append, List.mem_filter, bne_iff_ne, beq_iff_eq]
  constructor
  · rintro (⟨hm, -⟩ | ⟨hm, -⟩) <;> exact hm
  · intro hm
    by_cases hk : m.key = k
    · exact .inr ⟨hm, hk⟩
    · exact .inl ⟨hm, hk⟩

theorem HalfSt.wantMasks_hasMask (x : HalfSt) (keys : List CacheKey) (k : CacheKey) : (x.wantMasks keys).hasMask k = x.hasMask k := by
  have hmem : ∀ m, m ∈ (x.wantMasks keys).maskCache ↔ m ∈ x.maskCache := fun m =>
    List.foldlRecOn keys.eraseDups _ (motive := fun l => m ∈ l ↔ m ∈ x.maskCache) Iff.rfl fun l hl k _ => (mem_readMask k l m).trans hl
  rw [Bool.eq_iff_iff, HalfSt.hasMask, HalfSt.hasMask, List.any_eq_true, List.any_eq_true]
  simp only [hmem]

theorem HalfSt.wantMasks_coming {x : HalfSt} {keys : List CacheKey} {k : CacheKey} (hk : k ∈ keys) : (x.wantMasks keys).coming k := by
  unfold HalfSt.coming
  rw [HalfSt.wantMasks_hasMask]
  by_cases hm : x.hasMask k = true
  · exact .inl hm
  · refine .inr (List.mem_append.2 ?_)
    by_cases hf : k ∈ x.maskFetch
    · exact .inl hf
    · exact .inr (List.mem_filter.2 ⟨List.mem_eraseDups.2 hk, by simp [hm, hf]⟩)

theorem HalfSt.wantMasks_keeps {x : HalfSt} {k : CacheKey} (hk : x.coming k) (keys : List CacheKey) : (x.wantMasks keys).coming k := by
  unfold HalfSt.coming at hk ⊢
  rw [HalfSt.wantMasks_hasMask]
  exact hk.imp_right fun hm => List.mem_append_left _ hm

/-- What is done at each of some halves holds at each of them, when doing it again keeps it. -/
theorem State.eachHalf_holds {P : HalfSt → Prop} {f : HalfSt → HalfSt} (hf : ∀ x, P (f x)) (l : List Half) (s : State) {g : Half}
    (hg : g ∈ l) : P ((s.eachHalf l f).hs g) := by
  induction l generalizing s with
  | nil => cases hg
  | cons a l ih =>
    by_cases hl : g ∈ l
    · exact ih _ hl
    · obtain rfl : g = a := (List.mem_cons.1 hg).resolve_right hl
      have hkeep : ∀ u : State, P (u.hs g) → P ((u.eachHalf l f).hs g) := fun u hu =>
        List.foldlRecOn l _ (motive := fun v : State => P (v.hs g)) hu fun v hv a _ => by
          by_cases ha : g = a
          · subst ha
            rw [State.onHalf_hs]
            exact hf _
          · rwa [State.onHalf_hs_of_ne _ ha]
      refine hkeep _ ?_
      rw [State.onHalf_hs]
      exact hf _

theorem State.wantMasks_coming {gs : List Nat} {g : Half} (hg : g ∈ s.routeHalves r) {k : CacheKey} (hk : k ∈ maskKeys bd gs) :
    ((s.wantMasks bd r gs).hs g).coming k :=
  State.eachHalf_holds (P := fun x => x.coming k) (fun _ => HalfSt.wantMasks_coming hk) _ s hg

/-! ### Preparing -/

theorem HalfSt.freeSlots_reads (x : HalfSt) (n : Nat) : (x.freeSlots n).reads = x.reads := by
  unfold HalfSt.freeSlots
  split <;> rfl

theorem SameReads.freeDrafts (s : State) (r : Route) : SameReads s (s.freeDrafts r) := by
  unfold State.freeDrafts
  split
  · split
    · exact .onHalf _ _ fun x => x.freeSlots_reads _
    · exact .refl s
  · exact .refl s

/-- The route with drafts that its step can use. -/
def Route.preparedAs (r : Route) (p : Prepared) : Route := { r with drafts := some p }

/-- The drafts of the route's next step are prepared with slots for all of them, or wait for these (04 R93, R99). -/
theorem State.prepare_eq (hr : s.route (u32At b 0) = some r) (hb : s.binding r.binding = some bd) (hstep : u32At b 4 = r.next)
    (hst : r.state = .open ∨ r.state = .running) (hsv : r.saving = false) (ha : r.adm = none) (hbs : bd.state = .active)
    (hf : bd.fence = .none) (hlo : 1 ≤ u8At b 8) (hhi : u8At b 8 ≤ 15) (hc : r.chains.get h = some c) :
    s.prepare h c b =
      let ds := draftsOf (b.drop 16) (u8At b 8)
      let t := s.freeDrafts r
      if (t.setRoute { r with drafts := none }).slotRoom h (u8At b 8) then
        (t.setRoute (r.preparedAs ⟨h, r.next, ds, true, latentOf (s.envFor bd r) r ds⟩)).wantMasks bd
          (r.preparedAs ⟨h, r.next, ds, true, latentOf (s.envFor bd r) r ds⟩) (statesOf (s.envFor bd r) r ds)
      else t.setRoute (r.preparedAs ⟨h, r.next, ds, false, []⟩) := by
  have hopen : ((r.state == .open || r.state == .running) && !r.saving && r.adm.isNone && bd.state == .active && bd.fence == .none) =
      true := by
    rcases hst with hst | hst <;> simp [hst, hsv, ha, hbs, hf]
  have henv : (s.freeDrafts r).envFor bd { r with drafts := none } = s.envFor bd r := (SameReads.freeDrafts s r).envFor rfl rfl bd
  unfold State.prepare
  dsimp only
  rw [hr]
  dsimp only
  rw [hb]
  dsimp only
  rw [hopen, hstep, hc, if_neg (by simp; omega)]
  refine ite_congr rfl (fun _ => ?_) fun _ => rfl
  unfold State.prepareNow
  dsimp only
  rw [henv]
  rfl

theorem State.prepare_counts (hr : s.route (u32At b 0) = some r) (hb : s.binding r.binding = some bd) (hstep : u32At b 4 ≠ r.next) :
    s.prepare h c b = s.countStep h 3 1 := by
  unfold State.prepare
  dsimp only
  rw [hr]
  dsimp only
  rw [hb]
  dsimp only
  rw [if_pos (by simp [hstep])]

/-- What a frame of drafts leaves, once its entry has been used and credits have been granted. -/
theorem drf_exec (ch : BitVec 4) (ho : OneEntry s h ch.toNat ftDrf f b) :
    exec (.drf h ch f) s = .next (((s.arrived h ch.toNat ftDrf f).prepare h ch.toNat b).grantChain h ch.toNat) :=
  congrArg Host.Outcome.next (takeFrame_oneEntry ho _)

theorem State.setRoute_rt (s : State) (q : Route) : (s.setRoute q).rt = s.rt.put (routeIndex q.handle) q := rfl

theorem Banks.chains {s t : State} (k : Banks s t) : t.chains = s.chains := by
  have := congrArg State.chains k.rest
  exact this

theorem Banks.jr {s t : State} (k : Banks s t) : t.jr = s.jr := by
  have := congrArg State.jr k.rest
  exact this

theorem Banks.fields {s t : State} (k : Banks s t) : (t.bnd, t.img, t.eng, t.mbx, t.jr) = (s.bnd, s.img, s.eng, s.mbx, s.jr) := by
  rw [k.aside.bnd, k.aside.img, k.aside.eng, k.aside.mbx, k.jr]

theorem drf_prepares (ch : BitVec 4) (ho : OneEntry s h ch.toNat ftDrf f b) (hr : s.route (u32At b 0) = some r)
    (hb : s.binding r.binding = some bd) (hstep : u32At b 4 = r.next)
    (hst : r.state = .open ∨ r.state = .running) (hsv : r.saving = false) (ha : r.adm = none) (hbs : bd.state = .active)
    (hf : bd.fence = .none) (hlo : 1 ≤ u8At b 8) (hhi : u8At b 8 ≤ 15) (hc : r.chains.get h = some ch.toNat) :
    Completes (.drf h ch f) s fun t =>
      FrameTaken s t h ch.toNat ftDrf f ∧
      let e := s.envFor bd r
      let ds := draftsOf (b.drop 16) (u8At b 8)
      (if ((s.freeDrafts r).setRoute { r with drafts := none }).slotRoom h (u8At b 8) = true then
        t.rt = s.rt.put (routeIndex r.handle) { r with drafts := some ⟨h, r.next, ds, true, latentOf e r ds⟩ } ∧
        ∀ g ∈ s.routeHalves r, ∀ k ∈ maskKeys bd (statesOf e r ds), (t.hs g).hasMask k = true ∨ k ∈ (t.hs g).maskFetch
      else t.rt = s.rt.put (routeIndex r.handle) { r with drafts := some ⟨h, r.next, ds, false, []⟩ }) ∧
      (t.bnd, t.img, t.eng, t.mbx, t.jr) = (s.bnd, s.img, s.eng, s.mbx, s.jr) := by
  refine ⟨_, drf_exec ch ho, ?_⟩
  have k := SameDesk.arrived s h ch.toNat ftDrf f
  have htaken := State.arrived_taken ho
  have hroom := (((k.freeDrafts r).setRoute { r with drafts := none }).slotRoom h (u8At b 8)).symm
  rw [State.prepare_eq ((k.route _).trans hr) ((k.binding _).trans hb) hstep hst hsv ha hbs hf hlo hhi hc, k.reads.envFor rfl rfl, hroom]
  have hfree := Banks.freeDrafts (s.arrived h ch.toNat ftDrf f) r
  have hrt : ((s.arrived h ch.toNat ftDrf f).freeDrafts r).rt = s.rt := hfree.aside.rt
  dsimp only
  split
  next =>
    generalize hq : r.preparedAs _ = q
    have hqc : q.half = r.half ∧ q.chains = r.chains ∧ q.handle = r.handle := by subst hq; exact ⟨rfl, rfl, rfl⟩
    have hwant := Banks.wantMasks (((s.arrived h ch.toNat ftDrf f).freeDrafts r).setRoute q) bd q
      (statesOf (s.envFor bd r) r (draftsOf (b.drop 16) (u8At b 8)))
    refine ⟨(htaken.congr (hwant.chains.trans hfree.chains)).grantChain, ⟨?_, fun g hg m hm => ?_⟩, hwant.fields.trans hfree.fields⟩
    · refine hwant.aside.rt.trans ?_
      rw [State.setRoute_rt, hrt, hqc.2.2, ← hq]
      rfl
    · refine State.wantMasks_coming ?_ hm
      rwa [State.routeHalves_of_seat (s := s) (t := ((s.arrived h ch.toNat ftDrf f).freeDrafts r).setRoute q) (fun g => hfree.seat g)
        hqc.1 hqc.2.1]
  next =>
    refine ⟨FrameTaken.grantChain (htaken.congr (u := State.setRoute _ _) hfree.chains), ?_, hfree.fields⟩
    show ((((s.arrived h ch.toNat ftDrf f).freeDrafts r)).rt.put _ _) = _
    rw [hrt]
    rfl

end Sys2Proof.Machine

open Sys2Proof Sys2Proof.Machine

/-- Settles O28: the frame's chain advances, and its drafts are prepared as the slots allow; drafts of another step are counted. -/
theorem draftsArePrepared : Obligations.DraftsArePrepared := by
  intro s h ch f b r bd ho hr hb
  refine ⟨fun hstep hst hsv ha hbs hf hlo hhi hc => drf_prepares ch ho hr hb hstep hst hsv ha hbs hf hlo hhi hc, fun hstep => ?_⟩
  have k := SameDesk.arrived s h ch.toNat ftDrf f
  refine ⟨_, drf_exec ch ho, ?_⟩
  rw [State.prepare_counts ((k.route _).trans hr) ((k.binding _).trans hb) hstep]
  exact ⟨FrameTaken.grantChain ((State.arrived_taken ho).congr (u := State.countStep _ ..) rfl), rfl, rfl⟩

end

section
/-! What frees room, and what goes on then: latent slots, outputs that have left, masks and heads (04 R99, R102; 05 R120, R121;
09 R197, R208; 13 R299; 16 R395; 03 R60, R62). -/
namespace Sys2Proof.Machine

variable {s t : State} {h : Half} {r q : Route} {bd : Binding}

/-! ### Latent slots -/

theorem latentSlotTimeout_drops {d : U32} (hr : s.route d.toNat = some r) :
    exec (.latentSlotTimeout d) s = .next ((s.freeDrafts r).setRoute { r with drafts := none }) := by
  show Host.Outcome.next (s.dropDrafts d.toNat) = _
  unfold State.dropDrafts
  rw [hr]

theorem vals_of_singleton (hr : s.rt = [(routeIndex r.handle, r)]) : s.rt.vals = [r] := by rw [hr]; rfl

/-- A step that waited has its slots on every half that forms it. -/
theorem latentSlotFreed_step {a : Adm} (hr : s.rt = [(routeIndex r.handle, r)]) (hb : s.binding r.binding = some bd)
    (ha : r.adm = some a) (hp : a.phase = .waitSlots) (hroom : ∀ g ∈ s.routeHalves r, s.slotRoom g a.drafts.length = true)
    (hq : q = { r with adm := some { a with phase := .waitMask, slots := latentOf a.env r a.drafts } }) :
    exec (.latentSlotFreed h) s = .next ((s.setRoute q).wantMasks bd q (statesOf a.env r a.drafts)) := by
  subst hq
  show Host.Outcome.next (s.giveSlots h) = _
  unfold State.giveSlots
  rw [vals_of_singleton hr, List.foldl_cons, List.foldl_nil, hb]
  dsimp only
  rw [ha]
  dsimp only
  rw [hp, List.all_eq_true.2 hroom]
  rfl

/-- Drafts that waited have theirs on the half of their chain. -/
theorem latentSlotFreed_drafts {p : Prepared} (hr : s.rt = [(routeIndex r.handle, r)]) (hb : s.binding r.binding = some bd)
    (ha : r.adm = none) (hd : r.drafts = some p) (hh : p.held = false) (hph : p.half = h) (hroom : s.slotRoom h p.drafts.length = true)
    (hq : q = { r with drafts := some { p with held := true, slots := latentOf (s.envFor bd r) r p.drafts } }) :
    exec (.latentSlotFreed h) s = .next ((s.setRoute q).wantMasks bd q (statesOf (s.envFor bd r) r p.drafts)) := by
  subst hq hph
  refine congrArg Host.Outcome.next (Eq.trans (b := s.prepareNow bd r p) ?_ rfl)
  unfold State.giveSlots
  rw [vals_of_singleton hr, List.foldl_cons, List.foldl_nil, hb]
  dsimp only
  rw [ha, hd]
  dsimp only
  rw [hh, hroom, if_pos (by simp)]

/-! ### Credits -/

theorem State.chain_onChain_lt {c : Nat} (hc : c < (s.chains.get h).length) (f : Chain → Chain) :
    (s.onChain h c f).chain h c = f (s.chain h c) := by
  rw [State.chain, State.onChain, Halves.modify, Halves.get_set_same]
  exact chainAt_set_same hc _

theorem State.chain_onChain_ne {c d : Nat} (hd : d ≠ c) (f : Chain → Chain) : (s.onChain h c f).chain h d = s.chain h d := by
  rcases s.chain_onChain_cases h h c d f with he | ⟨-, he, -⟩
  · exact he
  · exact absurd he hd

theorem State.lt_of_isStep {c : Nat} (hc : (s.chain h c).isStep = true) : c < (s.chains.get h).length := by
  refine Nat.lt_of_not_le fun hn => ?_
  rw [State.chain_of_le hn] at hc
  revert hc
  decide

theorem Chain.grant_grants (x : Chain) : trip (x.grant 0).granted 0 = x.limitOf 0 := by
  unfold Chain.grant
  split
  next he => exact he.symm
  next => rfl

theorem State.grantChain_grants {c : Nat} (hw : (s.hs h).waiting = []) (hc : (s.chain h c).isStep = true) :
    trip ((s.grantChain h c).chain h c).granted 0 = (s.chain h c).limitOf 0 := by
  have hpeer : ((s.chain h c).kind == .peer) = false := by
    rcases Bool.or_eq_true _ _ ▸ hc with hk | hk <;> rw [eq_of_beq hk] <;> rfl
  rw [State.grantChain, State.chain_onChain_lt (State.lt_of_isStep hc), hpeer, if_neg Bool.false_ne_true, hc, hw,
    if_pos (by rfl), Chain.grant_grants]

/-- The chains of a half are granted their credit one after the other. -/
def State.granted (s : State) (h : Half) (n : Nat) : State := (List.range n).foldl (fun t c => t.grantChain h c) s

theorem State.granted_succ (s : State) (h : Half) (n : Nat) : s.granted h (n + 1) = (s.granted h n).grantChain h n := by
  rw [State.granted, List.range_succ, List.foldl_append]
  rfl

theorem State.granted_frame (s : State) (h : Half) (n : Nat) : { s.granted h n with chains := s.chains } = s := by
  induction n with
  | zero => rfl
  | succ n ih =>
    rw [State.granted_succ]
    exact ih

theorem State.granted_above (s : State) (h : Half) {n c : Nat} (hc : n ≤ c) : (s.granted h n).chain h c = s.chain h c := by
  induction n with
  | zero => rfl
  | succ n ih => rw [State.granted_succ, State.grantChain, State.chain_onChain_ne (by omega), ih (by omega)]

theorem State.granted_grants (hw : (s.hs h).waiting = []) {n c : Nat} (hc : c < n) (hs : (s.chain h c).isStep = true) :
    trip ((s.granted h n).chain h c).granted 0 = (s.chain h c).limitOf 0 := by
  induction n with
  | zero => omega
  | succ n ih =>
    rw [State.granted_succ]
    by_cases hn : c = n
    · subst hn
      have habove := s.granted_above h (Nat.le_refl c)
      have hhalf : (s.granted h c).hs h = s.hs h := by
        have := congrArg (fun x : State => x.hs h) (s.granted_frame h c)
        exact this
      rw [State.grantChain_grants (by rw [hhalf, hw]) (by rw [habove, hs]), habove]
    · rw [State.grantChain, State.chain_onChain_ne hn, ih (by omega)]

/-! ### Room at admission -/

/-- A route that holds no output and no entry. -/
def Route.still (r : Route) : Prop := r.outBytes = 0 ∧ r.entries = [] ∧ r.copies = ⟨[], []⟩

theorem State.freeSpent_of_zero (hz : r.outBytes = 0) : s.freeSpent r = s := by
  unfold State.freeSpent
  rw [hz]
  rfl

theorem State.unblock_of_still (hs : ∀ r ∈ s.rt.vals, r.still) (h : Half) : s.unblock h = s := by
  refine List.foldlRecOn _ _ (motive := fun u : State => u = s) rfl fun u hu r _ => ?_
  subst hu
  split
  next q hq =>
    obtain ⟨hz, he, hc⟩ := hs q (State.route_mem hq)
    rw [State.freeSpent_of_zero hz]
    exact State.readmit_empty hq he hc
  next => rfl

theorem admissionRoomFreed_exec (s : State) (h : Half) :
    exec (.admissionRoomFreed h) s = .next (((s.unblock h).readmitHalf h).granted h 16) := by
  have he : exec (.admissionRoomFreed h) s = execAdmissionRoomFreed h s := rfl
  have hg (u : State) (n : Nat) : (List.range n).foldl (fun t c => t.grantChain h c) u = u.granted h n := rfl
  exact he.trans (congrArg Host.Outcome.next (hg _ 16))

/-- The outputs of the one route have left. -/
def Route.delivered (r : Route) : Route := { r with spent := 0, outBytes := 0 }

theorem State.freeSpent_delivers (hz : r.outBytes ≠ 0) (hl : s.outputsLeft r = true) :
    ∃ u, Banks s u ∧ (∀ g, (u.hs g).waiting = (s.hs g).waiting) ∧ s.freeSpent r = u.setRoute r.delivered := by
  unfold State.freeSpent
  rw [hl, if_neg (by simp [hz])]
  refine ⟨_, Banks.eachHalf s _ fun x => ?_, fun g => State.eachHalf_proj HalfSt.waiting (fun x => ?_) _ s g, rfl⟩
  · dsimp only
    split <;> rfl
  · dsimp only
    split <;> rfl

theorem admissionRoomFreed_delivers (hr : s.rt = [(routeIndex r.handle, r)]) (hh : s.holds h r = true) (hz : r.outBytes ≠ 0)
    (hl : s.outputsLeft r = true) (he : r.entries = []) (hc : r.copies = ⟨[], []⟩) (hw : (s.hs h).waiting = []) :
    Completes (.admissionRoomFreed h) s fun t => t.rt = [(routeIndex r.handle, r.delivered)] := by
  obtain ⟨u, hu, hwait, hfree⟩ := State.freeSpent_delivers hz hl
  have hrt : (u.setRoute r.delivered).rt = [(routeIndex r.handle, r.delivered)] :=
    State.setRoute_rt_singleton (s := u) (hu.aside.rt.trans hr) rfl
  have hun : s.unblock h = u.setRoute r.delivered := by
    unfold State.unblock
    rw [vals_of_singleton hr, List.filter_cons_of_pos hh, List.filter_nil, List.foldl_cons, List.foldl_nil,
      State.route_of_singleton hr]
    dsimp only
    rw [hfree]
    exact State.readmit_empty (State.route_of_singleton (r := r.delivered) hrt) he hc
  have hre : (u.setRoute r.delivered).readmitHalf h = u.setRoute r.delivered :=
    State.readmitHalf_empty ((hwait h).trans hw)
  refine ⟨_, admissionRoomFreed_exec s h, ?_⟩
  rw [hun, hre]
  have := congrArg State.rt ((u.setRoute r.delivered).granted_frame h 16)
  exact this.trans hrt

theorem SameDesk.emptied (s : State) (h : Half) : SameDesk s (s.onHalf h fun x => { x with waiting := [] }) := by
  refine ⟨rfl, fun g => ?_, fun _ => rfl⟩
  cases h <;> cases g <;> rfl

theorem admissionRoomFreed_admits {c : Nat} {hid : Bool} {b : List Byte} {e : Env} (hw : (s.hs h).waiting = [⟨h, c, hid, b⟩])
    (hs : ∀ r ∈ s.rt.vals, r.still) (ha : Admissible s h c hid b r bd e) :
    Completes (.admissionRoomFreed h) s fun t => (t.hs h).waiting = [] ∧ EntryAdmitted s t hid b r := by
  obtain ⟨hadm, hwait, -⟩ := State.takeEntry_admits (ha.congr (SameDesk.emptied s h))
  refine ⟨_, admissionRoomFreed_exec s h, ?_⟩
  rw [State.unblock_of_still hs, State.readmitHalf, hw, List.foldl_cons, List.foldl_nil]
  generalize (s.onHalf h fun x => { x with waiting := [] }).takeEntry ⟨h, c, hid, b⟩ = u at hadm hwait
  have hframe := u.granted_frame h 16
  generalize u.granted h 16 = v at hframe ⊢
  refine ⟨?_, ?_⟩
  · have hhalf : v.half = u.half := by
      have := congrArg State.half hframe
      exact this
    have hempty := hwait h
    rw [State.onHalf_hs] at hempty
    rw [State.hs, hhalf]
    exact hempty
  · have hadm := hadm.congr (u := s) rfl
    have hfields := congrArg (fun x : State => (x.rt, x.bnd, x.img, x.eng, x.mbx, x.bench, x.str)) hframe
    simp only [Prod.mk.injEq] at hfields
    obtain ⟨hrt, hbnd, himg, heng, hmbx, hbench, hstr⟩ := hfields
    refine ⟨?_, ?_⟩
    · rw [State.route_congr hrt, hrt]
      exact hadm.runs
    · rw [hbnd, himg, heng, hmbx, hbench, hstr]
      exact hadm.rest

theorem admissionRoomFreed_grants (hw : (s.hs h).waiting = []) (hs : ∀ r ∈ s.rt.vals, r.still) :
    Completes (.admissionRoomFreed h) s fun t =>
      (∀ c, c < 16 → (s.chain h c).isStep = true → trip (t.chain h c).granted 0 = (s.chain h c).limitOf 0) ∧
      { t with chains := s.chains } = s := by
  refine ⟨_, admissionRoomFreed_exec s h, ?_⟩
  rw [State.unblock_of_still hs, State.readmitHalf_empty hw]
  exact ⟨fun c hc hst => State.granted_grants hw hc hst, s.granted_frame h 16⟩

/-! ### Masks -/

variable {α : Type} {pin : α → Bool}

theorem keepUnpinned_sublist (pin : α → Bool) (l : List α) : ∀ n, (keepUnpinned pin n l).Sublist l := by
  induction l with
  | nil => exact fun n => .slnil
  | cons e l ih =>
    intro n
    unfold keepUnpinned
    split
    · exact .refl _
    · split
      · exact (ih _).cons_cons e
      · exact (ih _).cons e

theorem mem_keepUnpinned_of_pinned {x : α} (hp : pin x = true) {l : List α} : ∀ n, x ∈ l → x ∈ keepUnpinned pin n l := by
  induction l with
  | nil => exact fun n hx => hx
  | cons e l ih =>
    intro n hx
    unfold keepUnpinned
    split
    · exact hx
    · rcases List.mem_cons.1 hx with rfl | hx
      · rw [if_pos hp]
        exact List.mem_cons_self ..
      · split
        · exact List.mem_cons_of_mem _ (ih _ hx)
        · exact ih _ hx

/-- Where the pinned entries leave room for one more, the newest entry stays, and all that stay fit (05 R121). -/
theorem keepUnpinned_newest (m : α) {l : List α} : ∀ n, (l.filter pin).length < n →
    m ∈ keepUnpinned pin n (l ++ [m]) ∧ (keepUnpinned pin n (l ++ [m])).length ≤ n := by
  induction l with
  | nil =>
    intro n hn
    have hn : 1 ≤ n := hn
    rw [List.nil_append, keepUnpinned, if_pos (by simpa using hn)]
    exact ⟨List.mem_singleton_self _, hn⟩
  | cons e l ih =>
    intro n hn
    rw [List.cons_append, keepUnpinned]
    split
    next hl => exact ⟨List.mem_cons_of_mem _ (List.mem_append_right _ (List.mem_singleton_self _)), hl⟩
    next =>
      split
      next hp =>
        rw [List.filter_cons_of_pos hp, List.length_cons] at hn
        obtain ⟨hm, hlen⟩ := ih (n - 1) (by omega)
        exact ⟨List.mem_cons_of_mem _ hm, by rw [List.length_cons]; omega⟩
      next hp =>
        rw [List.filter_cons_of_neg hp] at hn
        exact ih n hn

/-! ### A mask enters the cache -/

theorem State.pinnedMasks_of_seat (hs : ∀ h, (t.hs h).seat = (s.hs h).seat) (hrt : t.rt = s.rt) (hb : t.bnd = s.bnd) (h : Half) :
    t.pinnedMasks h = s.pinnedMasks h := by
  unfold State.pinnedMasks
  rw [hrt]
  refine congrArg (fun f => s.rt.vals.flatMap f) (funext fun r => ?_)
  rw [State.binding_congr hb, State.routeHalves_of_seat hs rfl rfl]

/-- A half whose fetch of a mask has ended. -/
def HalfSt.fetched (x : HalfSt) (d : Digest) (k : CacheKey) : HalfSt :=
  { x with maskFetch := x.maskFetch.filter fun y => y != k, fetches := addFetch d 1 x.fetches }

/-- What stays in a half's mask cache with the mask of a state. -/
def State.cacheWith (s : State) (h : Half) (m : MaskCell) : List MaskCell :=
  keepUnpinned (fun x => (s.pinnedMasks h).contains x.key) ((s.hs h).maskBanks * maskPerBank) (touchMask m (s.hs h).maskCache)

theorem State.cacheMask_half (s : State) (h : Half) (k : CacheKey) {m : MaskCell}
    (hm : m = ⟨k, (csiOf (s.imageOn h k.digest)).maskEnt k.item, none⟩) :
    ∃ f : HalfSt → HalfSt, s.cacheMask h k = s.onHalf h f ∧ (f (s.hs h)).maskCache = s.cacheWith h m ∧
      (f (s.hs h)).maskFetch = (s.hs h).maskFetch := by
  subst hm
  unfold State.cacheMask
  refine ⟨_, rfl, ?_, ?_⟩
  · dsimp only
    split <;> rfl
  · dsimp only
    split <;> rfl

theorem State.cacheWith_holds {m : MaskCell}
    (hroom : ((s.hs h).maskCache.filter fun x => (s.pinnedMasks h).contains x.key).length < (s.hs h).maskBanks * maskPerBank) :
    m ∈ s.cacheWith h m ∧ (s.cacheWith h m).length ≤ (s.hs h).maskBanks * maskPerBank ∧
      (∀ x ∈ s.cacheWith h m, x = m ∨ x ∈ (s.hs h).maskCache) ∧
      (∀ x ∈ (s.hs h).maskCache, x.key ≠ m.key → x.key ∈ s.pinnedMasks h → x ∈ s.cacheWith h m) := by
  have hsub : (((s.hs h).maskCache.filter fun x => x.key != m.key).filter fun x => (s.pinnedMasks h).contains x.key).length <
      (s.hs h).maskBanks * maskPerBank :=
    Nat.lt_of_le_of_lt (List.Sublist.length_le (List.Sublist.filter _ List.filter_sublist)) hroom
  obtain ⟨hm, hlen⟩ := keepUnpinned_newest m _ hsub
  refine ⟨hm, hlen, fun x hx => ?_, fun x hx hk hp => ?_⟩
  · have hx := (keepUnpinned_sublist _ _ _).subset hx
    rcases List.mem_append.1 hx with hx | hx
    · exact .inr (List.mem_filter.1 hx).1
    · exact .inl (List.mem_singleton.1 hx)
  · refine mem_keepUnpinned_of_pinned (by simpa using hp) _ (List.mem_append_left _ (List.mem_filter.2 ⟨hx, ?_⟩))
    simpa using hk

theorem maskFetchDone_caches {d : Digest} {g : U32} {k : CacheKey} {m : MaskCell} (hk : k = ⟨d, g.toNat⟩)
    (hf : k ∈ (s.hs h).maskFetch) (hi : (s.image d).isSome = true) (hg : s.imageGone h d = false)
    (hm : m = ⟨k, (csiOf (s.imageOn h d)).maskEnt g.toNat, none⟩)
    (hroom : ((s.hs h).maskCache.filter fun x => (s.pinnedMasks h).contains x.key).length < (s.hs h).maskBanks * maskPerBank) :
    Completes (.maskFetchDone h d g) s fun t =>
      m ∈ (t.hs h).maskCache ∧ k ∉ (t.hs h).maskFetch ∧
      (t.hs h).maskCache.length ≤ (s.hs h).maskBanks * maskPerBank ∧
      (∀ x, x ∈ (t.hs h).maskCache → x = m ∨ x ∈ (s.hs h).maskCache) ∧
      (∀ x ∈ (s.hs h).maskCache, x.key ≠ k → x.key ∈ s.pinnedMasks h → x ∈ (t.hs h).maskCache) ∧
      t.hs h.other = s.hs h.other ∧ { t with half := s.half } = s := by
  have hdone : Banks s (s.onHalf h fun x => x.fetched d k) := .onHalf s h fun _ => rfl
  have hread : SameReads s (s.onHalf h fun x => x.fetched d k) := .onHalf s h fun _ => rfl
  have hx : (s.onHalf h fun x => x.fetched d k).hs h = (s.hs h).fetched d k := State.onHalf_hs ..
  have hexec : exec (.maskFetchDone h d g) s = .next ((s.onHalf h fun x => x.fetched d k).cacheMask h k) := by
    show Host.Outcome.next (ite _ _ _) = _
    rw [← hk, List.contains_iff_mem.2 hf, if_neg (by simp), if_neg (by simp [Option.isSome_iff_ne_none.1 hi]), hg,
      if_neg Bool.false_ne_true]
    rfl
  have hcache : (s.onHalf h fun x => x.fetched d k).cacheWith h m = s.cacheWith h m := by
    unfold State.cacheWith
    rw [State.pinnedMasks_of_seat hdone.seat hdone.aside.rt hdone.aside.bnd, hx]
    rfl
  obtain ⟨hin, hlen, hold, hpin⟩ := State.cacheWith_holds (m := m) hroom
  obtain ⟨f, hcm, hmc, hmf⟩ := (s.onHalf h fun x => x.fetched d k).cacheMask_half h k (m := m) (by
    rw [hread.imageOn, hm, hk])
  have hkey : m.key = k := by rw [hm]
  refine ⟨_, hexec.trans (congrArg _ hcm), ?_⟩
  dsimp only
  rw [State.onHalf_hs, hmc, hmf, hcache, hx]
  refine ⟨hin, fun hmem => ?_, hlen, hold, fun x hx hne => hpin x hx (hkey ▸ hne), ?_, ?_⟩
  · simpa using (List.mem_filter.1 hmem).2
  · exact (State.onHalf_other _ h f).trans (State.onHalf_other s h _)
  · exact hdone.rest

/-! ### Heads -/

theorem State.retryOpenings_of_none (hr : ∀ r ∈ s.rt.vals, r.openDue = false) : s.retryOpenings = s := by
  unfold State.retryOpenings
  rw [List.filter_eq_nil_iff.2 fun r hm => by simp [hr r hm]]
  rfl

theorem clearDone_clearsHead {d : Digest} {n k bytes : Nat} {rest : List Clear} (hc : (s.hs h).clears = ⟨.head d n k, bytes⟩ :: rest)
    (hj : s.mbx.jobs = []) (hr : ∀ r ∈ s.rt.vals, r.openDue = false) :
    exec (.clearDone h) s = .next (s.onHalf h fun x =>
      { x with clears := rest, heads := x.heads.map fun y =>
          if y.digest = d ∧ y.share.shards = n ∧ y.share.shard = k then { y with cleared := true } else y }) := by
  have hclear : s.clearDone h = s.onHalf h fun x =>
      { x with clears := rest, heads := x.heads.map fun y =>
          if y.digest = d ∧ y.share.shards = n ∧ y.share.shard = k then { y with cleared := true } else y } := by
    unfold State.clearDone
    rw [hc]
    exact State.onHalf_onHalf ..
  show Host.Outcome.next (s.clearDone h).retryOpenings.stepEnded = _
  rw [hclear, State.retryOpenings_of_none (s := State.onHalf ..) hr, State.stepEnded_eq_self (s := State.onHalf ..) hj]

/-- The state with a half's head filled. -/
def State.headFilled (s : State) (h : Half) (d : Digest) : State := s.onHalf h fun x =>
  { x with heads := x.heads.map fun y => if y.digest = d ∧ y.cleared = true then { y with resident := true, rows := s.imageOn h d } else y }

theorem headFillDone_exec {d : Digest} (hg : s.imageGone h d = false) :
    exec (.headFillDone h d) s = .next
      (((s.headFilled h d).bnd.vals.filter fun b => b.starting && b.state != .swapping && b.set.hdi == d && (s.headFilled h d).headResident b).foldl
        (fun t b => t.nowActive b) (s.headFilled h d)) := by
  have he : exec (.headFillDone h d) s = execHeadFillDone h d s := rfl
  rw [he]
  unfold execHeadFillDone
  rw [hg]
  rfl

theorem headFillDone_fills {d : Digest} (hg : s.imageGone h d = false) (hb : ∀ b ∈ s.bnd.vals, b.starting = false) :
    exec (.headFillDone h d) s = .next (s.headFilled h d) := by
  rw [headFillDone_exec hg, List.filter_eq_nil_iff.2 fun b hm => by simp [hb b hm]]
  rfl

/-- A start that waited for its head ends (03 R60, R62). -/
theorem headFillDone_starts {d : Digest} {b : Binding} (hg : s.imageGone h d = false) (hj : s.mbx.jobs = [])
    (hb : s.bnd = [(bindingIndex b.handle, b)]) (hs : b.starting = true) (hw : b.state ≠ .swapping) (hd : b.set.hdi = d)
    (hr : (s.headFilled h d).headResident b = true) :
    exec (.headFillDone h d) s = .next { s.headFilled h d with
      bnd := [(bindingIndex b.handle, { b with state := .active, fence := .none, starting := false })] } := by
  have hvals : (s.headFilled h d).bnd.vals = [b] := by
    show s.bnd.vals = _
    rw [hb]
    rfl
  have hput : ((s.headFilled h d).bnd.put (bindingIndex b.handle) { b with state := .active, fence := .none, starting := false }) =
      [(bindingIndex b.handle, { b with state := .active, fence := .none, starting := false })] := by
    show s.bnd.put _ _ = _
    rw [hb]
    simp [Tab.put]
  have hjobs : (s.headFilled h d).mbx.jobs = [] := hj
  rw [headFillDone_exec hg, hvals, List.filter_cons_of_pos (by simp [hs, hw, hd, hr]), List.filter_nil, List.foldl_cons, List.foldl_nil,
    State.nowActive]
  dsimp only
  rw [hjobs, List.filter_nil, List.foldl_nil, State.setBinding, hput]

end Sys2Proof.Machine

open Sys2Proof Sys2Proof.Machine

/-- Settles O36, event by event. -/
theorem slotsRoomAndCaches : Obligations.SlotsRoomAndCaches := by
  intro s h
  refine ⟨fun d r => latentSlotTimeout_drops, fun r b hr hb => ⟨fun a q ha hp hroom hq => latentSlotFreed_step hr hb ha hp hroom hq,
    fun p q ha hd hh hph hroom hq => latentSlotFreed_drafts hr hb ha hd hh hph hroom hq⟩, admissionRoomFreed_grants,
    fun r => admissionRoomFreed_delivers, fun c hid b r bd e => admissionRoomFreed_admits,
    fun d g k m => maskFetchDone_caches, fun d n k bytes rest => clearDone_clearsHead, fun d a hg ha => ?_⟩
  subst ha
  exact ⟨headFillDone_fills hg, fun b hj hb hs hw hd hr => headFillDone_starts hg hj hb hs hw hd hr⟩

end

section
/-! A half that goes (13 R309; 11 R256, R260): what it leaves, and what the survivor's taking over changes. -/
namespace Sys2Proof.Machine

variable {s t u : State} {h : Half} {cause : Nat} {code : HCode}

/-! ### What a takeover leaves alone -/

/-- What a half's part in the engine and its measurements rest on. -/
def HalfSt.body (x : HalfSt) : (HCode × FCode × Bool × Bool × Nat × U16 × Bool) × Byte × BitVec 9 × Bool :=
  (x.seat, x.tj, x.railOk, x.needsSurvey)

/-- What a chain's service rests on. -/
def Chain.line (x : Chain) : ChainKind × Bool := (x.kind, x.quiet)

theorem Chain.up_of_line {x y : Chain} (hl : x.line = y.line) : x.up = y.up := by
  simp only [Chain.line, Prod.mk.injEq] at hl
  rw [Chain.up, hl.1, hl.2, Chain.up]

/-- Nothing changes but the banks, what the chains carry, the journal, the streams, and what lanes owe. -/
structure Handover (s t : State) : Prop where
  rest : { t with half := s.half, chains := s.chains, jr := s.jr, str := s.str, owed := s.owed } = s
  body : ∀ h, (t.hs h).body = (s.hs h).body
  line : ∀ h c, (t.chain h c).line = (s.chain h c).line
  idle : ∀ h, (s.hs h).waiting = [] → (t.hs h).waiting = []

namespace Handover

theorem refl (s : State) : Handover s s := ⟨rfl, fun _ => rfl, fun _ _ => rfl, fun _ hw => hw⟩

theorem trans (h : Handover s t) (k : Handover t u) : Handover s u := by
  have e := congrArg (fun x : State => { x with
    half := s.half, chains := s.chains, jr := s.jr, str := s.str, owed := s.owed }) k.rest
  exact ⟨e.trans h.rest, fun g => (k.body g).trans (h.body g), fun g c => (k.line g c).trans (h.line g c),
    fun g hw => k.idle g (h.idle g hw)⟩

theorem foldl {α : Type} {f : State → α → State} (hf : ∀ t x, Handover t (f t x)) (l : List α) (s : State) : Handover s (l.foldl f s) := by
  induction l generalizing s with
  | nil => exact refl s
  | cons x l ih => exact (hf s x).trans (ih _)

theorem seat (k : Handover s t) (h : Half) : (t.hs h).seat = (s.hs h).seat := congrArg Prod.fst (k.body h)
theorem rt (k : Handover s t) : t.rt = s.rt := by have := congrArg State.rt k.rest; exact this
theorem bnd (k : Handover s t) : t.bnd = s.bnd := by have := congrArg State.bnd k.rest; exact this
theorem img (k : Handover s t) : t.img = s.img := by have := congrArg State.img k.rest; exact this
theorem eng (k : Handover s t) : t.eng = s.eng := by have := congrArg State.eng k.rest; exact this
theorem mbx (k : Handover s t) : t.mbx = s.mbx := by have := congrArg State.mbx k.rest; exact this
theorem bench (k : Handover s t) : t.bench = s.bench := by have := congrArg State.bench k.rest; exact this
theorem safe (k : Handover s t) : t.safe = s.safe := by have := congrArg State.safe k.rest; exact this
theorem merid (k : Handover s t) : t.merid = s.merid := by have := congrArg State.merid k.rest; exact this
theorem time (k : Handover s t) : t.time = s.time := by have := congrArg State.time k.rest; exact this

theorem up (k : Handover s t) (h : Half) (c : Nat) : (t.chain h c).up = (s.chain h c).up := Chain.up_of_line (k.line h c)

/-- What leaves halves, chains and what else stands apart from a takeover as they are. -/
theorem of_eq (hr : { t with jr := s.jr, str := s.str, owed := s.owed } = s) : Handover s t := by
  have hh := congrArg State.half hr
  have hc := congrArg State.chains hr
  have hh : t.half = s.half := hh
  have hc : t.chains = s.chains := hc
  have e := congrArg (fun x : State => { x with half := s.half, chains := s.chains }) hr
  have hhs (g : Half) : t.hs g = s.hs g := by rw [State.hs, hh, ← State.hs]
  exact ⟨e, fun g => by rw [hhs], fun g c => by rw [State.chain, hc, ← State.chain], fun g hw => by rw [hhs, hw]⟩

theorem onHalf (s : State) (h : Half) {f : HalfSt → HalfSt} (hf : ∀ x, (f x).body = x.body)
    (hw : ∀ x, x.waiting = [] → (f x).waiting = []) : Handover s (s.onHalf h f) := by
  refine ⟨rfl, fun g => s.onHalf_proj HalfSt.body hf h g, fun _ _ => rfl, fun g hg => ?_⟩
  by_cases he : g = h
  · subst he
    rw [State.onHalf_hs]
    exact hw _ hg
  · rw [State.onHalf_hs_of_ne _ he, hg]

theorem onChain (s : State) (h : Half) (c : Nat) {f : Chain → Chain} (hf : ∀ x, (f x).line = x.line) : Handover s (s.onChain h c f) := by
  refine ⟨rfl, fun _ => rfl, fun g d => ?_, fun _ hw => hw⟩
  rcases s.chain_onChain_cases h g c d f with he | ⟨-, -, he⟩
  · rw [he]
  · rw [he, hf]

theorem sendOut (s : State) (h : Half) (c : Nat) (o : Out) : Handover s (s.sendOut h c o) := by
  refine onChain s h c fun x => ?_
  have hp := congrArg Chain.line (Chain.pump_frame ({ x with wait := x.wait ++ [o] } : Chain) (x.wait ++ [o]).length).1
  exact hp

theorem journal (s : State) (h : Half) (kind subject : Nat) (p : List Byte) : Handover s (s.journal h kind subject p) := by
  rw [State.journal_eq]
  exact of_eq rfl

theorem sendResume (s : State) (h : Half) (rs : List SynRec) : Handover s (s.sendResume h rs) :=
  foldl (fun t _ => foldl (fun t _ => sendOut t ..) _ t) _ s

theorem fillFor (s : State) (b : Binding) : Handover s (s.fillFor b) := by
  have hfill (t : State) (h : Half) (d : Digest) (x : HeadShare) (n : Nat) : Handover t (t.fillHead h d x n) := by
    unfold State.fillHead
    dsimp only
    split
    · exact refl t
    · split
      · exact onHalf t h (fun _ => rfl) fun _ hw => hw
      · exact refl t
  unfold State.fillFor
  split
  · exact refl s
  · exact foldl (fun t h => hfill t ..) _ s

theorem refillHeads (s : State) (dst : Half) : Handover s (s.refillHeads dst) := by
  refine foldl (fun t b => ?_) _ s
  refine trans ?_ (fillFor _ b)
  exact onHalf t dst (fun _ => rfl) fun _ hw => hw

theorem resendOrphans (s : State) (lost : Half) (owed : List Owed) (olds : List Route) : Handover s (s.resendOrphans lost owed olds) := by
  refine foldl (fun t o => ?_) _ s
  split
  · exact sendOut ..
  · exact refl t

theorem renameWaiting (s : State) (lost : Half) (olds : List Route) : Handover s (s.renameWaiting lost olds) := by
  exact onHalf s lost.other (fun _ => rfl) fun _ hw => by rw [hw]; rfl

end Handover

/-! ### A half without commands -/

/-- The half as it stands when it has gone. -/
def HalfSt.goneAs (x : HalfSt) (code : HCode) : HalfSt :=
  { x with code := code, fw := if x.fw == .failed || code == .drained then x.fw else .stopped, phase := .held
           needsSurvey := x.needsSurvey || code != .drained, waiting := [], maskFetch := [] }

/-- A half has gone, and none of its commands was to go on at the other one. -/
structure Gone (s t : State) (h : Half) (cause : Nat) (code : HCode) : Prop where
  rest : { t with half := s.half, safe := s.safe, chains := s.chains, lanes := s.lanes, owed := s.owed, jr := s.jr, mi := s.mi } = s
  safe : t.safe = (s.log h.code 3 0x000C cause 0 []).safe
  half : t.hs h = (s.hs h).goneAs code
  other : t.hs h.other = s.hs h.other
  chains : ∀ c, (t.chain h c).up = false
  others : ∀ c, t.chain h.other c = s.chain h.other c
  streams : t.str = s.str

theorem State.firmwareStops_of_idle (hj : s.mbx.jobs = []) (h : Half) : s.firmwareStops h = s := by
  have hr (g : Half) : s.restartJobs g = s := by
    rw [State.restartJobs, hj]
    rfl
  unfold State.firmwareStops
  rw [hr]
  dsimp only
  rw [ite_self]
  split
  · exact hr _
  · rfl

theorem State.idleLanes_up (s : State) (h : Half) (c : Nat) : ((s.idleLanes h).chain h c).up = false := by
  have hmap (l : List Chain) : (chainAt (l.map Chain.idle) c).up = false := by
    rw [chainAt, List.getD_eq_getElem?_getD, List.getElem?_map]
    cases l[c]? with
    | none => rfl
    | some x => exact x.idle_up
  cases h <;> exact hmap _

theorem State.idleLanes_other (s : State) (h : Half) (c : Nat) : (s.idleLanes h).chain h.other c = s.chain h.other c := by
  cases h <;> rfl

theorem State.halfGone_gone (hj : s.mbx.jobs = []) (h : Half) (cause : Nat) (code : HCode) : Gone s (s.halfGone h cause code) h cause code := by
  have hlog := State.log_eq s h.code 3 0x000C cause 0 []
  have hjobs : ((s.log h.code 3 0x000C cause 0 []).idleLanes h).mbx.jobs = [] := by
    rw [hlog]
    exact hj
  have hbox : { s.mbx with jobs := s.mbx.jobs.map fun j => if j.half == h then { j with half := h.other } else j } = s.mbx := by
    rw [hj, List.map_nil, ← hj]
  unfold State.halfGone
  dsimp only
  rw [State.firmwareStops_of_idle hjobs]
  obtain ⟨sf, hsf⟩ : ∃ sf, s.log h.code 3 0x000C cause 0 [] = { s with safe := sf } := ⟨_, hlog⟩
  rw [hsf]
  refine ⟨congrArg (fun m => { s with mbx := m }) hbox, (congrArg State.safe hsf).symm, ?_, ?_, ?_, ?_, rfl⟩
  · exact State.onHalf_hs _ h fun x => x.goneAs code
  · exact State.onHalf_other _ h fun x => x.goneAs code
  · exact State.idleLanes_up { s with safe := sf } h
  · exact State.idleLanes_other { s with safe := sf } h

/-! ### A takeover without routes -/

theorem State.settle_of_none {n : Nat} (hr : s.route n = none) : s.settle n = s := by
  unfold State.settle
  rw [hr]

theorem State.route_of_empty (hr : s.rt = []) (n : Nat) : s.route n = none := by
  rw [State.route, hr]
  rfl

theorem State.takeEntry_unknown (hr : s.rt = []) (w : WaitEntry) : Handover s (s.takeEntry w) := by
  have he : s.admitEntry w = s.sendRefusal w.half w.chain (eHandle w.bytes) (eStep w.bytes) stState := by
    unfold State.admitEntry
    dsimp only
    rw [State.route_of_empty hr]
  have hrt : (s.sendRefusal w.half w.chain (eHandle w.bytes) (eStep w.bytes) stState).rt = [] := hr
  rw [State.takeEntry, he, State.settle_of_none (State.route_of_empty hrt _)]
  exact .sendOut ..

theorem Handover.readmitHalf_empty (hr : s.rt = []) (h : Half) : Handover s (s.readmitHalf h) := by
  have hempty : Handover s (s.onHalf h fun x => { x with waiting := [] }) := .onHalf s h (fun _ => rfl) fun _ _ => rfl
  refine List.foldlRecOn _ _ (motive := fun u : State => Handover s u) hempty fun u hu w _ => ?_
  exact hu.trans (State.takeEntry_unknown (hu.rt.trans hr) w)

/-! ### The takeover's stages -/

/-- What a route becomes when a half is lost. -/
def State.movedAs (s : State) (lost : Half) (r : Route) : Route := if liveRoute r then s.moveRoute lost r else s.moveEnded lost r

/-- The records of the lost half's port whose routes are in the table no more. -/
def State.straysOf (s : State) (lost : Half) : List (List Byte) :=
  (s.unsentRecs lost).filter fun x => !(s.rt.vals.any fun r => r.handle == recHandle x)

/-- The routes and their entries stand at the survivor, before anything is sent. -/
def State.moved (s : State) (lost : Half) : State :=
  let a : State := { s with rt := s.rt.mapVals (s.movedAs lost), owed := s.owed.filter fun o => o.half != lost
                            str := s.str.set lost StrSt.reset }
  let b := a.renameWaiting lost (s.rt.vals.filter liveRoute)
  { b with str := b.str.modify lost.other fun x =>
      ({ x with stray := x.stray ++ s.straysOf lost ++ (s.str.get lost).stray } : StrSt).strays }

/-- The routes that the survivor resumes on its chains (16 R404). -/
def State.movedSyns (s : State) (lost : Half) : List SynRec :=
  ((s.rt.vals.filter liveRoute).filter fun r => r.moves && r.half == lost).filterMap fun r =>
    ((s.moved lost).route r.handle).bind fun q => (q.chains.get lost.other).map fun k => synOf q lost.other k

theorem State.takeOver_eq (s : State) (lost : Half) :
    s.takeOver lost =
      let owed := s.owed.filter fun o => o.half == lost
      let d := s.rt.vals.foldl (fun t r => t.resendRoute lost owed (s.unsentRecs lost) r)
        ((s.moved lost).sendResume lost.other (s.movedSyns lost))
      let e := (s.rt.vals.filter liveRoute).foldl (fun t r => t.takeRoute r lost) (d.resendOrphans lost owed s.rt.vals)
      ((e.refillHeads lost.other).recovery lost.other 0x0002 0 0).readmitHalf lost.other := rfl

theorem Handover.moved (s : State) (lost : Half) : Handover { s with rt := s.rt.mapVals (s.movedAs lost) } (s.moved lost) := by
  have hfirst : Handover { s with rt := s.rt.mapVals (s.movedAs lost) }
      { s with rt := s.rt.mapVals (s.movedAs lost), owed := s.owed.filter fun o => o.half != lost, str := s.str.set lost StrSt.reset } :=
    .of_eq rfl
  refine (hfirst.trans (.renameWaiting _ lost (s.rt.vals.filter liveRoute))).trans (.of_eq rfl)

theorem Handover.takeOver_empty (hr : s.rt = []) (lost : Half) : Handover s (s.takeOver lost) := by
  have hv : s.rt.vals = [] := by rw [hr]; rfl
  have hmoved := Handover.moved s lost
  have hself : { s with rt := s.rt.mapVals (s.movedAs lost) } = s := by
    rw [show s.rt.mapVals (s.movedAs lost) = s.rt by rw [hr]; rfl]
  rw [hself] at hmoved
  rw [State.takeOver_eq]
  dsimp only
  rw [hv, List.filter_nil, List.foldl_nil, List.foldl_nil]
  have hall := (((hmoved.trans (.sendResume _ lost.other (s.movedSyns lost))).trans
    (.resendOrphans _ lost (s.owed.filter fun o => o.half == lost) [])).trans (.refillHeads _ lost.other)).trans
    (.journal _ lost.other 0x30 0 (toLe 2 0x0002 ++ zeros 2 ++ toLe 4 0 ++ toLe 4 0))
  exact hall.trans (.readmitHalf_empty (hall.rt.trans hr) _)

/-! ### A half that is lost -/

theorem State.serves_of_both (hb : s.bothServe = true) (h : Half) : (s.hs h).serves = true := by
  rw [State.bothServe, Bool.and_eq_true] at hb
  cases h
  · exact hb.1
  · exact hb.2

theorem Quiet.serves (hq : Quiet s) (h : Half) : (s.hs h).serves = true := State.serves_of_both hq.both h

theorem Quiet.inService (hq : Quiet s) : s.inService = true := by
  have hs := hq.serving
  rw [State.serving, Bool.and_eq_true] at hs
  exact hs.1

/-- The engine in LIMP, with the half gone and its work taken over. -/
structure LostWith (s t : State) (h : Half) (cause : Nat) (c : HCode) : Prop where
  code : (t.hs h).code = c
  chains : ∀ n, (t.chain h n).up = false
  limp : t.eng.limp = true
  state : t.eng.state = s.eng.state.limped
  other : (t.hs h.other).serves = true
  safe : t.safe = (s.log h.code 3 0x000C cause 0 []).safe
  tables : (t.img, t.bnd, t.bench, t.merid, t.mbx, t.time) = (s.img, s.bnd, s.bench, s.merid, s.mbx, s.time)
  half : (t.hs h).body = ((s.hs h).goneAs c).body
  others : (t.hs h.other).body = (s.hs h.other).body

/-- A half that has gone leaves the engine in LIMP with whatever the survivor has taken over. -/
theorem LostWith.of_handover {g : State} {rt : Tab Route} (hg : Gone s g h cause code) (ho : Handover { g.toLimp with rt := rt } t)
    (hv : (s.hs h.other).serves = true) : LostWith s t h cause code := by
  have heng : g.eng = s.eng := by
    have := congrArg State.eng hg.rest
    exact this
  have htables : (g.img, g.bnd, g.bench, g.merid, g.mbx, g.time) = (s.img, s.bnd, s.bench, s.merid, s.mbx, s.time) := by
    have := congrArg (fun x : State => (x.img, x.bnd, x.bench, x.merid, x.mbx, x.time)) hg.rest
    exact this
  have hbody : (t.hs h).body = ((s.hs h).goneAs code).body := (ho.body h).trans (congrArg HalfSt.body hg.half)
  have hobody : (t.hs h.other).body = (s.hs h.other).body := (ho.body h.other).trans (congrArg HalfSt.body hg.other)
  refine ⟨congrArg (fun x => x.1.1) hbody, fun c => (ho.up h c).trans (hg.chains c), ?_, ?_, ?_, ho.safe.trans hg.safe, ?_, hbody, hobody⟩
  · rw [ho.eng]
    rfl
  · rw [ho.eng, ← heng]
    rfl
  · have hcode : (t.hs h.other).code = (s.hs h.other).code := congrArg (fun x => x.1.1) hobody
    rw [HalfSt.serves, hcode]
    exact hv
  · rw [ho.img, ho.bnd, ho.bench, ho.merid, ho.mbx, ho.time]
    exact htables

/-- Unless it was drained, the half's firmware has stopped. -/
theorem LostWith.lost (k : LostWith s t h cause code) (hc : code ≠ .drained) : Lost s t h code := by
  refine ⟨k.code, ?_, k.chains, k.limp, k.state, k.other⟩
  have hdr : (code == HCode.drained) = false := by simpa using hc
  have hfw : (t.hs h).fw = ((s.hs h).goneAs code).fw := congrArg (fun x => x.1.2.1) k.half
  rw [hfw]
  unfold HalfSt.goneAs
  dsimp only
  rw [hdr, Bool.or_false]
  split
  next hf => exact .inr (eq_of_beq hf)
  next => exact .inl rfl

/-- In service, with no command at work, the loss of a half is its going and the takeover. -/
theorem State.loseHalf_eq {rt : Tab Route} (hb : s.bothServe = true) (hi : s.inService = true) (hj : s.mbx.jobs = []) (h : Half) (cause : Nat)
    (code : HCode) (ho : Handover { (s.halfGone h cause code).toLimp with rt := rt } ((s.halfGone h cause code).toLimp.takeOver h)) :
    s.loseHalf h cause code = (s.halfGone h cause code).toLimp.takeOver h := by
  have hg := State.halfGone_gone hj h cause code
  have hserve : ((s.halfGone h cause code).hs h.other).serves = true := by
    rw [hg.other]
    exact State.serves_of_both hb h.other
  have heng := congrArg State.eng hg.rest
  have hmbx := congrArg State.mbx hg.rest
  have heng : (s.halfGone h cause code).eng = s.eng := heng
  have hmbx : (s.halfGone h cause code).mbx = s.mbx := hmbx
  have hin : (s.halfGone h cause code).inService = true := by
    rw [State.inService, heng]
    exact hi
  have hjobs : ((s.halfGone h cause code).toLimp.takeOver h).mbx.jobs = [] := by
    rw [ho.mbx]
    show (s.halfGone h cause code).mbx.jobs = []
    rw [hmbx, hj]
  unfold State.loseHalf
  dsimp only
  rw [State.serves_of_both hb h, if_neg (by simp), hserve, if_neg (by simp), if_pos hin, State.halfJobs, hjobs]
  rfl

theorem State.loseHalf_lost (hb : s.bothServe = true) (hi : s.inService = true) (hj : s.mbx.jobs = []) (hr : s.rt = []) (h : Half)
    (cause : Nat) (code : HCode) :
    LostWith s (s.loseHalf h cause code) h cause code ∧ (s.loseHalf h cause code).rt = s.rt := by
  have hg := State.halfGone_gone hj h cause code
  have hrt := congrArg State.rt hg.rest
  have hrt : (s.halfGone h cause code).rt = s.rt := hrt
  have ho : Handover (s.halfGone h cause code).toLimp ((s.halfGone h cause code).toLimp.takeOver h) :=
    .takeOver_empty (s := (s.halfGone h cause code).toLimp) (hrt.trans hr) h
  rw [State.loseHalf_eq (rt := (s.halfGone h cause code).rt) hb hi hj h cause code ho]
  exact ⟨.of_handover (rt := (s.halfGone h cause code).rt) hg ho (State.serves_of_both hb h.other), ho.rt.trans hrt⟩

theorem Quiet.loses (hq : Quiet s) (h : Half) (cause : Nat) (code : HCode) :
    LostWith s (s.loseHalf h cause code) h cause code ∧ (s.loseHalf h cause code).rt = s.rt :=
  State.loseHalf_lost hq.both hq.inService hq.jobs hq.routes h cause code

/-! ### The causes -/

theorem Lost.congr {s' : State} (k : Lost s' t h code) (he : s'.eng.state = s.eng.state) : Lost s t h code :=
  ⟨k.code, k.firmware, k.chains, k.limp, by rw [k.state, he], k.other⟩

theorem Quiet.congr (hq : Quiet s) (hs : ∀ g, (t.hs g).serves = (s.hs g).serves)
    (hr : (t.eng, t.safe.warn, t.mbx, t.rt) = (s.eng, s.safe.warn, s.mbx, s.rt)) : Quiet t := by
  simp only [Prod.mk.injEq] at hr
  obtain ⟨heng, hwarn, hmbx, hrt⟩ := hr
  have hw : t.half.w.serves = s.half.w.serves := hs .west
  have he : t.half.e.serves = s.half.e.serves := hs .east
  refine ⟨?_, ?_, by rw [hmbx]; exact hq.jobs, by rw [hmbx]; exact hq.waits, by rw [hrt]; exact hq.routes⟩
  · rw [State.bothServe, hw, he]
    exact hq.both
  · rw [State.serving, State.inService, heng, hwarn]
    exact hq.serving

theorem halfDownReport_loses (hq : Quiet s) : Completes (.halfDownReport h) s fun t =>
    Lost s t h .down ∧ t.safe = (s.log h.code 3 0x000C 1 0 []).safe ∧ (t.img, t.bnd, t.bench) = (s.img, s.bnd, s.bench) := by
  have hl := (hq.loses h hlReported .down).1
  refine ⟨_, rfl, hl.lost nofun, hl.safe, ?_⟩
  exact congrArg (fun x => (x.1, x.2.1, x.2.2.1)) hl.tables

/-- The mainband is lost: the East half goes (13 R313). -/
theorem State.mainbandLost_loses (hq : Quiet s) : Lost s s.mainbandLost .east .down ∧ s.mainbandLost.merid.trained = false ∧
    s.mainbandLost.merid.lost = true := by
  have hqa : Quiet { s with merid := { s.merid with lost := true, trained := false } } := hq.congr (fun _ => rfl) rfl
  have hl := (hqa.loses .east hlMainband .down).1
  have heq : s.mainbandLost = ({ s with merid := { s.merid with lost := true, trained := false } } : State).loseHalf .east hlMainband .down := by
    unfold State.mainbandLost
    exact if_pos hqa.both
  have hm := congrArg (fun x => x.2.2.2.1) hl.tables
  have hm : (({ s with merid := { s.merid with lost := true, trained := false } } : State).loseHalf .east hlMainband .down).merid =
    { s.merid with lost := true, trained := false } := hm
  rw [heq, hm]
  exact ⟨(hl.lost nofun).congr rfl, rfl, rfl⟩

theorem mainbandLost_loses (hq : Quiet s) (ht : s.merid.trained = true) (hw : s.half.w.heartbeat = true) (he : s.half.e.heartbeat = true) :
    Completes .mainbandLost s fun t => Lost s t .east .down ∧ t.merid.trained = false ∧ t.merid.lost = true :=
  ⟨_, congrArg Host.Outcome.next (if_pos (by rw [ht, hw, he]; rfl)), State.mainbandLost_loses hq⟩

/-- The meridian link without a lane. -/
def State.laneLeft (s : State) (toEast : Bool) (lane : BitVec 4) : Merid :=
  if toEast then { s.merid with toEast := s.merid.toEast &&& ~~~(1#16 <<< lane.toNat) }
  else { s.merid with toWest := s.merid.toWest &&& ~~~(1#16 <<< lane.toNat) }

theorem meridianLaneDrop_exec (toEast : Bool) (lane : BitVec 4) (ht : s.merid.trained = true) :
    exec (.meridianLaneDrop toEast lane) s = .next
      (if countBits 16 (s.laneLeft toEast lane).toEast.toNat < 4 ∨ countBits 16 (s.laneLeft toEast lane).toWest.toNat < 4 then
        ({ s with merid := s.laneLeft toEast lane } : State).mainbandLost
      else { s with merid := s.laneLeft toEast lane }) :=
  congrArg Host.Outcome.next (if_neg (by simp [ht]))

theorem linkSilent_loses (hq : Quiet s) : Completes (.linkSilent true) s fun t =>
    Lost s t .east .inReset ∧ t.merid.trained = false ∧ t.half.w.heartbeat = false ∧ t.half.e.heartbeat = false := by
  obtain ⟨a, ha⟩ : ∃ a : State, a = { s with merid := { s.merid with lost := true, trained := false }
                                             half := s.half.map fun x => { x with heartbeat := false } } := ⟨_, rfl⟩
  have hqa : Quiet a := hq.congr (by subst ha; intro g; cases g <;> rfl) (by subst ha; rfl)
  have hl := (hqa.loses .east hlSilent .inReset).1
  have hexec : exec (.linkSilent true) s = .next (a.loseHalf .east hlSilent .inReset) := by
    have hw := hq.serves .west
    have he := hq.serves .east
    subst ha
    refine congrArg Host.Outcome.next ((if_neg ?_).trans (if_pos ?_))
    · rw [show s.half.e.serves = true from he]
      simp
    · rw [show s.half.w.serves = true from hw]
      rfl
  have hm : (a.loseHalf .east hlSilent .inReset).merid = a.merid := congrArg (fun x => x.2.2.2.1) hl.tables
  have hw : ((a.loseHalf .east hlSilent .inReset).hs .west).heartbeat = (a.hs .west).heartbeat :=
    congrArg (fun x => x.1.2.2.2.1) hl.others
  have he : ((a.loseHalf .east hlSilent .inReset).hs .east).heartbeat = (a.hs .east).heartbeat :=
    congrArg (fun x => x.1.2.2.2.1) hl.half
  refine ⟨_, hexec, (hl.lost nofun).congr (by rw [ha]), by rw [hm, ha], hw.trans (by rw [ha]; rfl), he.trans (by rw [ha]; rfl)⟩

theorem finderStopTimeout_loses (hq : Quiet s) (hr : (s.hs h).rate = 3) (ho : (s.hs h.other).rate ≠ 3) :
    Completes (.finderStopTimeout h) s fun t => Lost s t h .down :=
  ⟨_, congrArg Host.Outcome.next (if_pos (by simp [hr, ho])), (hq.loses h hlFinder .down).1.lost nofun⟩

/-- A rail that a half's data path needs (17 R429). -/
theorem State.railOut_of_path {r : Nat} (hr : r ∈ [rRet, rMem, rCore, rPhy, rHbm, rPort]) :
    s.railOut h r = (s.onHalf h fun x => x.withoutRail r).railLost h r := by
  have hne : r ≠ rSafe ∧ r ≠ rSio ∧ r ≠ rFuse := by
    revert hr
    simp only [List.mem_cons, List.not_mem_nil, or_false]
    rintro (rfl | rfl | rfl | rfl | rfl | rfl) <;> decide
  unfold State.railOut
  dsimp only
  rw [if_neg hne.1, if_neg hne.2.1, if_neg hne.2.2]

theorem railOutOfRange_loses (hq : Quiet s) {rail : BitVec 4} (hr : rail.toNat ∈ [rRet, rMem, rCore, rPhy, rHbm, rPort]) :
    Completes (.railOutOfRange h rail) s fun t =>
      Lost s t h .down ∧ (t.hs h).rail rail.toNat = false ∧ (t.hs h).needsSurvey = true := by
  have hle : rail.toNat ≤ rFuse := by
    revert hr
    simp only [List.mem_cons, List.not_mem_nil, or_false]
    rintro (hr | hr | hr | hr | hr | hr) <;> rw [hr] <;> decide
  obtain ⟨a, ha⟩ : ∃ a : State, a = (s.onHalf h fun x => x.withoutRail rail.toNat).onHalf h fun x =>
      { x with tj := if rail.toNat = rCore then 0x80 else x.tj, needsSurvey := true } := ⟨_, rfl⟩
  have hself : a.hs h = { (s.hs h).withoutRail rail.toNat with
      tj := if rail.toNat = rCore then 0x80 else ((s.hs h).withoutRail rail.toNat).tj, needsSurvey := true } := by
    rw [ha, State.onHalf_hs, State.onHalf_hs]
  have hother : a.hs h.other = s.hs h.other := by
    rw [ha]
    exact (State.onHalf_other _ h _).trans (State.onHalf_other s h _)
  have hqa : Quiet a := by
    refine hq.congr (fun g => ?_) (by rw [ha]; rfl)
    by_cases hg : g = h
    · subst hg
      rw [hself]
      rfl
    · have hg : g = h.other := by cases g <;> cases h <;> trivial
      rw [hg, hother]
  have hl := (hqa.loses h hlRail .down).1
  have hexec : exec (.railOutOfRange h rail) s = .next ((a.loseHalf h hlRail .down).onHalf h fun x =>
      { x with fw := if x.fw == .failed then x.fw else .stopped, phase := .held }) := by
    subst ha
    exact congrArg Host.Outcome.next ((if_pos hle).trans (State.railOut_of_path hr))
  refine ⟨_, hexec, ?_⟩
  revert hl
  generalize a.loseHalf h hlRail .down = t
  intro hl
  have hlost := (hl.lost nofun).congr (s := s) (by rw [ha]; rfl)
  have hrail : (t.hs h).railOk = ((s.hs h).withoutRail rail.toNat).railOk := by
    refine (congrArg (fun x => x.2.2.1) hl.half).trans ?_
    rw [hself]
    rfl
  have hsurvey : (t.hs h).needsSurvey = true := by
    refine (congrArg (fun x => x.2.2.2) hl.half).trans ?_
    rw [hself]
    rfl
  have hlt : rail.toNat < 9 := Nat.lt_of_le_of_lt hle (by decide)
  refine ⟨⟨?_, ?_, hlost.chains, hlost.limp, hlost.state, ?_⟩, ?_, ?_⟩
  · rw [State.onHalf_hs]
    exact hlost.code
  · rw [State.onHalf_hs]
    dsimp only
    split
    next hf => exact .inr (eq_of_beq hf)
    next => exact .inl rfl
  · rw [State.hs, State.onHalf_other]
    exact hlost.other
  · rw [State.onHalf_hs, HalfSt.rail, hrail, HalfSt.withoutRail]
    simp [hlt]
  · rw [State.onHalf_hs]
    exact hsurvey

/-! ### Heat -/

theorem State.hold_holds (s : State) (h : Half) : ((s.onHalf h fun x => { x with hold := true }).hs h).hold = true := by rw [State.onHalf_hs]

theorem State.log_warn (s : State) (side sev code a0 a1 : Nat) (d : List Byte) :
    (s.log side sev code a0 a1 d).safe.warn = s.safe.warn := by
  unfold State.log
  split <;> rfl

/-- The half is held, and lost, while the other one is not (17 R432). -/
theorem State.holdHot_loses (hq : Quiet s) (ho : (s.hs h.other).hold = false) :
    Lost s (s.holdHot h) h .inReset ∧ ((s.holdHot h).hs h).hold = true ∧ ((s.holdHot h).hs h).tj = (s.hs h).tj ∧
      (s.holdHot h).rt = [] ∧ (s.holdHot h).mbx = s.mbx := by
  obtain ⟨a, ha⟩ : ∃ a : State, a = s.onHalf h fun x => { x with hold := true } := ⟨_, rfl⟩
  have hother : a.hs h.other = s.hs h.other := by rw [ha]; exact State.onHalf_other ..
  have hself : a.hs h = { s.hs h with hold := true } := by rw [ha, State.onHalf_hs]
  have hqa : Quiet a := by
    refine hq.congr (fun g => ?_) (by rw [ha]; rfl)
    rw [ha]
    refine State.onHalf_proj HalfSt.serves ?_ s h g
    exact fun _ => rfl
  obtain ⟨hl, hrt⟩ := hqa.loses h hlThermal .inReset
  have heq : s.holdHot h = a.loseHalf h hlThermal .inReset := by
    unfold State.holdHot
    dsimp only
    rw [← ha, hother, ho, if_neg Bool.false_ne_true, hqa.serves h, if_pos rfl]
  rw [heq]
  have htab := hl.tables
  simp only [Prod.mk.injEq] at htab
  obtain ⟨-, -, -, -, hmbx, -⟩ := htab
  refine ⟨(hl.lost nofun).congr (by rw [ha]; rfl), ?_, ?_, by rw [hrt, hqa.routes], by rw [hmbx, ha]; rfl⟩
  · refine (congrArg (fun x => x.1.2.2.2.2.2.2) hl.half).trans ?_
    rw [hself]
    rfl
  · refine (congrArg (fun x => x.2.1) hl.half).trans ?_
    rw [hself]
    rfl

theorem thermalReading_loses (hq : Quiet s) {r : Reading} (hup : (s.hs h).safeUp = true) (hr : r.railOk.getLsbD rCore = true)
    (htj : r.tj ≠ 0x80) (hhot : 120 ≤ r.tj.toInt) (hn : 9 ≤ (s.hs h).hot) (hh : (s.hs h).hold = false) (ho : (s.hs h.other).hold = false) :
    Completes (.thermalReading h r) s fun t => Lost s t h .inReset ∧ (t.hs h).hold = true ∧ (t.hs h).tj = r.tj := by
  have hj : junctionOf r = r.tj := if_pos hr
  obtain ⟨b, hb⟩ : ∃ b : State, b = (s.onHalf h fun x => x.measured r).noteFuseRail := ⟨_, rfl⟩
  have hbh : b.hs h = (s.hs h).measured r := by rw [hb]; exact State.onHalf_hs s h _
  have hbo : b.hs h.other = s.hs h.other := by rw [hb]; exact State.onHalf_other s h _
  have hbhot : hotReadings ≤ (b.hs h).hot := by
    rw [hbh]
    show 10 ≤ hotCount (s.hs h).hot (junctionOf r)
    rw [hj, hotCount, if_neg (by simpa using htj), if_pos hhot]
    omega
  have hqb : Quiet b := by
    refine hq.congr (fun g => ?_) (by rw [hb]; rfl)
    rw [hb]
    refine State.onHalf_proj HalfSt.serves ?_ s h g
    exact fun _ => rfl
  obtain ⟨c, hc⟩ : ∃ c : State, c = if (s.hs h).crossed (b.hs h) then b.log h.code 0 0x000D (junctionOf r).toNat 0 [] else b := ⟨_, rfl⟩
  have hcb : ∃ sf : SafeSt, c = { b with safe := sf } ∧ sf.warn = b.safe.warn := by
    rw [hc]
    split
    · exact ⟨_, State.log_eq .., State.log_warn ..⟩
    · exact ⟨_, rfl, rfl⟩
  obtain ⟨sf, hcb, hwarn⟩ := hcb
  have hqc : Quiet c := hqb.congr (fun g => by rw [hcb]; rfl) (by rw [hcb, ← hwarn])
  obtain ⟨hlost, hhold, htjs, hrt, hmbx⟩ := State.holdHot_loses (h := h) hqc (by rw [hcb]; exact (congrArg HalfSt.hold hbo).trans ho)
  have hseng : c.eng = s.eng := by rw [hcb, hb]; rfl
  have hctj : (c.hs h).tj = r.tj := by
    rw [hcb]
    refine (congrArg HalfSt.tj hbh).trans ?_
    exact hj
  have hd : s.thermal h r = if (s.hs h).rate = 3 ∧ (b.hs h).rate ≠ 3 then (c.holdHot h).retryOpenings.stepEnded else c.holdHot h := by
    unfold State.thermal
    dsimp only
    rw [← hb, ← hc, if_pos (c := hotReadings ≤ (b.hs h).hot ∧ (!(s.hs h).hold) = true) ⟨hbhot, by rw [hh]; rfl⟩]
  have hquiet : (c.holdHot h).retryOpenings.stepEnded = c.holdHot h := by
    rw [State.retryOpenings_of_none (by rw [hrt]; exact fun r hm => absurd hm List.not_mem_nil), State.stepEnded_eq_self (by rw [hmbx, hqc.jobs])]
  have hfin : s.thermal h r = c.holdHot h := by
    rw [hd, hquiet, ite_self]
  refine ⟨_, congrArg Host.Outcome.next ((if_pos hup).trans hfin), hlost.congr (by rw [hseng]), hhold, htjs.trans hctj⟩

end Sys2Proof.Machine

open Sys2Proof Sys2Proof.Machine

/-- Settles O40, cause by cause: each loses the half from a state without commands and routes. -/
theorem halvesAreLost : Obligations.HalvesAreLost := by
  intro s h hq
  refine ⟨halfDownReport_loses hq, mainbandLost_loses hq, fun toEast lane m ht hm => ?_, linkSilent_loses hq, finderStopTimeout_loses hq,
    fun rail => railOutOfRange_loses hq, fun r => thermalReading_loses hq⟩
  have hm : m = s.laneLeft toEast lane := hm
  rw [hm]
  refine ⟨fun he hw => (meridianLaneDrop_exec toEast lane ht).trans (congrArg _ (if_neg (by omega))), fun hfew => ?_⟩
  obtain ⟨hl, htr, -⟩ := State.mainbandLost_loses (s := { s with merid := s.laneLeft toEast lane }) (hq.congr (fun _ => rfl) rfl)
  exact ⟨_, (meridianLaneDrop_exec toEast lane ht).trans (congrArg _ (if_pos hfew)), hl.congr rfl, htr⟩

end

section
/-! The one route of a lost half goes on at the survivor (13 R296, R310-R312). -/
namespace Sys2Proof.Machine

variable {s t u : State} {h : Half} {r q : Route} {b : Binding} {i : Nat}

theorem Handover.setRt (k : Handover s t) (rt : Tab Route) : Handover { s with rt := rt } { t with rt := rt } := by
  have e := congrArg (fun x : State => { x with rt := rt }) k.rest
  exact ⟨e, k.body, k.line, k.idle⟩

theorem Handover.resend (s : State) (r : Route) (toks : List (List Byte)) : Handover s (s.resend r toks) := by
  unfold State.resend
  split
  · exact .foldl (fun t b => .sendOut t ..) _ s
  · exact .refl s

theorem Route.OutputOf.stream (h : q.OutputOf r) : q.stream = r.stream := by have := congrArg Route.stream h; exact this

theorem State.rt_put_singleton (hr : s.rt = [(routeIndex r.handle, r)]) (hq : q.handle = r.handle) :
    s.rt.put (routeIndex q.handle) q = [(routeIndex q.handle, q)] := by
  rw [hr, hq]
  simp [Tab.put]

/-- The committed outputs of the route go out again; the route itself counts them, and nothing else of it moves. -/
theorem State.resendRoute_sends (hr : s.rt = [(routeIndex q.handle, q)]) {old : Route} (ho : old.handle = q.handle) (owed : List Owed)
    (unsent : List (List Byte)) :
    ∃ p, p.OutputOf q ∧ (s.resendRoute h owed unsent old).rt = [(routeIndex p.handle, p)] ∧
      Handover { s with rt := [(routeIndex p.handle, p)] } (s.resendRoute h owed unsent old) := by
  have ha : Handover s (if old.half = h then s.resend q (inOrder (owedOf owed q.handle) q.lastToks) else s) := by
    split
    · exact .resend ..
    · exact .refl s
  unfold State.resendRoute
  rw [ho, State.route_of_singleton hr]
  dsimp only
  revert ha
  generalize (if old.half = h then s.resend q (inOrder (owedOf owed q.handle) q.lastToks) else s) = a
  intro ha
  have hart : a.rt = [(routeIndex q.handle, q)] := ha.rt.trans hr
  split
  · obtain ⟨w, hw⟩ := a.queueRecs_rt { q with waitRecs := [] } (moveRecs unsent q)
    have hrt : (a.queueRecs { q with waitRecs := [] } (moveRecs unsent q)).rt = [(routeIndex q.handle, { q with waitRecs := w })] := by
      rw [hw]
      exact State.rt_put_singleton (q := { q with waitRecs := w }) hart rfl
    refine ⟨{ q with waitRecs := w }, rfl, hrt, (ha.setRt _).trans ?_⟩
    rw [← hrt]
    exact .of_eq rfl
  · have hself : { s with rt := [(routeIndex q.handle, q)] } = s := by rw [← hr]
    refine ⟨q, rfl, hart, ?_⟩
    rw [hself]
    exact ha

/-- A route that rests has nothing for the survivor to decide. -/
theorem State.takeRoute_still (hr : s.rt = [(routeIndex q.handle, q)]) {old : Route} (ho : old.handle = q.handle)
    (hc : old.copies.get h.other = []) (ha : q.adm = none) (hb : s.binding q.binding = some b) (hs : b.state ≠ .stopping)
    (hj : s.mbx.jobs = []) (hm : q.markDue = false) (hp : q.pauseDue = false) : s.takeRoute old h = s := by
  have hroute := State.route_of_singleton hr
  have hsettle : s.settle q.handle = s := State.settle_still hroute hb hs hj hm (by rw [hp, Bool.false_and])
  unfold State.takeRoute
  rw [ho, hroute]
  dsimp only
  rw [hc]
  cases q.chains.get q.half <;> simp only [List.foldl_nil, hroute, hb, ha, hsettle]

/-- The takeover of one route that rests: the route as the survivor has it, and what its outputs count. -/
theorem State.takeOver_single (hr : u.rt = [(routeIndex r.handle, r)]) (hq : q = u.movedAs h r) (hh : q.handle = r.handle)
    (hc : r.copies.get h.other = []) (ha : q.adm = none) (hb : u.binding q.binding = some b) (hs : b.state ≠ .stopping)
    (hj : u.mbx.jobs = []) (hm : q.markDue = false) (hp : q.pauseDue = false) (hw : (u.hs h.other).waiting = []) :
    ∃ p, p.OutputOf q ∧ (u.takeOver h).rt = [(routeIndex p.handle, p)] ∧
      Handover { u with rt := [(routeIndex p.handle, p)] } (u.takeOver h) := by
  have hvals : u.rt.vals = [r] := by rw [hr]; rfl
  have hmap : u.rt.mapVals (u.movedAs h) = [(routeIndex q.handle, q)] := by
    rw [hr, hh, hq]
    rfl
  have hmoved := Handover.moved u h
  rw [hmap] at hmoved
  have hsent := hmoved.trans (.sendResume _ h.other (u.movedSyns h))
  obtain ⟨p, hpq, hprt, hpk⟩ := State.resendRoute_sends (h := h) (hsent.rt : _ = [(routeIndex q.handle, q)]) hh.symm
    (u.owed.filter fun o => o.half == h) (u.unsentRecs h)
  have hall : Handover { u with rt := [(routeIndex p.handle, p)] }
      ((((u.moved h).sendResume h.other (u.movedSyns h)).resendRoute h (u.owed.filter fun o => o.half == h) (u.unsentRecs h) r).resendOrphans h
        (u.owed.filter fun o => o.half == h) [r]) :=
    ((hsent.setRt [(routeIndex p.handle, p)]).trans hpk).trans (.resendOrphans ..)
  rw [State.takeOver_eq, hvals]
  dsimp only
  rw [List.foldl_cons, List.foldl_nil]
  revert hall
  generalize (((u.moved h).sendResume h.other (u.movedSyns h)).resendRoute h (u.owed.filter fun o => o.half == h) (u.unsentRecs h) r).resendOrphans h
    (u.owed.filter fun o => o.half == h) [r] = v
  intro hall
  have hvrt : v.rt = [(routeIndex p.handle, p)] := hall.rt
  have hstill : v.takeRoute r h = v := by
    refine State.takeRoute_still (b := b) hvrt (hh.symm.trans hpq.handle.symm) hc (hpq.adm.trans ha) ?_ hs ?_ (hpq.markDue.trans hm)
      (hpq.pauseDue.trans hp)
    · rw [hpq.binding, State.binding_congr hall.bnd]
      exact hb
    · rw [hall.mbx]
      exact hj
  have htaken : ([r].filter liveRoute).foldl (fun t r => t.takeRoute r h) v = v := by
    rw [List.filter_cons, List.filter_nil]
    split
    · exact hstill
    · rfl
  rw [htaken]
  have hend := (hall.trans (.refillHeads _ h.other)).trans (.journal _ h.other 0x30 0 (toLe 2 0x0002 ++ zeros 2 ++ toLe 4 0 ++ toLe 4 0))
  have hre : ((v.refillHeads h.other).recovery h.other 0x0002 0 0).readmitHalf h.other = (v.refillHeads h.other).recovery h.other 0x0002 0 0 :=
    State.readmitHalf_empty (hend.idle h.other hw)
  rw [hre]
  exact ⟨p, hpq, hend.rt, hend⟩

/-- The route that the survivor goes on with: the released state is that of the copy of its record (13 R296, R310). -/
theorem State.moveRoute_resting (hm : r.moves = true) (hh : r.half = h) (ha : r.adm = none) (hn : NothingWaits r) :
    ∃ q, u.movedAs h r = q ∧ q.half = h.other ∧ q.stream = h.other ∧ q.chains.get h = none ∧
      q.chains.get h.other = u.newChain h.other (r.chains.get h) ∧ q.rel = r.mirror.rel ∧ q.promptN = r.mirror.promptN ∧
      q.promptDigest = r.mirror.promptDigest ∧ q.state = r.state ∧ q.handle = r.handle ∧ q.binding = r.binding ∧ q.adm = none ∧
      q.markDue = false ∧ q.pauseDue = false := by
  have hlive : liveRoute r = true := by
    unfold Route.moves at hm
    unfold liveRoute
    cases hst : r.state <;> simp_all
  have hmirror : r.fromMirror = r.ofRec r.mirror := by
    unfold Route.fromMirror
    rw [ha]
    exact if_neg nofun
  have hself : (r.half == h) = true := by rw [hh]; exact beq_self_eq_true h
  have hadm : u.moveAdm h r = none := by
    unfold State.moveAdm
    rw [ha]
  have hchain : u.chainAfter h r = u.newChain h.other (r.chains.get h) := by
    unfold State.chainAfter
    rw [hself, if_pos rfl]
  refine ⟨_, rfl, ?_⟩
  unfold State.movedAs State.moveRoute
  rw [if_pos hlive]
  dsimp only
  rw [hself, if_pos rfl, hmirror, hadm, hchain]
  refine ⟨rfl, rfl, ?_, ?_, rfl, rfl, rfl, rfl, rfl, rfl, rfl, hn.mark, hn.pause⟩
  · cases h <;> rfl
  · cases h <;> rfl

end Sys2Proof.Machine

open Sys2Proof Sys2Proof.Machine

/-- Settles O41: the survivor takes over the one route, which rests, and nothing is left to decide for it. -/
theorem routesGoOnAtTheSurvivor : Obligations.RoutesGoOnAtTheSurvivor := by
  intro s h r b hb hs hj hr hbind hact hmoves hh ha hn _ _ hw
  have hi : s.inService = true := by
    rw [State.serving, Bool.and_eq_true] at hs
    exact hs.1
  have hg := State.halfGone_gone hj h hlReported .down
  obtain ⟨g, hgdef⟩ : ∃ g, g = s.halfGone h hlReported .down := ⟨_, rfl⟩
  rw [← hgdef] at hg
  have hfields := congrArg (fun x : State => (x.rt, x.bnd, x.mbx)) hg.rest
  simp only [Prod.mk.injEq] at hfields
  obtain ⟨hgrt, hgbnd, hgmbx⟩ := hfields
  obtain ⟨q, hq, hqh, hqs, hqc, hqo, hqrel, hqn, hqd, hqst, hqhandle, hqb, hqa, hqm, hqp⟩ :=
    State.moveRoute_resting (u := g.toLimp) hmoves hh ha hn
  have hbinding : g.toLimp.binding q.binding = some b := by
    rw [hqb, State.binding_congr (s := s) (t := g.toLimp) hgbnd]
    exact hbind
  obtain ⟨p, hp, hprt, ho⟩ := State.takeOver_single (u := g.toLimp) (h := h) (hgrt.trans hr) hq.symm hqhandle
    (by rw [hn.copies]; cases h <;> rfl) hqa hbinding (by rw [hact]; nofun) (by show g.mbx.jobs = []; rw [hgmbx, hj]) hqm hqp
    (by show (g.hs h.other).waiting = []; rw [hg.other, hw])
  have hchain : g.toLimp.newChain h.other (r.chains.get h) = s.newChain h.other (r.chains.get h) := by
    have hc (c : Nat) : g.toLimp.chain h.other c = s.chain h.other c := hg.others c
    unfold State.newChain State.lowestStep
    simp only [hc]
  have heq : s.loseHalf h hlReported .down = g.toLimp.takeOver h := by
    subst hgdef
    exact State.loseHalf_eq hb hi hj h hlReported .down ho
  have hlost := (LostWith.of_handover hg ho (State.serves_of_both hb h.other)).lost nofun
  refine ⟨_, congrArg Host.Outcome.next heq, hlost, p, ?_, hp.half.trans hqh, hp.stream.trans hqs, by rw [hp.chains, hqc],
    by rw [hp.chains, hqo, hchain], hp.rel.trans hqrel, hp.promptN.trans hqn, hp.promptDigest.trans hqd, hp.state.trans hqst,
    hp.handle.trans hqhandle, hp.binding.trans hqb⟩
  rw [← hqhandle, ← hp.handle]
  exact State.route_of_singleton hprt

end

section
/-! The first lane of a half trains, and brings its chain up (16 R384, R385). -/
namespace Sys2Proof.Machine

variable {s t : State} {h : Half} {f : Frame} {n i : Nat} {k : ChainKind} {l : Lane}

/-! ### One lane among idle ones -/

theorem replicate_set {α : Type} (x y : α) {m i : Nat} (hi : i < m) :
    (List.replicate m x).set i y = List.replicate i x ++ y :: List.replicate (m - (i + 1)) x := by
  rw [List.set_eq_take_append_cons_drop, if_pos (by simpa using hi), List.take_replicate, List.drop_replicate, Nat.min_eq_left (by omega)]

theorem find?_lone {p : Lane → Bool} (hr : p Lane.reset = false) (hl : p l = true) (hi : i < 16) :
    ((List.replicate 16 Lane.reset).set i l).find? p = some l := by
  rw [replicate_set _ _ hi, List.find?_append, List.find?_replicate]
  simp [hr, hl]

theorem find?_lone_none {p : Lane → Bool} (hr : p Lane.reset = false) (hl : p l = false) (i : Nat) :
    ((List.replicate 16 Lane.reset).set i l).find? p = none := by
  rw [List.find?_eq_none]
  intro x hx
  rcases List.mem_or_eq_of_mem_set hx with hx | rfl
  · rw [List.eq_of_mem_replicate hx, hr]
    exact Bool.false_ne_true
  · rw [hl]
    exact Bool.false_ne_true

theorem filter_lone {p : Lane → Bool} (hr : p Lane.reset = false) (hl : p l = true) (hi : i < 16) :
    ((List.replicate 16 Lane.reset).set i l).filter p = [l] := by
  rw [replicate_set _ _ hi, List.filter_append, List.filter_cons_of_pos hl]
  simp [hr]

theorem map_lone {g : Lane → Lane} (hr : g Lane.reset = Lane.reset) (i : Nat) :
    ((List.replicate 16 Lane.reset).set i l).map g = (List.replicate 16 Lane.reset).set i (g l) := by
  rw [List.map_set, List.map_replicate, hr]

/-! ### The number that the partner is given -/

/-- The lane that a HELLO trains. -/
def helloLane (f : Frame) : Lane :=
  { mode := .up, kind := fHelloKind f, chain := if fHelloKind f = 2 then 0 else fHelloChain f, id := fHelloId f, member := none }

/-- A lane claims a step chain's number, or leads to peers, whose chains are numbered from 15 down. -/
structure Claims (l : Lane) (n : Nat) (k : ChainKind) : Prop where
  up : l.mode = .up
  number : l.toPeers = true ∧ n = 15 ∨ l.toPeers = false ∧ l.chain = n
  small : n ≤ 15
  kind : l.chainKind = k
  some : k ≠ .none

theorem helloLane_claims (hf : helloOk f = true)
    (hn : fHelloKind f = 1 ∧ n = fHelloChain f ∧ k = .accel ∨ fHelloKind f = 2 ∧ n = 15 ∧ k = .peer ∨
      fHelloKind f = 3 ∧ fHelloChain f ≤ 15 ∧ n = fHelloChain f ∧ k = .switch ∨
      fHelloKind f = 3 ∧ fHelloChain f = 0xFF ∧ n = 15 ∧ k = .peer) : Claims (helloLane f) n k := by
  rcases hn with ⟨hk, rfl, rfl⟩ | ⟨hk, rfl, rfl⟩ | ⟨hk, hc, rfl, rfl⟩ | ⟨hk, hc, rfl, rfl⟩
  · have hp : (helloLane f).toPeers = false := by simp [Lane.toPeers, helloLane, hk]
    have hc : fHelloChain f ≤ 15 := by
      simp [helloOk, hk] at hf
      exact hf.2
    exact ⟨rfl, .inr ⟨hp, by simp [helloLane, hk]⟩, hc, by simp [Lane.chainKind, hp]; simp [helloLane, hk], nofun⟩
  · have hp : (helloLane f).toPeers = true := by simp [Lane.toPeers, helloLane, hk]
    exact ⟨rfl, .inl ⟨hp, rfl⟩, Nat.le_refl _, by simp [Lane.chainKind, hp], nofun⟩
  · have hp : (helloLane f).toPeers = false := by
      simp [Lane.toPeers, helloLane, hk]
      omega
    exact ⟨rfl, .inr ⟨hp, by simp [helloLane, hk]⟩, hc, by simp [Lane.chainKind, hp]; simp [helloLane, hk], nofun⟩
  · have hp : (helloLane f).toPeers = true := by simp [Lane.toPeers, helloLane, hk, hc]
    exact ⟨rfl, .inl ⟨hp, rfl⟩, Nat.le_refl _, by simp [Lane.chainKind, hp], nofun⟩

theorem freeNumbers_none : freeNumbers (fun _ => false) = 15 :: (List.range 15).reverse := by decide

/-- Among idle lanes the one that has trained bonds into the chain of its number. -/
theorem memberOf_lone (hc : Claims l n k) (hi : i < 16) : memberOf ((List.replicate 16 Lane.reset).set i l) l = some n := by
  have ht : l.trained = true := by simp [Lane.trained, hc.up]
  unfold memberOf
  rw [ht, if_neg (by simp)]
  rcases hc.number with ⟨hp, rfl⟩ | ⟨hp, rfl⟩
  · have hstep (c : Nat) : stepOwner ((List.replicate 16 Lane.reset).set i l) c = none := by
      unfold stepOwner
      exact find?_lone_none rfl (by simp [hp]) i
    have hpeers : peerPartners ((List.replicate 16 Lane.reset).set i l) = [l.partner] := by
      unfold peerPartners
      rw [filter_lone (p := fun l => l.trained && l.toPeers) rfl (by simp [ht, hp]) hi]
      rfl
    rw [hp, if_pos rfl, hpeers, List.idxOf_cons_self]
    simp only [hstep, Option.isSome_none, freeNumbers_none]
    rfl
  · have hstep : stepOwner ((List.replicate 16 Lane.reset).set i l) l.chain = some l := by
      unfold stepOwner
      exact find?_lone rfl (by simp [ht, hp]) hi
    rw [hp, if_neg (by simp), hstep]
    exact if_pos rfl

theorem memberOf_reset (ls : List Lane) : memberOf ls Lane.reset = none := by
  unfold memberOf
  exact if_pos rfl

/-! ### Chains at idle -/

/-- Every chain number of a half is free. -/
def State.noChain (s : State) (h : Half) : Prop := (s.chains.get h).length = 16 ∧ ∀ x ∈ s.chains.get h, x.kind = .none ∧ x.quiet = false

theorem State.chain_of_noChain (hn : s.noChain h) (c : Nat) : (s.chain h c).kind = .none ∧ (s.chain h c).quiet = false := by
  unfold State.chain chainAt
  rw [List.getD_eq_getElem?_getD]
  cases hx : (s.chains.get h)[c]? with
  | none => exact ⟨rfl, rfl⟩
  | some x => exact hn.2 x (List.mem_of_getElem? hx)

theorem State.staysIdle_of_noChain (hn : s.noChain h) (c : Nat) : s.staysIdle h c = false := by
  rw [State.staysIdle, (State.chain_of_noChain hn c).2, Bool.false_and]

theorem Chain.fresh_fields (x : Chain) (l : Lane) : (x.fresh l).kind = l.chainKind ∧ (x.fresh l).quiet = false ∧ (x.fresh l).expected = 0 ∧
    (x.fresh l).seq = 0 := by
  have hgrant (y : Chain) (m : Nat) : (y.grant m).kind = y.kind ∧ (y.grant m).quiet = y.quiet ∧ (y.grant m).expected = y.expected ∧
      (y.grant m).seq = y.seq := by
    unfold Chain.grant
    split <;> exact ⟨rfl, rfl, rfl, rfl⟩
  exact hgrant { Chain.reset with kind := l.chainKind, partner := l.partner, cnt := x.cnt } (if l.toPeers then 1 else 0)

/-- The half with its one lane trained, and its chain. -/
structure FirstLane (s t : State) (h : Half) (i : Nat) (l : Lane) (n : Nat) : Prop where
  lanes : t.lanes.get h = (List.replicate 16 Lane.reset).set i { l with member := some n }
  chain : ∃ x : Chain, t.chain h n = x.fresh l
  others : ∀ c, c ≠ n → (t.chain h c).up = false
  rest : { t with lanes := s.lanes, chains := s.chains } = s

theorem Halves.get_modify {α : Type} (x : Halves α) (h : Half) (f : α → α) : (x.modify h f).get h = f (x.get h) := by cases h <;> rfl

/-- The half after its lanes have trained together (16 R385). -/
theorem State.bondAll_first (hl : s.lanes.get h = (List.replicate 16 Lane.reset).set i l) (hn : s.noChain h) (hc : Claims l n k) (hi : i < 16) :
    FirstLane s (s.bondAll h) h i l n := by
  have hidle := State.staysIdle_of_noChain hn
  have hlanes : (s.lanes.get h).map (fun x => { x with member := (memberOf (s.lanes.get h) x).filter fun c => !s.staysIdle h c }) =
      (List.replicate 16 Lane.reset).set i { l with member := some n } := by
    rw [hl, map_lone (by rw [memberOf_reset]; rfl), memberOf_lone hc hi, Option.filter_some, hidle, Bool.not_false, if_pos rfl]
  have hget (c : Nat) : (s.bondAll h).chain h c = chainAt ((s.chains.get h).zipIdx.map fun x =>
      match ((List.replicate 16 Lane.reset).set i { l with member := some n }).find? fun l => l.member == some x.2 with
      | some l => x.1.fresh l
      | none => x.1.idle) c := by
    unfold State.bondAll
    dsimp only
    rw [hlanes, State.chain, Halves.get_set_same]
    simp only [hidle, Bool.false_eq_true, if_false] <;> rfl
  refine ⟨?_, ?_, fun c hne => ?_, rfl⟩
  · unfold State.bondAll
    dsimp only
    rw [Halves.get_set_same, hlanes]
  · have hlt : n < (s.chains.get h).length := by have := hc.small; rw [hn.1]; omega
    refine ⟨(s.chains.get h)[n], ?_⟩
    rw [hget, chainAt, List.getD_eq_getElem?_getD, List.getElem?_map, List.getElem?_zipIdx, List.getElem?_eq_getElem hlt]
    simp only [Option.map_some, Option.getD_some, Nat.zero_add]
    rw [find?_lone (p := fun l => l.member == some n) rfl (by simp) hi]
    rfl
  · rw [hget, chainAt, List.getD_eq_getElem?_getD, List.getElem?_map, List.getElem?_zipIdx]
    cases (s.chains.get h)[c]? with
    | none => rfl
    | some x =>
      simp only [Option.map_some, Option.getD_some, Nat.zero_add]
      rw [find?_lone_none (p := fun l => l.member == some c) rfl (by simpa using Ne.symm hne) i]
      exact x.idle_up

theorem State.joins_first (hn : s.noChain h) (hc : Claims l n k) : s.joins h l = some n := by
  have hnone (c : Nat) : ((s.chain h c).kind != .none) = false := by rw [(State.chain_of_noChain hn c).1]; rfl
  have hheld : ((List.range 16).find? fun c => (s.chain h c).kind != .none && (s.chain h c).partner == l.partner &&
      (l.toPeers || c == l.chain)) = none := by
    rw [List.find?_eq_none]
    intro c _
    rw [hnone]
    simp
  unfold State.joins
  rw [hheld]
  dsimp only
  rcases hc.number with ⟨hp, rfl⟩ | ⟨hp, rfl⟩
  · rw [hp, if_pos rfl]
    simp only [hnone, freeNumbers_none]
    rfl
  · rw [hp, if_neg (by simp), if_pos (State.chain_of_noChain hn _).1]

/-- The half after its first lane has trained while others may follow. -/
theorem State.bondOne_first (hl : s.lanes.get h = (List.replicate 16 Lane.reset).set i l) (hn : s.noChain h) (hc : Claims l n k) :
    FirstLane s (s.bondOne h i l) h i l n := by
  have hlt : n < (s.chains.get h).length := by have := hc.small; rw [hn.1]; omega
  have heq : s.bondOne h i l =
      ({ s with lanes := s.lanes.modify h fun ls => ls.set i { l with member := some n } } : State).onChain h n fun x =>
        if x.kind = .none then x.fresh l else if x.quiet then x.retrained l else x.resend := by
    unfold State.bondOne
    rw [State.joins_first hn hc]
  rw [heq]
  refine ⟨?_, ⟨s.chain h n, ?_⟩, fun c hne => ?_, rfl⟩
  · show (s.lanes.modify h _).get h = _
    rw [Halves.get_modify, hl, List.set_set]
  · refine (State.chain_onChain_lt (s := { s with lanes := s.lanes.modify h fun ls => ls.set i { l with member := some n } }) hlt _).trans ?_
    exact if_pos (State.chain_of_noChain hn n).1
  · rw [State.chain_onChain_ne hne]
    show (s.chain h c).up = false
    rw [Chain.up, (State.chain_of_noChain hn c).1]
    rfl

theorem losers_first (before : List Lane) (hm : l.member.isSome = true) :
    losers before ((List.replicate 16 Lane.reset).set i l) n = [] := by
  have hout : (((List.replicate 16 Lane.reset).set i l).zipIdx.filter fun x =>
      x.1.trained && x.1.member.isNone && !x.1.toPeers && (x.2 == n || ((before.getD x.2 Lane.reset).member).isSome)) = [] := by
    rw [List.filter_eq_nil_iff]
    intro x hx
    rcases List.mem_or_eq_of_mem_set (List.fst_mem_of_mem_zipIdx hx) with hr | hl
    · rw [List.eq_of_mem_replicate hr]
      simp [Lane.trained, Lane.reset]
    · rw [hl]
      simp [Option.isSome_iff_ne_none.1 hm]
  unfold losers
  dsimp only
  rw [hout]
  rfl

/-- The first HELLO of a half is taken. -/
theorem State.takeHello_first (hf : helloOk f = true) (ht : s.mayTrain h = true) (hl : s.lanes.get h = List.replicate 16 Lane.reset)
    (hn : s.noChain h) (hc : Claims (helloLane f) n k) (hi : i < 16) : FirstLane s (s.takeHello h i f) h i (helloLane f) n := by
  obtain ⟨a, ha⟩ : ∃ a : State, a = { s with lanes := s.lanes.modify h fun ls => ls.set i (helloLane f) } := ⟨_, rfl⟩
  have hold : (s.lanes.get h).getD i Lane.reset = Lane.reset := by
    rw [hl, List.getD_eq_getElem?_getD, List.getElem?_replicate, if_pos hi]
    rfl
  have halanes : a.lanes.get h = (List.replicate 16 Lane.reset).set i (helloLane f) := by
    rw [ha]
    show (s.lanes.modify h _).get h = _
    rw [Halves.get_modify, hl]
  have hachain : a.noChain h := by rw [ha]; exact hn
  have hgo : ∀ goal : Option Nat, (goal.map fun c => s.staysIdle h c).getD false = false := by
    intro goal
    cases goal with
    | none => rfl
    | some c => exact State.staysIdle_of_noChain hn c
  obtain ⟨d, hd⟩ : ∃ d : State, d = if s.training h then a.bondAll h else a.bondOne h i (helloLane f) := ⟨_, rfl⟩
  have hfirst : FirstLane s d h i (helloLane f) n := by
    have hall : FirstLane a d h i (helloLane f) n := by
      rw [hd]
      split
      · exact State.bondAll_first halanes hachain hc hi
      · exact State.bondOne_first halanes hachain hc
    refine ⟨hall.lanes, hall.chain, hall.others, ?_⟩
    have := congrArg (fun x : State => { x with lanes := s.lanes }) hall.rest
    rw [ha] at this
    exact this
  have heq : s.takeHello h i f = d := by
    unfold State.takeHello
    dsimp only
    rw [hold, hf, ht, hgo]
    refine (if_neg (by simp [Lane.reset])).trans ?_
    have hl0 : losers (a.lanes.get h) (d.lanes.get h) i = [] := by
      rw [hfirst.lanes]
      exact losers_first _ rfl
    rw [ha, hd, ha] at hl0
    rw [hd, ha]
    refine Eq.trans (congrArg (fun l => List.foldl _ _ l) hl0) rfl
  rw [heq]
  exact hfirst

theorem hello_first {lane : BitVec 4} (hf : helloOk f = true) (ht : s.mayTrain h = true) (hl : s.lanes.get h = List.replicate 16 Lane.reset)
    (hlen : (s.chains.get h).length = 16) (hx : ∀ x ∈ s.chains.get h, x.kind = .none ∧ x.quiet = false)
    (hc : Claims (helloLane f) n k) :
    Completes (.hello h lane f) s fun t =>
      (t.chain h n).up = true ∧ (t.chain h n).kind = k ∧ (t.chain h n).expected = 0 ∧ (t.chain h n).seq = 0 ∧
      (∀ c, c ≠ n → (t.chain h c).up = false) ∧ ((t.lanes.get h).getD lane.toNat Lane.reset).member = some n ∧
      ((t.lanes.get h).getD lane.toNat Lane.reset).mode = .up ∧ { t with lanes := s.lanes, chains := s.chains } = s := by
  have hi : lane.toNat < 16 := lane.isLt
  have hk := State.takeHello_first (i := lane.toNat) hf ht hl ⟨hlen, hx⟩ hc hi
  obtain ⟨x, hxf⟩ := hk.chain
  obtain ⟨hkind, hquiet, hexp, hseq⟩ := x.fresh_fields (helloLane f)
  have hlane : ((s.takeHello h lane.toNat f).lanes.get h).getD lane.toNat Lane.reset = { helloLane f with member := some n } := by
    rw [hk.lanes, List.getD_eq_getElem?_getD, List.getElem?_set_self (by simpa using hi)]
    rfl
  refine ⟨_, rfl, ?_, ?_, ?_, ?_, hk.others, ?_, ?_, hk.rest⟩
  · rw [hxf, Chain.up, hkind, hquiet, hc.kind]
    simpa using hc.some
  · rw [hxf, hkind, hc.kind]
  · rw [hxf, hexp]
  · rw [hxf, hseq]
  · rw [hlane]
  · rw [hlane]
    rfl

end Sys2Proof.Machine

end

section
/-! Lanes that drop out, and chains that are lost (13 R307; 16 R387, R393). -/
namespace Sys2Proof.Machine

variable {s t u : State} {h : Half} {c : Nat}

/-! ### Frames that are given to chains -/

/-- Nothing changes but what chains carry. -/
structure Sendings (s t : State) : Prop where
  rest : { t with chains := s.chains } = s
  line : ∀ h c, (t.chain h c).line = (s.chain h c).line

namespace Sendings

theorem refl (s : State) : Sendings s s := ⟨rfl, fun _ _ => rfl⟩

theorem trans (h : Sendings s t) (k : Sendings t u) : Sendings s u := by
  have e := congrArg (fun x : State => { x with chains := s.chains }) k.rest
  exact ⟨e.trans h.rest, fun g c => (k.line g c).trans (h.line g c)⟩

theorem foldl {α : Type} {f : State → α → State} (hf : ∀ t x, Sendings t (f t x)) (l : List α) (s : State) : Sendings s (l.foldl f s) := by
  induction l generalizing s with
  | nil => exact refl s
  | cons x l ih => exact (hf s x).trans (ih _)

theorem sendOut (s : State) (h : Half) (c : Nat) (o : Out) : Sendings s (s.sendOut h c o) := ⟨rfl, (Handover.sendOut s h c o).line⟩

theorem sendResume (s : State) (h : Half) (rs : List SynRec) : Sendings s (s.sendResume h rs) :=
  foldl (fun t _ => foldl (fun t _ => sendOut t ..) _ t) _ s

theorem requeuePeer (s : State) (h : Half) (outs : List Out) : Sendings s (s.requeuePeer h outs) := by
  unfold State.requeuePeer
  refine List.foldlRecOn outs _ (motive := fun p : State × Option Nat => Sendings s p.1) (refl s) fun p hp o _ => ?_
  dsimp only
  split
  · exact hp.trans (sendOut ..)
  · exact hp

theorem up (k : Sendings s t) (h : Half) (c : Nat) : (t.chain h c).up = (s.chain h c).up := Chain.up_of_line (k.line h c)

end Sendings

/-! ### A chain that is lost -/

/-- The chain has gone to idle, and its lanes belong to none. -/
def State.chainGone (s : State) (h : Half) (c : Nat) : State :=
  { s.onChain h c fun x => x.idle with
    lanes := s.lanes.modify h (·.map fun n => if n.member == some c then { n with member := none, mode := .dropped } else n) }

theorem State.chainGone_up (s : State) (h : Half) (c : Nat) : ((s.chainGone h c).chain h c).up = false := by
  have he : (s.chainGone h c).chain h c = (s.onChain h c fun x => x.idle).chain h c := rfl
  rw [he]
  by_cases hc : c < (s.chains.get h).length
  · rw [State.chain_onChain_lt hc]
    exact Chain.idle_up _
  · have hout : (s.onChain h c fun x => x.idle).chain h c = Chain.reset := by
      refine getD_of_le Chain.reset ?_
      have hlen : ((s.onChain h c fun x => x.idle).chains.get h).length = (s.chains.get h).length := by
        rw [State.onChain, Halves.get_modify, List.length_set]
      omega
    rw [hout]
    rfl

/-- The frames of a peer chain travel on those that remain. -/
theorem State.loseChain_peer (hk : (s.chain h c).kind = .peer) :
    ((s.loseChain h c).chain h c).up = false ∧ { s.loseChain h c with lanes := s.lanes, chains := s.chains } = s := by
  have heq : s.loseChain h c = (s.chainGone h c).requeuePeer h ((s.chain h c).replay.map (·.out) ++ (s.chain h c).wait) := by
    unfold State.loseChain
    dsimp only
    rw [hk]
    rfl
  have hs := Sendings.requeuePeer (s.chainGone h c) h ((s.chain h c).replay.map (·.out) ++ (s.chain h c).wait)
  rw [heq]
  refine ⟨(hs.up h c).trans (s.chainGone_up h c), ?_⟩
  have e := congrArg (fun x : State => { x with lanes := s.lanes, chains := s.chains }) hs.rest
  exact e

/-- What a route's entries and chains are after its chain has gone. -/
def Route.follows (r : Route) (h : Half) (c k : Nat) : Route :=
  if r.chains.get h = some c then
    { r with chains := r.chains.set h (some k), entries := r.entries.map fun w => w.rename h (some c) (some k) } else r

theorem State.lowestStep_chainGone {k : Nat} (hk : (List.range 16).find? (fun d => d != c && (s.chain h d).stepUp) = some k) :
    (s.chainGone h c).lowestStep h = some k := by
  have hstep (d : Nat) : ((s.chainGone h c).chain h d).stepUp = (d != c && (s.chain h d).stepUp) := by
    by_cases hd : d = c
    · subst hd
      have hup := s.chainGone_up h d
      have hstep : ((s.chainGone h d).chain h d).stepUp = false := by
        cases hs : ((s.chainGone h d).chain h d).stepUp with
        | false => rfl
        | true =>
          rw [Chain.stepUp, Bool.and_eq_true, Chain.isStep, Bool.or_eq_true, beq_iff_eq, beq_iff_eq] at hs
          rw [Chain.up, hs.2] at hup
          rcases hs.1 with hk | hk <;> rw [hk] at hup <;> exact absurd hup nofun
      rw [hstep, bne_self_eq_false, Bool.false_and]
    · have he : (s.chainGone h c).chain h d = s.chain h d := State.chain_onChain_ne (s := s) hd _
      rw [he, bne_iff_ne.2 hd, Bool.true_and]
  unfold State.lowestStep
  simp only [hstep]
  exact hk

/-- The routes of a step chain, and their entries that wait, go on at the lowest other one (13 R307). -/
theorem State.loseChain_step {k : Nat} (hs : (s.chain h c).isStep = true)
    (hk : (List.range 16).find? (fun d => d != c && (s.chain h d).stepUp) = some k) :
    ((s.loseChain h c).chain h c).up = false ∧ (s.loseChain h c).rt = s.rt.mapVals (fun r => r.follows h c k) ∧
      (s.loseChain h c).half = (s.onHalf h fun y => { y with waiting := y.waiting.map fun w => w.rename h (some c) (some k) }).half ∧
      ((s.loseChain h c).bnd, (s.loseChain h c).img, (s.loseChain h c).eng, (s.loseChain h c).mbx, (s.loseChain h c).bench,
        (s.loseChain h c).safe) = (s.bnd, s.img, s.eng, s.mbx, s.bench, s.safe) := by
  have hpeer : ((s.chain h c).kind == .peer) = false := by
    rw [Chain.isStep, Bool.or_eq_true, beq_iff_eq, beq_iff_eq] at hs
    rcases hs with hk | hk <;> rw [hk] <;> rfl
  obtain ⟨a, ha⟩ : ∃ a : State, a = ({ s.chainGone h c with rt := s.rt.mapVals fun r => r.follows h c k } : State).onHalf h fun x =>
      { x with waiting := x.waiting.map fun w => w.rename h (some c) (some k) } := ⟨_, rfl⟩
  obtain ⟨named, hnamed⟩ : ∃ named : List Route, named = s.rt.vals.filter fun r => r.chains.get h == some c := ⟨_, rfl⟩
  obtain ⟨d, hd⟩ : ∃ d : State, d = (s.chain h c).unacked.foldl (fun t o => t.sendOut h k o)
      (a.sendResume h ((named.filter Route.moves).map fun r => synOf r h k)) := ⟨_, rfl⟩
  have heq : s.loseChain h c = if named.isEmpty then d else d.recovery h 0x0007 0 0 := by
    have hlow : State.lowestStep { s.onChain h c fun x => x.idle with
        lanes := s.lanes.modify h (·.map fun n => if n.member == some c then { n with member := none, mode := .dropped } else n) } h =
        some k := State.lowestStep_chainGone hk
    unfold State.loseChain
    dsimp only
    rw [hpeer, if_neg Bool.false_ne_true, hs, if_neg (by simp)]
    have hgone : (s.onChain h c fun x => x.idle).lanes = s.lanes := rfl
    rw [hgone, hlow]
    subst hd ha hnamed
    rfl
  have hsent : Sendings a d := by
    subst hd
    exact (Sendings.sendResume a h _).trans (.foldl (fun t o => .sendOut t ..) _ _)
  have hjr : ∃ j, s.loseChain h c = { d with jr := j } := by
    rw [heq]
    split
    · exact ⟨d.jr, rfl⟩
    · exact ⟨_, State.journal_eq ..⟩
  obtain ⟨j, hj⟩ := hjr
  have hdfields := congrArg (fun x : State => (x.rt, x.half, x.bnd, x.img, x.eng, x.mbx, x.bench, x.safe)) hsent.rest
  simp only [Prod.mk.injEq] at hdfields
  obtain ⟨hrt, hhalf, hbnd, himg, heng, hmbx, hbench, hsafe⟩ := hdfields
  rw [hj]
  refine ⟨?_, ?_, ?_, ?_⟩
  · refine (hsent.up h c).trans ?_
    rw [ha]
    exact s.chainGone_up h c
  · refine hrt.trans ?_
    rw [ha]
    rfl
  · refine hhalf.trans ?_
    rw [ha]
    rfl
  · show (d.bnd, d.img, d.eng, d.mbx, d.bench, d.safe) = _
    rw [hbnd, himg, heng, hmbx, hbench, hsafe, ha]
    rfl

/-! ### The last lane of a chain, and one of several -/

theorem Chain.resend_kind (x : Chain) : x.resend.kind = x.kind := by
  unfold Chain.resend
  split <;> rfl

/-- The half without the lane. -/
def State.laneOut (s : State) (h : Half) (i : Nat) (l : Lane) (c : Nat) : State :=
  ({ s with lanes := s.lanes.set h ((s.lanes.get h).set i { l with mode := .dropped, member := none }) } : State).onChain h c fun x => x.count 3

theorem laneDropOut_exec {lane : BitVec 4} {l : Lane} (hl : (s.lanes.get h)[lane.toNat]? = some l) (hm : l.member = some c) :
    exec (.laneDropOut h lane) s = .next
      (if (((s.lanes.get h).set lane.toNat { l with mode := .dropped, member := none }).any fun m => m.member == some c) = true then
        (s.laneOut h lane.toNat l c).onChain h c Chain.resend
      else (s.laneOut h lane.toNat l c).loseChain h c) := by
  have hget : (s.lanes.get h).getD lane.toNat Lane.reset = l := by rw [List.getD_eq_getElem?_getD, hl]; rfl
  have he : exec (.laneDropOut h lane) s = execLaneDropOut h lane s := rfl
  rw [he]
  unfold execLaneDropOut
  dsimp only
  rw [hget, hm]
  rfl

theorem laneDropOut_narrows {lane : BitVec 4} {l : Lane} (hl : (s.lanes.get h)[lane.toNat]? = some l) (hm : l.member = some c)
    (ho : ∃ i m, i ≠ lane.toNat ∧ (s.lanes.get h)[i]? = some m ∧ m.member = some c) :
    Completes (.laneDropOut h lane) s fun t =>
      t.lanes.get h = (s.lanes.get h).set lane.toNat { l with mode := .dropped, member := none } ∧
      (t.chain h c).kind = (s.chain h c).kind ∧ (t.chain h c).replay = (s.chain h c).replay ∧
      (t.chain h c).ctl = (s.chain h c).ctl ++ (s.chain h c).replay.map (·.out) ∧
      { t with lanes := s.lanes, chains := s.chains } = s := by
  obtain ⟨i, m, hi, him, hmc⟩ := ho
  have hany : (((s.lanes.get h).set lane.toNat { l with mode := .dropped, member := none }).any fun m => m.member == some c) = true := by
    refine List.any_eq_true.2 ⟨m, List.mem_of_getElem? (i := i) ?_, by simp [hmc]⟩
    rw [List.getElem?_set_ne (Ne.symm hi), him]
  have hchain : ((s.laneOut h lane.toNat l c).onChain h c Chain.resend).chain h c = ((s.chain h c).count 3).resend ∨
      (((s.laneOut h lane.toNat l c).onChain h c Chain.resend).chain h c = Chain.reset ∧ s.chain h c = Chain.reset) := by
    rw [State.laneOut, State.onChain_onChain]
    by_cases hc : c < (s.chains.get h).length
    · exact .inl (State.chain_onChain_lt (s := { s with lanes := s.lanes.set h _ }) hc _)
    · refine .inr ⟨getD_of_le Chain.reset ?_, State.chain_of_le (by omega)⟩
      have hlen : (((s.chains.modify h fun l => l.set c ((chainAt l c).count 3).resend)).get h).length = (s.chains.get h).length := by
        rw [Halves.get_modify, List.length_set]
      exact Nat.le_trans (Nat.le_of_eq hlen) (by omega)
  refine ⟨_, (laneDropOut_exec hl hm).trans (congrArg _ (if_pos hany)), ?_, ?_⟩
  · show (s.lanes.set h _).get h = _
    rw [Halves.get_set_same]
  · rcases hchain with hc | ⟨hc, hr⟩
    · rw [hc, Chain.resend_kind]
      exact ⟨rfl, (Chain.resend_frame _).1, (Chain.resend_frame _).2, rfl⟩
    · rw [hc, hr]
      exact ⟨rfl, rfl, rfl, rfl⟩

theorem laneDropOut_losesPeer {lane : BitVec 4} {l : Lane} (hl : (s.lanes.get h)[lane.toNat]? = some l) (hm : l.member = some c)
    (ho : ∀ i m, i ≠ lane.toNat → (s.lanes.get h)[i]? = some m → m.member ≠ some c) (hk : (s.chain h c).kind = .peer) :
    Completes (.laneDropOut h lane) s fun t => (t.chain h c).up = false ∧ { t with lanes := s.lanes, chains := s.chains } = s := by
  have hany : ¬ (((s.lanes.get h).set lane.toNat { l with mode := .dropped, member := none }).any fun m => m.member == some c) = true := by
    rw [List.any_eq_true]
    rintro ⟨m, hmem, hmc⟩
    obtain ⟨i, hi⟩ := List.getElem?_of_mem hmem
    rw [List.getElem?_set] at hi
    split at hi
    · split at hi
      · cases hi
        simp at hmc
      · cases hi
    next hne => exact ho i m (Ne.symm hne) hi (eq_of_beq hmc)
  have hlt : c < (s.chains.get h).length := by
    refine Nat.lt_of_not_le fun hn => ?_
    rw [State.chain_of_le hn] at hk
    exact absurd hk (by decide)
  have hkind : ((s.laneOut h lane.toNat l c).chain h c).kind = .peer := by
    rw [State.laneOut, State.chain_onChain_lt (s := { s with lanes := s.lanes.set h _ }) hlt]
    exact hk
  obtain ⟨hup, hrest⟩ := State.loseChain_peer hkind
  refine ⟨_, (laneDropOut_exec hl hm).trans (congrArg _ (if_neg hany)), hup, ?_⟩
  have e := congrArg (fun x : State => { x with lanes := s.lanes, chains := s.chains }) hrest
  exact e

end Sys2Proof.Machine

open Sys2Proof Sys2Proof.Machine

/-- Settles O32: the first lane of a half, one lane of a chain, its last one, and a chain whose replay stands still. -/
theorem lanesAndChains : Obligations.LanesAndChains := by
  intro s h
  refine ⟨fun lane f n k hf ht hl hlen hx hn => hello_first hf ht hl hlen hx (helloLane_claims hf hn),
    fun lane l c hl hm => ⟨laneDropOut_narrows hl hm, laneDropOut_losesPeer hl hm⟩, fun ch x hx hup hr => ?_⟩
  subst hx
  have hexec : exec (.chainReplayTimeout h ch) s = .next (s.loseChain h ch.toNat) :=
    congrArg Host.Outcome.next (if_pos (by rw [hup]; simpa using hr))
  exact ⟨fun hk => ⟨_, hexec, State.loseChain_peer hk⟩, fun k hst hk => ⟨_, hexec, State.loseChain_step hst hk⟩⟩

end

section
/-! Chains that are quiesced and trained again, and groups that a withdrawal pauses (12 R286, R288; 15 R369; 16 R387; 18 R442;
03 R71). -/
namespace Sys2Proof.Machine

variable {s t : State} {k : Byte} {p : List Byte} {h : Half} {r q : Route} {b : Binding}

/-! ### Quiesced chains -/

/-- The chain's bit is one of the first `n` of a mask, and set. -/
def namedBit (m n : Nat) (h : Half) (c : Nat) : Bool := decide (c < 16) && decide (16 * h.code + c < n) && bitOf m (16 * h.code + c)

theorem namedBit_all (m : Nat) (h : Half) (c : Nat) : namedBit m 32 h c = true ↔ c < 16 ∧ bitOf m (16 * h.code + c) = true := by
  have hcode : h.code ≤ 1 := by cases h <;> decide
  simp only [namedBit, Bool.and_eq_true, decide_eq_true_eq]
  constructor
  · rintro ⟨⟨hc, -⟩, hb⟩
    exact ⟨hc, hb⟩
  · rintro ⟨hc, hb⟩
    exact ⟨⟨hc, by omega⟩, hb⟩

/-- The next bit names one chain of one half. -/
theorem namedBit_succ {m n : Nat} (hn : n < 32) (h : Half) (c : Nat) :
    namedBit m (n + 1) h c = (namedBit m n h c || (bitOf m n && (h == Half.ofCode (n / 16)) && (c == n % 16))) := by
  have hmatch : (h = Half.ofCode (n / 16) ∧ c = n % 16) ↔ c < 16 ∧ 16 * h.code + c = n := by
    unfold Half.ofCode
    cases h
    · simp only [Half.code]
      split <;> simp <;> omega
    · simp only [Half.code]
      split <;> simp <;> omega
  rw [Bool.eq_iff_iff]
  simp only [namedBit, Bool.and_eq_true, Bool.or_eq_true, decide_eq_true_eq, beq_iff_eq, and_assoc]
  constructor
  · rintro ⟨hc, hlt, hb⟩
    by_cases he : 16 * h.code + c = n
    · exact .inr ⟨he ▸ hb, hmatch.2 ⟨hc, he⟩⟩
    · exact .inl ⟨hc, by omega, hb⟩
  · rintro (⟨hc, hlt, hb⟩ | ⟨hb, hm⟩)
    · exact ⟨hc, by omega, hb⟩
    · obtain ⟨hc, he⟩ := hmatch.1 hm
      exact ⟨hc, by omega, by rw [he]; exact hb⟩

/-- A chain of a named number goes quiet. -/
def Chain.quietIf (x : Chain) (named : Bool) : Chain := if named then { x with quiet := true } else x

/-- A lane of a named chain drops out. -/
def Lane.dropIf (l : Lane) (named : Nat → Bool) : Lane :=
  match l.member with
  | some c => if named c then { l with member := none, mode := .dropped } else l
  | none => l

theorem Chain.quietIf_or (x : Chain) (a b : Bool) : (x.quietIf a).quietIf b = x.quietIf (a || b) := by
  cases a <;> cases b <;> rfl

theorem Lane.dropIf_or (l : Lane) (a b : Nat → Bool) : (l.dropIf a).dropIf b = l.dropIf fun c => a c || b c := by
  unfold Lane.dropIf
  cases hm : l.member with
  | none => simp [hm]
  | some c =>
    cases ha : a c <;> simp [ha, hm]

/-- The chains that the first `n` bits name are quiet. -/
structure Quieted (s t : State) (m n : Nat) : Prop where
  chains : ∀ h, t.chains.get h = (s.chains.get h).mapIdx fun c x => x.quietIf (namedBit m n h c)
  lanes : ∀ h, t.lanes.get h = (s.lanes.get h).map fun l => l.dropIf (namedBit m n h)
  rest : { t with lanes := s.lanes, chains := s.chains } = s

theorem Halves.get_modify_ne {α : Type} (x : Halves α) {g h : Half} (hg : g ≠ h) (f : α → α) : (x.modify h f).get g = x.get g := by
  cases g <;> cases h <;> trivial

theorem State.quiesce_chains (s : State) (g h : Half) (d : Nat) :
    (s.quiesce g d).chains.get h = (s.chains.get h).mapIdx fun c x => x.quietIf (h == g && c == d) := by
  by_cases hg : h = g
  · subst hg
    have he : (s.quiesce h d).chains.get h = (s.chains.get h).set d { chainAt (s.chains.get h) d with quiet := true } := by
      show ((s.chains.modify h _).get h) = _
      rw [Halves.get_modify]
    rw [he]
    refine List.ext_getElem (by simp) fun i h1 h2 => ?_
    have hi : i < (s.chains.get h).length := by simpa using h2
    rw [List.getElem_set, List.getElem_mapIdx]
    split
    next hd =>
      subst hd
      simp [Chain.quietIf, chainAt, hi]
    next hd => simp [Chain.quietIf, Ne.symm hd]
  · have he : (s.quiesce g d).chains.get h = s.chains.get h := Halves.get_modify_ne _ hg _
    rw [he]
    refine List.ext_getElem (by simp) fun i h1 h2 => ?_
    simp [Chain.quietIf, hg]

theorem State.quiesce_lanes (s : State) (g h : Half) (d : Nat) :
    (s.quiesce g d).lanes.get h = (s.lanes.get h).map fun l => l.dropIf fun c => h == g && c == d := by
  by_cases hg : h = g
  · subst hg
    have he : (s.quiesce h d).lanes.get h =
        (s.lanes.get h).map fun l => if l.member = some d then { l with member := none, mode := .dropped } else l := Halves.get_modify ..
    rw [he]
    refine List.map_congr_left fun l _ => ?_
    unfold Lane.dropIf
    cases hm : l.member with
    | none => simp
    | some c => by_cases hc : c = d <;> simp [hc]
  · have he : (s.quiesce g d).lanes.get h = s.lanes.get h := Halves.get_modify_ne _ hg _
    rw [he]
    have hid : (fun l : Lane => l.dropIf fun c => h == g && c == d) = id := by
      funext l
      unfold Lane.dropIf
      cases l.member with
      | none => rfl
      | some c => simp [hg]
    rw [hid, List.map_id]

theorem State.quiesced (s : State) (m : Nat) : ∀ n, n ≤ 32 →
    Quieted s ((List.range n).foldl (fun t c => if bitOf m c then t.quiesce (Half.ofCode (c / 16)) (c % 16) else t) s) m n := by
  intro n hn
  induction n with
  | zero =>
    have hz (h : Half) (c : Nat) : namedBit m 0 h c = false := by simp [namedBit]
    refine ⟨fun h => ?_, fun h => ?_, rfl⟩
    · refine List.ext_getElem (by simp) fun i h1 h2 => ?_
      simp [hz, Chain.quietIf]
    · have hid : (fun l : Lane => l.dropIf (namedBit m 0 h)) = id := by
        funext l
        unfold Lane.dropIf
        cases l.member with
        | none => rfl
        | some c => simp [hz]
      rw [hid, List.map_id]
      rfl
  | succ n ih =>
    rw [List.range_succ, List.foldl_append, List.foldl_cons, List.foldl_nil]
    obtain ⟨hc, hl, hr⟩ := ih (by omega)
    generalize (List.range n).foldl (fun t c => if bitOf m c then t.quiesce (Half.ofCode (c / 16)) (c % 16) else t) s = u at hc hl hr
    have hsucc (h : Half) (c : Nat) := namedBit_succ (m := m) (n := n) (by omega) h c
    cases hb : bitOf m n with
    | false =>
      refine ⟨fun h => ?_, fun h => ?_, hr⟩
      · rw [if_neg (by simp), hc]
        simp only [hsucc, hb, Bool.false_and, Bool.or_false]
      · rw [if_neg (by simp), hl]
        have hnb : namedBit m (n + 1) h = namedBit m n h := funext fun c => by rw [hsucc, hb]; simp
        rw [hnb]
    | true =>
      rw [if_pos rfl]
      refine ⟨fun h => ?_, fun h => ?_, ?_⟩
      · rw [State.quiesce_chains, hc, List.mapIdx_mapIdx]
        refine congrArg (fun f => (s.chains.get h).mapIdx f) (funext fun c => funext fun x => ?_)
        show (x.quietIf _).quietIf _ = _
        rw [Chain.quietIf_or, hsucc, hb, Bool.true_and]
      · rw [State.quiesce_lanes, hl, List.map_map]
        refine congrArg (fun f => (s.lanes.get h).map f) (funext fun l => ?_)
        show (l.dropIf _).dropIf _ = _
        rw [Lane.dropIf_or]
        refine congrArg l.dropIf (funext fun c => ?_)
        rw [hsucc, hb, Bool.true_and]
      · exact hr

theorem quiesceLanes_quiets (hg : Granted s k cQuiesce p) (hl : p.length = 4) :
    Completes (.serviceQuiesceLanes k) s fun t =>
      Replied s t k stOk (engineObj s) [] ∧
      (∀ h, t.chains.get h = (s.chains.get h).mapIdx fun c x =>
        if c < 16 ∧ bitOf (u32At p 0) (16 * h.code + c) = true then { x with quiet := true } else x) ∧
      (∀ h, t.lanes.get h = (s.lanes.get h).map fun l => match l.member with
        | some c => if c < 16 ∧ bitOf (u32At p 0) (16 * h.code + c) = true then { l with member := none, mode := .dropped } else l
        | none => l) ∧
      { t with mbx := s.mbx, jr := s.jr, lanes := s.lanes, chains := s.chains, mi := s.mi } = s := by
  obtain ⟨u, hu⟩ : ∃ u : State, u = (List.range 32).foldl
      (fun t c => if bitOf (u32At p 0) c then t.quiesce (Half.ofCode (c / 16)) (c % 16) else t)
      { s with jr := (s.notice k.toNat).jr } := ⟨_, rfl⟩
  have hq : Quieted { s with jr := (s.notice k.toNat).jr } u (u32At p 0) 32 := by rw [hu]; exact State.quiesced _ _ 32 (Nat.le_refl _)
  obtain ⟨hc, hla, hr⟩ := hq
  have hexec : exec (.serviceQuiesceLanes k) s = .next (u.commitOk k.toNat (engineObj s) []) := by
    refine (hg.exec (c := .serviceQuiesceLanes k) rfl rfl).trans (congrArg _ ?_)
    rw [hu]
    exact if_neg (by simp [hl])
  have hbox : u.mbx = s.mbx := by
    have := congrArg State.mbx hr
    exact this
  have htime : u.time = s.time := by
    have := congrArg State.time hr
    exact this
  obtain ⟨t, ht, hrep, honly⟩ := Answers.of_commitOk (s := s) (s1 := u) hg.canonical hexec rfl (.of_eq hbox) htime (engineObj_lt s) (by simp)
  refine ⟨t, ht, hrep, fun h => ?_, fun h => ?_, ?_⟩
  · have := congrArg State.chains honly
    have hte : t.chains = u.chains := this
    rw [hte, hc]
    refine congrArg (fun f => (s.chains.get h).mapIdx f) (funext fun c => funext fun x => ?_)
    exact ite_congr (propext (namedBit_all ..)) (fun _ => rfl) fun _ => rfl
  · have := congrArg State.lanes honly
    have hte : t.lanes = u.lanes := this
    rw [hte, hla]
    refine congrArg (fun f => (s.lanes.get h).map f) (funext fun l => ?_)
    unfold Lane.dropIf
    cases l.member with
    | none => rfl
    | some c => exact ite_congr (propext (namedBit_all ..)) (fun _ => rfl) fun _ => rfl
  · have e := congrArg (fun x : State => { x with mbx := s.mbx, jr := s.jr, lanes := s.lanes, chains := s.chains, mi := s.mi }) honly
    have e2 := congrArg (fun x : State => { x with mbx := s.mbx, jr := s.jr, mi := s.mi }) hr
    exact e.trans e2

/-! ### Groups that are held -/

/-- The owner's route of a group is PAUSED, or is due to pause after the release that is on its way (03 R71). -/
def Route.heldAs (r : Route) : Route :=
  if r.forcedMore = true ∨ (r.adm.map Adm.leaving).getD false = true then { r with pauseDue := true }
  else { r with state := .paused, adm := none, drafts := none, pauseDue := false }

/-- What else keeps a route of a group from being held at once. -/
structure Holdable (s : State) (r : Route) (b : Binding) : Prop where
  table : s.rt = [(routeIndex r.handle, r)]
  binding : s.binding r.binding = some b
  active : b.state = .active
  serves : r.state = .open ∨ r.state = .running
  entries : r.entries = []
  copies : r.copies = ⟨[], []⟩
  mark : r.markDue = false
  saving : r.saving = false
  jobs : s.mbx.jobs = []

/-- After what waited for the route has happened, masks and heads alone are prepared. -/
theorem State.refill_after {u v : State} (hs : u.settle q.handle = v) (hr : v.rt = [(routeIndex q.handle, q)]) (he : q.entries = [])
    (hc : q.copies = ⟨[], []⟩) : Banks v (u.afterRelease q.handle) := by
  have hroute := State.route_of_singleton hr
  have hfill := Banks.refill v
  unfold State.afterRelease
  dsimp only
  rw [hs, State.readmit_empty hroute he hc, hfill.route, hroute]
  dsimp only
  split
  · split
    · exact hfill.trans (Banks.wantMasks ..)
    · exact hfill
  · exact hfill

theorem State.holdGroup_holds (hh : Holdable s r b) : RouteWork s (s.holdGroup r) ∧ (s.holdGroup r).rt = [(routeIndex r.heldAs.handle, r.heldAs)] := by
  obtain ⟨hr, hb, hact, hst, hen, hco, hmd, hsv, hj⟩ := hh
  have hstop : b.state ≠ .stopping := by rw [hact]; nofun
  by_cases hk : r.forcedMore = true ∨ (r.adm.map Adm.leaving).getD false = true
  · have hheld : r.heldAs = { r with pauseDue := true } := if_pos hk
    obtain ⟨q, hq⟩ : ∃ q : Route, q = { r with pauseDue := true } := ⟨_, rfl⟩
    have heq : s.holdGroup r = (s.setRoute q).afterRelease r.handle := by
      have hkeep : (r.forcedMore || (r.adm.map Adm.leaving).getD false) = true := by simpa using hk
      unfold State.holdGroup
      dsimp only
      rw [hkeep, if_pos rfl, if_pos rfl, hq]
    have hqh : q.handle = r.handle := by rw [hq]
    have hrt : (s.setRoute q).rt = [(routeIndex q.handle, q)] := State.setRoute_rt_singleton hr hqh
    have hbusy : (q.adm.isSome || q.forcedMore || q.saving) = true := by
      rw [hq]
      rcases hk with hf | ha
      · simp [hf]
      · cases had : r.adm with
        | none => rw [had] at ha; cases ha
        | some a => simp
    have hbanks := State.refill_after (State.settle_of_busy (State.route_of_singleton hrt) hbusy) hrt (by rw [hq]; exact hen)
      (by rw [hq]; exact hco)
    rw [heq, hheld, ← hq, ← hqh]
    exact ⟨(RouteWork.setRoute s q).trans hbanks.aside.work, hbanks.aside.rt.trans hrt⟩
  · have hheld : r.heldAs = { r with state := .paused, adm := none, drafts := none, pauseDue := false } := if_neg hk
    obtain ⟨q, hq⟩ : ∃ q : Route, q = { r with adm := none, pauseDue := true } := ⟨_, rfl⟩
    have hkeep : (r.forcedMore || (r.adm.map Adm.leaving).getD false) = false := by simpa using hk
    have hfm : r.forcedMore = false := (Bool.or_eq_false_iff.1 hkeep).1
    have heq : s.holdGroup r = ((s.freeStep r).setRoute q).afterRelease r.handle := by
      unfold State.holdGroup
      dsimp only
      rw [hkeep, if_neg Bool.false_ne_true, if_neg Bool.false_ne_true, hq]
    have hqh : q.handle = r.handle := by rw [hq]
    have hfree := Banks.freeStep s r
    have hrt : ((s.freeStep r).setRoute q).rt = [(routeIndex q.handle, q)] := State.setRoute_rt_singleton (hfree.aside.rt.trans hr) hqh
    obtain ⟨u, hu⟩ : ∃ u, u = (s.freeStep r).setRoute q := ⟨_, rfl⟩
    rw [← hu] at hrt heq
    have hub : u.binding q.binding = some b := by
      rw [hu, hq]
      exact (hfree.binding _).trans hb
    have huj : u.mbx.jobs = [] := by
      rw [hu]
      show (s.freeStep r).mbx.jobs = []
      rw [hfree.aside.mbx, hj]
    have hno : ∀ j ∈ u.mbx.jobs, j.code ≠ cHalt := by rw [huj]; nofun
    have hroute := State.route_of_singleton hrt
    obtain ⟨v, hv⟩ : ∃ v, v = u.holdPaused q := ⟨_, rfl⟩
    have hwork : RouteWork u v := by rw [hv]; exact .holdPaused ..
    have hsettle : u.settle q.handle = v := by
      rw [State.settle_of_free hroute (by rw [hq]; simp [hfm, hsv]) (by rw [hq]; exact hmd), huj]
      show u.afterDue q.handle q.binding = v
      have hdue : (q.pauseDue && (q.state == .open || q.state == .running)) = true := by
        rw [hq]
        rcases hst with h | h <;> simp [h]
      unfold State.afterDue
      rw [hroute]
      dsimp only
      rw [State.not_held hno hub hstop, hdue, Bool.false_and, Bool.false_and, if_neg Bool.false_ne_true, if_pos rfl, ← hv,
        State.finishStop_of_binding (b := b) ((State.binding_congr hwork.bnd _).trans hub) hstop,
        State.finishHalt_of_none (by rw [hwork.mbx, huj])]
    have hqp : r.heldAs.handle = q.handle := by rw [hheld, hq]
    have hvrt : v.rt = [(routeIndex r.heldAs.handle, r.heldAs)] := by
      have hheldq : r.heldAs = { q with state := .paused, drafts := none, pauseDue := false } := by rw [hheld, hq]
      rw [hv, hheldq]
      exact State.setRoute_rt_singleton ((Banks.freeDrafts u q).aside.rt.trans hrt) rfl
    have hafter : Banks v (u.afterRelease q.handle) := by
      rw [← hqp] at hsettle ⊢
      exact State.refill_after hsettle hvrt (by rw [hheld]; exact hen) (by rw [hheld]; exact hco)
    rw [heq, ← hqh]
    refine ⟨?_, hafter.aside.rt.trans hvrt⟩
    have hstart : RouteWork s u := by
      rw [hu]
      exact hfree.aside.work.trans (.setRoute ..)
    exact (hstart.trans hwork).trans hafter.aside.work

/-- A member's copy of a route of a group that is held. -/
def Route.memberHeld (r : Route) : Route :=
  { r with state := .paused, adm := none, drafts := none, forcedMore := false, openDue := false }

theorem State.holdMember_holds (hh : Holdable s r b) :
    RouteWork s (s.holdMember r) ∧ (s.holdMember r).rt = [(routeIndex r.memberHeld.handle, r.memberHeld)] := by
  obtain ⟨hr, hb, hact, hst, hen, hco, hmd, hsv, hj⟩ := hh
  have hfree : Banks s ((s.freeStep r).freeDrafts r) := (Banks.freeStep s r).trans (.freeDrafts ..)
  obtain ⟨u, hu⟩ : ∃ u, u = ((s.freeStep r).freeDrafts r).setRoute r.memberHeld := ⟨_, rfl⟩
  have heq : s.holdMember r = u.afterRelease r.memberHeld.handle := by rw [hu]; rfl
  have hrt : u.rt = [(routeIndex r.memberHeld.handle, r.memberHeld)] := by
    rw [hu]
    exact State.setRoute_rt_singleton (hfree.aside.rt.trans hr) rfl
  have hsettle : u.settle r.memberHeld.handle = u := by
    refine State.settle_still (b := b) (State.route_of_singleton hrt) ?_ (by rw [hact]; nofun) ?_ hmd (by simp [Route.memberHeld])
    · rw [hu]
      exact (hfree.binding _).trans hb
    · rw [hu]
      show ((s.freeStep r).freeDrafts r).mbx.jobs = []
      rw [hfree.aside.mbx, hj]
  have hbanks := State.refill_after hsettle hrt hen hco
  rw [heq]
  refine ⟨?_, hbanks.aside.rt.trans hrt⟩
  have hstart : RouteWork s u := by
    rw [hu]
    exact hfree.aside.work.trans (.setRoute ..)
  exact hstart.trans hbanks.aside.work

end Sys2Proof.Machine

end

section
/-! `service.level_withdraw` and `service.chain_retrain` (12 R286, R288; 15 R369; 18 R442). -/
namespace Sys2Proof.Machine

variable {s t u v : State} {k : Byte} {p : List Byte} {h : Half} {r : Route} {b : Binding} {j : Job}

/-! ### Withdrawal -/

theorem State.withdraw_says (hm : s.level.member = true) (ha : s.level.acts = false) :
    Says s.level.out s.withdraw.level.out .up lmWithdrawCode s.level.position 0 s.eng.serial := by
  unfold State.withdraw
  dsimp only
  rw [hm, if_pos (by simpa [LvSt.acts] using ha)]
  exact State.lmSend_says { s with level := { s.level with withdrawn := true, ready := false } } ..

/-- The engine has withdrawn, and the command is answered; its groups are held next. -/
structure Withdrawn (s v : State) (k : Byte) : Prop where
  replied : Replied s v k stOk (engineObj s) []
  only : OnlyReply { s with level := v.level } v k
  out : v.level.withdrawn = true ∧ v.level.ready = false
  sends : s.level.member = true → s.level.acts = false → Says s.level.out v.level.out .up lmWithdrawCode s.level.position 0 s.eng.serial
  jobs : v.mbx.jobs = []

theorem withdraw_exec (hg : Granted s k cWithdraw []) (hj : s.mbx.jobs = []) :
    ∃ v, Withdrawn s v k ∧ exec (.serviceLevelWithdraw k) s = .next v.pauseGroups.stepEnded := by
  obtain ⟨w, hw⟩ : ∃ w : State, w = ({ s with jr := (s.notice k.toNat).jr } : State).commit k.toNat := ⟨_, rfl⟩
  have hwo : OnlyJournal s w := by
    have hjr : OnlyJournal s { s with jr := (s.notice k.toNat).jr } := rfl
    rw [hw]
    exact hjr.trans (State.commit_only ..)
  have hwj : w.mbx.jobs = [] := by
    rw [hw]
    exact State.commit_jobs_nil hj
  have hwl : w.level = s.level := by
    have := congrArg State.level hwo
    exact this
  have hwe : w.eng = s.eng := by
    have := congrArg State.eng hwo
    exact this
  obtain ⟨lv, hlv, hout, hready⟩ := State.withdraw_eq w
  have honlyw : OnlyJournal { s with level := lv } w.withdraw := by
    rw [hlv]
    have := congrArg (fun x : State => { x with level := lv }) hwo
    exact this
  obtain ⟨hrep, honly⟩ := State.reply_replies (s := s) (s1 := { s with level := lv }) (k := k) (st := stOk) (o := engineObj s) (p := [])
    hg.canonical honlyw (.of_eq rfl) rfl (by decide) (engineObj_lt s) (by simp)
  obtain ⟨v, hv⟩ : ∃ v, v = w.withdraw.reply k.toNat stOk (engineObj s) [] := ⟨_, rfl⟩
  rw [← hv] at hrep honly
  have hvl : v.level = lv := by
    have := congrArg State.level honly
    exact this
  refine ⟨v, ⟨hrep, by rw [hvl]; exact honly, by rw [hvl]; exact ⟨hout, hready⟩, fun hm ha => ?_, ?_⟩, ?_⟩
  · have hsays := State.withdraw_says (s := w) (by rw [hwl]; exact hm) (by rw [hwl]; exact ha)
    have hlev : w.withdraw.level = lv := by rw [hlv]
    rw [hvl]
    rwa [hwl, hwe, hlev] at hsays
  · have hmj : w.withdraw.mbx.jobs = [] := by rw [hlv]; exact hwj
    rw [hv, State.reply_jobs, hmj]
    rfl
  · refine (hg.exec (c := .serviceLevelWithdraw k) rfl rfl).trans (congrArg _ ?_)
    rw [hv, hw]
    rfl

theorem Withdrawn.rt (hw : Withdrawn s v k) : v.rt = s.rt := by
  have := congrArg State.rt hw.only
  exact this

theorem Withdrawn.bnd (hw : Withdrawn s v k) : v.bnd = s.bnd := by
  have := congrArg State.bnd hw.only
  exact this

/-- No route of a group serves: nothing is held. -/
theorem withdraw_aloneWith (hg : Granted s k cWithdraw []) (hj : s.mbx.jobs = [])
    (hr : ∀ r ∈ s.rt.vals, ∀ b, s.binding r.binding = some b → b.shards ≤ 1 ∨ (r.state ≠ .open ∧ r.state ≠ .running)) :
    Completes (.serviceLevelWithdraw k) s fun t =>
      Replied s t k stOk (engineObj s) [] ∧ t.level.withdrawn = true ∧ t.level.ready = false ∧
      (s.level.member = true → s.level.acts = false →
        Says s.level.out t.level.out .up lmWithdrawCode s.level.position 0 s.eng.serial) ∧
      OnlyReply { s with level := t.level } t k := by
  obtain ⟨v, hv, hexec⟩ := withdraw_exec hg hj
  have hpause : v.pauseGroups = v := by
    refine List.foldlRecOn _ _ (motive := fun u : State => u = v) rfl fun u hu r _ => ?_
    subst hu
    unfold State.holdIfLeft
    split
    next => rfl
    next q hq =>
      split
      next => rfl
      next b hb =>
        refine if_neg ?_
        have hmem : q ∈ s.rt.vals := by
          rw [← hv.rt]
          exact State.route_mem hq
        rw [State.binding_congr hv.bnd] at hb
        rcases hr q hmem b hb with hs | ⟨ho, hrun⟩
        · simp [State.groupHeld, Nat.not_lt.2 hs]
        · simp [ho, hrun]
  rw [hpause, State.stepEnded_eq_self hv.jobs] at hexec
  exact ⟨v, hexec, hv.replied, hv.out.1, hv.out.2, hv.sends, hv.only⟩

/-- What holding the one route of a group leaves of the reply and of the withdrawal. -/
theorem Withdrawn.held (hw : Withdrawn s v k) {q : Route} (hwork : RouteWork v u) (hrt : u.rt = [(routeIndex q.handle, q)])
    (hpause : v.pauseGroups = u) (hexec : exec (.serviceLevelWithdraw k) s = .next v.pauseGroups.stepEnded) :
    Completes (.serviceLevelWithdraw k) s fun t =>
      Replied s t k stOk (engineObj s) [] ∧ t.level.withdrawn = true ∧ t.level.ready = false ∧ t.route q.handle = some q := by
  rw [hpause, State.stepEnded_eq_self (by rw [hwork.mbx]; exact hw.jobs)] at hexec
  refine ⟨u, hexec, hw.replied.congr hwork.mbx, ?_, ?_, State.route_of_singleton hrt⟩
  · rw [hwork.level]
    exact hw.out.1
  · rw [hwork.level]
    exact hw.out.2

theorem State.pauseGroups_single (hr : v.rt = [(routeIndex r.handle, r)]) (hb : v.binding r.binding = some b) (hw : v.level.withdrawn = true)
    (hs : 1 < b.shards) (hst : r.state = .open ∨ r.state = .running) :
    v.pauseGroups = if owns b r then v.holdGroup r else v.holdMember r := by
  have hcond : (v.groupHeld b && (r.state == .open || r.state == .running)) = true := by
    rcases hst with h | h <;> simp [State.groupHeld, hw, hs, h]
  unfold State.pauseGroups
  rw [vals_of_singleton hr, List.foldl_cons, List.foldl_nil, State.holdIfLeft, State.route_of_singleton hr]
  dsimp only
  rw [hb]
  exact if_pos hcond

theorem Withdrawn.holdable (hw : Withdrawn s v k) (hh : Holdable s r b) : Holdable v r b :=
  ⟨hw.rt.trans hh.table, (State.binding_congr hw.bnd _).trans hh.binding, hh.active, hh.serves, hh.entries, hh.copies, hh.mark, hh.saving,
    hw.jobs⟩

theorem withdraw_pauses (hg : Granted s k cWithdraw []) (hh : Holdable s r b) (hs : 1 < b.shards)
    (ho : owns b r = false ∨ (r.forcedMore = false ∧ ∀ a, r.adm = some a → a.leaving = false)) :
    Completes (.serviceLevelWithdraw k) s fun t =>
      Replied s t k stOk (engineObj s) [] ∧ t.level.withdrawn = true ∧ t.level.ready = false ∧
      ∃ q, t.route r.handle = some q ∧ q.state = .paused ∧ q.adm = none ∧ q.drafts = none ∧ q.rel = r.rel := by
  obtain ⟨v, hv, hexec⟩ := withdraw_exec hg hh.jobs
  have hhv := hv.holdable hh
  have hpause := State.pauseGroups_single hhv.table hhv.binding hv.out.1 hs hh.serves
  cases how : owns b r with
  | false =>
    obtain ⟨hwork, hrt⟩ := State.holdMember_holds hhv
    obtain ⟨t, ht, hrep, hout, hready, hroute⟩ := hv.held hwork hrt (hpause.trans (if_neg (by simp [how]))) hexec
    exact ⟨t, ht, hrep, hout, hready, r.memberHeld, hroute, rfl, rfl, rfl, rfl⟩
  | true =>
    obtain ⟨hwork, hrt⟩ := State.holdGroup_holds hhv
    obtain ⟨t, ht, hrep, hout, hready, hroute⟩ := hv.held hwork hrt (hpause.trans (if_pos how)) hexec
    obtain ⟨hfm, hleave⟩ := ho.resolve_left (by simp [how])
    have hkeep : ¬ (r.forcedMore = true ∨ (r.adm.map Adm.leaving).getD false = true) := by
      rw [hfm]
      cases ha : r.adm with
      | none => simp
      | some a => simp [hleave a ha]
    have hheld : r.heldAs = { r with state := .paused, adm := none, drafts := none, pauseDue := false } := if_neg hkeep
    rw [hheld] at hroute
    exact ⟨t, ht, hrep, hout, hready, _, hroute, rfl, rfl, rfl, rfl⟩

theorem withdraw_pausesLater (hg : Granted s k cWithdraw []) (hh : Holdable s r b) (hs : 1 < b.shards) (ho : owns b r = true)
    (hl : r.forcedMore = true ∨ ∃ a, r.adm = some a ∧ a.leaving = true) :
    Completes (.serviceLevelWithdraw k) s fun t =>
      Replied s t k stOk (engineObj s) [] ∧ t.level.withdrawn = true ∧ t.level.ready = false ∧
      t.route r.handle = some { r with pauseDue := true } := by
  obtain ⟨v, hv, hexec⟩ := withdraw_exec hg hh.jobs
  have hhv := hv.holdable hh
  have hpause := State.pauseGroups_single hhv.table hhv.binding hv.out.1 hs hh.serves
  obtain ⟨hwork, hrt⟩ := State.holdGroup_holds hhv
  obtain ⟨t, ht, hrep, hout, hready, hroute⟩ := hv.held hwork hrt (hpause.trans (if_pos ho)) hexec
  have hheld : r.heldAs = { r with pauseDue := true } := by
    refine if_pos (hl.imp_right ?_)
    rintro ⟨a, ha, hleave⟩
    rw [ha]
    exact hleave
  rw [hheld] at hroute
  exact ⟨t, ht, hrep, hout, hready, hroute⟩

/-! ### Chains that train again -/

theorem chainRetrain_begins (hh : h = Half.ofCode (u8At p 0)) (hg : Granted s k cRetrain p) (hu : u8At p 0 ≤ 1) (h15 : u8At p 1 ≤ 15)
    (hl : p.length = 8) (hz : zeroAt p 2 6 = true) :
    Completes (.serviceChainRetrain k) s fun t =>
      Begins s { s with lanes := s.lanes.modify h (·.map (fun l => if s.dropsFrom h (u8At p 1) l then { l with mode := .idle } else l)) }
        t k p := by
  obtain ⟨w, hw⟩ : ∃ w : State, w = { s with jr := (s.notice k.toNat).jr } := ⟨_, rfl⟩
  obtain ⟨c, hc⟩ : ∃ c : State, c = (w.begin k.toNat p 0).commitOnce k.toNat := ⟨_, rfl⟩
  have hbody : retrainBody k.toNat p w = c.freeLanes h (u8At p 1) := by
    refine (halfCommand_runs _ hh hu rfl hl hz).trans ((if_neg (by omega)).trans ?_)
    rw [hc, State.commitOnce_begin]
  have hexec : exec (.serviceChainRetrain k) s = .next (c.freeLanes h (u8At p 1)) := by
    refine (hg.exec (c := .serviceChainRetrain k) rfl rfl).trans (congrArg _ ?_)
    rw [← hw]
    exact hbody
  obtain ⟨m, hm⟩ := State.jobOf_commitOnce (s := w.begin k.toNat p 0) (State.jobOf_begin ..)
  rw [← hc] at hm
  have hceq := State.commitOnce_eq (w.begin k.toNat p 0) k.toNat
  rw [← hc] at hceq
  refine ⟨_, hexec, ⟨_, hm, ?_, rfl⟩, ?_, ?_⟩
  · rw [hw]
    rfl
  · rw [hceq, hw]
    rfl
  · rw [hceq, hw]
    rfl

theorem State.returnHalf_of_none (hj : s.jobOn cHalfServe h = none) : s.returnHalf h = s := by
  unfold State.returnHalf
  rw [hj]

/-- The command completes with the width that its chain has (18 R442). -/
theorem chainsTrained_completes (hw : s.mbx.mem.wf = true) (hj : s.mbx.jobs = [j]) (hk : j.slot = k.toNat) (hc : j.code = cRetrain)
    (hv : (s.slotServer k.toNat).isSome = true) (hp : s.eng.phase ≠ .chains) (hpw : s.half.w.phase ≠ .chains)
    (hpe : s.half.e.phase ≠ .chains) :
    Answers .chainsTrained s s k stOk (engineObj s)
      (toLe 1 ((s.lanes.get j.target).filter fun l => l.member == some (u8At j.body 1)).length) := by
  have hnone (g : Half) : s.jobOn cHalfServe g = none := by
    rw [State.jobOn, hj, List.find?_cons_of_neg (by rw [hc]; simp [cRetrain, cHalfServe])]
    rfl
  have hdone : s.retrainDone =
      s.complete j.slot .engine (toLe 1 ((s.lanes.get j.target).filter fun l => l.member == some (u8At j.body 1)).length) := by
    unfold State.retrainDone
    rw [hj, List.filter_cons_of_pos (by simp [hc])]
    rfl
  have he : exec .chainsTrained s =
      .next (s.complete k.toNat .engine (toLe 1 ((s.lanes.get j.target).filter fun l => l.member == some (u8At j.body 1)).length)) := by
    rw [← hk, ← hdone]
    refine congrArg Host.Outcome.next ((if_neg (by simp [hp])).trans ?_)
    dsimp only
    have hw (x : HalfSt) (hx : x.phase ≠ .chains) : ¬ (x.phase == .chains) = true := by simpa using hx
    rw [if_neg (hw _ hpw), if_neg (hw _ hpe), State.returnHalf_of_none (hnone .west), State.returnHalf_of_none (hnone .east)]
  exact Answers.of_complete hw he hv rfl rfl rfl rfl (engineObj_lt s) (by simp [toLe_length])

end Sys2Proof.Machine

open Sys2Proof Sys2Proof.Machine

/-- Settles O16. -/
theorem chainCommands : Obligations.ChainCommands := by
  intro s k p
  refine ⟨quiesceLanes_quiets, fun hg hj => ⟨withdraw_aloneWith hg hj, fun r b hr hb hs hst hen hco hmd hsv hact => ?_⟩,
    fun h hh hg hu h15 hl hz => chainRetrain_begins hh hg hu h15 hl hz, fun j => chainsTrained_completes⟩
  have hh : Holdable s r b := ⟨hr, hb, hact, hst, hen, hco, hmd, hsv, hj⟩
  exact ⟨withdraw_pauses hg hh hs, withdraw_pausesLater hg hh hs⟩

end

section
/-! A half is reset, drained, and brought back (12 R286, R288; 15 R349; 18 R436, R444). -/
namespace Sys2Proof.Machine

variable {s t u v : State} {k : Byte} {p : List Byte} {h : Half}

/-! ### The reset of a half -/

/-- The half as it boots after its reset, outside the engine's own. -/
def HalfSt.rebooting (x : HalfSt) : HalfSt :=
  { x.wiped with code := if x.code == .drained then .drained else .inReset, fw := .booting, bootTries := 0
                 needsSurvey := true, phase := .firmware }

/-- The half's lanes are idle and its counters of chains cleared, after its own part has changed. -/
def State.halfCleared (v : State) (h : Half) (f : HalfSt → HalfSt) : State := ((v.onHalf h f).idleLanes h).clearChainCounts h

theorem State.halfCleared_hs (v : State) (h : Half) (f : HalfSt → HalfSt) : (v.halfCleared h f).hs h = f (v.hs h) := State.onHalf_hs v h f

theorem State.halfCleared_other (v : State) (h : Half) (f : HalfSt → HalfSt) : (v.halfCleared h f).hs h.other = v.hs h.other :=
  State.onHalf_other v h f

theorem State.halfCleared_chain (v : State) (h : Half) (f : HalfSt → HalfSt) (c : Nat) :
    ((v.halfCleared h f).chain h c).up = false ∧ ((v.halfCleared h f).chain h c).cnt = [0, 0, 0, 0] := by
  have hget : (v.halfCleared h f).chains.get h = ((v.chains.get h).map Chain.idle).map fun c => { c with cnt := [0, 0, 0, 0] } := by
    cases h <;> rfl
  rw [State.chain, hget, chainAt, List.getD_eq_getElem?_getD, List.getElem?_map, List.getElem?_map]
  cases (v.chains.get h)[c]? with
  | none => exact ⟨rfl, rfl⟩
  | some x => exact ⟨x.idle_up, rfl⟩

theorem State.resetHalf_eq (s : State) (h : Half) (hs : s.eng.state ≠ .reset) :
    s.resetHalf h = (s.loseHalf h hlReported .inReset).halfCleared h HalfSt.rebooting := by
  unfold State.resetHalf
  exact if_neg (by simpa using hs)

theorem State.resetHalf_cleared (s : State) (h : Half) : ∃ v f, s.resetHalf h = State.halfCleared v h f ∧
    ∀ x : HalfSt, (f x).serves = false ∧ (f x).fw = .booting ∧ (f x).steps = [0, 0, 0, 0] ∧ (f x).maskCache = [] ∧ (f x).heads = [] ∧
      (f x).regions = [] := by
  by_cases hs : s.eng.state = .reset
  · refine ⟨s, fun x => { x.wiped with code := .inReset, fw := .booting, bootTries := 0 }, ?_, fun x => ⟨rfl, rfl, rfl, rfl, rfl, rfl⟩⟩
    unfold State.resetHalf
    exact if_pos (by simp [hs])
  · refine ⟨_, _, s.resetHalf_eq h hs, fun x => ⟨?_, rfl, rfl, rfl, rfl, rfl⟩⟩
    unfold HalfSt.rebooting HalfSt.serves
    dsimp only
    split <;> rfl

/-- A completed command leaves halves, chains and what else it has changed. -/
theorem State.commitOk_only (u : State) (k : Byte) (o : ObjState) (q : List Byte) : OnlyReply u (u.commitOk k.toNat o q) k :=
  .of_journal (u.commit_only _) (State.reply_only ..)

theorem OnlyReply.half (ho : OnlyReply u t k) : t.half = u.half := by
  have := congrArg State.half ho
  exact this

theorem OnlyReply.hs (ho : OnlyReply u t k) (g : Half) : t.hs g = u.hs g := by rw [State.hs, ho.half, ← State.hs]

theorem OnlyReply.chains (ho : OnlyReply u t k) : t.chains = u.chains := by
  have := congrArg State.chains ho
  exact this

theorem OnlyReply.eng (ho : OnlyReply u t k) : t.eng = u.eng := by
  have := congrArg State.eng ho
  exact this

theorem State.drainGo_begun (hh : h = Half.ofCode (u8At p 0)) (hc : s.sealCode k.toNat = cHalfDrain) : (s.begin k.toNat p 0).drainGo =
    if (s.rt.vals.any fun r => r.adm.isSome && s.holds h r) = true then s.begin k.toNat p 0
    else (s.begin k.toNat p 0).drained (s.begun k.toNat p 0) := by
  have htarget : (s.begun k.toNat p 0).target = h := hh.symm
  unfold State.drainGo
  rw [State.find_begin (by simp [State.begun, hc])]
  dsimp only
  rw [htarget]
  rfl

section Reset

variable (hh : h = Half.ofCode (u8At p 0)) (hu : u8At p 0 ≤ 1) (hl : p.length = 8) (hz : zeroAt p 1 7 = true)
include hh hu hl hz

theorem halfReset_exec (hg : Granted s k cHalfReset p) {w : State} (hw : w = { s with jr := (s.notice k.toNat).jr }) :
    exec (.serviceHalfReset k) s = .next ((w.resetHalf h).commitOk k.toNat (engineObj (w.resetHalf h)) []) := by
  refine (hg.exec (c := .serviceHalfReset k) rfl rfl).trans (congrArg _ ?_)
  rw [← hw]
  exact halfCommand_runs _ hh hu rfl hl hz

theorem halfReset_clears (hg : Granted s k cHalfReset p) : Completes (.serviceHalfReset k) s fun t =>
    (t.hs h).serves = false ∧ (t.hs h).fw = .booting ∧ (t.hs h).steps = [0, 0, 0, 0] ∧ (t.hs h).maskCache = [] ∧
      (t.hs h).heads = [] ∧ (t.hs h).regions = [] ∧ ∀ c, (t.chain h c).up = false ∧ (t.chain h c).cnt = [0, 0, 0, 0] := by
  obtain ⟨v, f, hv, hf⟩ := State.resetHalf_cleared { s with jr := (s.notice k.toNat).jr } h
  have hexec := halfReset_exec hh hu hl hz hg rfl
  rw [hv] at hexec
  have ho := State.commitOk_only (v.halfCleared h f) k (engineObj (v.halfCleared h f)) []
  refine ⟨_, hexec, ?_⟩
  dsimp only
  rw [ho.hs, State.halfCleared_hs]
  obtain ⟨h1, h2, h3, h4, h5, h6⟩ := hf (v.hs h)
  refine ⟨h1, h2, h3, h4, h5, h6, fun c => ?_⟩
  rw [State.chain, ho.chains]
  exact v.halfCleared_chain h f c

theorem halfReset_inLimp (hg : Granted s k cHalfReset p) (hr : s.eng.state ≠ .reset) (hq : Quiet s) :
    Completes (.serviceHalfReset k) s fun t =>
      Replied s t k stOk (engineObj t) [] ∧ (t.hs h).code = .inReset ∧ (t.hs h).phase = .firmware ∧ t.eng.limp = true ∧
      t.eng.state = s.eng.state.limped ∧ (t.hs h.other).serves = true := by
  obtain ⟨w, hw⟩ : ∃ w : State, w = { s with jr := (s.notice k.toNat).jr } := ⟨_, rfl⟩
  have hqw : Quiet w := by rw [hw]; exact hq.congr (fun _ => rfl) rfl
  have hl0 := (hqw.loses h hlReported .inReset).1
  have hexec := halfReset_exec hh hu hl hz hg hw
  rw [w.resetHalf_eq h (by rw [hw]; exact hr)] at hexec
  revert hl0 hexec
  generalize w.loseHalf h hlReported .inReset = v
  intro hl0 hexec
  have htab := hl0.tables
  simp only [Prod.mk.injEq] at htab
  obtain ⟨-, -, -, -, hmbx, htime⟩ := htab
  obtain ⟨c, hc⟩ : ∃ c, c = v.halfCleared h HalfSt.rebooting := ⟨_, rfl⟩
  have hcm : c.mbx = s.mbx := by rw [hc, ← show w.mbx = s.mbx by rw [hw], ← hmbx]; rfl
  have hct : c.time = s.time := by rw [hc, ← show w.time = s.time by rw [hw], ← htime]; rfl
  have hce : c.eng = v.eng := by rw [hc]; rfl
  rw [← hc] at hexec
  obtain ⟨hrep, honly⟩ := State.reply_replies (s := s) (s1 := c) (k := k) (st := stOk) (o := engineObj c) (p := []) hg.canonical
    (c.commit_only k.toNat) (.of_eq hcm) hct (by decide) (engineObj_lt c) (by simp)
  obtain ⟨t, ht⟩ : ∃ t, t = (c.commit k.toNat).reply k.toNat stOk (engineObj c) [] := ⟨_, rfl⟩
  rw [← ht] at hrep honly
  have hobj : engineObj t = engineObj c := by rw [engineObj, honly.eng, ← engineObj]
  refine ⟨t, hexec.trans (by rw [ht]; rfl), by rw [hobj]; exact hrep, ?_, ?_, ?_, ?_, ?_⟩
  · rw [honly.hs, hc, State.halfCleared_hs, HalfSt.rebooting, hl0.code]
    rfl
  · rw [honly.hs, hc, State.halfCleared_hs]
    rfl
  · rw [honly.eng, hce]
    exact hl0.limp
  · rw [honly.eng, hce, hl0.state, hw]
  · rw [honly.hs, hc, State.halfCleared_other]
    exact hl0.other

theorem halfReset_alone (hg : Granted s k cHalfReset p) (hv : (s.hs h).serves = false) (hr : s.eng.state ≠ .reset) :
    Completes (.serviceHalfReset k) s fun t =>
      Replied s t k stOk (engineObj s) [] ∧ t.hs h.other = s.hs h.other ∧
      t.hs h = { (s.hs h).wiped with code := if (s.hs h).code = .drained then .drained else .inReset, fw := .booting
                                     bootTries := 0, needsSurvey := true, phase := .firmware } ∧
      (t.eng, t.safe, t.merid, t.img, t.bnd, t.bench, t.str, t.level) =
        (s.eng, s.safe, s.merid, s.img, s.bnd, s.bench, s.str, s.level) := by
  obtain ⟨w, hw⟩ : ∃ w : State, w = { s with jr := (s.notice k.toNat).jr } := ⟨_, rfl⟩
  have hlose : w.loseHalf h hlReported .inReset = w := by
    unfold State.loseHalf
    exact if_pos (by rw [hw]; show (!(s.hs h).serves) = true; rw [hv]; rfl)
  have hexec := halfReset_exec hh hu hl hz hg hw
  rw [w.resetHalf_eq h (by rw [hw]; exact hr), hlose] at hexec
  obtain ⟨c, hc⟩ : ∃ c, c = w.halfCleared h HalfSt.rebooting := ⟨_, rfl⟩
  rw [← hc] at hexec
  have hobj : engineObj c = engineObj s := by rw [hc, hw]; rfl
  rw [hobj] at hexec
  obtain ⟨t, ht, hrep, honly⟩ := Answers.of_commitOk (s := s) (s1 := c) (u := c) hg.canonical hexec (.refl c) (.of_eq (by rw [hc, hw]; rfl))
    (by rw [hc, hw]; rfl) (engineObj_lt s) (by simp)
  refine ⟨t, ht, hrep, ?_, ?_, ?_⟩
  · rw [honly.hs, hc, State.halfCleared_other, hw]
    rfl
  · rw [honly.hs, hc, State.halfCleared_hs, hw]
    unfold HalfSt.rebooting
    refine congrArg (fun c => ({ (s.hs h).wiped with code := c, fw := .booting, bootTries := 0, needsSurvey := true, phase := .firmware } : HalfSt)) ?_
    exact ite_congr (propext beq_iff_eq) (fun _ => rfl) fun _ => rfl
  · have e := congrArg (fun x : State => (x.eng, x.safe, x.merid, x.img, x.bnd, x.bench, x.str, x.level)) honly
    have e : (t.eng, t.safe, t.merid, t.img, t.bnd, t.bench, t.str, t.level) =
      (c.eng, c.safe, c.merid, c.img, c.bnd, c.bench, c.str, c.level) := e
    rw [e, hc, hw]
    rfl

/-! ### Draining -/

theorem halfDrain_exec (hg : Granted s k cHalfDrain p) (hb : s.bothServe = true) (hbusy : s.halfBusy = false) {w : State}
    (hw : w = { s with jr := (s.notice k.toNat).jr }) :
    exec (.serviceHalfDrain k) s = .next (w.begin k.toNat p 0).drainGo := by
  refine (hg.exec (c := .serviceHalfDrain k) rfl rfl).trans (congrArg _ ?_)
  rw [← hw]
  have hbad : (if w.bothServe then none else some (engineObj w)) = none := if_pos (by rw [hw]; exact hb)
  refine (halfCommand_runs _ hh hu hbad hl hz).trans (if_neg ?_)
  rw [hw]
  show ¬ s.halfBusy = true
  rw [hbusy]
  exact Bool.false_ne_true

theorem halfDrain_waits (hg : Granted s k cHalfDrain p) (hb : s.bothServe = true) (hbusy : s.halfBusy = false)
    (hr : ∃ r ∈ s.rt.vals, r.adm.isSome = true ∧ s.holds h r = true) :
    Completes (.serviceHalfDrain k) s fun t => Begins s s t k p := by
  obtain ⟨r, hm, ha, hho⟩ := hr
  have hany : (s.rt.vals.any fun r => r.adm.isSome && s.holds h r) = true := List.any_eq_true.2 ⟨r, hm, by rw [ha, hho]; rfl⟩
  obtain ⟨w, hw⟩ : ∃ w : State, w = { s with jr := (s.notice k.toNat).jr } := ⟨_, rfl⟩
  have hcode : w.sealCode k.toNat = cHalfDrain := by rw [hw]; exact hg.asks
  have hexec := halfDrain_exec hh hu hl hz hg hb hbusy hw
  rw [State.drainGo_begun hh hcode, if_pos (by rw [hw]; exact hany)] at hexec
  refine ⟨_, hexec, ⟨_, State.jobOf_begin .., ?_, rfl⟩, ?_, ?_⟩ <;> rw [hw] <;> rfl

theorem halfDrain_drains (hg : Granted s k cHalfDrain p) (hb : s.bothServe = true) (hbusy : s.halfBusy = false) (hr : s.rt = [])
    (hj : s.mbx.jobs = []) (hw : (s.hs h).waiting = []) (ht : s.mbx.taken.get h = false) :
    Completes (.serviceHalfDrain k) s fun t =>
      Replied { s with mbx := { s.mbx with taken := s.mbx.taken.set h true, takeovers := satAdd s.mbx.takeovers 1 } } t k stOk
        (engineObj t) [] ∧
      (t.hs h).code = .drained ∧ (t.hs h).retention = true ∧ (t.hs h.other).serves = true ∧ t.eng.limp = true ∧
      t.eng.state = s.eng.state.limped := by
  obtain ⟨w, hwd⟩ : ∃ w : State, w = { s with jr := (s.notice k.toNat).jr } := ⟨_, rfl⟩
  have hwj : w.mbx.jobs = [] := by rw [hwd]; exact hj
  have hwr : w.rt = [] := by rw [hwd]; exact hr
  have hin : w.inService = true := by
    have hst : s.eng.state = .service := by
      have hvalid := hg.valid
      revert hvalid
      cases s.eng.state <;> decide
    rw [State.inService, hwd, hst]
    rfl
  have hl0 := (State.loseHalf_lost (s := w) (by rw [hwd]; exact hb) hin hwj hwr h 4 .drained).1
  have hcode : w.sealCode k.toNat = cHalfDrain := by rw [hwd]; exact hg.asks
  have hexec := halfDrain_exec hh hu hl hz hg hb hbusy hwd
  rw [State.drainGo_begun hh hcode, if_neg (by rw [hwr]; exact Bool.false_ne_true)] at hexec
  have hself : { w.begin k.toNat p 0 with mbx :=
      { (w.begin k.toNat p 0).mbx with jobs := (w.begin k.toNat p 0).mbx.jobs.filter fun i => i.slot != k.toNat } } = w := by
    have hjobs : (w.begin k.toNat p 0).mbx.jobs.filter (fun i => i.slot != k.toNat) = w.mbx.jobs := by
      rw [State.begin_eq, State.setJob, hwj]
      simp [State.begun]
    rw [hjobs]
    rfl
  obtain ⟨v, hv⟩ : ∃ v, v = w.loseHalf h 4 .drained := ⟨_, rfl⟩
  rw [← hv] at hl0
  have htab := hl0.tables
  simp only [Prod.mk.injEq] at htab
  obtain ⟨-, -, -, -, hmbx, htime⟩ := htab
  obtain ⟨d, hd⟩ : ∃ d, d = (v.onHalf h fun x => { x with retention := true }).takeSlots h := ⟨_, rfl⟩
  have hdrained : (w.begin k.toNat p 0).drained (w.begun k.toNat p 0) = d.commitOk k.toNat (engineObj d) [] := by
    have htarget : (w.begun k.toNat p 0).target = h := hh.symm
    have hwait : ((w.begin k.toNat p 0).hs h).waiting = [] := by rw [hwd]; exact hw
    have hslot : (w.begun k.toNat p 0).slot = k.toNat := rfl
    unfold State.drained
    dsimp only
    rw [htarget, hwait, hslot, hself, ← hv, List.foldl_nil, ← hd]
  rw [hdrained] at hexec
  have hvt : v.mbx.taken.get h = false := by rw [hmbx, hwd]; exact ht
  have hdeq : d = { v.onHalf h (fun x => { x with retention := true }) with
      mbx := { v.mbx with taken := v.mbx.taken.set h true, takeovers := satAdd v.mbx.takeovers 1 } } := by
    rw [hd]
    exact if_neg (by show ¬ v.mbx.taken.get h = true; rw [hvt]; exact Bool.false_ne_true)
  have hdm : d.mbx = { s.mbx with taken := s.mbx.taken.set h true, takeovers := satAdd s.mbx.takeovers 1 } := by
    rw [hdeq]
    show { v.mbx with taken := v.mbx.taken.set h true, takeovers := satAdd v.mbx.takeovers 1 } = _
    rw [hmbx, hwd]
  have hdt : d.time = s.time := by
    rw [hdeq]
    exact htime.trans (by rw [hwd])
  obtain ⟨hrep, honly⟩ := State.reply_replies
    (s := { s with mbx := { s.mbx with taken := s.mbx.taken.set h true, takeovers := satAdd s.mbx.takeovers 1 } }) (s1 := d) (k := k)
    (st := stOk) (o := engineObj d) (p := []) hg.canonical (d.commit_only k.toNat) (.of_eq hdm) hdt (by decide) (engineObj_lt d) (by simp)
  obtain ⟨t, htd⟩ : ∃ t, t = (d.commit k.toNat).reply k.toNat stOk (engineObj d) [] := ⟨_, rfl⟩
  rw [← htd] at hrep honly
  have hobj : engineObj t = engineObj d := by rw [engineObj, honly.eng, ← engineObj]
  have hdh : d.hs h = { v.hs h with retention := true } := by rw [hdeq]; exact State.onHalf_hs v h _
  have hdo : d.hs h.other = v.hs h.other := by rw [hdeq]; exact State.onHalf_other v h _
  have hde : d.eng = v.eng := by rw [hdeq]; rfl
  refine ⟨t, hexec.trans (by rw [htd]; rfl), by rw [hobj]; exact hrep, ?_, ?_, ?_, ?_, ?_⟩
  · rw [honly.hs, hdh]
    exact hl0.code
  · rw [honly.hs, hdh]
  · rw [honly.hs, hdo]
    exact hl0.other
  · rw [honly.eng, hde]
    exact hl0.limp
  · rw [honly.eng, hde, hl0.state, hwd]

/-! ### The return of a half -/

theorem halfServe_exec (hg : Granted s k cHalfServe p) (hv : (s.hs h).serves = false)
    (hhold : (s.hs h).hold = true → (s.hs h).tj = 0x80 ∨ (s.hs h).tj.toInt < 100) (hbusy : s.halfBusy = false)
    (hp : (s.hs h).phase = .held) {w : State} (hw : w = { s with jr := (s.notice k.toNat).jr }) :
    exec (.serviceHalfServe k) s = .next
      (if ((s.hs h).needsSurvey || (s.verified s.eng.staged && (s.hs h).fwi != s.eng.staged)) = true then
        (w.begin k.toNat p 0).onHalf h fun x => { x.emptied with phase := .firmware, fw := .booting, bootTries := 0, needsSurvey := true }
      else (w.begin k.toNat p 0).onHalf h fun x => { x with phase := .chains }) := by
  have hwh : w.hs h = s.hs h := by rw [hw]; rfl
  have hbad : serveBad w h = none := by
    refine if_neg ?_
    rw [hwh, hv, Bool.false_or]
    cases hho : (s.hs h).hold with
    | false => simp
    | true =>
      rcases hhold hho with ht | ht
      · simp [ht]
      · have hlt : ¬ 100 ≤ (s.hs h).tj.toInt := by omega
        simp [hlt]
  have hbh : (w.begin k.toNat p 0).hs h = s.hs h := hwh
  have hver : (w.begin k.toNat p 0).verified (w.begin k.toNat p 0).eng.staged = s.verified s.eng.staged := by rw [hw]; rfl
  have hst : (w.begin k.toNat p 0).eng.staged = s.eng.staged := by rw [hw]; rfl
  refine (hg.exec (c := .serviceHalfServe k) rfl rfl).trans (congrArg _ ?_)
  rw [← hw]
  refine (halfCommand_runs _ hh hu hbad hl hz).trans ((if_neg ?_).trans ?_)
  · rw [hw]
    show ¬ s.halfBusy = true
    rw [hbusy]
    exact Bool.false_ne_true
  · unfold State.returnBegins
    dsimp only
    rw [hver, hst, hbh, hp, if_neg (by decide), if_neg (by decide)]

theorem halfServe_begins (hg : Granted s k cHalfServe p) (hv : (s.hs h).serves = false)
    (hhold : (s.hs h).hold = true → (s.hs h).tj = 0x80 ∨ (s.hs h).tj.toInt < 100) (hbusy : s.halfBusy = false)
    (hp : (s.hs h).phase = .held) :
    (((s.hs h).needsSurvey = true ∨ s.verified s.eng.staged = true ∧ (s.hs h).fwi ≠ s.eng.staged) →
      Completes (.serviceHalfServe k) s fun t =>
        Begins s (s.onHalf h fun x =>
          { x.emptied with phase := .firmware, fw := .booting, bootTries := 0, needsSurvey := true }) t k p) ∧
    ((s.hs h).needsSurvey = false → s.verified s.eng.staged = false ∨ (s.hs h).fwi = s.eng.staged →
      Completes (.serviceHalfServe k) s fun t => Begins s (s.onHalf h fun x => { x with phase := .chains }) t k p) := by
  have hexec := halfServe_exec hh hu hl hz hg hv hhold hbusy hp rfl
  refine ⟨fun hboot => ?_, fun hs hfw => ?_⟩
  · have hc : ((s.hs h).needsSurvey || (s.verified s.eng.staged && (s.hs h).fwi != s.eng.staged)) = true := by
      rcases hboot with hb | ⟨hb, hne⟩
      · simp [hb]
      · simp [hb, hne]
    rw [if_pos hc] at hexec
    exact ⟨_, hexec, ⟨_, State.jobOf_begin .., rfl, rfl⟩, rfl, rfl⟩
  · have hc : ¬ ((s.hs h).needsSurvey || (s.verified s.eng.staged && (s.hs h).fwi != s.eng.staged)) = true := by
      rcases hfw with hb | hb <;> simp [hs, hb]
    rw [if_neg hc] at hexec
    exact ⟨_, hexec, ⟨_, State.jobOf_begin .., rfl, rfl⟩, rfl, rfl⟩

end Reset

end Sys2Proof.Machine

open Sys2Proof Sys2Proof.Machine

/-- Settles O17: resets, drains and returns of a half. -/
theorem halfCommands : Obligations.HalfCommands := by
  intro s k p h hh hu hl hz
  exact ⟨fun hg => ⟨halfReset_clears hh hu hl hz hg, halfReset_inLimp hh hu hl hz hg, halfReset_alone hh hu hl hz hg⟩,
    fun hg hb hbusy => ⟨halfDrain_waits hh hu hl hz hg hb hbusy, halfDrain_drains hh hu hl hz hg hb hbusy⟩,
    fun hg hv hhold hbusy hp => halfServe_begins hh hu hl hz hg hv hhold hbusy hp⟩

end

section
/-! PROOF. Firmware (O21; 15 R353, R354; 18 R437; 11 R260): it boots, hangs, faults and is activated, and slots move between the
halves' firmware. -/
namespace Sys2Proof.Machine

variable {s : State} {h : Half} {k : Byte} {p : List Byte} {d : Digest} {j : Job}

/-! ### Commands that start again -/

/-- Commands that have committed, and those of other slots, are left as they are (11 R260). -/
theorem State.restartJobs_of_none (hj : ∀ j ∈ s.mbx.jobs, j.slot = 255 ∨ homeHalf j.slot ≠ h ∨ j.committed = true) :
    s.restartJobs h = s := by
  unfold State.restartJobs
  rw [List.filter_eq_nil_iff.mpr, List.foldl_nil]
  intro j hm
  rcases hj j hm with h | h | h <;> simp [h]

theorem State.firmwareStops_of_committed (hj : ∀ j ∈ s.mbx.jobs, j.committed = true) (h : Half) : s.firmwareStops h = s := by
  have hr (g : Half) : s.restartJobs g = s := State.restartJobs_of_none fun j hm => .inr (.inr (hj j hm))
  unfold State.firmwareStops
  rw [hr]
  dsimp only
  rw [ite_self]
  split
  · exact hr _
  · rfl

/-- A command that has begun nothing in a binding or a route leaves only its slot and its accesses (11 R254). -/
theorem State.undoJob_self (h1 : j.code ≠ cStop) (h2 : j.code ≠ cSave) (h3 : j.code ≠ cStart) : s.undoJob j = s :=
  (if_neg h1).trans ((if_neg h2).trans (if_neg h3))

/-- The only command that runs starts again (11 R260). -/
theorem State.restartJobs_of_one (hj : s.mbx.jobs = [j]) (h255 : j.slot ≠ 255) (hh : homeHalf j.slot = h) (hc : j.committed = false)
    (hf : s.fuseSlot ≠ some j.slot) (h1 : j.code ≠ cStop) (h2 : j.code ≠ cSave) (h3 : j.code ≠ cStart) :
    s.restartJobs h = { s with mbx := { s.mbx with jobs := [] }, mi := s.mi.filter fun a => a.notOf j.slot } := by
  unfold State.restartJobs
  rw [hj, List.filter_cons_of_pos (by simp [h255, hh, hc, hf]), List.filter_nil, List.foldl_cons, List.foldl_nil]
  unfold State.restartJob
  rw [State.undoJob_self h1 h2 h3]
  dsimp only
  rw [hj]
  simp

/-! ### `service.fw_activate` -/

theorem State.setJob_jobs (hj : s.mbx.jobs = []) (j : Job) : (s.setJob j).mbx.jobs = [j] := by
  unfold State.setJob
  rw [hj]
  rfl

theorem State.commit_jobs_single {n : Nat} (hj : s.mbx.jobs = [j]) (hn : j.slot = n) :
    (s.commit n).mbx.jobs = [{ j with committed := true }] := by
  simp only [State.commit, State.journal_mbx, hj, List.map_cons, List.map_nil, if_pos hn]

theorem State.activateBad_eq_none {i : Image} (hl : s.eng.state = .limp → h ≠ s.survivor) (hv : (s.hs h).serves = true)
    (hd : s.eng.staged = some d) (hi : s.image d = some i) (hst : i.state = .verified) : activateBad s h = none := by
  unfold activateBad
  rw [limpBad_eq_none hl, if_neg (by simp [hv]), hd]
  dsimp only [Option.bind_some]
  rw [hi]
  exact if_pos hst

/-- The command that activates holds the firmware that it replaces (18 R437). -/
def State.activating (s : State) (slot : Nat) (p : List Byte) (h : Half) : Job :=
  { s.begun slot p 0 with digest := ((s.hs h).fwi).getD 0 }

theorem State.runStaged_eq (hj : s.mbx.jobs = []) (slot : Nat) (p : List Byte) (h : Half) (d : Digest) :
    s.runStaged slot p h d =
      ((s.setJob (s.activating slot p h)).commit slot).onHalf h
        fun x => { x with code := .fwRestart, fw := .booting, bootTries := 0, fwi := some d } := by
  unfold State.runStaged
  dsimp only
  rw [State.jobOf_begin]
  dsimp only
  have hset : (s.begin slot p 0).setJob (s.activating slot p h) = s.setJob (s.activating slot p h) := State.setJob_setJob s _ _ rfl
  refine congrArg (fun t : State => t.onHalf h _) ?_
  refine (congrArg (fun t : State => (t.commit slot).firmwareStops h) hset).trans (State.firmwareStops_of_committed (fun i hi => ?_) h)
  rw [State.commit_jobs_single (n := slot) (State.setJob_jobs hj _) rfl, List.mem_singleton] at hi
  rw [hi]

theorem fwActivate_begins {i : Image} (hh : h = Half.ofCode (u8At p 0)) (hu : u8At p 0 ≤ 1) (hp : p.length = 8)
    (hz : zeroAt p 1 7 = true) (hg : Granted s k cFwActivate p) (hl : s.eng.state = .limp → h ≠ s.survivor)
    (hv : (s.hs h).serves = true) (hd : s.eng.staged = some d) (hi : s.image d = some i) (hst : i.state = .verified)
    (hlev : Config.fwiLevel (manifest (s.imageBytes d)) = ifLevel) (hj : s.mbx.jobs = []) :
    Completes (.serviceFwActivate k) s fun t =>
      Begins s (s.onHalf h fun x => { x with code := .fwRestart, fw := .booting, bootTries := 0, fwi := some d }) t k p := by
  obtain ⟨w, hw⟩ : ∃ w : State, w = { s with jr := (s.notice k.toNat).jr } := ⟨_, rfl⟩
  obtain ⟨b, hb⟩ : ∃ b : State, b = w.setJob (w.activating k.toNat p h) := ⟨_, rfl⟩
  have hwj : w.mbx.jobs = [] := by rw [hw]; exact hj
  have hrun : w.runStaged k.toNat p h d =
      (b.commit k.toNat).onHalf h fun x => { x with code := .fwRestart, fw := .booting, bootTries := 0, fwi := some d } := by
    rw [hb]
    exact State.runStaged_eq hwj k.toNat p h d
  have hbody : fwActivateBody k.toNat p w = w.runStaged k.toNat p h d := by
    have hbad : activateBad w h = none := by rw [hw]; exact State.activateBad_eq_none (s := { s with jr := _ }) hl hv hd hi hst
    have hwd : w.eng.staged = some d := by rw [hw]; exact hd
    have hwl : Config.fwiLevel (manifest (w.imageBytes d)) = ifLevel := by rw [hw]; exact hlev
    refine (halfCommand_runs _ hh hu hbad hp hz).trans ?_
    rw [hwd]
    exact (if_neg (by simp [hwl])).trans (if_neg (by simp [State.halfBusy, hwj]))
  have hexec : exec (.serviceFwActivate k) s = .next
      ((b.commit k.toNat).onHalf h fun x => { x with code := .fwRestart, fw := .booting, bootTries := 0, fwi := some d }) := by
    refine (hg.exec (c := .serviceFwActivate k) rfl rfl).trans (congrArg _ ?_)
    rw [← hw]
    exact hbody.trans hrun
  have hjob : (b.commit k.toNat).jobOf k.toNat = some { w.activating k.toNat p h with committed := true } := by
    have hbj : b.mbx.jobs = [w.activating k.toNat p h] := by rw [hb]; exact State.setJob_jobs hwj _
    rw [State.jobOf, State.commit_jobs_single (n := k.toNat) hbj rfl]
    exact List.find?_cons_of_pos (by simp [State.activating, State.begun])
  have hceq := State.commit_eq b k.toNat
  refine ⟨_, hexec, ⟨_, hjob, ?_, rfl⟩, ?_, ?_⟩
  · rw [hw]
    rfl
  · rw [hceq, hb, hw]
    rfl
  · rw [hceq, hb, hw]
    rfl

/-! ### Firmware that boots -/

theorem State.afterBoot (hj : s.mbx.jobs = []) : s.serveDue.stepEnded = s := by
  rw [State.serveDue_eq_self (by simp [hj]), State.stepEnded_eq_self hj]

/-- The start of the engine waits for both halves' firmware (11 R256, 15 R354). -/
theorem firmwareBooted_starts (hd : s.bootChoice h = some d) (hj : s.mbx.jobs = []) (hs : s.eng.state = .reset)
    (hp : s.eng.phase = .firmware) (hc : (s.hs h).code = .inReset) (hf : (s.hs h).fw = .booting) (hr : s.eng.fwRun = some d) :
    exec (.firmwareBooted h) s =
      .next { (s.onHalf h fun x => { x with code := .up, fw := .running, fwi := some d }) with
        eng := if (s.hs h.other).code = .up ∨ (s.hs h.other).out = true then { s.eng with state := .survey, phase := .census }
          else s.eng } := by
  have hboot : s.firmwareBooted h =
      { (s.onHalf h fun x => { x with code := .up, fw := .running, fwi := some d }) with
        eng := if (s.hs h.other).code = .up ∨ (s.hs h.other).out = true then { s.eng with state := .survey, phase := .census }
          else s.eng } := by
    have hother : (s.onHalf h fun x => { x with code := .up, fw := .running, fwi := some d }).hs h.other = s.hs h.other :=
      State.onHalf_other ..
    have hfb : decide (s.bootChoice h ≠ s.eng.fwRun) = false := by simp [hd, hr]
    unfold State.firmwareBooted
    dsimp only
    rw [if_pos (by simp [hs]), if_pos (by simp [hp, hc, hf, hd]), hfb, if_neg Bool.false_ne_true, hd, hother]
    by_cases ho : (s.hs h.other).code = .up ∨ (s.hs h.other).out = true
    · rw [if_pos ho, if_pos (by simpa using ho)]
      rfl
    · rw [if_neg ho, if_neg (by simpa using ho)]
      rfl
  refine congrArg Host.Outcome.next ((State.afterBoot ?_).trans hboot)
  rw [State.firmwareBooted_mbx h hj, hj]

/-- A half that returns goes on to its survey (18 R436). -/
theorem firmwareBooted_returns (hd : s.bootChoice h = some d) (hj : s.mbx.jobs = []) (hs : s.eng.state ≠ .reset)
    (hp : (s.hs h).phase = .firmware) (hc : (s.hs h).code ≠ .drained) :
    exec (.firmwareBooted h) s =
      .next (s.onHalf h fun x => { x with code := .down, fw := .running, phase := .census, fwi := some d }) := by
  have hboot : s.firmwareBooted h =
      s.onHalf h fun x => { x with code := .down, fw := .running, phase := .census, fwi := some d } := by
    unfold State.firmwareBooted
    dsimp only
    rw [if_neg (by simp [hs]), if_pos (by simp [hp, hd])]
    refine State.onHalf_congr ?_
    rw [if_neg (by simp [hc]), if_neg (by simp [hc]), hd]
  refine congrArg Host.Outcome.next ((State.afterBoot ?_).trans hboot)
  rw [State.firmwareBooted_mbx h hj, hj]

/-- The firmware of an activation that boots completes it (12 R288, 18 R437). -/
theorem firmwareBooted_activates (hs : s.eng.state ≠ .reset) (hp : (s.hs h).phase ≠ .firmware) (hc : (s.hs h).code = .fwRestart)
    (hst : s.eng.staged = none) (hw : s.mbx.mem.wf = true) (hj : s.mbx.jobs = [j]) (hn : j.slot = k.toNat) (hcode : j.code = cFwActivate)
    (ht : j.target = h)
    (hv : ((s.onHalf h fun x => { x with code := .up, fw := .running, bootTries := 0 }).slotServer k.toNat).isSome = true) :
    Completes (.firmwareBooted h) s fun t =>
      Replied s t k stOk (engineObj s) [] ∧
      OnlyReply (s.onHalf h fun x => { x with code := .up, fw := .running, bootTries := 0 }) t k := by
  obtain ⟨a, ha⟩ : ∃ a : State, a = s.onHalf h fun x => { x with code := .up, fw := .running, bootTries := 0 } := ⟨_, rfl⟩
  rw [← ha] at hv ⊢
  have haj : a.mbx.jobs = [j] := by rw [ha]; exact hj
  have hact : a.activation h = some j := by
    rw [State.activation, State.jobOn, haj]
    exact List.find?_cons_of_pos (by simp [hcode, ht])
  have hmove : a.moveFwRefs = a := by
    have : a.eng.staged = none := by rw [ha]; exact hst
    unfold State.moveFwRefs
    rw [this]
  have hboot : s.firmwareBooted h = a.complete k.toNat .engine [] := by
    unfold State.firmwareBooted
    dsimp only
    rw [if_neg (by simp [hs]), if_neg (by simp [hp]), if_pos (by simp [hc]), ← ha, hact]
    dsimp only
    rw [hmove, hn]
  have hexec : exec (.firmwareBooted h) s = .next (a.complete k.toNat .engine []) := by
    refine congrArg Host.Outcome.next ((State.afterBoot ?_).trans hboot)
    rw [hboot]
    exact State.complete_jobs_nil hv (by simp [haj, hn]) ..
  refine ⟨_, hexec, State.complete_replies hw hv ?_ ?_ ?_ (engineObj_lt s) (Nat.zero_le _)⟩
  · rw [ha]
    rfl
  · rw [ha]
    rfl
  · rw [ha]
    rfl

/-! ### Firmware that does not boot -/

section
variable (hs : s.eng.state = .reset) (hp : s.eng.phase = .firmware) (hc : (s.hs h).code = .inReset) (hf : (s.hs h).fw = .booting)
include hs hp hc hf

theorem State.fwBootTimeout_eq : s.fwBootTimeout h =
    if (s.hs h).bootTries < 2 then s.onHalf h fun x => { x with bootTries := x.bootTries + 1 }
    else if decide (s.bootChoice h ≠ s.eng.fwFall) && s.verified s.eng.fwFall then
      (s.onHalf h fun x => { x with bootTries := 0, fwi := s.eng.fwFall }).log h.code 1 0x0002 0 0 (digestPrefix s.eng.fwFall)
    else
      (s.onHalf h fun x => { x with fw := .failed, code := if x.code == .drained then .drained else .inReset, phase := .held }).returnFails h := by
  unfold State.fwBootTimeout
  dsimp only
  rw [if_neg (by simp [hc]), if_pos (by simp [hs, hp, hc, hf])]

theorem fwBootTimeout_retries (ht : (s.hs h).bootTries < 2) :
    exec (.fwBootTimeout h) s = .next (s.onHalf h fun x => { x with bootTries := x.bootTries + 1 }) :=
  congrArg Host.Outcome.next ((State.fwBootTimeout_eq hs hp hc hf).trans (if_pos ht))

theorem fwBootTimeout_fallsBack (ht : 2 ≤ (s.hs h).bootTries) (hd : s.eng.fwFall = some d) (hv : s.verified (some d) = true)
    (hb : s.bootChoice h ≠ some d) :
    Completes (.fwBootTimeout h) s fun t =>
      (t.hs h).fwi = some d ∧ (t.hs h).bootTries = 0 ∧ (t.hs h).fw = .booting ∧
      t.safe = (s.log h.code 1 0x0002 0 0 ((digestBytes d).take 24)).safe := by
  obtain ⟨a, ha⟩ : ∃ a : State, a = s.onHalf h fun x => { x with bootTries := 0, fwi := some d } := ⟨_, rfl⟩
  have hexec : exec (.fwBootTimeout h) s = .next (a.log h.code 1 0x0002 0 0 ((digestBytes d).take 24)) := by
    refine congrArg Host.Outcome.next ((State.fwBootTimeout_eq hs hp hc hf).trans ?_)
    rw [if_neg (by omega), if_pos (by simp [hd, hv, hb]), hd, ha]
    rfl
  have hhs : a.hs h = { s.hs h with bootTries := 0, fwi := some d } := by rw [ha]; exact State.onHalf_hs ..
  have hlh : (a.log h.code 1 0x0002 0 0 ((digestBytes d).take 24)).hs h = a.hs h := by
    rw [State.log_eq]
    rfl
  refine ⟨_, hexec, ?_⟩
  dsimp only
  rw [hlh, hhs]
  refine ⟨rfl, rfl, hf, State.log_safe_of_link (fun g => ?_) (fun g => ?_) ?_ ?_ ?_ ..⟩
  · rw [ha]
    refine State.onHalf_proj HalfSt.safeUp ?_ ..
    exact fun _ => rfl
  · rw [ha]
    refine State.onHalf_proj HalfSt.heartbeat ?_ ..
    exact fun _ => rfl
  · rw [ha]
    rfl
  · rw [ha]
    rfl
  · rw [ha]
    rfl

theorem fwBootTimeout_holds (ht : 2 ≤ (s.hs h).bootTries) (hv : s.verified s.eng.fwFall = false) (hj : s.mbx.jobs = []) :
    exec (.fwBootTimeout h) s = .next (s.onHalf h fun x => { x with fw := .failed, phase := .held }) := by
  refine congrArg Host.Outcome.next ((State.fwBootTimeout_eq hs hp hc hf).trans ?_)
  rw [if_neg (by omega), if_neg (by simp [hv])]
  have hheld : (s.onHalf h fun x => { x with fw := .failed, code := if x.code == .drained then .drained else .inReset, phase := .held }) =
      s.onHalf h fun x => { x with fw := .failed, phase := .held } := by
    refine State.onHalf_congr ?_
    rw [if_neg (by simp [hc]), ← hc]
  rw [hheld]
  unfold State.returnFails
  rw [State.jobOn, State.onHalf_mbx, hj]
  rfl

end

theorem firmwareFault_restarts (hf : (s.hs h).fw = .running) (hc : (s.hs h).code = .up) (hj : s.mbx.jobs = []) :
    exec (.firmwareFault h) s = .next (s.onHalf h fun x => { x with code := .fwRestart, fw := .booting, bootTries := 0 }) := by
  refine congrArg Host.Outcome.next ((if_pos (by simp [hf, hc])).trans ?_)
  rw [State.firmwareStops_of_idle hj]

/-! ### Slots that move between the halves -/

/-- The slots of a half, which the other half's firmware serves (11 R260). -/
def State.slotsTaken (s : State) (h : Half) : State :=
  { s with mbx := { s.mbx with taken := s.mbx.taken.set h true, takeovers := satAdd s.mbx.takeovers 1 } }

section
variable (hf : (s.hs h).fw ≠ .running) (hg : (s.hs h.other).fw = .running) (hv : (s.hs h.other).serves = true)
  (ht : s.mbx.taken.get h = false)
include hf hg hv ht

theorem State.slotTakeover_eq : s.slotTakeover h = (s.slotsTaken h).restartJobs h := by
  unfold State.slotTakeover
  rw [if_pos (by simp [hf, hg, hv, ht]), State.takeSlots, if_neg (by simp [ht])]
  rfl

theorem slotTakeover_keeps (hd : ∀ j ∈ s.mbx.jobs, j.due = false)
    (hj : ∀ j ∈ s.mbx.jobs, j.slot = 255 ∨ homeHalf j.slot ≠ h ∨ j.committed = true) :
    exec (.slotTakeover h) s = .next (s.slotsTaken h) := by
  have he := (State.slotTakeover_eq hf hg hv ht).trans (State.restartJobs_of_none (s := s.slotsTaken h) hj)
  exact congrArg Host.Outcome.next ((congrArg State.serveDue he).trans (State.serveDue_eq_self hd))

theorem slotTakeover_restarts (hj : s.mbx.jobs = [j]) (h255 : j.slot ≠ 255) (hh : homeHalf j.slot = h) (hc : j.committed = false)
    (hfu : s.fuseSlot ≠ some j.slot) (h1 : j.code ≠ cStop) (h2 : j.code ≠ cSave) (h3 : j.code ≠ cStart) :
    exec (.slotTakeover h) s = .next
      { s.slotsTaken h with mbx := { (s.slotsTaken h).mbx with jobs := [] }, mi := s.mi.filter fun a => a.notOf j.slot } := by
  have he := (State.slotTakeover_eq hf hg hv ht).trans (State.restartJobs_of_one (s := s.slotsTaken h) hj h255 hh hc hfu h1 h2 h3)
  refine congrArg Host.Outcome.next ((congrArg State.serveDue he).trans (State.serveDue_eq_self fun j hm => ?_))
  cases hm

end

theorem slotTakeback_gives (hf : (s.hs h).fw = .running) (hv : (s.hs h).serves = true) (ht : s.mbx.taken.get h = true)
    (hst : s.eng.staged = none) (hj : ∀ j ∈ s.mbx.jobs, j.slot = 255 ∨ homeHalf j.slot ≠ h) :
    exec (.slotTakeback h) s = .next { s with mbx := { s.mbx with taken := s.mbx.taken.set h false } } := by
  have hnone : (s.mbx.jobs.any fun j => j.slot != 255 && homeHalf j.slot == h) = false := by
    rw [List.any_eq_false]
    intro j hm
    rcases hj j hm with h | h <;> simp [h]
  refine congrArg Host.Outcome.next ((if_pos (by simp [hf, hv, ht, hnone])).trans ?_)
  unfold State.moveFwRefs
  rw [show ({ s with mbx := { s.mbx with taken := s.mbx.taken.set h false } } : State).eng.staged = none from hst]

end Sys2Proof.Machine

open Sys2Proof Sys2Proof.Machine

/-- Settles O21. -/
theorem firmwareRestarts : Obligations.FirmwareRestarts := by
  intro s k p h
  refine ⟨fun d i hh hu hp hz hg hl hv hd hi hst hlev hj => fwActivate_begins hh hu hp hz hg hl hv hd hi hst hlev hj,
    fun d hd hj => ⟨firmwareBooted_starts hd hj, firmwareBooted_returns hd hj⟩,
    fun j hs hp hc hst hw hj hn hcode ht _ hv => firmwareBooted_activates hs hp hc hst hw hj hn hcode ht hv,
    fun hs hp hc hf => ⟨fwBootTimeout_retries hs hp hc hf, fun d => fwBootTimeout_fallsBack hs hp hc hf, fwBootTimeout_holds hs hp hc hf⟩,
    firmwareFault_restarts, fun hf hg hv ht hd => ?_, slotTakeback_gives⟩
  exact ⟨slotTakeover_keeps hf hg hv ht hd, fun j => slotTakeover_restarts hf hg hv ht⟩

end

section
/-! PROOF. The steps of a start (O46; 15 R354, R356-R361, R374, R375; 14 R338). -/
namespace Sys2Proof.Machine

variable {s : State} {h : Half}

/-! ### Halves that are fit for service -/

theorem State.fit_of {chains : Bool} (he : (s.hs h).emptyPos.length ≤ 32) (hs : 12 ≤ countBits 16 (s.hs h).stackMask.toNat)
    (hc : chains = true → (s.lowestStep h).isSome = true ∨ s.peerChains h ≠ []) : s.fit h chains = true := by
  have hpos : 96 ≤ 128 - (s.hs h).emptyPos.length := by omega
  unfold State.fit
  simp only [hpos, hs, decide_true, Bool.true_and, Bool.or_eq_true, Bool.not_eq_true', List.isEmpty_eq_false_iff]
  cases chains with
  | false => exact .inl (.inl rfl)
  | true => rcases hc rfl with h | h
            · exact .inl (.inr h)
            · exact .inr h

theorem State.unfit_of (hc : s.lowestStep h = none) (hp : s.peerChains h = []) : s.fit h true = false := by
  unfold State.fit
  simp [hc, hp]

/-- A half that is held in reset at a start. -/
def HalfSt.heldInReset (x : HalfSt) : HalfSt := { x with code := .inReset, fw := .stopped, needsSurvey := true, phase := .held }

/-- What a half that is held in reset leaves, while the other one serves (15 R357). -/
structure HeldInReset (s t : State) (h : Half) : Prop where
  eng : t.eng = s.eng
  self : t.hs h = (s.hs h).heldInReset
  other : t.hs h.other = s.hs h.other
  taken : t.mbx.taken.get h = true
  chain : ∀ c, t.chain h.other c = s.chain h.other c

theorem State.holdHalf_holds (hv : (s.hs h.other).serves = true) : HeldInReset s (s.holdHalf h) h := by
  obtain ⟨a, ha⟩ : ∃ a : State, a = (s.onHalf h HalfSt.heldInReset).idleLanes h := ⟨_, rfl⟩
  obtain ⟨c, hc⟩ : ∃ c : State, c = (a.log h.code 3 0x000C 0x9 0 []).markTaken h := ⟨_, rfl⟩
  have hceq : c = { a with safe := (a.log h.code 3 0x000C 0x9 0 []).safe, mbx := { a.mbx with taken := a.mbx.taken.set h true } } := by
    rw [hc, State.log_eq]
    rfl
  have hself : c.hs h = (s.hs h).heldInReset := by
    rw [hceq, ha]
    exact State.onHalf_hs ..
  have hother : c.hs h.other = s.hs h.other := by
    rw [hceq, ha]
    exact State.onHalf_other ..
  have he : s.holdHalf h = c := by
    have : s.holdHalf h = if (c.hs h.other).serves then c else c.enterHalt := by
      rw [hc, ha]
      rfl
    rw [this, hother, if_pos hv]
  rw [he]
  refine ⟨?_, hself, hother, ?_, fun n => ?_⟩
  · rw [hceq, ha]
    rfl
  · rw [hceq]
    exact Halves.get_set_same ..
  · rw [hceq, ha]
    exact State.idleLanes_other (s.onHalf h HalfSt.heldInReset) h n

/-! ### The census -/

/-- A half after its census: the positions and trays that it counted, and its results of the selftest (15 R356, 14 R335). -/
def HalfSt.counted (x : HalfSt) (c : Census) (free : Nat) : HalfSt :=
  { x with emptyPos := c.empty.map (·.toNat), spare := c.spare.toNat, retired := c.retired.toNat, underTest := 0
           trays := traysWithout (c.trayRetired.map (·.toNat))
           signature := Config.selftestSignature free, cal := Config.calCode free
           burnt := if c.cutReadsOk then x.burnt ++ x.cut else x.burnt
           pendingRepairs := if c.cutReadsOk then x.pendingRepairs.filter (fun r => !x.cut.contains r) else x.pendingRepairs
           cut := [] }

theorem State.readCut_eq (s : State) (ok : Bool) : s.readCut ok = { s with safe := (s.readCut ok).safe } := by
  unfold State.readCut
  split <;> rfl

theorem State.censusHalf_counts {c : Census} (hp : s.eng.phase = .census) (hc : (s.hs h).code = .up) (hw : s.eng.warm = false)
    (hf : c.failed = []) (he : c.empty.length ≤ 32) :
    s.censusHalf h (some c) =
      { s.onHalf h fun x => x.counted c s.free with free := s.free + 1, safe := (s.censusHalf h (some c)).safe } := by
  have happ : s.applyCensus h c =
      { s.onHalf h fun x => x.counted c s.free with free := s.free + 1, safe := (s.applyCensus h c).safe } := by
    have : s.applyCensus h c = ({ s.onHalf h fun x => x.counted c s.free with free := s.free + 1 } : State).readCut c.cutReadsOk := by
      unfold State.applyCensus
      rw [hf]
      rfl
    rw [this]
    exact State.readCut_eq ..
  have hlen : (s.applyCensus h c).hs h = (s.hs h).counted c s.free := by
    rw [happ]
    exact State.onHalf_hs ..
  have hcen : s.censusHalf h (some c) = s.applyCensus h c := by
    unfold State.censusHalf
    dsimp only
    rw [if_pos (by simp [hp]), if_pos (by simp [hc]), State.surveyed, if_neg (by simp [hw])]
    refine if_pos ?_
    rw [hlen]
    have : ((s.hs h).counted c s.free).emptyPos.length ≤ 32 := by simpa [HalfSt.counted] using he
    simp only [Bool.or_eq_true, decide_eq_true_eq]
    omega
  rw [hcen]
  exact happ

theorem censusDone_counts {a b : Census} (hs : s.eng.state = .survey) (hw : s.half.w.code = .up) (he : s.half.e.code = .up)
    (hp : s.eng.phase = .census) (hwarm : s.eng.warm = false) (haf : a.failed = []) (hbf : b.failed = [])
    (hae : a.empty.length ≤ 32) (hbe : b.empty.length ≤ 32) :
    Completes (.censusDone (some a) (some b)) s fun t =>
      t.eng = { s.eng with phase := .meridian } ∧ t.half.w = s.half.w.counted a s.free ∧ t.half.e = s.half.e.counted b (s.free + 1) := by
  obtain ⟨u, hu⟩ : ∃ u : State, u = s.censusHalf .west (some a) := ⟨_, rfl⟩
  obtain ⟨v, hv⟩ : ∃ v : State, v = u.censusHalf .east (some b) := ⟨_, rfl⟩
  have hueq := State.censusHalf_counts (h := .west) hp hw hwarm haf hae
  rw [← hu] at hueq
  have hueng : u.eng = s.eng := by rw [hueq]; rfl
  have hue : u.half.e = s.half.e := by rw [hueq]; rfl
  have huw : u.half.w = s.half.w.counted a s.free := by rw [hueq]; rfl
  have hufree : u.free = s.free + 1 := by rw [hueq]
  have hveq := State.censusHalf_counts (s := u) (h := .east) (c := b) (by rw [hueng]; exact hp) ((congrArg HalfSt.code hue).trans he)
    (by rw [hueng]; exact hwarm) hbf hbe
  rw [← hv] at hveq
  have hveng : v.eng = s.eng := (congrArg State.eng hveq).trans hueng
  have hexec : exec (.censusDone (some a) (some b)) s = .next { v with eng := { v.eng with phase := .meridian } } := by
    have : exec (.censusDone (some a) (some b)) s =
        .next (if s.eng.phase == .census && v.eng.state == .survey then { v with eng := { v.eng with phase := .meridian } } else v) := by
      rw [hv, hu]
      rfl
    rw [this, if_pos (by simp [hp, hveng, hs])]
  refine ⟨_, hexec, ?_⟩
  dsimp only
  refine ⟨?_, ?_, ?_⟩
  · rw [hveng]
  · exact (congrArg (fun t : State => t.half.w) hveq).trans huw
  · refine (congrArg (fun t : State => t.half.e) hveq).trans ?_
    show u.half.e.counted b u.free = _
    rw [hue, hufree]

/-! ### The meridian link -/

theorem meridianTrained_trains {toEast toWest : U16} (hp : s.eng.phase = .meridian) (h1 : 4 ≤ countBits 16 toEast.toNat)
    (h2 : 4 ≤ countBits 16 toWest.toNat) :
    exec (.meridianTrained toEast toWest) s =
      .next { s with merid := ⟨toEast, toWest, true, false⟩, eng := { s.eng with phase := .stackTrain } } := by
  have hgood : (decide (4 ≤ countBits 16 toEast.toNat) && decide (4 ≤ countBits 16 toWest.toNat)) = true := by simp [h1, h2]
  have he : exec (.meridianTrained toEast toWest) s = execMeridianTrained toEast toWest s := rfl
  rw [he]
  unfold execMeridianTrained
  dsimp only
  rw [hgood, if_pos (by simp [hp]), if_pos (by simp)]
  rfl

theorem meridianTrained_holdsEast {toEast toWest : U16} (hw : s.half.w.code = .up) (he : s.half.e.code = .up)
    (hp : s.eng.phase = .meridian) (hf : countBits 16 toEast.toNat < 4 ∨ countBits 16 toWest.toNat < 4) :
    Completes (.meridianTrained toEast toWest) s fun t =>
      t.half.e.code = .inReset ∧ t.half.w.code = .up ∧ t.eng.phase = .stackTrain ∧ t.mbx.taken.e = true := by
  obtain ⟨a, ha⟩ : ∃ a : State, a = { s with merid := ⟨toEast, toWest, false, true⟩, eng := { s.eng with phase := .stackTrain } } := ⟨_, rfl⟩
  have hgood : (decide (4 ≤ countBits 16 toEast.toNat) && decide (4 ≤ countBits 16 toWest.toNat)) = false := by
    rw [Bool.and_eq_false_iff, decide_eq_false_iff_not, decide_eq_false_iff_not]
    omega
  have hexec : exec (.meridianTrained toEast toWest) s = .next (a.holdHalf .east) := by
    have hx : exec (.meridianTrained toEast toWest) s = execMeridianTrained toEast toWest s := rfl
    rw [hx]
    unfold execMeridianTrained
    dsimp only
    rw [hgood, if_pos (by simp [hp]), if_neg (by simp [hw, he]), ha]
    rfl
  have haw : a.half.w = s.half.w := by rw [ha]
  have hheld : HeldInReset a (a.holdHalf .east) .east := by
    refine State.holdHalf_holds ?_
    show a.half.w.serves = true
    rw [haw, HalfSt.serves, hw]
    rfl
  refine ⟨_, hexec, congrArg HalfSt.code hheld.self, ?_, ?_, hheld.taken⟩
  · exact (congrArg HalfSt.code hheld.other).trans ((congrArg HalfSt.code haw).trans hw)
  · rw [hheld.eng, ha]

/-! ### The stacks, and a new journal -/

/-- A journal that begins holds one record (14 R336, R338). -/
theorem JrSt.add_first {j : JrSt} (hj : j.recs = []) {q : List Byte} (hq : q.length ≤ 4096) (kind time subject : Nat) :
    (j.add false kind time subject q).recs =
      [{ number := j.next, kind := kind, east := false, payload := q, time := time, subject := subject }] := by
  have hup : roundUp q.length 32 ≤ 4096 + 32 := by
    unfold roundUp
    omega
  unfold JrSt.add
  dsimp only
  rw [show j.after false subject = j from rfl]
  simp only [JrSt.number, Bool.false_eq_true, if_false, hj, jInsert]
  unfold jTrim
  rw [if_pos]
  simp only [jHeld, JRec.size, List.map_cons, List.map_nil, List.sum_cons, List.sum_nil, journalRing]
  omega

theorem State.trainStacks_all (s : State) (h : Half) :
    s.trainStacks h 0 false = s.onHalf h fun x => { x with stackMask := 0xFFFF, rebuild := [] } := by
  have hzero (i : Nat) : (0 : U16).getLsbD i = false := by simp
  have hnone (m : U16) : ((List.range 16).filter fun i => (0 : U16).getLsbD i && (!false || m.getLsbD i)) = [] := by
    exact List.filter_eq_nil_iff.2 fun i _ => by rw [hzero, Bool.false_and]; exact Bool.false_ne_true
  unfold State.trainStacks
  dsimp only
  rw [hnone]
  rfl

theorem State.identity_length (s : State) : s.identity.length = 48 := by
  unfold State.identity
  simp only [List.length_append, toLe_length, zeros, List.length_replicate]

theorem stacksTrained_trains (hs : s.eng.state = .survey) (hw : s.half.w.code = .up) (he : s.half.e.code = .up)
    (hpw : s.half.w.emptyPos.length ≤ 32) (hpe : s.half.e.emptyPos.length ≤ 32) (hp : s.eng.phase = .stackTrain)
    (hwarm : s.eng.warm = false) :
    Completes (.stacksTrained 0 0) s fun t =>
      t.eng = { s.eng with phase := .chains } ∧ t.half.w.stackMask = 0xFFFF ∧ t.half.e.stackMask = 0xFFFF ∧
      ∃ r, t.jr.recs = [r] ∧ r.kind = 1 ∧ r.number = s.jr.next ∧ r.payload.head? = some 0 := by
  obtain ⟨a, ha⟩ : ∃ a : State, a = { (s.onHalf .west fun x => { x with stackMask := 0xFFFF, rebuild := [] }).onHalf .east
    fun x => { x with stackMask := 0xFFFF, rebuild := [] } with jr := { s.jr with recs := [] } } := ⟨_, rfl⟩
  have hstart : s.startStacks 0 0 = a.journalStart := by
    unfold State.startStacks
    dsimp only
    rw [hwarm, hw, he, ha]
    show ({ (s.trainStacks .west 0 false).trainStacks .east 0 false with jr := _ } : State).journalStart = _
    rw [State.trainStacks_all, State.trainStacks_all]
    rfl
  obtain ⟨g, hg⟩ : ∃ g : State, g = a.journalStart := ⟨_, rfl⟩
  have hgeq : g = { a with jr := g.jr } := by
    rw [hg]
    exact State.journal_eq ..
  have hgw : g.half.w = { s.half.w with stackMask := 0xFFFF, rebuild := [] } := by rw [hgeq, ha]; rfl
  have hge : g.half.e = { s.half.e with stackMask := 0xFFFF, rebuild := [] } := by rw [hgeq, ha]; rfl
  have hgeng : g.eng = s.eng := by rw [hgeq, ha]; rfl
  have hcount : 12 ≤ countBits 16 (0xFFFF#16).toNat := by decide
  have hfitw : g.fit .west false = true := by
    refine State.fit_of ?_ ?_ (fun h => by cases h)
    · exact Nat.le_trans (Nat.le_of_eq (congrArg (fun x : HalfSt => x.emptyPos.length) hgw)) hpw
    · exact Nat.le_trans hcount (Nat.le_of_eq (congrArg (fun x : HalfSt => countBits 16 x.stackMask.toNat) hgw).symm)
  have hfite : g.fit .east false = true := by
    refine State.fit_of ?_ ?_ (fun h => by cases h)
    · exact Nat.le_trans (Nat.le_of_eq (congrArg (fun x : HalfSt => x.emptyPos.length) hge)) hpe
    · exact Nat.le_trans hcount (Nat.le_of_eq (congrArg (fun x : HalfSt => countBits 16 x.stackMask.toNat) hge).symm)
  have hexec : exec (.stacksTrained 0 0) s = .next { g with eng := { g.eng with phase := .chains } } := by
    have hx : exec (.stacksTrained 0 0) s = execStacksTrained 0 0 s := rfl
    rw [hx]
    unfold execStacksTrained
    dsimp only
    have hkeep (h : Half) (hf : g.fit h false = true) : g.holdUntrained h = g := if_neg (by simp [hf])
    rw [if_pos (by simp [hp]), hstart, ← hg, hkeep .west hfitw, hkeep .east hfite, if_pos (by simp [hgeng, hs])]
  have haj : a.journals = true := by
    rw [State.journals, ha]
    show (!(s.eng.state == .off || s.eng.state == .reset)) = true
    rw [hs]
    rfl
  have hsurv : a.survivor = .west := by
    have haw : a.half.w.serves = true := by
      rw [ha]
      show (s.half.w.code == .up || s.half.w.code == .fwRestart) = true
      rw [hw]
      rfl
    exact if_pos haw
  have hjr : g.jr.recs = [{ number := s.jr.next, kind := 1, east := false, time := a.time.toNat, subject := 0,
                             payload := toLe 1 (b2n a.eng.warm) ++ a.identity ++ a.censusBytes .west ++ a.censusBytes .east }] := by
    rw [hg, State.journalStart, State.journal, if_pos haj, hsurv]
    refine (JrSt.add_first (j := a.jr) ?_ ?_ ..).trans ?_
    · rw [ha]
    · simp only [List.length_append, toLe_length, State.identity_length, State.censusBytes_length]
      omega
    · rw [show a.jr.next = s.jr.next by rw [ha]]
  have hawarm : a.eng.warm = false := by rw [ha]; exact hwarm
  refine ⟨_, hexec, ?_⟩
  dsimp only
  refine ⟨by rw [hgeng], congrArg HalfSt.stackMask hgw, congrArg HalfSt.stackMask hge, _, hjr, rfl, rfl, ?_⟩
  dsimp only
  rw [hawarm]
  rfl

/-! ### The chains -/

/-- The boot set's images are fetched, and checked again: nothing but images and accesses changes (15 R361). -/
theorem State.bootFetchAll_frame (s : State) (fw : Bool) :
    s.bootFetchAll fw = { s with img := (s.bootFetchAll fw).img, mi := (s.bootFetchAll fw).mi } := by
  unfold State.bootFetchAll
  refine List.foldlRecOn _ _ (motive := fun t : State => t = { s with img := t.img, mi := t.mi }) rfl fun t ht e _ => ?_
  split
  · exact ht
  · split
    · unfold State.bootFetch
      dsimp only
      generalize (if t.half.w.out then [Half.east] else if t.half.e.out then [Half.west] else [Half.west, Half.east]) = hs
      refine List.foldlRecOn hs _ (motive := fun u : State => u = { s with img := u.img, mi := u.mi }) ?_ fun u hu h _ => ?_
      · rw [ht]
        rfl
      · rw [hu]
        rfl
    · unfold State.wantVerified
      split
      · split
        · rw [ht]
          rfl
        · rw [ht]
          rfl
      · rw [ht]
        rfl

theorem chainsTrained_goesOn (hs : s.eng.state = .survey) (hp : s.eng.phase = .chains)
    (hfw : s.fit .west true = true) (hfe : s.fit .east true = true) :
    Completes .chainsTrained s fun t =>
      t.eng = { s.eng with phase := .bootSet } ∧ (t.half, t.lanes, t.chains) = (s.half, s.lanes, s.chains) := by
  obtain ⟨b, hb⟩ : ∃ b : State, b = { s with eng := { s.eng with phase := .bootSet } } := ⟨_, rfl⟩
  have hexec : exec .chainsTrained s = .next (b.bootFetchAll false) := by
    have hx : exec .chainsTrained s = execChainsTrained s := rfl
    rw [hx]
    unfold execChainsTrained
    dsimp only
    have hkw : (if s.half.w.code == .up && !s.fit .west true then s.holdHalf .west else s) = s := if_neg (by simp [hfw])
    have hke : (if s.half.e.code == .up && !s.fit .east true then s.holdHalf .east else s) = s := if_neg (by simp [hfe])
    rw [if_pos (by simp [hp]), hkw, hke, if_pos (by simp [hs]), hb]
  refine ⟨_, hexec, ?_⟩
  rw [State.bootFetchAll_frame, hb]
  exact ⟨rfl, rfl⟩

theorem chainsTrained_holdsWest (hs : s.eng.state = .survey) (hw : s.half.w.code = .up) (he : s.half.e.code = .up)
    (hp : s.eng.phase = .chains) (hpe : s.half.e.emptyPos.length ≤ 32) (hme : 12 ≤ countBits 16 s.half.e.stackMask.toNat)
    (hle : (s.lowestStep .east).isSome = true) (hlw : s.lowestStep .west = none) (hpw : s.peerChains .west = []) :
    Completes .chainsTrained s fun t =>
      t.half.w.code = .inReset ∧ t.half.e.code = .up ∧ t.eng = { s.eng with phase := .bootSet } ∧ t.mbx.taken.w = true := by
  obtain ⟨a, ha⟩ : ∃ a : State, a = s.holdHalf .west := ⟨_, rfl⟩
  have hheld : HeldInReset s a .west := by
    rw [ha]
    refine State.holdHalf_holds ?_
    show s.half.e.serves = true
    rw [HalfSt.serves, he]
    rfl
  have hae : a.half.e = s.half.e := hheld.other
  have hlow : a.lowestStep .east = s.lowestStep .east := by
    unfold State.lowestStep
    exact congrArg (List.find? · (List.range 16)) (funext fun c => congrArg Chain.stepUp (hheld.chain c))
  have hfit : a.fit .east true = true := by
    refine State.fit_of ?_ ?_ fun _ => .inl (by rw [hlow]; exact hle)
    · exact Nat.le_trans (Nat.le_of_eq (congrArg (fun x : HalfSt => x.emptyPos.length) hae)) hpe
    · exact Nat.le_trans hme (Nat.le_of_eq (congrArg (fun x : HalfSt => countBits 16 x.stackMask.toNat) hae).symm)
  obtain ⟨b, hb⟩ : ∃ b : State, b = { a with eng := { a.eng with phase := .bootSet } } := ⟨_, rfl⟩
  have hexec : exec .chainsTrained s = .next (b.bootFetchAll false) := by
    have hx : exec .chainsTrained s = execChainsTrained s := rfl
    rw [hx]
    unfold execChainsTrained
    dsimp only
    have hkw : (if s.half.w.code == .up && !s.fit .west true then s.holdHalf .west else s) = a := by
      rw [ha]
      exact if_pos (by simp [hw, State.unfit_of hlw hpw])
    have hke : (if a.half.e.code == .up && !a.fit .east true then a.holdHalf .east else a) = a := if_neg (by simp [hfit])
    rw [if_pos (by simp [hp]), hkw, hke, if_pos (by simp [hheld.eng, hs]), hb]
  have haw : a.half.w.code = .inReset := congrArg HalfSt.code hheld.self
  refine ⟨_, hexec, ?_⟩
  rw [State.bootFetchAll_frame, hb]
  exact ⟨haw, (congrArg HalfSt.code hae).trans he, by rw [← hheld.eng], hheld.taken⟩

/-! ### The boot set, and the routes' states -/

theorem State.bootSetDone_of (h : ∀ e ∈ s.eng.boot, ∀ i, s.image e.digest = some i → i.state = .verified ∨ i.state = .failed ∨ i.state = .revoked) :
    s.bootSetDone = true := by
  unfold State.bootSetDone
  rw [List.all_eq_true]
  intro e he
  cases hi : s.image e.digest with
  | none => rfl
  | some i =>
    dsimp only
    rcases h e he i hi with h | h | h <;> simp [h]

/-- Nothing but images that are STORED is verified again (10 R224). -/
structure VerifiesStored (s t : State) : Prop where
  keeps : ∀ d i, s.image d = some i → i.state ≠ .stored → t.image d = some i
  rest : t = { s with img := t.img }

theorem VerifiesStored.wantVerified {t : State} (h : VerifiesStored s t) (d : Digest) : VerifiesStored s (t.wantVerified d) := by
  unfold State.wantVerified
  split
  · rename_i i hi
    split
    · rename_i hst
      refine ⟨fun d' i' hi' hns => ?_, ?_⟩
      · have hkeep := h.keeps d' i' hi' hns
        rw [State.image_setImage]
        refine (if_neg fun heq => hns ?_).trans hkeep
        have hsame : d = d' := (State.image_digest hi).symm.trans heq
        rw [hsame, hkeep] at hi
        cases hi
        exact hst
      · rw [h.rest]
        rfl
    · exact h
  · exact h

theorem bootSetVerified_enters (hs : s.eng.state = .survey) (hp : s.eng.phase = .bootSet) (hw : s.half.w.warmEnough = true)
    (he : s.half.e.warmEnough = true) (hb : s.bootSetDone = true) :
    exec .bootSetVerified s = .next
      (if s.eng.warm then
        (s.bnd.vals.filter fun b => b.state == .active).foldl (fun t b => b.set.digests.foldl State.wantVerified t)
          { s with eng := { s.eng with state := .ready, phase := .ready } }
      else { s with eng := { s.eng with state := .ready, phase := .ready } }) :=
  congrArg Host.Outcome.next (if_pos (by simp [hs, hp, hw, he, hb]))

theorem bootSetVerified_verifies (hs : s.eng.state = .survey) (hp : s.eng.phase = .bootSet) (hw : s.half.w.warmEnough = true)
    (he : s.half.e.warmEnough = true) (hb : s.bootSetDone = true) (hwarm : s.eng.warm = true) :
    Completes .bootSetVerified s fun t =>
      t.eng = { s.eng with state := .ready, phase := .ready } ∧
      (∀ d i, s.image d = some i → i.state ≠ .stored → t.image d = some i) ∧ { t with eng := s.eng, img := s.img } = s := by
  obtain ⟨a, ha⟩ : ∃ a : State, a = { s with eng := { s.eng with state := .ready, phase := .ready } } := ⟨_, rfl⟩
  obtain ⟨t, ht⟩ : ∃ t : State, t = (s.bnd.vals.filter fun b => b.state == .active).foldl
    (fun t b => b.set.digests.foldl State.wantVerified t) a := ⟨_, rfl⟩
  have hv : VerifiesStored a t := by
    rw [ht]
    refine List.foldlRecOn _ _ (motive := VerifiesStored a) ⟨fun _ _ h _ => h, rfl⟩ fun u hu b _ => ?_
    exact List.foldlRecOn _ _ (motive := VerifiesStored a) hu fun v hv d _ => hv.wantVerified d
  have hexec : exec .bootSetVerified s = .next t := by
    rw [bootSetVerified_enters hs hp hw he hb, if_pos hwarm, ht, ha]
  refine ⟨t, hexec, ?_, fun d i hi => hv.keeps d i (by rw [ha]; exact hi), ?_⟩
  · rw [hv.rest, ha]
  · rw [hv.rest, ha]

theorem routeStatesRecovered_recovers (hs : s.eng.state = .survey) (hwarm : s.eng.warm = true) (hr : s.eng.recovered = false) :
    exec (.routeStatesRecovered []) s =
      .next { s with eng := { s.eng with recovered := true }, rt := s.rt.mapVals s.twin } := by
  have hfold : s.rt.vals.foldl (fun t r => t.recoverRoute [] r) s = s :=
    List.foldlRecOn _ _ (motive := fun t => t = s) rfl fun t ht r _ => (if_pos (by simp)).trans ht
  have hx : exec (.routeStatesRecovered []) s = execRouteStatesRecovered [] s := rfl
  rw [hx]
  unfold execRouteStatesRecovered
  dsimp only
  rw [if_pos (by simp [hwarm, hr, hs]), hfold, if_neg (by simp [State.inService, hs])]

end Sys2Proof.Machine

open Sys2Proof Sys2Proof.Machine

/-- Settles O46. -/
theorem startsGoThroughTheirSteps : Obligations.StartsGoThroughTheirSteps := by
  intro s hs hw he
  refine ⟨fun a b hp hwarm haf hbf hae hbe => ?_,
    fun toEast toWest hp => ⟨meridianTrained_trains hp, meridianTrained_holdsEast hw he hp⟩,
    fun hpw hpe => ⟨stacksTrained_trains hs hw he hpw hpe, fun hp hmw hme hle => ⟨fun hlw => ?_, chainsTrained_holdsWest hs hw he hp hpe hme hle⟩⟩,
    fun hp hww hwe hboot => ?_, routeStatesRecovered_recovers hs⟩
  · obtain ⟨t, ht, heng, htw, hte⟩ := censusDone_counts hs hw he hp hwarm haf hbf hae hbe
    refine ⟨t, ht, heng, ?_⟩
    rw [htw, hte]
    exact ⟨rfl, rfl, rfl, rfl, rfl, rfl, rfl, rfl, rfl, rfl, hw, he⟩
  · exact chainsTrained_goesOn hs hp (State.fit_of hpw hmw fun _ => .inl hlw) (State.fit_of hpe hme fun _ => .inl hle)
  · have hdone := State.bootSetDone_of hboot
    refine ⟨fun hwarm => ?_, bootSetVerified_verifies hs hp hww hwe hdone⟩
    exact (bootSetVerified_enters hs hp hww hwe hdone).trans (congrArg _ (if_neg (by simp [hwarm])))

end

section
/-! PROOF. A step is computed (O33; 03 R58, R74; 05 R118; 09 R193; 14 R332). -/
namespace Sys2Proof.Machine

variable {s t u : State} {r : Route} {b : Binding} {a : Adm} {n : Nat}

/-! ### Work on the banks that takes free values -/

/-- Nothing changes but what the halves' banks hold and the free values taken; the positions without a plate stand. -/
structure Worked (s t : State) : Prop where
  rest : { t with half := s.half, free := s.free } = s
  empty : ∀ g, (t.hs g).emptyPos = (s.hs g).emptyPos

namespace Worked

theorem refl (s : State) : Worked s s := ⟨rfl, fun _ => rfl⟩

theorem trans (h : Worked s t) (k : Worked t u) : Worked s u := by
  have e := congrArg (fun x : State => { x with half := s.half, free := s.free }) k.rest
  exact ⟨e.trans h.rest, fun g => (k.empty g).trans (h.empty g)⟩

theorem eq (h : Worked s t) : t = { s with half := t.half, free := t.free } := by
  have e := congrArg (fun x : State => { x with half := t.half, free := t.free }) h.rest
  exact e

theorem foldl {α : Type} {f : State → α → State} (hf : ∀ t x, Worked t (f t x)) (l : List α) (s : State) : Worked s (l.foldl f s) := by
  induction l generalizing s with
  | nil => exact refl s
  | cons x l ih => exact (hf s x).trans (ih _)

theorem onHalf (s : State) (h : Half) {f : HalfSt → HalfSt} (hf : ∀ x, (f x).emptyPos = x.emptyPos) : Worked s (s.onHalf h f) :=
  ⟨rfl, fun _ => State.onHalf_proj HalfSt.emptyPos hf ..⟩

theorem takeFree (s : State) (n : Nat) : Worked s (s.takeFree n).2 := ⟨rfl, fun _ => rfl⟩

theorem countChoice (s : State) (h : Half) (i n : Nat) : Worked s (s.countChoice h i n) := onHalf s h fun _ => rfl

theorem countConflict (s : State) (h : Half) (x y : Master) (n : Nat) : Worked s (s.countConflict h x y n) := onHalf s h fun _ => rfl

theorem timedChoices (s : State) (h : Half) (i : Nat) : Worked s (s.timedChoices h i) :=
  (takeFree s 1).trans (countChoice _ h i _)

theorem bankTraffic (s : State) (h : Half) : Worked s (s.bankTraffic h) := by
  unfold State.bankTraffic
  dsimp only
  refine trans ?_ (countConflict ..)
  refine trans ?_ (takeFree ..)
  refine trans ?_ (timedChoices ..)
  refine trans ?_ (timedChoices ..)
  refine trans ?_ (countChoice ..)
  exact trans (takeFree s 1) (onHalf _ h fun _ => rfl)

theorem placed (s : State) (r : Route) (a : Adm) (n : Nat) : Worked s (s.placed r a n).2 := by
  have hbase : Worked s (if a.strict then (s.takeFree n).2
      else (s.routeHalves r).foldl (fun t h => t.countChoice h 0 (2 * n + 2)) (s.takeFree n).2) := by
    split
    · exact takeFree s n
    · exact (takeFree s n).trans (foldl (fun t h => countChoice t h _ _) _ _)
  exact hbase.trans (foldl bankTraffic _ _)

theorem fillHead (s : State) (h : Half) (d : Digest) (x : HeadShare) (n : Nat) : Worked s (s.fillHead h d x n) := by
  unfold State.fillHead
  dsimp only
  split
  · exact refl s
  · split
    · exact onHalf s h fun _ => rfl
    · exact refl s

theorem fillFor (s : State) (b : Binding) : Worked s (s.fillFor b) := by
  unfold State.fillFor
  split
  · exact refl s
  · exact foldl (fun t h => fillHead t ..) _ s

theorem fetchRow (x : HalfSt) (d : Digest) (c : List Byte) (n : Nat) : (x.fetchRow d c n).emptyPos = x.emptyPos := by
  unfold HalfSt.fetchRow
  rfl

theorem touchHalf (s : State) (b : Binding) (e : Env) (xs : List Spot) (h : Half) : Worked s (s.touchHalf b e xs h) := by
  unfold State.touchHalf
  refine onHalf s h fun x => ?_
  dsimp only
  split
  · rfl
  · split
    · exact List.foldlRecOn _ _ (motive := fun y : HalfSt => y.emptyPos = x.emptyPos) rfl fun y hy t _ => (fetchRow y ..).trans hy
    · rfl

theorem touchStep (s : State) (b : Binding) (e : Env) (r : Route) (a : Adm) : Worked s (s.touchStep b e r a) := by
  unfold State.touchStep
  split
  · exact refl s
  · have ht := foldl (fun t h => touchHalf t b e (spotsOf e r a) h) (s.routeHalves r) s
    dsimp only
    split
    · exact ht
    · exact ht.trans (fillFor _ b)

end Worked

/-! ### A step that runs -/

theorem State.admitted_parts (h : s.admitted n = some (r, b, a)) : s.route n = some r ∧ s.binding r.binding = some b ∧ r.adm = some a := by
  unfold State.admitted at h
  split at h
  · cases h
  · rename_i q hq
    split at h
    · rename_i c d hc hd
      cases h
      exact ⟨hq, hc, hd⟩
    · cases h

/-- Where the work of a step's positions is placed. -/
def State.placesOf (s : State) (r : Route) (a : Adm) (n : Nat) : List (Nat × Nat) := (s.placed r a n).1.places

theorem State.placed_adm (s : State) (r : Route) (a : Adm) (n : Nat) : (s.placed r a n).1 = { a with places := s.placesOf r a n } := rfl

theorem State.placesOf_length (s : State) (r : Route) (a : Adm) (n : Nat) : (s.placesOf r a n).length = n := by
  simp [State.placesOf, State.placed]

/-- Under DP_STRICT the manual's own rule places each position (14 R332). -/
theorem State.placesOf_strict (hs : a.strict = true) : s.placesOf r a n = (List.range n).map fun j =>
    let out := (s.hs r.half).emptyPos ++ (a.charges.filter fun c => c.1 == r.half).map fun c => c.2
    (strictPlace r.salt a.step j out, strictPlace r.salt a.step j (strictPlace r.salt a.step j out :: out)) := by
  simp only [State.placesOf, State.placed, placeOf, hs, if_true]

/-- The places of a step's work are none of what its release is formed from. -/
theorem formStep_places (e : Env) (b : Binding) (r : Route) (a : Adm) (p : List (Nat × Nat)) :
    formStep e r { a with places := p } (wholesOf e b r { a with places := p }) = formStep e r a (wholesOf e b r a) := rfl

theorem State.join_forms (hb : b.shards ≤ 1) (e : Env) (r : Route) (a : Adm) : s.join b e r a = s.form b e r a := if_pos hb

/-- The step as it stands once its positions have been computed: joined by the other half, or formed (03 R58, R74). -/
def Computed (b : Binding) (r : Route) (a done : Adm) : Prop :=
  a.env.headE.isSome = true ∧ done = { a with phase := .waitHalf } ∨
    a.env.headE.isSome = false ∧ b.shards ≤ 1 ∧
      done = { a with phase := .formed, formed := some (formStep a.env r a (wholesOf a.env b r a)) }

theorem State.runStep_computes {done : Adm} (hd : Computed b r a done) : ∃ u places, Worked s u ∧
    s.runStep b r a = u.setRoute { r with adm := some { done with places := places } } ∧
    places.length = (statesOf a.env r a.drafts).length ∧
    (a.strict = true → places = (List.range (statesOf a.env r a.drafts).length).map fun j =>
      let out := (s.hs r.half).emptyPos ++ (a.charges.filter fun c => c.1 == r.half).map fun c => c.2
      (strictPlace r.salt a.step j out, strictPlace r.salt a.step j (strictPlace r.salt a.step j out :: out))) := by
  obtain ⟨v, hv⟩ : ∃ v : State, v = s.touchStep b a.env r a := ⟨_, rfl⟩
  obtain ⟨m, hm⟩ : ∃ m, m = (statesOf a.env r a.drafts).length := ⟨_, rfl⟩
  have htouch : Worked s v := by rw [hv]; exact Worked.touchStep ..
  obtain ⟨w, hw⟩ : ∃ w : State, w = (v.placed r a m).2 := ⟨_, rfl⟩
  have hwork : Worked s w := by rw [hw]; exact htouch.trans (Worked.placed ..)
  have hrun : s.runStep b r a = if a.env.headE.isSome then w.setRoute { r with adm := some { a with places := v.placesOf r a m, phase := .waitHalf } }
      else w.join b a.env r { a with places := v.placesOf r a m } := by
    rw [hw, hv, hm]
    rfl
  rw [← hm]
  refine ⟨w, v.placesOf r a m, hwork, ?_, State.placesOf_length .., fun hs => ?_⟩
  · rw [hrun]
    rcases hd with ⟨he, rfl⟩ | ⟨he, hb, rfl⟩
    · exact if_pos he
    · rw [if_neg (by simp [he]), State.join_forms hb, State.form, formStep_places]
  · rw [State.placesOf_strict hs, htouch.empty]

theorem maskReady_computes {h : U32} {done : Adm} {gs : List Nat} (hj : s.mbx.jobs = []) (had : s.admitted h.toNat = some (r, b, a))
    (hgs : gs = statesOf a.env r a.drafts) (hp : a.phase = .waitMask) (hs : s.serving = true) (hi : s.imagesReady b.set = true)
    (hw : s.searchWaits b r = false) (hdg : s.dataGone b r gs = false) (hhg : s.headGone b r = false) (hm : s.masksHeld b r gs = true)
    (hd : Computed b r a done) :
    Completes (.maskReady h) s fun t =>
      (∃ places, t.route h.toNat = some { r with adm := some { done with places := places } } ∧ places.length = gs.length ∧
        (a.strict = true → places = (List.range gs.length).map fun j =>
          let out := (s.hs r.half).emptyPos ++ (a.charges.filter fun c => c.1 == r.half).map fun c => c.2
          (strictPlace r.salt a.step j out, strictPlace r.salt a.step j (strictPlace r.salt a.step j out :: out)))) ∧
      (t.bnd, t.img, t.eng, t.mbx, t.jr, t.str) = (s.bnd, s.img, s.eng, s.mbx, s.jr, s.str) := by
  obtain ⟨u, places, hwork, hrun, hlen, hstrict⟩ := State.runStep_computes (s := s) hd
  obtain ⟨hr, hb, ha⟩ := State.admitted_parts had
  have hready : s.maskReady h.toNat = s.runStep b r a := by
    unfold State.maskReady
    rw [had]
    dsimp only
    rw [← hgs, if_neg (by simp [hp, hs, hi, hw]), if_neg (by simp [hdg, hhg]), if_neg (by simp [hm])]
  obtain ⟨q, hq⟩ : ∃ q : Route, q = { r with adm := some { done with places := places } } := ⟨_, rfl⟩
  have hhandle : q.handle = h.toNat := by
    rw [hq]
    exact State.route_handle (r := r) hr
  have hexec : exec (.maskReady h) s = .next (u.setRoute q) := by
    refine congrArg Host.Outcome.next ?_
    rw [hready, hrun, ← hq]
    refine State.stepEnded_eq_self ?_
    rw [hwork.eq]
    exact hj
  refine ⟨_, hexec, ⟨places, ?_, by rw [hlen, hgs], fun h => by rw [hstrict h, hgs]⟩, ?_⟩
  · rw [← hhandle, ← hq]
    exact State.route_setRoute_same u q
  · rw [hwork.eq]
    rfl

theorem halfSummary_forms {h : U32} (hj : s.mbx.jobs = []) (had : s.admitted h.toNat = some (r, b, a)) (hp : a.phase = .waitHalf)
    (hb : b.shards ≤ 1) :
    exec (.halfSummary h) s = .next (s.setRoute { r with adm := some { a with
      phase := .formed, formed := some (formStep a.env r a (wholesOf a.env b r a)) } }) := by
  have hsum : s.halfSummary h.toNat = s.form b a.env r a := by
    unfold State.halfSummary
    rw [had]
    dsimp only
    rw [if_neg (by simp [hp]), State.join_forms hb]
  refine congrArg Host.Outcome.next ?_
  rw [hsum]
  exact State.stepEnded_eq_self hj

end Sys2Proof.Machine

open Sys2Proof Sys2Proof.Machine

/-- Settles O33. -/
theorem stepsAreComputed : Obligations.StepsAreComputed := by
  intro s h r b a hj had
  exact ⟨fun gs hgs hp hs hi hw hdg hhg hm done hd => maskReady_computes hj had hgs hp hs hi hw hdg hhg hm hd,
    halfSummary_forms hj had⟩

end

section
/-! PROOF. PRT entries of a group reach the chains (03 R70; 16 R388, R390, R402). -/
namespace Sys2Proof.Machine

variable {s t u : State} {r : Route} {b : Binding} {h : Half}

/-- Nothing changes but what chains carry, and every frame that was given to one is still there. -/
structure Passing (s t : State) : Prop where
  sendings : Sendings s t
  keeps : ∀ h o, SentOn s h o → SentOn t h o

namespace Passing

theorem refl (s : State) : Passing s s := ⟨.refl s, fun _ _ ho => ho⟩

theorem trans (h : Passing s t) (k : Passing t u) : Passing s u :=
  ⟨h.sendings.trans k.sendings, fun g o ho => k.keeps g o (h.keeps g o ho)⟩

theorem foldl {α : Type} {f : State → α → State} (hf : ∀ t x, Passing t (f t x)) (l : List α) (s : State) : Passing s (l.foldl f s) := by
  induction l generalizing s with
  | nil => exact refl s
  | cons x l ih => exact (hf s x).trans (ih _)

theorem sendOut (s : State) (h : Half) (c : Nat) (o : Out) : Passing s (s.sendOut h c o) :=
  ⟨.sendOut s h c o, fun _ _ ho => ho.sendOut h c o⟩

theorem sendPrt (s : State) (h : Half) (dst : Nat) (entry : List Byte) : Passing s (s.sendPrt h dst entry) := by
  unfold State.sendPrt
  dsimp only
  split
  · exact foldl (fun t o => sendOut t ..) _ s
  · exact refl s

theorem toMember (s : State) (b : Binding) (r : Route) (m kind flags step pos : Nat) (body : List Byte) :
    Passing s (s.toMember b r m kind flags step pos body) := sendPrt ..

theorem toOwner (s : State) (b : Binding) (r : Route) (kind flags step pos : Nat) (body : List Byte) :
    Passing s (s.toOwner b r kind flags step pos body) := toMember ..

theorem peerChains (k : Passing s t) (h : Half) : t.peerChains h = s.peerChains h := by
  unfold State.peerChains
  refine List.filter_congr fun c _ => ?_
  have hl := k.sendings.line h c
  simp only [Chain.line, Prod.mk.injEq] at hl
  rw [Chain.peerUp, hl.1, hl.2, Chain.peerUp]

theorem peerHalf (k : Passing s t) (h : Half) : t.peerHalf h = s.peerHalf h := by
  unfold State.peerHalf
  rw [k.peerChains]

theorem level (k : Passing s t) : t.level = s.level := by
  have := congrArg State.level k.sendings.rest
  exact this

/-- Of the entries that a list gives one after the other, each is sent. -/
theorem foldl_each {α : Type} {f : State → α → State} {P : α → State → Prop} (hf : ∀ t x, Passing t (f t x))
    (hP : ∀ t x, Passing s t → P x (f t x)) (hk : ∀ x t u, Passing t u → P x t → P x u) (l : List α) :
    ∀ t, Passing s t → ∀ x ∈ l, P x (l.foldl f t) := by
  induction l with
  | nil => exact fun _ _ x hx => by cases hx
  | cons y l ih =>
    intro t ht x hx
    rcases List.mem_cons.1 hx with rfl | hx
    · exact hk x _ _ (foldl hf l (f t x)) (hP t x ht)
    · exact ih (f t y) (ht.trans (hf t y)) x hx

end Passing

/-- A peer entry leaves in all its frames on one chain of the half (16 R388, R390). -/
theorem State.sendPrt_sends (hp : s.peerChains h ≠ []) (dst : Nat) (entry : List Byte) :
    ∀ o ∈ prtFrames (entry.length / maxPayload + 1) false entry, SentOn (s.sendPrt h dst entry) h o := by
  have hlen : dst % max 1 (s.peerChains h).length < (s.peerChains h).length := by
    have hpos : 0 < (s.peerChains h).length := List.length_pos_iff.2 hp
    have hmod := Nat.mod_lt dst (show 0 < max 1 (s.peerChains h).length by omega)
    omega
  obtain ⟨c, hc⟩ : ∃ c, c = (s.peerChains h)[dst % max 1 (s.peerChains h).length] := ⟨_, rfl⟩
  have hsome : (s.peerChains h)[dst % max 1 (s.peerChains h).length]? = some c := by
    rw [hc]
    exact List.getElem?_eq_getElem hlen
  have hup : (s.chain h c).peerUp = true := by
    have hmem : c ∈ s.peerChains h := List.mem_of_getElem? hsome
    exact (List.mem_filter.1 hmem).2
  have hlt : c < (s.chains.get h).length := State.chain_lt (by
    rw [Chain.peerUp, Bool.and_eq_true, beq_iff_eq] at hup
    rw [Chain.up, hup.1]
    simpa using hup.2)
  have he : s.sendPrt h dst entry = (prtFrames (entry.length / maxPayload + 1) false entry).foldl (fun t o => t.sendOut h c o) s := by
    unfold State.sendPrt
    dsimp only
    rw [hsome]
  rw [he]
  exact (State.sendOuts_sent id (prtFrames (entry.length / maxPayload + 1) false entry) s hlt).2

theorem PeerSent.from (k : Passing s u) {kind flags step pos : Nat} {body : List Byte} (hs : PeerSent u t b r kind flags step pos body) :
    PeerSent s t b r kind flags step pos body := by
  unfold PeerSent at hs ⊢
  rw [k.level, k.peerHalf] at hs
  exact hs

theorem PeerSent.keep (k : Passing t u) {kind flags step pos : Nat} {body : List Byte} (hs : PeerSent s t b r kind flags step pos body) :
    PeerSent s u b r kind flags step pos body := fun o ho => k.keeps _ o (hs o ho)

/-- An entry for the owner is sent on a peer chain. -/
theorem State.toOwner_sends (hp : s.peerChains (s.peerHalf r.half) ≠ []) (b : Binding) (kind flags step pos : Nat) (body : List Byte) :
    PeerSent s (s.toOwner b r kind flags step pos body) b r kind flags step pos body := by
  unfold PeerSent
  exact State.sendPrt_sends hp _ _

end Sys2Proof.Machine

end

section
/-! PROOF. A formed step is checked (O34; 13 R296, R300-R302, R318; 03 R70; 04 R86; 09 R196). -/
namespace Sys2Proof.Machine

variable {s t u : State} {r : Route} {b : Binding} {a : Adm} {h : U32}

/-! ### Charges -/

theorem Kept.mbx {s t : State} (k : Kept s t) : t.mbx = s.mbx := by rw [k.eq]

theorem State.countRetired_idle (hj : s.mbx.jobs = []) (h : Half) : s.countRetired h = s := by
  unfold State.countRetired
  rw [hj, List.map_nil, ← hj]

theorem State.charge_kept (hj : s.mbx.jobs = []) (h : Half) (pos : Nat) : Kept s (s.charge h pos) := by
  unfold State.charge
  split
  · have hr := Kept.plateRetired s h pos
    rw [State.countRetired_idle (by rw [hr.mbx]; exact hj)]
    exact hr
  · exact .onHalf s h fun _ => rfl

/-- While no command runs, charges change banks and what records them (13 R302). -/
theorem State.chargeAll_kept (hj : s.mbx.jobs = []) (l : List (Half × Nat)) : Kept s (s.chargeAll l) := by
  induction l generalizing s with
  | nil => exact .refl s
  | cons c l ih =>
    have hc := State.charge_kept hj c.1 c.2
    exact hc.trans (ih (by rw [hc.mbx]; exact hj))

/-! ### What a member sends -/

/-- A member's summary of a position, and its list of it under a filtered profile (03 R70; 04 R86). -/
def State.sendPart (s : State) (b : Binding) (r : Route) (a : Adm) (x : Spot × Nat) : State :=
  let own := memberOwn a.env r a x.1 x.2
  let u := s.toOwner b r pkSummary 0 (a.step + x.2) x.2 (summaryAt a.env r a x.2 false own)
  if a.env.prof.listed && x.1.open_ then u.toOwner b r pkCands (b2n own.draft.isSome) (a.step + x.2) x.2 (candsBytes (a.step + x.2) own)
  else u

/-- What a member sends of a position is on its way. -/
def PartSent (s : State) (b : Binding) (r : Route) (a : Adm) (x : Spot × Nat) (t : State) : Prop :=
  let own := memberOwn a.env r a x.1 x.2
  PeerSent s t b r pkSummary 0 (a.step + x.2) x.2 (summaryAt a.env r a x.2 false own) ∧
  (a.env.prof.listed = true → x.1.open_ = true →
    PeerSent s t b r pkCands (b2n own.draft.isSome) (a.step + x.2) x.2 (candsBytes (a.step + x.2) own))

theorem Passing.sendPart (s : State) (b : Binding) (r : Route) (a : Adm) (x : Spot × Nat) : Passing s (s.sendPart b r a x) := by
  unfold State.sendPart
  dsimp only
  split
  · exact (toOwner s ..).trans (toOwner ..)
  · exact toOwner s ..

theorem State.sendPart_sends (hp : s.peerChains (s.peerHalf r.half) ≠ []) (x : Spot × Nat) : PartSent s b r a x (s.sendPart b r a x) := by
  obtain ⟨u, hu⟩ : ∃ u, u = s.toOwner b r pkSummary 0 (a.step + x.2) x.2 (summaryAt a.env r a x.2 false (memberOwn a.env r a x.1 x.2)) := ⟨_, rfl⟩
  have hsum := State.toOwner_sends hp b pkSummary 0 (a.step + x.2) x.2 (summaryAt a.env r a x.2 false (memberOwn a.env r a x.1 x.2))
  have hpass : Passing s u := by rw [hu]; exact Passing.toOwner ..
  have hpu : u.peerChains (u.peerHalf r.half) ≠ [] := by rw [hpass.peerChains, hpass.peerHalf]; exact hp
  rw [← hu] at hsum
  unfold State.sendPart PartSent
  dsimp only
  rw [← hu]
  split
  · exact ⟨hsum.keep (Passing.toOwner ..), fun _ _ => PeerSent.from hpass (State.toOwner_sends hpu _ _ _ _ _ _)⟩
  · rename_i hn
    exact ⟨hsum, fun hl ho => absurd (by rw [hl, ho]; rfl) hn⟩

theorem PartSent.from {x : Spot × Nat} (k : Passing s u) (hs : PartSent u b r a x t) : PartSent s b r a x t :=
  ⟨PeerSent.from k hs.1, fun hl ho => PeerSent.from k (hs.2 hl ho)⟩

theorem PartSent.keep {x : Spot × Nat} (k : Passing t u) (hs : PartSent s b r a x t) : PartSent s b r a x u :=
  ⟨hs.1.keep k, fun hl ho => (hs.2 hl ho).keep k⟩

/-- A member's parts of all its positions. -/
def State.sendParts (s : State) (b : Binding) (r : Route) (a : Adm) : State :=
  (spotsOf a.env r a).zipIdx.foldl (fun t x => t.sendPart b r a x) s

theorem Passing.sendParts (s : State) (b : Binding) (r : Route) (a : Adm) : Passing s (s.sendParts b r a) :=
  foldl (fun t x => sendPart t b r a x) _ s

theorem State.sendParts_sends (hp : s.peerChains (s.peerHalf r.half) ≠ []) {x : Spot} {j : Nat} (hx : (spotsOf a.env r a)[j]? = some x) :
    PartSent s b r a (x, j) (s.sendParts b r a) := by
  refine Passing.foldl_each (s := s) (P := PartSent s b r a) (fun t x => Passing.sendPart t b r a x) (fun t x k => ?_)
    (fun x t u k hs => hs.keep k) _ s (.refl s) (x, j) (List.mk_mem_zipIdx_iff_getElem?.2 hx)
  exact (State.sendPart_sends (by rw [k.peerChains, k.peerHalf]; exact hp) x).from k

theorem State.sendSummaries_eq (s : State) (b : Binding) (r : Route) (a : Adm) :
    s.sendSummaries b r { a with charges := [] } =
      (s.sendParts b r a).setRoute { r with adm := some { a with charges := [], phase := .waitRelease } } := rfl

/-! ### What a failed check changes -/

/-- A failed check that is no word's parity logs nothing (13 R300). -/
theorem State.checkFailed_safe {kind : CheckKind} (hpar : ∀ e, kind ≠ .parity e) (s : State) (b : Binding) (g : Half) (n : Nat) :
    (s.checkFailed b g n kind).2.safe = s.safe := by
  have hre (t : State) (g : Half) : (t.refetched g).safe = t.safe := by
    unfold State.refetched State.recovery
    rw [State.journal_safe]
    rfl
  unfold State.checkFailed
  cases kind with
  | parity e => exact absurd rfl (hpar e)
  | maskRead q => exact (hre _ g).trans rfl
  | finderRecord d second => exact (hre _ g).trans rfl
  | path => rfl
  | residue => rfl
  | proofPrint q => rfl
  | unitPair q => rfl

/-- The end of a route for a fault is all that it logs (13 R318). -/
theorem State.faulted_safe {n : Nat} (hr : r.handle = n) (hb : s.binding r.binding = some b) (hs : b.state ≠ .stopping)
    (hj : s.mbx.jobs = []) (he : r.entries = []) (hm : r.markDue = false) :
    ((s.faultRoute r).afterRelease n).safe = (s.log engineSide 2 0x000B r.handle r.next []).safe := by
  subst hr
  obtain ⟨⟨q, hq, hrt⟩, w, hwork, hw⟩ := State.faultRoute_ends hb
  have hroute : (s.faultRoute r).route r.handle = some q := by
    rw [← hq.handle]
    exact State.route_put (t := s.rt) (by rw [hrt, hq.handle])
  have hbnd : (s.faultRoute r).bnd = s.bnd := by rw [hwork.bnd, hw, State.log_bnd]
  have hmbx : (s.faultRoute r).mbx = s.mbx := by rw [hwork.mbx, hw, State.log_mbx]
  obtain ⟨hfm, hsv, hpd, hen, hmd⟩ := hq.rests
  have hafter := State.afterRelease_still hroute (b := b) (by rw [State.binding_congr hbnd, hq.binding]; exact hb) hs
    (by rw [hmbx]; exact hj) (hmd.trans hm) hpd (hen.trans he) hq.copies
  rw [hafter.aside.safe, hwork.safe, hw]


theorem State.refetchStep_aside (s : State) (b : Binding) (r : Route) (a : Adm) : Aside s (s.refetchStep b r a) := by
  unfold State.refetchStep
  refine Aside.foldl (fun t g => ?_) _ s
  dsimp only
  refine Aside.trans ?_ (.recovery ..)
  refine Aside.trans ?_ (Banks.countFault ..).aside
  have hread : Banks t ((t.onHalf g fun x =>
      (maskKeys b (statesOf a.env r a.drafts)).foldl (fun y k => y.dropMask k.digest k.item)
        { x with vocCache := x.vocCache.filter fun e => e.key.digest != b.set.hdi }).refetchHead g b.set.hdi) := by
    refine Banks.trans (Banks.onHalf t g fun x => ?_) (Banks.onHalf _ g fun _ => rfl)
    exact HalfSt.foldl_seat (fun y k => y.dropMask_seat ..) _ _
  split
  · exact hread.aside
  · have hreload (u : State) (second : Bool) : Banks u (u.reloadRegion g (.image b.set.sli) second) := Banks.onHalf u g fun _ => rfl
    exact ((hread.trans (hreload _ false)).trans (hreload _ true)).aside

/-- The step as it is executed again, with the charges of its failed executions (13 R301, R302). -/
def Adm.again (a : Adm) (charges : List (Half × Nat)) : Adm :=
  { a with execs := a.execs + 1, phase := .waitMask, formed := none, charges := a.charges ++ charges }

/-- The step's results are discarded, and it is executed again from its retained inputs (13 R300, R301). -/
theorem State.executeAgain_again (hx : a.execs < 4) (s : State) (b : Binding) (r : Route) (charges : List (Half × Nat)) :
    ∃ v, Aside s v ∧ s.executeAgain b r a charges = v.setRoute { r with adm := some (a.again charges) } := by
  obtain ⟨u, hu⟩ : ∃ u : State, u = (s.countFault (s.nextHalf b r a) 3 1).recovery (s.nextHalf b r a) 0x0001 r.handle a.step := ⟨_, rfl⟩
  have hau : Aside s u := by
    rw [hu]
    exact (Banks.countFault ..).aside.trans (.recovery ..)
  refine ⟨if a.execs = 3 then u.refetchStep b r a else u, ?_, ?_⟩
  · split
    · exact hau.trans (State.refetchStep_aside ..)
    · exact hau
  · rw [hu]
    exact if_neg (by omega)

/-! ### A check that passes -/

theorem stepChecked_runs {res : CheckResult} (he : s.stepChecked h.toNat res = u) (hj : u.mbx.jobs = []) :
    exec (.stepChecked h res) s = .next u := by
  refine congrArg Host.Outcome.next ?_
  rw [he]
  exact State.stepEnded_eq_self hj

section
variable (hj : s.mbx.jobs = []) (had : s.admitted h.toNat = some (r, b, a)) (hp : a.phase = .formed)
include hj had hp

theorem stepChecked_writes {f : Formed} (ho : owns b r = true) (hf : a.formed = some f) (hs : stepSound b r a f = true)
    (hb : s.bothServe = true) :
    exec (.stepChecked h .pass) s =
      .next ((s.chargeAll a.charges).setRoute { r with adm := some { a with charges := [], phase := .written } }) := by
  have hk := State.chargeAll_kept hj a.charges
  refine stepChecked_runs ?_ (by rw [State.setRoute, hk.mbx]; exact hj)
  unfold State.stepChecked
  rw [had]
  dsimp only
  rw [if_neg (by simp [hp]), if_pos ho, hf]
  dsimp only
  rw [if_neg (by simp [hs]), if_pos (by rw [State.bothServe_of_seat hk.seat]; exact hb)]

/-- A member's checks have passed: its summaries and lists are on their way to the owner (03 R70; 04 R86). -/
theorem stepChecked_sends (ho : owns b r = false) (hs : memberSound r a = true) :
    Completes (.stepChecked h .pass) s fun t =>
      t.route h.toNat = some { r with adm := some { a with charges := [], phase := .waitRelease } } ∧
      (a.charges = [] → (t.bnd, t.img, t.eng, t.mbx, t.jr, t.str, t.half) = (s.bnd, s.img, s.eng, s.mbx, s.jr, s.str, s.half)) ∧
      (s.peerChains (s.peerHalf r.half) ≠ [] → ∀ x j, (spotsOf a.env r a)[j]? = some x →
        let own := memberOwn a.env r a x j
        PeerSent s t b r pkSummary 0 (a.step + j) j (summaryAt a.env r a j false own) ∧
        (a.env.prof.listed = true → x.open_ = true →
          PeerSent s t b r pkCands (b2n own.draft.isSome) (a.step + j) j (candsBytes (a.step + j) own))) := by
  obtain ⟨v, hv⟩ : ∃ v : State, v = s.chargeAll a.charges := ⟨_, rfl⟩
  have hk : Kept s v := by rw [hv]; exact State.chargeAll_kept hj a.charges
  obtain ⟨u, hu⟩ : ∃ u : State, u = v.sendParts b r a := ⟨_, rfl⟩
  have hpass : Passing v u := by rw [hu]; exact Passing.sendParts ..
  have hueq : u = { v with chains := u.chains } := by
    have e := congrArg (fun x : State => { x with chains := u.chains }) hpass.sendings.rest
    exact e
  obtain ⟨q, hq⟩ : ∃ q : Route, q = { r with adm := some { a with charges := [], phase := .waitRelease } } := ⟨_, rfl⟩
  have hhandle : q.handle = h.toNat := by
    rw [hq]
    exact State.route_handle (r := r) (State.admitted_parts had).1
  have hexec : exec (.stepChecked h .pass) s = .next (u.setRoute q) := by
    refine stepChecked_runs ?_ (by rw [State.setRoute, hueq]; exact (congrArg MbxSt.jobs hk.mbx).trans hj)
    unfold State.stepChecked
    rw [had]
    dsimp only
    rw [if_neg (by simp [hp]), if_neg (by simp [ho]), if_neg (by simp [hs]), ← hv, State.sendSummaries_eq, ← hu, ← hq]
  refine ⟨_, hexec, ?_, fun hc => ?_, fun hpc x j hx => ?_⟩
  · rw [← hhandle, ← hq]
    exact State.route_setRoute_same u q
  · have hvs : v = s := by rw [hv, hc]; rfl
    rw [hueq, hvs]
    rfl
  · have hchain (g : Half) (c : Nat) : v.chain g c = s.chain g c := by rw [hk.eq]; rfl
    have hpeers (g : Half) : v.peerChains g = s.peerChains g := by
      unfold State.peerChains
      exact List.filter_congr fun c _ => by rw [hchain]
    have hph : v.peerHalf r.half = s.peerHalf r.half := by rw [State.peerHalf, State.peerHalf, hpeers]
    have hlev : v.level = s.level := by rw [hk.eq]
    have hsent : PartSent v b r a (x, j) u := by
      rw [hu]
      exact State.sendParts_sends (by rw [hpeers, hph]; exact hpc) hx
    have hfrom {kind flags step pos : Nat} {body : List Byte} (hps : PeerSent v u b r kind flags step pos body) :
        PeerSent s (u.setRoute q) b r kind flags step pos body := by
      unfold PeerSent at hps ⊢
      rw [hlev, hph] at hps
      exact fun o ho => (hps o ho).congr rfl
    exact ⟨hfrom hsent.1, fun hl ho => hfrom (hsent.2 hl ho)⟩

end

/-! ### Execution again -/

/-- Execution again, as the manual has it. -/
def ExecutedAgain (s : State) (n : Nat) (r : Route) (a : Adm) (charges : List (Half × Nat)) (t : State) : Prop :=
  t.route n = some { r with adm := some (a.again charges) } ∧
    (t.bnd, t.img, t.eng, t.mbx, t.str) = (s.bnd, s.img, s.eng, s.mbx, s.str)

theorem State.executeAgain_executed {n : Nat} (hn : r.handle = n) (hx : a.execs < 4) (b : Binding) (charges : List (Half × Nat)) :
    ExecutedAgain s n r a charges (s.executeAgain b r a charges) ∧ (s.executeAgain b r a charges).safe = s.safe := by
  subst hn
  obtain ⟨v, hv, he⟩ := State.executeAgain_again hx s b r charges
  rw [he]
  refine ⟨⟨State.route_setRoute_same v { r with adm := some (a.again charges) }, ?_⟩, hv.safe⟩
  rw [hv.eq]
  rfl

section
variable (had : s.admitted h.toNat = some (r, b, a)) (hp : a.phase = .formed)
include had hp

/-- A result that its second computation does not confirm (13 R294, R300). -/
theorem stepChecked_doubts {f : Formed} (hj : s.mbx.jobs = []) (ho : owns b r = true) (hf : a.formed = some f) (hs : stepSound b r a f = false) (hx : a.execs < 4) :
    Completes (.stepChecked h .pass) s (ExecutedAgain s h.toNat r a []) := by
  obtain ⟨hagain, -⟩ := State.executeAgain_executed (s := s) (State.route_handle (State.admitted_parts had).1) hx b []
  refine ⟨_, stepChecked_runs (u := s.executeAgain b r a []) ?_ ?_, hagain⟩
  · unfold State.stepChecked
    rw [had]
    dsimp only
    rw [if_neg (by simp [hp]), if_pos ho, hf]
    exact if_pos (by simp [hs])
  · have hsame := hagain.2
    simp only [Prod.mk.injEq] at hsame
    rw [hsame.2.2.2.1]
    exact hj

/-- What a failed check leaves for the execution that follows it: banks and their records (13 R300). -/
theorem stepChecked_failing {g : Half} {pos : BitVec 7} {kind : CheckKind} (hk : sparesRecords kind) :
    ∃ u, Kept { s with free := s.free + 1 } u ∧ ((∀ e, kind ≠ .parity e) → u.safe = s.safe) ∧
      s.stepChecked h.toNat (.fail g pos kind) = u.executeAgain b r a (chargesOf s.free g pos.toNat kind) := by
  obtain ⟨u, hu⟩ : ∃ u, u = (s.checkFailed b g pos.toNat kind).2 := ⟨_, rfl⟩
  have hkept : Kept { s with free := s.free + 1 } u := by rw [hu]; exact State.checkFailed_kept hk s b g pos.toNat
  have hadm : u.admitted h.toNat = some (r, b, a) := by
    rw [hkept.eq]
    exact had
  refine ⟨u, hkept, fun hpar => ?_, ?_⟩
  · rw [hu]
    exact State.checkFailed_safe hpar ..
  · unfold State.stepChecked
    rw [had]
    dsimp only
    rw [if_neg (by simp [hp])]
    unfold State.stepFailed
    rw [had]
    dsimp only
    rw [← hu, hadm]
    rfl

theorem stepChecked_retries {g : Half} {pos : BitVec 7} {kind : CheckKind} (hj : s.mbx.jobs = []) (hk : sparesRecords kind) (hx : a.execs < 4) :
    Completes (.stepChecked h (.fail g pos kind)) s fun t =>
      ExecutedAgain s h.toNat r a (chargesOf s.free g pos.toNat kind) t ∧ ((∀ e, kind ≠ .parity e) → t.safe = s.safe) := by
  obtain ⟨u, hkept, hsafe, hrun⟩ := stepChecked_failing had hp (g := g) (pos := pos) hk
  obtain ⟨⟨hroute, hsame⟩, hus⟩ := State.executeAgain_executed (s := u) (State.route_handle (State.admitted_parts had).1) hx b
    (chargesOf s.free g pos.toNat kind)
  have hsu : (u.bnd, u.img, u.eng, u.mbx, u.str) = (s.bnd, s.img, s.eng, s.mbx, s.str) := by rw [hkept.eq]
  refine ⟨_, stepChecked_runs hrun ?_, ⟨hroute, hsame.trans hsu⟩, fun hpar => hus.trans (hsafe hpar)⟩
  have hm := hsame.trans hsu
  simp only [Prod.mk.injEq] at hm
  rw [hm.2.2.2.1]
  exact hj

/-- The fourth failure ends the route at its last committed state (13 R301, R318). -/
theorem stepChecked_faults {g : Half} {pos : BitVec 7} {kind : CheckKind} (hj : s.mbx.jobs = []) (hk : sparesRecords kind) (hx : 4 ≤ a.execs)
    (hact : b.state = .active) (he : r.entries = []) (hm : r.markDue = false) :
    Completes (.stepChecked h (.fail g pos kind)) s fun t =>
      (∃ q, t.route h.toNat = some q ∧ q.state = .ended ∧ q.ending = .fault ∧ q.next = r.next ∧ q.adm = none) ∧
      ((∀ e, kind ≠ .parity e) → t.safe = (s.log engineSide 2 0x000B r.handle r.next []).safe) ∧
      (t.bnd, t.img, t.eng, t.mbx) = (s.bnd, s.img, s.eng, s.mbx) := by
  obtain ⟨u, hkept, hsafe, hrun⟩ := stepChecked_failing had hp (g := g) (pos := pos) hk
  obtain ⟨hr, hb, -⟩ := State.admitted_parts had
  have hhandle : r.handle = h.toNat := State.route_handle hr
  have hbu : u.binding r.binding = some b := by rw [hkept.eq]; exact hb
  have hju : u.mbx.jobs = [] := by rw [hkept.eq]; exact hj
  have hend : u.executeAgain b r a (chargesOf s.free g pos.toNat kind) = (u.faultRoute r).afterRelease h.toNat := by
    rw [← hhandle]
    exact if_pos hx
  obtain ⟨⟨q, hq, hqr⟩, hsame⟩ := State.faulted_settles hhandle hbu (by rw [hact]; nofun) hju he hm
  have hfs := State.faulted_safe hhandle hbu (by rw [hact]; nofun) hju he hm
  have hsu : (u.bnd, u.img, u.eng, u.mbx) = (s.bnd, s.img, s.eng, s.mbx) := by rw [hkept.eq]
  dsimp only at hsame
  refine ⟨_, stepChecked_runs (hrun.trans hend) ?_, ⟨q, hqr, hq.state, hq.ending, hq.next, hq.adm⟩, fun hpar => hfs.trans ?_, hsame.trans hsu⟩
  · have hmb := hsame.trans hsu
    simp only [Prod.mk.injEq] at hmb
    rw [hmb.2.2.2]
    exact hj
  · refine State.log_safe_of_link (fun x => ?_) (fun x => ?_) (hsafe hpar) (by rw [hkept.eq]) (by rw [hkept.eq]) ..
    · exact congrArg (fun y => y.2.2.1) (hkept.seat x)
    · exact congrArg (fun y => y.2.2.2.1) (hkept.seat x)

end

theorem mirrorRecord_acknowledges {f : Formed} (had : s.admitted h.toNat = some (r, b, a)) (hp : a.phase = .written)
    (hf : a.formed = some f) (hb : s.bothServe = true) :
    exec (.mirrorRecord h) s = .next (s.setRoute
      { r with mirror := r.recordAfter f, record := r.record.set r.half.other none, adm := some { a with phase := .acked } }) := by
  refine congrArg Host.Outcome.next ?_
  unfold State.mirrorRecord
  rw [had]
  dsimp only
  rw [hf]
  exact if_pos (by simp [hp, hb])

end Sys2Proof.Machine

open Sys2Proof Sys2Proof.Machine

/-- Settles O34. -/
theorem stepsAreChecked : Obligations.StepsAreChecked := by
  intro s h r b a hj had
  refine ⟨fun hp => ⟨fun f ho hf => ⟨stepChecked_writes hj had hp ho hf, stepChecked_doubts had hp hj ho hf⟩,
    stepChecked_sends hj had hp, fun g pos kind hk => ⟨stepChecked_retries had hp hj hk, fun hx hact he hm _ _ => ?_⟩⟩,
    fun f hp hf hb => mirrorRecord_acknowledges had hp hf hb⟩
  exact stepChecked_faults had hp hj hk hx hact he hm

end

section
/-! PROOF. Work for a route that sends nothing, and a release that commits (O35; 13 R296; 01 R24, R27; 04 R98; 08 R187; 11 R257). -/
namespace Sys2Proof.Machine

variable {s t u : State} {r q : Route} {b : Binding} {n : Nat}

/-! ### Work that sends no frame -/

/-- Nothing changes but the banks, the journal, the routes and their streams. -/
structure Unsent (s t : State) : Prop where
  work : RouteWork s t
  chains : t.chains = s.chains

namespace Unsent

theorem refl (s : State) : Unsent s s := ⟨.refl s, rfl⟩

theorem trans (h : Unsent s t) (k : Unsent t u) : Unsent s u := ⟨h.work.trans k.work, k.chains.trans h.chains⟩

theorem foldl {α : Type} {f : State → α → State} (hf : ∀ t x, Unsent t (f t x)) (l : List α) (s : State) : Unsent s (l.foldl f s) := by
  induction l generalizing s with
  | nil => exact refl s
  | cons x l ih => exact (hf s x).trans (ih _)

theorem setRoute (s : State) (r : Route) : Unsent s (s.setRoute r) := ⟨.setRoute s r, rfl⟩

theorem journal (s : State) (h : Half) (kind subject : Nat) (p : List Byte) : Unsent s (s.journal h kind subject p) :=
  ⟨(Aside.journal s h kind subject p).work, State.journal_chains ..⟩

end Unsent

theorem Banks.unsent (k : Banks s t) : Unsent s t := by
  refine ⟨k.aside.work, ?_⟩
  have := congrArg State.chains k.rest
  exact this

namespace Unsent

theorem freeSpent (s : State) (r : Route) : Unsent s (s.freeSpent r) := by
  refine ⟨.freeSpent s r, ?_⟩
  unfold State.freeSpent
  split
  · rfl
  · have hb := (Banks.eachHalf s (s.routeHalves r) (f := fun x =>
      (if r.spent = 0 then x else x.clear (.input r.spent) r.spent).clear (.fixing r.outBytes) r.outBytes)
      fun _ => by split <;> rfl).unsent
    exact hb.chains

theorem checkpoint (s : State) (b : Binding) (r : Route) : Unsent s (s.checkpoint b r) := by
  unfold State.checkpoint
  split
  · exact (journal s ..).trans (setRoute ..)
  · exact refl s

theorem checkpointOf (s : State) (r : Route) : Unsent s (s.checkpointOf r) := by
  unfold State.checkpointOf
  split
  · split
    · split
      · exact checkpoint ..
      · exact refl s
    · exact refl s
  · exact refl s

theorem checkpoints (s : State) : Unsent s s.checkpoints := foldl checkpointOf _ s

theorem journalRelease (s : State) (b : Binding) (r : Route) (x : Release) (cs : List Contact) : Unsent s (s.journalRelease b r x cs) := by
  unfold State.journalRelease
  dsimp only
  refine List.foldlRecOn (x.grow.taken.zip cs) _ (motive := fun p : State × Nat => Unsent s p.1) (journal s ..) fun p hp tc _ => ?_
  exact hp.trans (journal ..)

theorem holdPaused (s : State) (r : Route) : Unsent s (s.holdPaused r) := (Banks.freeDrafts s r).unsent.trans (setRoute ..)

end Unsent

/-! ### Checkpoints -/

/-- A route as it is but for its checkpoint. -/
def Route.CheckOf (q r : Route) : Prop := { q with sinceCheck := r.sinceCheck, checkAt := r.checkAt, checkBytes := r.checkBytes } = r

theorem Route.CheckOf.trans {p : Route} (h : q.CheckOf r) (k : p.CheckOf q) : p.CheckOf r := by
  unfold Route.CheckOf at h k ⊢
  have e := congrArg (fun x : Route => { x with sinceCheck := r.sinceCheck, checkAt := r.checkAt, checkBytes := r.checkBytes }) k
  exact e.trans h

theorem State.rt_get? (h : s.route n = some r) : s.rt.get? (routeIndex n) = some r := by
  unfold State.route at h
  split at h
  · rename_i x hx
    split at h
    · cases h
      exact hx
    · cases h
  · cases h

/-- A route of the table is left as it is when another one of it changes. -/
theorem State.route_setRoute_ne {x : Route} (hq : s.route q.handle = some r) (hn : q.handle ≠ n) (hx : s.route n = some x) :
    (s.setRoute q).route n = some x := by
  have hne : routeIndex q.handle ≠ routeIndex n := fun he => hn <| by
    have hsame := State.rt_get? hq
    rw [he, State.rt_get? hx] at hsame
    cases hsame
    exact (State.route_handle hq).symm.trans (State.route_handle hx)
  unfold State.route State.setRoute
  dsimp only
  rw [Tab.get?_put, if_neg hne, State.rt_get? hx]
  exact if_pos (State.route_handle hx)

theorem State.checkpoint_route (hq : s.route q.handle = some q) (hr : s.route n = some r) (b : Binding) :
    ∃ x, (s.checkpoint b q).route n = some x ∧ x.CheckOf r := by
  unfold State.checkpoint
  split
  · obtain ⟨a, ha⟩ : ∃ a, a = s.journal q.half 0x23 q.handle (routeBench b q) := ⟨_, rfl⟩
    obtain ⟨p, hp⟩ : ∃ p : Route, p = { q with sinceCheck := 0, checkAt := s.jr.next, checkBytes := a.jr.written } := ⟨_, rfl⟩
    have har (m : Nat) : a.route m = s.route m := by
      rw [ha]
      exact State.route_congr (State.journal_rt ..) m
    have hph : p.handle = q.handle := by rw [hp]
    have hgoal : ∃ x, (a.setRoute p).route n = some x ∧ x.CheckOf r := by
      by_cases hn : q.handle = n
      · subst hn
        rw [hq] at hr
        cases hr
        exact ⟨p, by rw [← hph]; exact State.route_setRoute_same .., by rw [hp]; rfl⟩
      · exact ⟨r, State.route_setRoute_ne (r := q) (by rw [har, hph]; exact hq) (by rw [hph]; exact hn) (by rw [har]; exact hr), rfl⟩
    rw [hp, ha] at hgoal
    exact hgoal
  · exact ⟨r, hr, rfl⟩

theorem State.checkpoints_route (hr : s.route n = some r) : ∃ x, s.checkpoints.route n = some x ∧ x.CheckOf r := by
  refine List.foldlRecOn s.rt.vals _ (motive := fun t : State => ∃ x, t.route n = some x ∧ x.CheckOf r) ⟨r, hr, rfl⟩ fun t ht q _ => ?_
  obtain ⟨x, hx, hxr⟩ := ht
  unfold State.checkpointOf
  split
  · rename_i p hp
    split
    · split
      · obtain ⟨y, hy, hyx⟩ := State.checkpoint_route (s := t) (q := p) (by rw [State.route_handle hp]; exact hp) hx _
        exact ⟨y, hy, hxr.trans hyx⟩
      · exact ⟨x, hx, hxr⟩
    · exact ⟨x, hx, hxr⟩
  · exact ⟨x, hx, hxr⟩

/-! ### A release -/

/-- What a release does before its outputs (01 R30; 04 R102; 14 R339). -/
theorem Unsent.beforeRelease (s : State) (b : Binding) (r : Route) (x : Release) (cs : List Contact) (next : Nat) :
    Unsent s ((((s.freePassed r next).journalRelease b r x cs).countStep r.half 1 1).countCopies (r.copies.map (passedCopies next))) := by
  have hfree : Banks s (s.freePassed r next) := by
    unfold State.freePassed
    dsimp only
    split
    · exact (Banks.freeStep s r).trans (.freeDrafts _ r)
    · exact .freeStep s r
  exact ((hfree.unsent.trans (.journalRelease ..)).trans (Banks.countStep ..).unsent).trans (Banks.countCopies ..).unsent

/-- A route as it is but for what counts and holds its outputs, the copy of its record and its checkpoint. -/
def Route.ReleasedOf (q r : Route) : Prop :=
  { q with waitRecs := r.waitRecs, outSeq := r.outSeq, outBytes := r.outBytes, spent := r.spent, lastToks := r.lastToks
           lastRecs := r.lastRecs, mirror := r.mirror, sinceCheck := r.sinceCheck, checkAt := r.checkAt, checkBytes := r.checkBytes } = r

theorem Route.OutputOf.released (h : q.OutputOf r) {p : Route} (k : p.CheckOf q) : p.ReleasedOf r := by
  unfold Route.OutputOf at h
  unfold Route.CheckOf at k
  unfold Route.ReleasedOf
  have e := congrArg (fun x : Route => { x with
    waitRecs := r.waitRecs, outSeq := r.outSeq, outBytes := r.outBytes, spent := r.spent, lastToks := r.lastToks
    lastRecs := r.lastRecs, mirror := r.mirror, sinceCheck := r.sinceCheck, checkAt := r.checkAt, checkBytes := r.checkBytes }) k
  refine e.trans ?_
  have e2 := congrArg (fun x : Route => { x with sinceCheck := r.sinceCheck, checkAt := r.checkAt, checkBytes := r.checkBytes }) h
  exact e2

theorem State.output_unsent (s : State) (r : Route) (tok : TokEntry) (recs : List OutRec) (more : Bool) :
    Unsent (s.sendTok r.half (r.chains.get r.half) tok) (s.output r (some tok) recs more) := by
  unfold State.output
  dsimp only
  generalize s.sendTok r.half (r.chains.get r.half) tok = a
  have hemit (q : Route) : Unsent a (a.emit q recs) := ⟨.emit .., rfl⟩
  split
  · exact (hemit _).trans (.freeSpent ..)
  · exact hemit _

/-- What a release commits (13 R296 steps 6 and 7). -/
structure Commits (s t : State) (r : Route) (x : Release) : Prop where
  work : RouteWork s t
  route : ∃ q, t.route r.handle = some q ∧ q.ReleasedOf (r.released x (r.next + x.grow.taken.length)) ∧
    (s.bothServe = true → q.mirror = q.recOf)
  sent : ∀ k, r.chains.get r.half = some k → k < (s.chains.get r.half).length →
    tokOut r.handle (x.tok r.handle r.next).bytes ∈ (t.chain r.half k).wait ++ (t.chain r.half k).replay.map (·.out)

theorem State.commitRelease_commits {x : Release} (hb : b.shards ≤ 1) (hx : x.grow.taken ≠ []) (hxa : x.after = .goes ∨ x.after = .forcedMore)
    (hd : passed s.time.toNat r.deadline = false) (cs : List Contact) : Commits s (s.commitRelease b r x cs) r x := by
  have ho : owns b r = true := by simp [owns, hb]
  obtain ⟨r1, hr1⟩ : ∃ r1, r1 = r.released x (r.next + x.grow.taken.length) := ⟨_, rfl⟩
  obtain ⟨a, ha⟩ : ∃ a : State, a = (((s.freePassed r (r.next + x.grow.taken.length)).journalRelease b r x cs).countStep r.half 1 1).countCopies
    (r.copies.map (passedCopies (r.next + x.grow.taken.length))) := ⟨_, rfl⟩
  obtain ⟨r2, hr2⟩ : ∃ r2, r2 = s.twin r1 := ⟨_, rfl⟩
  obtain ⟨recs, hrecs⟩ : ∃ recs, recs = printRecords r.next false x.grow.prints := ⟨_, rfl⟩
  obtain ⟨c, hc⟩ : ∃ c, c = a.output r2 (some (x.tok r.handle r.next)) recs false := ⟨_, rfl⟩
  have hua : Unsent s a := by rw [ha]; exact Unsent.beforeRelease ..
  have h21 : r2.OutputOf r1 := by rw [hr2]; exact State.twin_outputOf ..
  have h2h : r2.handle = r.handle := by rw [h21.handle, hr1]; rfl
  have h2half : r2.half = r.half := by
    have := congrArg Route.half h21
    rw [hr1] at this
    exact this
  have h2c : r2.chains = r.chains := by
    have := congrArg Route.chains h21
    rw [hr1] at this
    exact this
  obtain ⟨q, hq, hqrt, hqm⟩ := a.output_rt r2 (some (x.tok r.handle r.next)) recs false
  rw [← hc] at hqrt
  have hcr : c.route r.handle = some q := by
    rw [← h2h, ← hq.handle]
    exact State.route_put (t := a.rt) (by rw [hqrt, hq.handle])
  obtain ⟨p, hp, hpq⟩ := State.checkpoints_route hcr
  have hrun : s.commitRelease b r x cs = c.checkpoints := by
    have hafter : c.checkpoints.afterCommit b p x s.time.toNat = c.checkpoints := by
      unfold State.afterCommit
      have hgoes : (if (owns b p && !x.forcedOnly && passed s.time.toNat p.deadline) = true
          then c.checkpoints.endRoute b p b.set .deadline true true else c.checkpoints) = c.checkpoints := by
        have hpd : p.deadline = r.deadline := by
          have hpr := (h21.trans hq).released hpq
          have := congrArg Route.deadline hpr
          rw [hr1] at this
          exact this
        exact if_neg (by simp [hpd, hd])
      rcases hxa with h | h <;> rw [h] <;> exact hgoes
    unfold State.commitRelease
    dsimp only
    rw [if_neg (by simpa using hx), ho, if_pos rfl, if_neg (by simp; omega), ← ha, ← hr1, ← hr2, ← hrecs, ← hc, hp]
    exact hafter
  have hsend : Unsent (a.sendTok r2.half (r2.chains.get r2.half) (x.tok r.handle r.next)) c.checkpoints := by
    rw [hc]
    exact (State.output_unsent a r2 _ recs false).trans (.checkpoints _)
  rw [hrun]
  refine ⟨hua.work.trans ((Aside.sendTok ..).work.trans hsend.work), ⟨p, hp, ?_, fun hs => ?_⟩, fun k hk hlt => ?_⟩
  · rw [← hr1]
    exact (h21.trans hq).released hpq
  · have hm := hqm (by rw [State.bothServe_of_seat hua.work.seat]; exact hs)
    have hmirror : p.mirror = q.mirror := by
      have := congrArg Route.mirror hpq
      exact this
    have hrec : p.recOf = q.recOf := by
      have := congrArg Route.recOf hpq
      exact this
    rw [hmirror, hrec]
    exact hm
  · have hsent : a.sendTok r2.half (r2.chains.get r2.half) (x.tok r.handle r.next) =
        a.sendOut r.half k (tokOut r.handle (x.tok r.handle r.next).bytes) := by
      rw [h2half, h2c, hk]
      rfl
    rw [hsent] at hsend
    have hchain : c.checkpoints.chain r.half k =
        ({ a.chain r.half k with wait := (a.chain r.half k).wait ++ [tokOut r.handle (x.tok r.handle r.next).bytes] } : Chain).flow := by
      have he : c.checkpoints.chain r.half k = (a.sendOut r.half k (tokOut r.handle (x.tok r.handle r.next).bytes)).chain r.half k := by
        unfold State.chain
        rw [hsend.chains]
      rw [he, State.sendOut, State.chain_onChain_lt (by rw [hua.chains]; exact hlt)]
    rw [hchain]
    exact Chain.queue_holds ..

/-! ### What follows a release -/

/-- A route that is free, and due to pause while it serves, is PAUSED (11 R257). -/
def Route.settled (q : Route) : Route :=
  if q.forcedMore = false ∧ q.pauseDue = true ∧ (q.state = .open ∨ q.state = .running) then
    { q with state := .paused, drafts := none, pauseDue := false }
  else q

/-- Once what waited for the route has happened, masks and heads alone are prepared. -/
theorem State.afterRelease_of_settled (hs : s.settle n = t) (hr : t.route n = some q) (he : q.entries = []) (hc : q.copies = ⟨[], []⟩) :
    Banks t (s.afterRelease n) := by
  have hfill := Banks.refill t
  unfold State.afterRelease
  dsimp only
  rw [hs, State.readmit_empty hr he hc, hfill.route, hr]
  dsimp only
  split
  · split
    · exact hfill.trans (Banks.wantMasks ..)
    · exact hfill
  · exact hfill

theorem State.settle_settles (hr : s.route n = some q) (hb : s.binding q.binding = some b) (hs : b.state ≠ .stopping)
    (hj : s.mbx.jobs = []) (hm : q.markDue = false) (hsv : q.saving = false) (ha : q.adm = none) :
    Unsent s (s.settle n) ∧ (s.settle n).route n = some q.settled := by
  have hno : ∀ j ∈ s.mbx.jobs, j.code ≠ cHalt := by rw [hj]; nofun
  by_cases hp : q.forcedMore = false ∧ q.pauseDue = true ∧ (q.state = .open ∨ q.state = .running)
  · have hset : q.settled = { q with state := .paused, drafts := none, pauseDue := false } := if_pos hp
    obtain ⟨hf, hd, hst⟩ := hp
    have hheld := Unsent.holdPaused s q
    have hroute : (s.holdPaused q).route n = some q.settled := by
      rw [hset]
      have hq : ({ q with state := .paused, drafts := none, pauseDue := false } : Route).handle = n := State.route_handle (r := q) hr
      rw [← hq]
      exact State.route_setRoute_same ..
    have he : s.settle n = s.holdPaused q := by
      rw [State.settle_of_free hr (by simp [ha, hf, hsv]) hm, hj]
      show s.afterDue n q.binding = _
      unfold State.afterDue
      rw [hr]
      dsimp only
      rw [State.not_held hno hb hs, Bool.false_and, Bool.false_and, if_neg Bool.false_ne_true, if_pos (by simpa [hd] using hst)]
      have hbh : (s.holdPaused q).binding q.binding = some b := by
        rw [State.binding_congr hheld.work.bnd]
        exact hb
      rw [State.finishStop_of_binding hbh hs, State.finishHalt_of_noHalt (by rw [hheld.work.mbx]; exact hno)]
    rw [he]
    exact ⟨hheld, hroute⟩
  · have hset : q.settled = q := if_neg hp
    have he : s.settle n = s := by
      cases hf : q.forcedMore with
      | true => exact State.settle_of_busy hr (by simp [hf])
      | false =>
        refine State.settle_still hr hb hs hj hm ?_
        rw [hf] at hp
        simpa using hp
    rw [he, hset]
    exact ⟨.refl s, hr⟩

theorem State.afterRelease_settles (hr : s.route n = some q) (hb : s.binding q.binding = some b) (hs : b.state ≠ .stopping)
    (hj : s.mbx.jobs = []) (hm : q.markDue = false) (hsv : q.saving = false) (ha : q.adm = none) (he : q.entries = [])
    (hc : q.copies = ⟨[], []⟩) : Unsent s (s.afterRelease n) ∧ (s.afterRelease n).route n = some q.settled := by
  obtain ⟨hu, hroute⟩ := State.settle_settles hr hb hs hj hm hsv ha
  have hkeep : q.settled.entries = [] ∧ q.settled.copies = ⟨[], []⟩ := by
    unfold Route.settled
    split <;> exact ⟨he, hc⟩
  have hbanks := State.afterRelease_of_settled rfl hroute hkeep.1 hkeep.2
  exact ⟨hu.trans hbanks.unsent, (hbanks.route n).trans hroute⟩

/-! ### A release, and what follows it -/

/-- The route after a release, its record, and its TOK entry. -/
def ReleasedTo (s : State) (r : Route) (x : Release) (t : State) : Prop :=
  (∃ q, t.route r.handle = some q ∧ q.rel = x.grow.rel ∧ q.adm = none ∧ q.forcedMore = decide (x.after = .forcedMore) ∧
    (s.bothServe = true → q.mirror = q.recOf) ∧
    q.state = (if x.after = .goes ∧ r.pauseDue = true ∧ (r.state = .open ∨ r.state = .running) then .paused else r.state)) ∧
  (∀ k, r.chains.get r.half = some k → k < (s.chains.get r.half).length →
    tokOut r.handle (x.tok r.handle r.next).bytes ∈ (t.chain r.half k).wait ++ (t.chain r.half k).replay.map (·.out)) ∧
  (t.bnd, t.img, t.eng, t.mbx) = (s.bnd, s.img, s.eng, s.mbx)

/-- What a release needs of its route and binding, and of the rest of the engine, to commit as it is. -/
structure Releasable (s : State) (r : Route) (b : Binding) : Prop where
  jobs : s.mbx.jobs = []
  binding : s.binding r.binding = some b
  shards : b.shards ≤ 1
  active : b.state = .active
  entries : r.entries = []
  copies : r.copies = ⟨[], []⟩
  mark : r.markDue = false
  saving : r.saving = false
  deadline : passed s.time.toNat r.deadline = false

theorem State.commitRelease_releases {x : Release} (hk : Releasable s r b) (hx : x.grow.taken ≠ []) (ha : x.after = .goes ∨ x.after = .forcedMore)
    (cs : List Contact) : ReleasedTo s r x ((s.commitRelease b r x cs).afterRelease r.handle) ∧
      ((s.commitRelease b r x cs).afterRelease r.handle).mbx.jobs = [] := by
  obtain ⟨hwork, ⟨q, hq, hqr, hqm⟩, hsent⟩ := State.commitRelease_commits hk.shards hx ha hk.deadline cs
  obtain ⟨u, hu⟩ : ∃ u, u = s.commitRelease b r x cs := ⟨_, rfl⟩
  rw [← hu] at hwork hq hsent ⊢
  have hfields := congrArg (fun y : Route => (y.rel, y.adm, y.forcedMore, y.state, y.pauseDue, y.binding, y.markDue, y.saving, y.entries,
    y.copies)) hqr
  simp only [Route.released, Prod.mk.injEq, hk.copies, hk.entries, hk.mark, hk.saving, Halves.map, List.filter_nil] at hfields
  obtain ⟨hrel, hadm, hfm, hst, hpd, hbd, hmd, hsv, hen, hco⟩ := hfields
  have hafter := State.afterRelease_settles hq (b := b) (by rw [State.binding_congr hwork.bnd, hbd]; exact hk.binding)
    (by rw [hk.active]; nofun) (by rw [hwork.mbx]; exact hk.jobs) hmd hsv hadm hen hco
  obtain ⟨hun, hroute⟩ := hafter
  have hall := hwork.trans hun.work
  refine ⟨⟨⟨q.settled, hroute, ?_⟩, fun k hc hl => ?_, ?_⟩, ?_⟩
  · have hcond : (q.forcedMore = false ∧ q.pauseDue = true ∧ (q.state = .open ∨ q.state = .running)) ↔
        (x.after = .goes ∧ r.pauseDue = true ∧ (r.state = .open ∨ r.state = .running)) := by
      rw [hfm, hpd, hst]
      rcases ha with ha | ha <;> simp [ha]
    have hfd : q.forcedMore = decide (x.after = .forcedMore) := by
      rw [hfm]
      rcases ha with ha | ha <;> simp [ha]
    unfold Route.settled
    by_cases hc : x.after = .goes ∧ r.pauseDue = true ∧ (r.state = .open ∨ r.state = .running)
    · rw [if_pos (hcond.2 hc), if_pos hc]
      exact ⟨hrel, hadm, hfd, hqm, rfl⟩
    · rw [if_neg (fun h => hc (hcond.1 h)), if_neg hc]
      exact ⟨hrel, hadm, hfd, hqm, hst⟩
  · have hchain : (u.afterRelease r.handle).chain r.half k = u.chain r.half k := by
      unfold State.chain
      rw [hun.chains]
    rw [hchain]
    exact hsent k hc hl
  · rw [hall.bnd, hall.img, hall.eng, hall.mbx]
  · rw [hall.mbx]
    exact hk.jobs

/-! ### The commands that release -/

theorem State.admitted_of {a : Adm} (hr : s.route n = some r) (hb : s.binding r.binding = some b) (ha : r.adm = some a) :
    s.admitted n = some (r, b, a) := by
  unfold State.admitted
  rw [hr]
  dsimp only
  rw [hb, ha]

variable {h : U32} {a : Adm} {f : Formed}

/-- A step that both halves have written commits (13 R296 steps 6 and 7). -/
theorem releaseCommit_releases (hr : s.route h.toNat = some r) (hk : Releasable s r b) (ha : r.adm = some a) (hf : a.formed = some f)
    (hp : a.phase = .acked) (hg : f.release.after = .goes) (hx : f.release.grow.taken ≠ []) :
    Completes (.releaseCommit h) s (ReleasedTo s r f.release) := by
  obtain ⟨hrel, hjobs⟩ := State.commitRelease_releases hk hx (.inl hg) f.contacts
  have hrun : s.releaseCommit h.toNat = (s.commitRelease b r f.release f.contacts).afterRelease r.handle := by
    unfold State.releaseCommit
    rw [State.admitted_of hr hk.binding ha]
    dsimp only
    rw [if_neg (by simp [hp]), hf]
    rfl
  refine ⟨_, congrArg Host.Outcome.next ?_, hrel⟩
  rw [hrun]
  exact State.stepEnded_eq_self hjobs

/-- In LIMP the one half's check commits the step (13 R296). -/
theorem stepChecked_releases (hr : s.route h.toNat = some r) (hk : Releasable s r b) (ha : r.adm = some a) (hf : a.formed = some f)
    (hp : a.phase = .formed) (hb : s.bothServe = false) (hc : a.charges = []) (hs : stepSound b r a f = true)
    (hg : f.release.after = .goes) (hx : f.release.grow.taken ≠ []) :
    Completes (.stepChecked h .pass) s (ReleasedTo s r f.release) := by
  obtain ⟨hrel, hjobs⟩ := State.commitRelease_releases hk hx (.inl hg) f.contacts
  have ho : owns b r = true := by simp [owns, hk.shards]
  have hsame : ({ r with adm := some { a with formed := some f, charges := [] } } : Route) = r := by
    rw [← hc, ← hf, ← ha]
  have hrun : s.stepChecked h.toNat .pass = (s.commitRelease b r f.release f.contacts).afterRelease r.handle := by
    unfold State.stepChecked
    rw [State.admitted_of hr hk.binding ha]
    dsimp only
    rw [if_neg (by simp [hp]), if_pos ho, hf]
    dsimp only
    rw [if_neg (by simp [hs]), hc]
    refine (if_neg (by simp [State.chargeAll, hb])).trans ?_
    exact congrArg (fun y => s.commitStep b y f) hsame
  refine ⟨_, stepChecked_runs hrun hjobs, hrel⟩

/-- A forced run goes on (04 R98). -/
theorem forcedOnlyRelease_releases {x : Release} (hr : s.route h.toNat = some r) (hk : Releasable s r b) (hf : r.forcedMore = true)
    (hst : r.state = .open ∨ r.state = .running) (ha : r.adm = none) (hs : s.serving = true) (hb : s.blocked r = false)
    (hw : s.searchWaits b r = false) (ht : r.tried = []) (hso : forcedSound (s.envFor b r) r = true)
    (hxe : x = forcedRelease (s.envFor b r) r.limit r.rel) (hxa : x.after = .goes ∨ x.after = .forcedMore) (hx : x.grow.taken ≠ [])
    (hd : s.dataGone b r (x.grow.taken.map fun t => t.before.pos.g) = false) :
    Completes (.forcedOnlyRelease ⟨h, .pass⟩) s (ReleasedTo s r x) := by
  have ho : owns b r = true := by simp [owns, hk.shards]
  obtain ⟨p, hp⟩ : ∃ p : Route, p = { r with tries := 0, tried := [] } := ⟨_, rfl⟩
  have hkp : Releasable s p b := by
    rw [hp]
    exact ⟨hk.jobs, hk.binding, hk.shards, hk.active, hk.entries, hk.copies, hk.mark, hk.saving, hk.deadline⟩
  obtain ⟨hrel, hjobs⟩ := State.commitRelease_releases hkp hx hxa (forcedContacts (s.envFor b p) p x.grow.taken)
  have hforced : s.forcedOnly b p = s.commitRelease b p x (forcedContacts (s.envFor b p) p x.grow.taken) := by
    have hxp : forcedRelease (s.envFor b p) p.limit p.rel = x := by
      rw [hxe, hp]
      rfl
    have hdp : s.dataGone b p (x.grow.taken.map fun t => t.before.pos.g) = false := by
      rw [hp]
      exact hd
    unfold State.forcedOnly
    rw [if_neg (by rw [hkp.deadline]; exact Bool.false_ne_true)]
    dsimp only
    rw [hxp, if_neg (by rw [hdp]; exact Bool.false_ne_true)]
  have hrun : s.forcedOnlyRelease h.toNat .pass =
      (s.commitRelease b p x (forcedContacts (s.envFor b p) p x.grow.taken)).afterRelease p.handle := by
    have hph : p.handle = h.toNat := by
      rw [hp]
      exact State.route_handle (r := r) hr
    unfold State.forcedOnlyRelease
    rw [hr]
    dsimp only
    rw [hk.binding]
    dsimp only
    rw [if_neg (by rcases hst with h | h <;> simp [hf, ho, hs, ha, hb, hw, h]), if_neg (by simp [hso]), ht, ← hp]
    show (s.forcedOnly b p).afterRelease h.toNat = _
    rw [hforced, hph]
  refine ⟨_, congrArg Host.Outcome.next ((congrArg State.stepEnded hrun).trans (State.stepEnded_eq_self hjobs)), ?_⟩
  rw [hp] at hrel ⊢
  exact hrel

end Sys2Proof.Machine

open Sys2Proof Sys2Proof.Machine

/-- Settles O35. -/
theorem releasesCommit : Obligations.ReleasesCommit := by
  intro s h r b hj hr hb hsh hact hen hco hm hsv hd
  have hk : Releasable s r b := ⟨hj, hb, hsh, hact, hen, hco, hm, hsv, hd⟩
  have hhandle : h.toNat = r.handle := (State.route_handle hr).symm
  refine ⟨fun a f c ha hf hg hx hc => ?_, fun hfm hst ha hs hbl hw ht hso x hxe hxa hx hdg => ?_⟩
  · rw [hhandle]
    rcases hc with ⟨rfl, hp⟩ | ⟨rfl, hp, hbs, hch, hso⟩
    · exact releaseCommit_releases hr hk ha hf hp hg hx
    · exact stepChecked_releases hr hk ha hf hp hbs hch hso hg hx
  · rw [hhandle]
    exact forcedOnlyRelease_releases hr hk hfm hst ha hs hbl hw ht hso hxe hxa hx hdg

end

section
/-! PROOF. Peer frames of a shard group (O29; 03 R68, R70-R74; 04 R86, R98; 16 R401-R403; 11 R257). -/
namespace Sys2Proof.Machine

variable {s t u : State} {h : Half} {c : Nat} {f : Frame} {b : List Byte} {r q : Route} {bd : Binding}

/-! ### One PRT entry -/

/-- What a PRT entry brings to its route (16 R402). -/
def peerRecOf (b : List Byte) : PeerRec := ⟨pKind b, pSrc b, pStep b - pPos b, pPos b, pFlags b, pBody b⟩

/-- The route with what an entry brought, in the place of what an earlier one brought of the same position (16 R402). -/
def Route.heard (r : Route) (p : PeerRec) : Route :=
  { r with peers := (r.peers.filter fun x => !(x.kind == p.kind && x.src == p.src && x.step == p.step && x.pos == p.pos)) ++ [p] }

theorem Route.heard_mem (r : Route) (p : PeerRec) : p ∈ (r.heard p).peers := List.mem_append_right _ (List.mem_singleton_self _)

theorem Route.heard_keeps {p x : PeerRec} (hx : x ∈ r.peers) :
    (x.kind = p.kind ∧ x.src = p.src ∧ x.step = p.step ∧ x.pos = p.pos) ∨ x ∈ (r.heard p).peers := by
  by_cases hk : x.kind = p.kind ∧ x.src = p.src ∧ x.step = p.step ∧ x.pos = p.pos
  · exact .inl hk
  · refine .inr (List.mem_append_left _ (List.mem_filter.2 ⟨hx, ?_⟩))
    rw [Bool.not_eq_true', Bool.eq_false_iff]
    intro hb
    simp only [Bool.and_eq_true, beq_iff_eq, and_assoc] at hb
    exact hk hb

/-- The entry is for this engine, and names a route that it holds (16 R401). -/
structure Named (s : State) (b : List Byte) (r : Route) (bd : Binding) : Prop where
  dst : pDst b = s.level.position
  route : s.routeBySalt (pBinding b) (pSalt b) = some r
  binding : s.binding r.binding = some bd

theorem Named.arrived (k : Named s b r bd) (h : Half) (c : Nat) (f : Frame) : Named (s.arrived h c ftPrt f) b r bd :=
  ⟨k.dst, k.route, k.binding⟩

/-- At the owner a part of a step that is not yet released stands for it (03 R70, R72; 04 R86). -/
theorem State.takePeer_heard (k : Named s b r bd) (ho : owns bd r = true) (hk : pKind b = pkSummary ∨ pKind b = pkZmax ∨ pKind b = pkCands)
    (ha : r.adm = none) (hs : r.next ≤ pStep b - pPos b) (hsk : r.skips (pSrc b) = false ∨ pKind b ≠ pkSummary) :
    s.takePeer c b = s.setRoute (r.heard (peerRecOf b)) := by
  have hno : ((peerRecOf b).refuses r.next && r.skips (pSrc b)) = false := by
    rcases hsk with h | h
    · rw [h, Bool.and_false]
    · have : (peerRecOf b).refuses r.next = false := by simp [PeerRec.refuses, peerRecOf, h]
      rw [this, Bool.false_and]
  have hsame : (s.setRoute (r.heard (peerRecOf b))).ownerTakes bd (r.heard (peerRecOf b)) = s.setRoute (r.heard (peerRecOf b)) := by
    unfold State.ownerTakes
    rw [show (r.heard (peerRecOf b)).adm = none from ha]
  unfold State.takePeer
  rw [if_neg (by simp [k.dst]), k.route]
  dsimp only
  rw [k.binding]
  dsimp only
  rw [if_pos ho, if_pos hk, if_neg (by omega)]
  exact (if_neg (by rw [← Bool.not_eq_true] at hno; exact hno)).trans hsame

/-- A value that the owner returns stands at the member (04 R86). -/
theorem State.takePeer_returned (k : Named s b r bd) (ho : owns bd r = false) (hk : pKind b = pkZret) (ha : r.adm = none)
    (hs : r.next ≤ pStep b - pPos b) : s.takePeer c b = s.setRoute (r.heard (peerRecOf b)) := by
  have hsame : (s.setRoute (r.heard (peerRecOf b))).memberTakes (r.heard (peerRecOf b)) = s.setRoute (r.heard (peerRecOf b)) := by
    unfold State.memberTakes
    rw [show (r.heard (peerRecOf b)).adm = none from ha]
  unfold State.takePeer
  rw [if_neg (by simp [k.dst]), k.route]
  dsimp only
  rw [k.binding]
  dsimp only
  rw [if_neg (by simp [ho]), if_pos hk, if_neg (by omega)]
  exact hsame

/-- A refusal of an entry that the owner has refused itself answers it, and stands for nothing (03 R70). -/
theorem State.takePeer_skips (k : Named s b r bd) (ho : owns bd r = true) (hk : pKind b = pkSummary)
    (hr : (peerRecOf b).refuses r.next = true) (hsk : r.skips (pSrc b) = true) :
    s.takePeer c b = s.setRoute (r.skipped (pSrc b)) := by
  have hstep : pStep b - pPos b = r.next := by
    unfold PeerRec.refuses at hr
    simp only [Bool.and_eq_true, beq_iff_eq] at hr
    exact hr.1.2
  unfold State.takePeer
  rw [if_neg (by simp [k.dst]), k.route]
  dsimp only
  rw [k.binding]
  dsimp only
  rw [if_pos ho, if_pos (.inl hk), if_neg (by omega)]
  exact if_pos (by rw [Bool.and_eq_true]; exact ⟨hr, hsk⟩)

theorem State.takePeer_notice (k : Named s b r bd) (ho : owns bd r = false) (hk : pKind b = pkRelease) :
    s.takePeer c b = s.takeNotice bd r (tokOfBytes (pBody b)) := by
  unfold State.takePeer
  rw [if_neg (by simp [k.dst]), k.route]
  dsimp only
  rw [k.binding]
  dsimp only
  rw [if_neg (by simp [ho]), if_neg (by rw [hk]; decide), if_pos hk]

/-! ### Its frame -/

/-- A frame with one entry is acknowledged, and its entry is taken (16 R392). -/
theorem State.prtRow_takes {kind : Nat} (ho : OneEntry s h c ftPrt f b) (hk : pKind b = kind)
    (he : (s.arrived h c ftPrt f).takePeer c b = t) (hj : t.mbx.jobs = []) : s.prtRow kind h c f = t.grantChain h c := by
  have hframe : s.takeFrame h c ftPrt f (fun b t => t.takePeer c b) = t.grantChain h c := by
    rw [takeFrame_oneEntry ho, he]
  unfold State.prtRow
  dsimp only
  rw [ho.whole]
  dsimp only
  rw [if_pos (by simp [hk]), hframe]
  exact State.stepEnded_eq_self hj

theorem State.prtRow_taken (ho : OneEntry s h c ftPrt f b) (hc : t.chains = (s.arrived h c ftPrt f).chains) :
    FrameTaken s (t.grantChain h c) h c ftPrt f := ((State.arrived_taken ho).congr hc).grantChain

theorem heard_part (ho : OneEntry s h c ftPrt f b) (hk : Named s b r bd) (hj : s.mbx.jobs = []) {kind : Nat} (hkind : pKind b = kind)
    (hcase : owns bd r = true ∧ (pKind b = pkSummary ∨ pKind b = pkZmax ∨ pKind b = pkCands) ∨ owns bd r = false ∧ pKind b = pkZret)
    (ha : r.adm = none) (hs : r.next ≤ pStep b - pPos b) (hsk : r.skips (pSrc b) = false ∨ pKind b ≠ pkSummary) :
    FrameTaken s (s.prtRow kind h c f) h c ftPrt f ∧
      (∃ q, (s.prtRow kind h c f).rt = s.rt.put (routeIndex r.handle) q ∧ { q with peers := r.peers } = r ∧ peerRecOf b ∈ q.peers ∧
        ∀ x ∈ r.peers, (x.kind = pKind b ∧ x.src = pSrc b ∧ x.step = pStep b - pPos b ∧ x.pos = pPos b) ∨ x ∈ q.peers) := by
  have hka := hk.arrived h c f
  have he : (s.arrived h c ftPrt f).takePeer c b = (s.arrived h c ftPrt f).setRoute (r.heard (peerRecOf b)) := by
    rcases hcase with ⟨hown, hkinds⟩ | ⟨hown, hz⟩
    · exact State.takePeer_heard hka hown hkinds ha hs hsk
    · exact State.takePeer_returned hka hown hz ha hs
  rw [State.prtRow_takes ho hkind he hj]
  exact ⟨State.prtRow_taken ho rfl, r.heard (peerRecOf b), rfl, rfl, r.heard_mem _, fun x hx => Route.heard_keeps (p := peerRecOf b) hx⟩

/-! ### Release notices -/

/-- The tokens of a notice, taken one after the other (03 R68). -/
def noticeGrow (e : Env) (g : Grow) (l : List (Nat × Bool × Option Nat)) : Grow :=
  l.foldl (fun g x => memberGrow e g ⟨x.1, x.2.1, decide ((allowed e g.rel.pos).length = 1), x.2.2⟩) g

theorem noticeGrow_rel (e : Env) (l : List (Nat × Bool × Option Nat)) : ∀ g : Grow,
    (noticeGrow e g l).rel.pos = (l.map fun x => x.1).foldl (fun p x => p.advance e x) g.rel.pos ∧
    (noticeGrow e g l).rel.gen = g.rel.gen + l.length ∧ (noticeGrow e g l).taken.length = g.taken.length + l.length := by
  induction l with
  | nil => exact fun g => ⟨rfl, rfl, rfl⟩
  | cons x l ih =>
    intro g
    obtain ⟨hp, hg, hl⟩ := ih (memberGrow e g ⟨x.1, x.2.1, decide ((allowed e g.rel.pos).length = 1), x.2.2⟩)
    refine ⟨hp, ?_, ?_⟩
    · refine hg.trans ?_
      simp only [memberGrow, List.length_cons]
      omega
    · refine hl.trans ?_
      simp only [memberGrow, List.length_append, List.length_cons, List.length_nil]
      omega

theorem noticeTks_toks {n : TokEntry} (hr : n.ranges.length = n.toks.length) :
    ((noticeTks n).map fun x => x.1) = n.toks ∧ (noticeTks n).length = n.toks.length := by
  have hfst : ((noticeTks n).map fun x => x.1) = n.toks := by
    unfold noticeTks
    rw [List.map_map]
    have hcomp : ((n.toks.zip n.ranges).zipIdx.map fun x => x.1.1) = ((n.toks.zip n.ranges).zipIdx.map Prod.fst).map Prod.fst := by
      rw [List.map_map]
      rfl
    refine (show _ = ((n.toks.zip n.ranges).zipIdx.map fun x => x.1.1) from rfl).trans ?_
    rw [hcomp, List.zipIdx_map_fst, List.map_fst_zip (by omega)]
  refine ⟨hfst, ?_⟩
  have := congrArg List.length hfst
  rwa [List.length_map] at this

/-- The release that a notice of tokens gives a member (03 R68; 04 R98). -/
theorem noticeRelease_goes {n : TokEntry} (e : Env) (r : Route) (he : n.ending = .none) (hr : n.ranges.length = n.toks.length) :
    (noticeRelease e r n).grow.rel.pos = n.toks.foldl (fun p x => p.advance e x) r.rel.pos ∧
    (noticeRelease e r n).grow.rel.gen = r.rel.gen + n.toks.length ∧ (noticeRelease e r n).grow.taken.length = n.toks.length ∧
    (noticeRelease e r n).after =
      if (allowed e (noticeRelease e r n).grow.rel.pos).length = 1 then .forcedMore else .goes := by
  obtain ⟨hp, hg, hl⟩ := noticeGrow_rel e (noticeTks n) (Grow.start r.rel)
  obtain ⟨hts, hlen⟩ := noticeTks_toks hr
  rw [hts] at hp
  rw [hlen] at hg hl
  refine ⟨hp, hg, hl.trans (Nat.zero_add _), ?_⟩
  unfold noticeRelease
  dsimp only
  rw [if_neg (by simp [he])]

/-- A member's copy of a route ends with nothing sent (03 R68). -/
theorem Unsent.endRoute_member (ho : owns bd r = false) (s : State) (set : ImgSet) (c : EndCause) (tok more : Bool) :
    Unsent s (s.endRoute bd r set c tok more) := by
  unfold State.endRoute
  dsimp only
  rw [ho, if_neg Bool.false_ne_true]
  refine Unsent.trans ?_ (.setRoute ..)
  exact (((Banks.freeDrafts s r).trans (.freeStep _ r)).trans (.countCopies _ r.copies)).unsent.trans (.journal ..)

/-- A member's copy of the route follows a release: it develops nothing and sends nothing (03 R68). -/
theorem State.commitRelease_follows {x : Release} (ho : owns bd r = false) (hx : x.grow.taken ≠ [])
    (hxa : x.after = .goes ∨ x.after = .forcedMore) (cs : List Contact) :
    Unsent s (s.commitRelease bd r x cs) ∧
      ∃ q, (s.commitRelease bd r x cs).route r.handle = some q ∧ q.ReleasedOf (r.released x (r.next + x.grow.taken.length)) := by
  obtain ⟨r1, hr1⟩ : ∃ r1, r1 = r.released x (r.next + x.grow.taken.length) := ⟨_, rfl⟩
  obtain ⟨a, ha⟩ : ∃ a : State, a = (((s.freePassed r (r.next + x.grow.taken.length)).journalRelease bd r x cs).countStep r.half 1 1).countCopies
    (r.copies.map (passedCopies (r.next + x.grow.taken.length))) := ⟨_, rfl⟩
  obtain ⟨r2, hr2⟩ : ∃ r2, r2 = s.twin r1 := ⟨_, rfl⟩
  have hua : Unsent s a := by rw [ha]; exact Unsent.beforeRelease ..
  have h21 : r2.OutputOf r1 := by rw [hr2]; exact State.twin_outputOf ..
  have h2h : r2.handle = r.handle := by rw [h21.handle, hr1]; rfl
  have hcr : (a.setRoute r2).route r.handle = some r2 := by
    rw [← h2h]
    exact State.route_setRoute_same ..
  obtain ⟨p, hp, hpq⟩ := State.checkpoints_route hcr
  have hafter : (a.setRoute r2).checkpoints.afterCommit bd p x s.time.toNat = (a.setRoute r2).checkpoints := by
    have hno : (if (owns bd p && !x.forcedOnly && passed s.time.toNat p.deadline) = true
        then (a.setRoute r2).checkpoints.endRoute bd p bd.set .deadline true true else (a.setRoute r2).checkpoints) =
        (a.setRoute r2).checkpoints := by
      have hpo : owns bd p = false := by
        have hpr := congrArg Route.owner (h21.released hpq)
        rw [hr1] at hpr
        have hsame : p.owner = r.owner := hpr
        unfold owns at ho ⊢
        rw [hsame]
        exact ho
      exact if_neg (by simp [hpo])
    unfold State.afterCommit
    rcases hxa with h | h <;> rw [h] <;> exact hno
  have hrun : s.commitRelease bd r x cs = (a.setRoute r2).checkpoints := by
    unfold State.commitRelease
    dsimp only
    rw [if_neg (by simpa using hx), ho, if_neg Bool.false_ne_true, if_neg (by simp), ← ha, ← hr1, ← hr2, hp]
    exact hafter
  rw [hrun]
  refine ⟨hua.trans ((Unsent.setRoute ..).trans (.checkpoints _)), p, hp, ?_⟩
  rw [← hr1]
  exact h21.released hpq

/-- What a member's copy of a route needs to follow a notice. -/
structure Following (s : State) (r : Route) (bd : Binding) : Prop where
  binding : s.binding r.binding = some bd
  member : owns bd r = false
  active : bd.state = .active
  entries : r.entries = []
  copies : r.copies = ⟨[], []⟩
  mark : r.markDue = false
  saving : r.saving = false
  due : r.pauseDue = false
  jobs : s.mbx.jobs = []

theorem State.takeNotice_ends {n : TokEntry} (k : Following s r bd) (hs : n.step = r.next) (ht : n.toks = []) (he : n.ending ≠ .none) :
    Unsent s (s.takeNotice bd r n) ∧ ∃ q, (s.takeNotice bd r n).route r.handle = some q ∧ EndedOf q r n.ending := by
  have hrun : s.takeNotice bd r n = (s.endRoute bd r bd.set n.ending false false).afterRelease r.handle := by
    unfold State.takeNotice
    rw [if_neg (by simp [hs]), if_pos (by simp [ht]), if_neg he]
  obtain ⟨u, hu⟩ : ∃ u, u = s.endRoute bd r bd.set n.ending false false := ⟨_, rfl⟩
  obtain ⟨q, hq, hrt⟩ := s.endRoute_rt bd r bd.set n.ending false false
  have hun : Unsent s u := by rw [hu]; exact Unsent.endRoute_member k.member ..
  rw [hrun, ← hu]
  rw [← hu] at hrt
  have hroute : u.route r.handle = some q := by
    rw [← hq.handle]
    exact State.route_put (t := s.rt) (by rw [hrt, hq.handle])
  obtain ⟨hfm, hsv, hpd, hen, hmd⟩ := hq.rests
  have hbanks := State.afterRelease_still hroute (b := bd) (by rw [State.binding_congr hun.work.bnd, hq.binding]; exact k.binding)
    (by rw [k.active]; nofun) (by rw [hun.work.mbx]; exact k.jobs) (hmd.trans k.mark) hpd (hen.trans k.entries) hq.copies
  exact ⟨hun.trans hbanks.unsent, q, (hbanks.route _).trans hroute, hq⟩

theorem State.takeNotice_follows {n : TokEntry} {e : Env} (k : Following s r bd) (hs : n.step = r.next)
    (hee : e = (r.adm.map fun a => a.env).getD (s.envFor bd r)) (he : n.ending = .none) (hr : n.ranges.length = n.toks.length)
    (ht : n.toks ≠ []) :
    Unsent s (s.takeNotice bd r n) ∧ ∃ q, (s.takeNotice bd r n).route r.handle = some q ∧ q.state = r.state ∧ q.adm = none ∧
      q.next = r.next + n.toks.length ∧ q.rel.pos = n.toks.foldl (fun p x => p.advance e x) r.rel.pos ∧
      q.forcedMore = decide ((allowed e q.rel.pos).length = 1) := by
  obtain ⟨x, hxd⟩ : ∃ x, x = noticeRelease e r n := ⟨_, rfl⟩
  obtain ⟨hpos, hgen, hlen, hafter⟩ := noticeRelease_goes e r he hr
  rw [← hxd] at hpos hgen hlen hafter
  have hx : x.grow.taken ≠ [] := fun h => ht (List.length_eq_zero_iff.1 (by rw [← hlen, h]; rfl))
  have hxa : x.after = .goes ∨ x.after = .forcedMore := by
    rw [hafter]
    split
    · exact .inr rfl
    · exact .inl rfl
  obtain ⟨cs, hrun⟩ : ∃ cs, s.takeNotice bd r n =
      (s.commitRelease bd r (noticeRelease ((r.adm.map fun a => a.env).getD (s.envFor bd r)) r n) cs).afterRelease r.handle :=
    ⟨_, (if_neg (by simp [hs])).trans (if_neg (by simpa using ht))⟩
  rw [← hee, ← hxd] at hrun
  obtain ⟨hun, q, hq, hqr⟩ := State.commitRelease_follows (s := s) k.member hx hxa cs
  obtain ⟨u, hu⟩ : ∃ u, u = s.commitRelease bd r x cs := ⟨_, rfl⟩
  rw [hrun, ← hu]
  rw [← hu] at hun hq
  have hfields := congrArg (fun y : Route => (y.rel, y.adm, y.forcedMore, y.state, y.pauseDue, y.binding, y.markDue, y.saving, y.entries,
    y.copies, y.startStep)) hqr
  simp only [Route.released, Prod.mk.injEq, k.copies, k.entries, k.mark, k.saving, k.due, Halves.map, List.filter_nil] at hfields
  obtain ⟨hrel, hadm, hfm, hst, hpd, hbd, hmd, hsv, hen, hco, hss⟩ := hfields
  obtain ⟨hun2, hroute⟩ := State.afterRelease_settles hq (b := bd) (by rw [State.binding_congr hun.work.bnd, hbd]; exact k.binding)
    (by rw [k.active]; nofun) (by rw [hun.work.mbx]; exact k.jobs) hmd hsv hadm hen hco
  have hset : q.settled = q := if_neg (by simp [hpd])
  rw [hset] at hroute
  refine ⟨hun.trans hun2, q, hroute, hst, hadm, ?_, by rw [hrel]; exact hpos, ?_⟩
  · unfold Route.next
    rw [hss, hrel, hgen]
    omega
  · rw [hfm, hrel, hafter]
    by_cases hone : (allowed e x.grow.rel.pos).length = 1
    · rw [if_pos hone, decide_eq_true hone]
      rfl
    · rw [if_neg hone, decide_eq_false hone]
      rfl

/-! ### A member that is gone -/

/-- The one route of the group is held (03 R71). -/
theorem State.memberGone_one (hrt : s.rt = [(routeIndex r.handle, r)]) (hb : s.binding r.binding = some bd) (ho : owns bd r = true)
    (hst : r.state = .open ∨ r.state = .running) {i position : Nat} (hi : i ∈ memberShards bd)
    (hp : Config.memberPosition bd.handle i = position) : s.memberGone position = s.holdGroup r := by
  have hgroup : s.groupRoutes [position] = [r] := by
    have hany : ((memberShards bd).any fun i => [position].contains (Config.memberPosition bd.handle i)) = true :=
      List.any_eq_true.2 ⟨i, hi, by simp [hp]⟩
    unfold State.groupRoutes
    rw [vals_of_singleton hrt]
    refine List.filter_cons_of_pos ?_
    rw [hb]
    dsimp only
    rw [ho, hany]
    rcases hst with h | h <;> simp [h]
  unfold State.memberGone
  rw [hgroup, List.foldl_cons, List.foldl_nil, State.route_of_singleton hrt]

theorem peerUnreachable_holds {position : Byte} {i : Nat} (hh : Holdable s r bd) (ho : owns bd r = true) (hi : i ∈ memberShards bd)
    (hp : Config.memberPosition bd.handle i = position.toNat) :
    Completes (.peerUnreachable position) s fun t =>
      t.route r.handle = some r.heldAs ∧ (t.bnd, t.img, t.eng, t.mbx, t.bench) = (s.bnd, s.img, s.eng, s.mbx, s.bench) := by
  obtain ⟨hwork, hrt⟩ := State.holdGroup_holds hh
  have hgone := State.memberGone_one hh.table hh.binding ho hh.serves hi hp
  have hheld : r.heldAs.handle = r.handle := by
    unfold Route.heldAs
    split <;> rfl
  refine ⟨s.holdGroup r, congrArg Host.Outcome.next ?_, ?_, ?_⟩
  · rw [hgone]
    exact State.stepEnded_eq_self (by rw [hwork.mbx]; exact hh.jobs)
  · rw [← hheld]
    exact State.route_of_singleton hrt
  · rw [hwork.bnd, hwork.img, hwork.eng, hwork.mbx, hwork.bench]

end Sys2Proof.Machine

open Sys2Proof Sys2Proof.Machine

/-- Settles O29. -/
theorem peersExchange : Obligations.PeersExchange := by
  intro s h ch f b r bd hj hroute hb
  refine ⟨fun hone hd => ?_, fun position i hrt ho hst hi hp hen hco hmd hsv hact => ?_⟩
  · have hk : Named s b r bd := ⟨hd, hroute, hb⟩
    refine ⟨fun c hc ha hs hsk => ?_, fun p hp hkind ho hr hskp => ?_, fun n e hn he hkind ho hstep hen hco hmd hsv hdue hact => ?_⟩
    · rcases hc with ⟨rfl, hkind, ho⟩ | ⟨rfl, hkind, ho⟩ | ⟨rfl, hkind, ho⟩ | ⟨rfl, hkind, ho⟩
      · exact ⟨_, rfl, heard_part hone hk hj hkind (.inl ⟨ho, .inl hkind⟩) ha hs hsk⟩
      · exact ⟨_, rfl, heard_part hone hk hj hkind (.inl ⟨ho, .inr (.inl hkind)⟩) ha hs hsk⟩
      · exact ⟨_, rfl, heard_part hone hk hj hkind (.inl ⟨ho, .inr (.inr hkind)⟩) ha hs hsk⟩
      · exact ⟨_, rfl, heard_part hone hk hj hkind (.inr ⟨ho, hkind⟩) ha hs hsk⟩
    · subst hp
      have hrun := State.prtRow_takes hone hkind (State.takePeer_skips (hk.arrived h ch.toNat f) ho hkind hr hskp) hj
      exact ⟨_, congrArg Host.Outcome.next hrun, State.prtRow_taken hone rfl, rfl⟩
    · have hfol : Following (s.arrived h ch.toNat ftPrt f) r bd := ⟨hb, ho, hact, hen, hco, hmd, hsv, hdue, hj⟩
      have htake := State.takePeer_notice (c := ch.toNat) (hk.arrived h ch.toNat f) ho hkind
      rw [← hn] at htake
      refine ⟨fun hts hend => ?_, fun hend hlen hts => ?_⟩
      · obtain ⟨hun, q, hq, hqe⟩ := State.takeNotice_ends hfol hstep hts hend
        have hrun := State.prtRow_takes hone hkind htake (by rw [hun.work.mbx]; exact hj)
        exact ⟨_, congrArg Host.Outcome.next hrun, State.prtRow_taken hone hun.chains, hun.work.bnd, q, hq, hqe.state, hqe.ending, hqe.next⟩
      · obtain ⟨hun, q, hq, hfacts⟩ := State.takeNotice_follows hfol hstep he hend hlen hts
        have hrun := State.prtRow_takes hone hkind htake (by rw [hun.work.mbx]; exact hj)
        exact ⟨_, congrArg Host.Outcome.next hrun, State.prtRow_taken hone hun.chains, hun.work.bnd, q, hq, hfacts⟩
  · exact peerUnreachable_holds ⟨hrt, hb, hact, hst, hen, hco, hmd, hsv, hj⟩ ho hi hp

end

section
/-! Wire forms read back: numbers, records, flags, TOK entries and benchmarks (14 R328-R330; 16 R400, R402). -/
namespace Sys2Proof.Machine

/-! ### Reading a part of a concatenation -/

/-- A part of a concatenation is read back at the offset where the parts before it end. -/
theorem slice_part {cs : List (List Byte)} {post x : List Byte} {i off n : Nat} (hx : cs[i]? = some x)
    (hoff : ((cs.take i).map List.length).sum = off) (hn : x.length = n) : slice (cs.flatten ++ post) off n = x := by
  have hi : i < cs.length := (List.getElem?_eq_some_iff.mp hx).1
  have hxe : cs[i] = x := (List.getElem?_eq_some_iff.mp hx).2
  have hcut : cs.flatten ++ post = (cs.take i).flatten ++ (x ++ ((cs.drop (i + 1)).flatten ++ post)) := by
    conv => lhs; rw [← List.take_append_drop i cs, List.drop_eq_getElem_cons hi, hxe]
    simp
  have hlen : (cs.take i).flatten.length = off := by rw [List.length_flatten, hoff]
  rw [slice, hcut, List.drop_left' hlen, List.take_left' hn]

theorem fld_part {cs : List (List Byte)} {post : List Byte} {i off n v : Nat} (hx : cs[i]? = some (toLe n v))
    (hoff : ((cs.take i).map List.length).sum = off) (hv : v < 256 ^ n) : fld (cs.flatten ++ post) off n = v := by
  rw [fld, slice_part hx hoff (toLe_length n v), leNat_toLe_of_lt hv]

theorem beNat_reverse (bs : List Byte) : beNat bs.reverse = leNat bs := by
  rw [beNat, List.foldl_reverse]
  induction bs with
  | nil => rfl
  | cons b bs ih => rw [List.foldr_cons, ih, leNat, Nat.add_comm, Nat.mul_comm]

theorem digest_of_digestBytes (d : Digest) : BitVec.ofNat 384 (beNat (digestBytes d)) = d := by
  have hd : d.toNat < 256 ^ 48 := Nat.lt_of_lt_of_eq d.isLt (Nat.pow_mul 2 8 48)
  rw [digestBytes, toBe, beNat_reverse, leNat_toLe_of_lt hd, BitVec.ofNat_toNat, BitVec.setWidth_eq]

theorem digestAt_part {cs : List (List Byte)} {post : List Byte} {i off : Nat} {d : Digest} (hx : cs[i]? = some (digestBytes d))
    (hoff : ((cs.take i).map List.length).sum = off) : digestAt (cs.flatten ++ post) off = d := by
  rw [digestAt, slice_part hx hoff (digestBytes_length d), digest_of_digestBytes]

/-! ### Records of equal length -/

theorem records_append {n : Nat} (hn : 0 < n) {x : List Byte} (hx : x.length = n) (ys : List Byte) :
    records n (x ++ ys) = x :: records n ys := by
  have hlen : (x ++ ys).length / n = ys.length / n + 1 := by rw [List.length_append, hx, Nat.add_div_left _ hn]
  simp only [records, if_neg (Nat.ne_of_gt hn), hlen, List.range_succ_eq_map, List.map_cons, List.map_map]
  congr 1
  · rw [slice, Nat.zero_mul, List.drop_zero, List.take_left' hx]
  · refine List.map_congr_left fun i _ => ?_
    rw [Function.comp_apply, slice, slice, Nat.succ_mul, Nat.add_comm, ← List.drop_drop, List.drop_left' hx]

theorem records_flatMap {α : Type} {n : Nat} (hn : 0 < n) {f : α → List Byte} (hf : ∀ a, (f a).length = n) (l : List α) :
    records n (l.flatMap f) = l.map f := by
  induction l with
  | nil => simp [records, Nat.ne_of_gt hn]
  | cons a l ih => rw [List.flatMap_cons, records_append hn (hf a), ih, List.map_cons]

theorem words32_flatMap_toLe {l : List Nat} (h : ∀ x ∈ l, x < 2 ^ 32) : words32 (l.flatMap (toLe 4)) = l := by
  rw [words32, records_flatMap (by decide) (toLe_length 4), List.map_map]
  exact (List.map_congr_left fun x hx => leNat_toLe_of_lt (h x hx)).trans (List.map_id l)

theorem length_flatMap_toLe (n : Nat) (l : List Nat) : (l.flatMap (toLe n)).length = n * l.length := by
  simp only [List.length_flatMap, toLe_length, List.map_const', List.sum_replicate_nat, Nat.mul_comm]

/-! ### Flags and range bits -/

/-- The number whose bits below `n` are those of `p`. -/
def bitsOf (p : Nat → Bool) (n : Nat) : Nat := ((List.range n).map fun j => b2n (p j) * 2 ^ j).sum

theorem bitsOf_succ (p : Nat → Bool) (n : Nat) : bitsOf p (n + 1) = 2 ^ n * b2n (p n) + bitsOf p n := by
  simp only [bitsOf, List.range_succ, List.map_append, List.map_singleton, List.sum_append, List.sum_singleton]
  rw [Nat.add_comm, Nat.mul_comm]

theorem bitsOf_lt (p : Nat → Bool) (n : Nat) : bitsOf p n < 2 ^ n := by
  induction n with
  | zero => simp [bitsOf]
  | succ n ih =>
    have hb : b2n (p n) ≤ 1 := by cases p n <;> decide
    have := Nat.mul_le_mul_left (2 ^ n) hb
    rw [bitsOf_succ, Nat.pow_succ]
    omega

theorem bitsOf_testBit (p : Nat → Bool) (n i : Nat) : (bitsOf p n).testBit i = (decide (i < n) && p i) := by
  induction n with
  | zero => simp [bitsOf]
  | succ n ih =>
    rw [bitsOf_succ, Nat.testBit_two_pow_mul_add _ (bitsOf_lt p n), ih]
    by_cases hlow : i < n
    · simp [hlow, Nat.lt_succ_of_lt hlow]
    · rw [if_neg hlow]
      by_cases htop : i = n
      · subst htop; cases p i <;> simp [b2n]
      · have hhigh : ¬ i < n + 1 := by omega
        have hzero : (1 : Nat).testBit (i - n) = false := Nat.testBit_lt_two_pow (Nat.one_lt_two_pow (by omega))
        cases p n <;> simp [b2n, hhigh, hzero]

theorem u8At_eq_getD (bs : List Byte) (k : Nat) : u8At bs k = (bs.getD k 0#8).toNat := by
  rcases Nat.lt_or_ge k bs.length with hk | hk
  · rw [u8At, fld, slice, List.drop_eq_getElem_cons hk, List.take_succ_cons, List.take_zero, leNat_one]
    simp [hk]
  · simp [u8At, fld, slice, List.drop_eq_nil_of_le hk, leNat, hk]

/-- Range bits come back from the bytes that hold them, whatever follows. -/
theorem unpackBits_packBits (bits : List Bool) (post : List Byte) : unpackBits bits.length (packBits bits ++ post) = bits := by
  refine List.ext_getElem (by simp [unpackBits]) fun i hi hb => ?_
  have hk : i / 8 < (bits.length + 7) / 8 := by omega
  have hbyte : (packBits bits ++ post).getD (i / 8) 0#8 =
      BitVec.ofNat 8 (bitsOf (fun j => bits.getD (8 * (i / 8) + j) false) 8) := by
    rw [List.getD_eq_getElem?_getD, List.getElem?_append_left (by simpa [packBits] using hk)]
    simp [packBits, hk, bitsOf]
  have hlt := bitsOf_lt (fun j => bits.getD (8 * (i / 8) + j) false) 8
  simp only [unpackBits, List.getElem_map, List.getElem_range, bitOf, u8At_eq_getD, hbyte, BitVec.toNat_ofNat]
  rw [Nat.mod_eq_of_lt hlt, bitsOf_testBit, Nat.div_add_mod]
  simp [Nat.mod_lt, hb]

/-! ### TOK entries -/

/-- The fields of a TOK entry in order. -/
def TokEntry.parts (t : TokEntry) : List (List Byte) :=
  [toLe 4 t.handle, toLe 4 t.step, toLe 2 t.status, toLe 2 t.toks.length, toLe 2 t.nForced, toLe 1 t.accepted,
    toLe 1 t.ending.code, toLe 1 t.flags, toLe 1 t.consumed, zeros 6, u32s t.toks, packBits t.ranges]

theorem TokEntry.bytes_eq (t : TokEntry) : t.bytes = padTo 16 t.parts.flatten := by
  simp only [TokEntry.bytes, TokEntry.parts, List.flatten_cons, List.flatten_nil, List.append_assoc, List.append_nil]

theorem TokEntry.bytes_parts (t : TokEntry) : ∃ pad, t.bytes = t.parts.flatten ++ pad := ⟨_, t.bytes_eq⟩

theorem TokEntry.flags_eq_bitsOf (t : TokEntry) :
    t.flags = bitsOf (fun j => [t.prompt, t.last, t.cut, t.forcedOnly, t.refused].getD j false) 5 := by
  simp [TokEntry.flags, bitsOf, List.range_succ]; omega

theorem EndCause.ofCode_code (c : EndCause) : EndCause.ofCode c.code = c := by cases c <;> rfl

theorem EndCause.code_lt (c : EndCause) : c.code < 256 ^ 1 := by cases c <;> decide

theorem RState.ofCode_code (c : RState) : RState.ofCode c.code = some c := by cases c <;> rfl

theorem RState.code_lt (c : RState) : c.code < 256 ^ 1 := by cases c <;> decide

/-- The values that the fields of a TOK entry can hold (16 R400). -/
structure TokEntry.Fits (t : TokEntry) : Prop where
  handle : t.handle < 256 ^ 4
  step : t.step < 256 ^ 4
  status : t.status < 256 ^ 2
  count : t.toks.length < 256 ^ 2
  toks : ∀ x ∈ t.toks, x < 2 ^ 32
  ranges : t.ranges.length = t.toks.length
  nForced : t.nForced < 256 ^ 2
  accepted : t.accepted < 256 ^ 1
  consumed : t.consumed < 256 ^ 1

theorem tokOfBytes_bytes {t : TokEntry} (h : t.Fits) : tokOfBytes t.bytes = t := by
  obtain ⟨pad, hb⟩ := t.bytes_parts
  have hflags : t.flags < 256 ^ 1 := by
    rw [t.flags_eq_bitsOf]; exact Nat.lt_trans (bitsOf_lt _ 5) (by decide)
  have hhandle : u32At t.bytes 0 = t.handle := hb ▸ fld_part (i := 0) rfl rfl h.handle
  have hstep : u32At t.bytes 4 = t.step := hb ▸ fld_part (i := 1) rfl (by simp [TokEntry.parts]) h.step
  have hstatus : u16At t.bytes 8 = t.status := hb ▸ fld_part (i := 2) rfl (by simp [TokEntry.parts]) h.status
  have hcount : u16At t.bytes 0xA = t.toks.length := hb ▸ fld_part (i := 3) rfl (by simp [TokEntry.parts]) h.count
  have hforced : u16At t.bytes 0xC = t.nForced := hb ▸ fld_part (i := 4) rfl (by simp [TokEntry.parts]) h.nForced
  have haccepted : u8At t.bytes 0xE = t.accepted := hb ▸ fld_part (i := 5) rfl (by simp [TokEntry.parts]) h.accepted
  have hending : u8At t.bytes 0xF = t.ending.code := hb ▸ fld_part (i := 6) rfl (by simp [TokEntry.parts]) t.ending.code_lt
  have hfl : u8At t.bytes 0x10 = t.flags := hb ▸ fld_part (i := 7) rfl (by simp [TokEntry.parts]) hflags
  have hconsumed : u8At t.bytes 0x11 = t.consumed := hb ▸ fld_part (i := 8) rfl (by simp [TokEntry.parts]) h.consumed
  have htoks : words32 (slice t.bytes 24 (4 * t.toks.length)) = t.toks := by
    rw [hb, slice_part (i := 10) rfl (by simp [TokEntry.parts]) (length_flatMap_toLe 4 t.toks), words32_flatMap_toLe h.toks]
  have hranges : unpackBits t.toks.length (t.bytes.drop (24 + 4 * t.toks.length)) = t.ranges := by
    have hcut : t.bytes = (t.parts.take 11).flatten ++ (packBits t.ranges ++ pad) := by simp [hb, TokEntry.parts]
    rw [hcut, List.drop_left' (by simp only [TokEntry.parts, List.take_succ_cons, List.take_zero, List.flatten_cons, List.flatten_nil,
      List.length_append, List.length_nil, toLe_length, zeros_length, u32s, length_flatMap_toLe]; omega), ← h.ranges, unpackBits_packBits]
  simp only [tokOfBytes, hhandle, hstep, hstatus, hcount, hforced, haccepted, hending, hfl, hconsumed, htoks, hranges,
    EndCause.ofCode_code, t.flags_eq_bitsOf, bitOf, bitsOf_testBit]
  rfl

end Sys2Proof.Machine
end

section
/-! PROOF. Benchmarks read back whole (O60; 14 R328-R330; 12 R280; 08 R186; 09 R196). -/
namespace Sys2Proof.Machine

/-! ### Tables: keys strictly rising -/

theorem Tab.pairwise_of_wf {α : Type} (t : Tab α) (h : t.wf = true) : t.Pairwise (fun x y => x.1 < y.1) := by
  induction t with
  | nil => exact .nil
  | cons x t ih =>
    cases t with
    | nil => exact List.pairwise_cons.2 ⟨fun _ hz => (List.not_mem_nil hz).elim, .nil⟩
    | cons y t =>
      obtain ⟨hxy, ht⟩ : x.1 < y.1 ∧ Tab.wf (y :: t) = true := by simpa [Tab.wf] using h
      have hp := ih ht
      refine List.pairwise_cons.2 ⟨fun z hz => ?_, hp⟩
      rcases List.mem_cons.1 hz with rfl | hz
      · exact hxy
      · exact Nat.lt_trans hxy ((List.pairwise_cons.1 hp).1 z hz)

/-- A key above every key of a table goes to its end. -/
theorem Tab.put_of_lt {α : Type} {t : Tab α} {i : Nat} {v : α} (h : ∀ x ∈ t, x.1 < i) : t.put i v = t ++ [(i, v)] := by
  induction t with
  | nil => rfl
  | cons x t ih =>
    have hx : x.1 < i := h x List.mem_cons_self
    rw [Tab.put, if_neg (by omega), if_neg (by omega), ih fun y hy => h y (List.mem_cons_of_mem _ hy), List.cons_append]

/-- Records in the order of their keys build the table of counts that they list. -/
theorem Tab.foldl_put (acc t : Tab Nat) (h : (acc ++ t).Pairwise (fun x y => x.1 < y.1)) (hb : ∀ x ∈ t, x.2 < 65536) :
    t.foldl (fun (u : Tab Nat) x => u.put x.1 (x.2 % 65536)) acc = acc ++ t := by
  induction t generalizing acc with
  | nil => simp
  | cons x t ih =>
    have hlast : ∀ y ∈ acc, y.1 < x.1 := fun y hy => (List.pairwise_append.mp h).2.2 y hy x List.mem_cons_self
    rw [List.foldl_cons, Nat.mod_eq_of_lt (hb x List.mem_cons_self), Tab.put_of_lt hlast,
      ih _ (by simpa using h) fun y hy => hb y (List.mem_cons_of_mem _ hy), List.append_assoc, List.singleton_append]

/-! ### The penalty history (14 R329) -/

/-- One record of the penalty section: two u32 values. -/
def penRecord (x : Nat × Nat) : List Byte := toLe 4 x.1 ++ toLe 4 x.2

theorem penBytes_eq (h : Pen) : penBytes h = (penRecords h).flatMap penRecord := rfl

@[simp] theorem penRecord_length (x : Nat × Nat) : (penRecord x).length = 8 := by simp [penRecord]

theorem penBytes_length (h : Pen) : (penBytes h).length = 8 * (penRecords h).length := by
  simp only [penBytes_eq, List.length_flatMap, penRecord_length, List.map_const', List.sum_replicate_nat, Nat.mul_comm]

theorem penRecord_read {x : Nat × Nat} (h1 : x.1 < 2 ^ 32) (h2 : x.2 < 2 ^ 32) :
    (u32At (penRecord x) 0, u32At (penRecord x) 4) = x := by
  have hfst : u32At (penRecord x) 0 = x.1 := (fld_toLe_append 4 x.1 _).trans (Nat.mod_eq_of_lt h1)
  have hsnd : u32At (penRecord x) 4 = x.2 := by
    rw [u32At, penRecord, fld_append_of_le (by simp), ← List.append_nil (toLe 4 x.2), toLe_length, fld_toLe_append]
    exact Nat.mod_eq_of_lt h2
  rw [hfst, hsnd]

theorem penBytes_read {h : Pen} (hr : ∀ x ∈ penRecords h, x.1 < 2 ^ 32 ∧ x.2 < 2 ^ 32) :
    ((records 8 (penBytes h)).map fun r => (u32At r 0, u32At r 4)) = penRecords h := by
  rw [penBytes_eq, records_flatMap (by decide) penRecord_length, List.map_map]
  exact (List.map_congr_left fun x hx => penRecord_read (hr x hx).1 (hr x hx).2).trans (List.map_id _)

theorem pairUp_filter {ts : List Nat} (h : ∀ x ∈ ts, x < 2 ^ 32 - 1) :
    (((pairUp ts).flatMap fun r => [r.1, r.2]).filter fun t => t != 0xFFFFFFFF) = ts := by
  fun_induction pairUp ts with
  | case1 => rfl
  | case2 a =>
    have ha : a ≠ 0xFFFFFFFF := by have := h a List.mem_cons_self; omega
    simp [ha]
  | case3 a b t ih =>
    have ha : a ≠ 0xFFFFFFFF := by have := h a List.mem_cons_self; omega
    have hb : b ≠ 0xFFFFFFFF := by have := h b (by simp); omega
    have ht := ih fun x hx => h x (by simp [hx])
    simp only [List.flatMap_cons, List.cons_append, List.nil_append]
    rw [List.filter_cons_of_pos (by simpa using ha), List.filter_cons_of_pos (by simpa using hb), ht]

theorem pairUp_lt {ts : List Nat} (h : ∀ x ∈ ts, x < 2 ^ 32 - 1) : ∀ x ∈ pairUp ts, x.1 < 2 ^ 32 ∧ x.2 < 2 ^ 32 := by
  fun_induction pairUp ts with
  | case1 => simp
  | case2 a => simpa using Nat.lt_trans (h a List.mem_cons_self) (by decide)
  | case3 a b t ih =>
    have ha := h a List.mem_cons_self
    have hb := h b (by simp)
    have ht := ih fun x hx => h x (by simp [hx])
    simp only [List.forall_mem_cons]
    exact ⟨⟨by omega, by omega⟩, ht⟩

theorem pairUp_length (ts : List Nat) : (pairUp ts).length ≤ ts.length := by
  fun_induction pairUp ts with
  | case1 => simp
  | case2 a => simp
  | case3 a b t ih => simp only [List.length_cons]; omega

/-- The values that the penalty section of a profile with window `win` admits (14 R329). -/
def Pen.Fits (win : Nat) : Pen → Prop
  | .counts tab => win = 0 ∧ tab.wf = true ∧ tab.length < 2 ^ 32 ∧ ∀ x ∈ tab, x.1 < 2 ^ 32 ∧ x.2 < 65536
  | .window ts => win ≠ 0 ∧ ts.length ≤ win ∧ ∀ x ∈ ts, x < 2 ^ 32 - 1

theorem Pen.Fits.records_lt {win : Nat} {h : Pen} (k : h.Fits win) : ∀ x ∈ penRecords h, x.1 < 2 ^ 32 ∧ x.2 < 2 ^ 32 := by
  cases h with
  | counts tab =>
    obtain ⟨-, -, -, hb⟩ := k
    exact fun x hx => ⟨(hb x hx).1, Nat.lt_trans (hb x hx).2 (by decide)⟩
  | window ts =>
    obtain ⟨-, -, hb⟩ := k
    exact pairUp_lt hb

theorem Pen.Fits.length_lt {win : Nat} {h : Pen} (k : h.Fits win) (hw : win < 2 ^ 32) : (penRecords h).length < 2 ^ 32 := by
  cases h with
  | counts tab =>
    obtain ⟨-, -, hl, -⟩ := k
    exact hl
  | window ts =>
    obtain ⟨-, hl, -⟩ := k
    exact Nat.lt_of_le_of_lt (pairUp_length ts) (Nat.lt_of_le_of_lt hl hw)

theorem penOfBytes_penBytes {win : Nat} {h : Pen} (k : h.Fits win) : penOfBytes (win != 0) (penBytes h) = h := by
  rw [penOfBytes, penBytes_read k.records_lt]
  cases h with
  | counts tab =>
    obtain ⟨rfl, hwf, -, hb⟩ := k
    simp only [penRecords, Tab.foldl_put [] tab (Tab.pairwise_of_wf tab hwf) fun x hx => (hb x hx).2]
    rfl
  | window ts =>
    obtain ⟨hw, -, hb⟩ := k
    simp [penRecords, hw, pairUp_filter hb]

theorem Pen.Fits.fit {win : Nat} {h : Pen} (k : h.Fits win) : h.fit win = h := by
  cases h with
  | counts tab => rfl
  | window ts =>
    obtain ⟨-, hl, -⟩ := k
    rw [Pen.fit, Nat.sub_eq_zero_of_le hl, List.drop_zero]

/-! ### The window of the finder's context -/

theorem swindowBytes_eq (sw : List Nat) :
    swindowBytes sw = ((List.range 7).map fun i => sw.getD i 0xFFFFFFFF).flatMap (toLe 4) := by
  rw [swindowBytes, List.flatMap_map]

@[simp] theorem swindowBytes_length (sw : List Nat) : (swindowBytes sw).length = 28 := by
  rw [swindowBytes_eq, length_flatMap_toLe]; simp

/-- The window filled up to seven tokens. -/
theorem swindow_padded {sw : List Nat} (h : sw.length ≤ 7) :
    ((List.range 7).map fun i => sw.getD i 0xFFFFFFFF) = sw ++ List.replicate (7 - sw.length) 0xFFFFFFFF := by
  refine List.ext_getElem (by simp; omega) fun i hi _ => ?_
  rw [List.getElem_map, List.getElem_range, List.getElem_append]
  split
  case isTrue hlow => simp [hlow]
  case isFalse hhigh => simp [Nat.le_of_not_lt hhigh]

theorem swindow_read {sw : List Nat} (h : sw.length ≤ 7) (hb : ∀ x ∈ sw, x < 2 ^ 32 - 1) :
    ((words32 (swindowBytes sw)).filter fun t => t != 0xFFFFFFFF) = sw := by
  have hlt : ∀ x ∈ sw ++ List.replicate (7 - sw.length) 0xFFFFFFFF, x < 2 ^ 32 := by
    intro x hx
    rcases List.mem_append.mp hx with hx | hx
    · exact Nat.lt_trans (hb x hx) (by decide)
    · rw [(List.mem_replicate.mp hx).2]; decide
  have hkeep : sw.filter (fun t => t != 0xFFFFFFFF) = sw := List.filter_eq_self.mpr fun x hx => by
    have := hb x hx
    simp; omega
  rw [swindowBytes_eq, swindow_padded h, words32_flatMap_toLe hlt, List.filter_append, hkeep]
  simp

end Sys2Proof.Machine
end

section
/-! PROOF. A resumed route is the one its benchmark was written for (O60). -/
namespace Sys2Proof.Machine

/-- The fields of a benchmark in order, its digests being `d0` to `d3`; the trailer follows (14 R328). -/
def Bench.parts (x : Bench) (d0 d1 d2 d3 : Digest) : List (List Byte) :=
  [benchMagic, toLe 2 1, toLe 1 ifLevel, toLe 1 aLevel, toLe 8 (0x290 + 8 * (penRecords x.pen).length + 48), toLe 8 x.seed.toNat,
    toLe 4 x.salt, toLe 4 x.startStep, toLe 4 x.next, toLe 4 x.limit, toLe 4 x.oflags, toLe 1 x.rstate.code,
    toLe 1 x.ending.code, zeros 2, toLe 4 x.rebasedAt, toLe 4 x.gstate, toLe 4 x.promptN, toLe 4 x.outSeq,
    toLe 8 x.promptDigest.toNat, toLe 8 x.bytes, toLe 8 x.printDigest.toNat, swindowBytes x.sw,
    toLe 2 x.held.length, toLe 2 x.u8n, toLe 4 (penRecords x.pen).length, zeros 4,
    digestBytes d0, digestBytes d1, digestBytes d2, digestBytes d3, digestBytes x.pdigest, zeros 16, fitTo 272 x.held,
    penBytes x.pen]

theorem benchBytes_eq {x : Bench} {d0 d1 d2 d3 : Digest} (hd : x.digests = [d0, d1, d2, d3]) :
    benchBytes x = (x.parts d0 d1 d2 d3).flatten ++ digestBytes (sha384 (x.parts d0 d1 d2 d3).flatten) := by
  refine congrArg (fun body => body ++ digestBytes (sha384 body)) ?_
  simp only [hd, Bench.parts, List.flatMap_cons, List.flatMap_nil, List.flatten_cons, List.flatten_nil,
    List.append_assoc, List.append_nil]

/-- The values that a benchmark's fields can hold under a profile with window `win` (14 R328, R329). -/
structure Bench.Fits (x : Bench) (win : Nat) : Prop where
  salt : x.salt < 256 ^ 4
  startStep : x.startStep < 256 ^ 4
  next : x.next < 256 ^ 4
  limit : x.limit < 256 ^ 4
  oflags : x.oflags < 256 ^ 4
  rebasedAt : x.rebasedAt < 256 ^ 4
  gstate : x.gstate < 256 ^ 4
  promptN : x.promptN < 256 ^ 4
  outSeq : x.outSeq < 256 ^ 4
  bytes : x.bytes < 256 ^ 8
  window : x.sw.length ≤ 7
  windowTokens : ∀ t ∈ x.sw, t < 2 ^ 32 - 1
  held : x.held.length ≤ 272
  u8n : x.u8n < 256 ^ 2
  pen : x.pen.Fits win
  winBound : win < 2 ^ 32

theorem fitTo_length {n : Nat} {bs : List Byte} (h : bs.length ≤ n) : (fitTo n bs).length = n := by
  simp [fitTo, h]

theorem slice_fitTo {n : Nat} {bs : List Byte} (h : bs.length ≤ n) : slice (fitTo n bs) 0 bs.length = bs := by
  rw [slice, List.drop_zero, fitTo, List.take_of_length_le h, List.take_left]

section Fields
variable {x : Bench} {d0 d1 d2 d3 : Digest} {win i off n v : Nat}

/-- The lengths of the fields of a benchmark before its penalty section. -/
def benchWidths : List Nat :=
  [4, 2, 1, 1, 8, 8, 4, 4, 4, 4, 4, 1, 1, 2, 4, 4, 4, 4, 8, 8, 8, 28, 2, 2, 4, 4, 48, 48, 48, 48, 48, 16, 272]

theorem benchMagic_length : benchMagic.length = 4 := rfl

theorem Bench.Fits.widths (h : x.Fits win) :
    (x.parts d0 d1 d2 d3).map List.length = benchWidths ++ [8 * (penRecords x.pen).length] := by
  simp only [Bench.parts, benchWidths, List.map_cons, List.map_nil, toLe_length, zeros_length, digestBytes_length,
    swindowBytes_length, fitTo_length h.held, penBytes_length, benchMagic_length, List.cons_append, List.nil_append]

theorem Bench.Fits.parts_length (h : x.Fits win) :
    (x.parts d0 d1 d2 d3).flatten.length = 0x290 + 8 * (penRecords x.pen).length := by
  rw [List.length_flatten, h.widths, List.sum_append, List.sum_singleton]
  rfl

theorem Bench.Fits.length (h : x.Fits win) (hd : x.digests = [d0, d1, d2, d3]) :
    (benchBytes x).length = 0x290 + 8 * (penRecords x.pen).length + 48 := by
  rw [benchBytes_eq hd, List.length_append, h.parts_length, digestBytes_length]

theorem Bench.Fits.slice (h : x.Fits win) (hd : x.digests = [d0, d1, d2, d3]) (i : Nat) {y : List Byte}
    (hy : (x.parts d0 d1 d2 d3)[i]? = some y) (hoff : (benchWidths.take i).sum = off)
    (hn : y.length = n) : slice (benchBytes x) off n = y := by
  have hi : i ≤ benchWidths.length := Nat.le_of_lt_succ (List.getElem?_eq_some_iff.mp hy).1
  rw [benchBytes_eq hd]
  exact slice_part hy (by rw [List.map_take, h.widths, List.take_append_of_le_length hi, hoff]) hn

theorem Bench.Fits.fld (h : x.Fits win) (hd : x.digests = [d0, d1, d2, d3]) (i : Nat)
    (hy : (x.parts d0 d1 d2 d3)[i]? = some (toLe n v))
    (hoff : (benchWidths.take i).sum = off) (hv : v < 256 ^ n) : fld (benchBytes x) off n = v := by
  rw [Machine.fld, h.slice hd i hy hoff (toLe_length n v), leNat_toLe_of_lt hv]

theorem Bench.Fits.digestAt {d : Digest} (h : x.Fits win) (hd : x.digests = [d0, d1, d2, d3]) (i : Nat)
    (hy : (x.parts d0 d1 d2 d3)[i]? = some (digestBytes d))
    (hoff : (benchWidths.take i).sum = off) : digestAt (benchBytes x) off = d := by
  rw [Machine.digestAt, h.slice hd i hy hoff (digestBytes_length d), digest_of_digestBytes]

theorem u64_toNat_read (w : U64) {m : Nat} (h : m = w.toNat) : BitVec.ofNat 64 m = w := by
  rw [h, BitVec.ofNat_toNat, BitVec.setWidth_eq]

theorem Bench.Fits.penN (h : x.Fits win) (hd : x.digests = [d0, d1, d2, d3]) :
    benchPenN (benchBytes x) = (penRecords x.pen).length :=
  h.fld hd 24 rfl (by decide) (Nat.lt_of_lt_of_eq (h.pen.length_lt h.winBound) (by decide))

/-- Every field of a benchmark reads back. -/
theorem Bench.Fits.benchOf (h : x.Fits win) (hd : x.digests = [d0, d1, d2, d3]) : benchOf (win != 0) (benchBytes x) = x := by
  have hheldN : u16At (benchBytes x) 0x74 = x.held.length := h.fld hd 22 rfl (by decide) (Nat.lt_of_le_of_lt h.held (by decide))
  have hheld : Machine.slice (benchBytes x) 0x180 x.held.length = x.held := by
    have hpad := h.slice hd (off := 0x180) 32 rfl (by decide) (fitTo_length h.held)
    have hin := slice_slice (benchBytes x) (a := 0x180) (m := 0) (Nat.le_trans (Nat.le_of_eq (Nat.zero_add x.held.length)) h.held)
    rw [hpad, slice_fitTo h.held] at hin
    exact hin.symm
  have hwindow := (congrArg (fun b => (words32 b).filter fun t => t != 0xFFFFFFFF)
    (h.slice hd (off := 0x58) 21 rfl (by decide) (swindowBytes_length x.sw))).trans (swindow_read h.window h.windowTokens)
  have hpen : Machine.slice (benchBytes x) 0x290 (8 * benchPenN (benchBytes x)) = penBytes x.pen :=
    h.slice hd 33 rfl (by decide) (by rw [penBytes_length, h.penN hd])
  have hrstate : u8At (benchBytes x) 0x2C = x.rstate.code := h.fld hd 11 rfl (by decide) x.rstate.code_lt
  have hending : u8At (benchBytes x) 0x2D = x.ending.code := h.fld hd 12 rfl (by decide) x.ending.code_lt
  have hdigests : [Machine.digestAt (benchBytes x) 0x80, Machine.digestAt (benchBytes x) 0xB0,
      Machine.digestAt (benchBytes x) 0xE0, Machine.digestAt (benchBytes x) 0x110] = x.digests := by
    rw [h.digestAt hd 26 rfl (by decide), h.digestAt hd 27 rfl (by decide), h.digestAt hd 28 rfl (by decide),
      h.digestAt hd 29 rfl (by decide), hd]
  cases x
  simp only [Machine.benchOf, Bench.mk.injEq]
  dsimp only at *
  refine ⟨u64_toNat_read _ (h.fld hd 5 rfl (by decide) (BitVec.isLt _)), h.fld hd 6 rfl (by decide) h.salt,
    h.fld hd 7 rfl (by decide) h.startStep, h.fld hd 8 rfl (by decide) h.next, h.fld hd 9 rfl (by decide) h.limit,
    h.fld hd 10 rfl (by decide) h.oflags, ?_, ?_, h.fld hd 14 rfl (by decide) h.rebasedAt,
    h.fld hd 15 rfl (by decide) h.gstate, h.fld hd 16 rfl (by decide) h.promptN, h.fld hd 17 rfl (by decide) h.outSeq,
    u64_toNat_read _ (h.fld hd 18 rfl (by decide) (BitVec.isLt _)), h.fld hd 19 rfl (by decide) h.bytes,
    u64_toNat_read _ (h.fld hd 20 rfl (by decide) (BitVec.isLt _)), hwindow, ?_, h.fld hd 23 rfl (by decide) h.u8n, ?_, hdigests,
    h.digestAt hd 30 rfl (by decide)⟩
  · rw [hrstate, RState.ofCode_code, Option.getD_some]
  · rw [hending, EndCause.ofCode_code]
  · rw [hheldN, hheld]
  · rw [hpen, penOfBytes_penBytes h.pen]

/-- The checks that a benchmark's form has to pass hold of one that was written (14 R330). -/
theorem Bench.Fits.benchOk (h : x.Fits win) (hd : x.digests = [d0, d1, d2, d3]) : benchOk (benchBytes x) = true := by
  have hn : (penRecords x.pen).length < 2 ^ 32 := h.pen.length_lt h.winBound
  have hbody : (benchBytes x).length - 48 = (x.parts d0 d1 d2 d3).flatten.length := by
    rw [h.length hd, h.parts_length, Nat.add_sub_cancel]
  have hmagic : Machine.slice (benchBytes x) 0 4 = benchMagic := h.slice hd 0 rfl (by decide) rfl
  have hversion : u16At (benchBytes x) 4 = 1 := h.fld hd 1 rfl (by decide) (by decide)
  have hsize : u64At (benchBytes x) 8 = (benchBytes x).length :=
    (h.fld hd 4 rfl (by decide) (by omega)).trans (h.length hd).symm
  have htrailer : Machine.digestAt (benchBytes x) ((benchBytes x).length - 48) =
      sha384 ((benchBytes x).take ((benchBytes x).length - 48)) := by
    rw [hbody, benchBytes_eq hd, List.take_left, Machine.digestAt, Machine.slice, List.drop_left,
      List.take_of_length_le (Nat.le_of_eq (digestBytes_length _)), digest_of_digestBytes]
  rw [Machine.benchOk, hmagic, hversion, hsize, htrailer, h.penN hd, h.length hd]
  simp

end Fields

/-! ### The route that goes on from its benchmark -/

section Resumed
variable {s : State} {b : Binding} {r old : Route} {p : List Byte} {h : Half}

/-- What the benchmark of a route says of it (14 R328). -/
def Route.benchRec (r : Route) (b : Binding) : Bench :=
  { seed := r.seed, salt := r.salt, startStep := r.startStep, next := r.next, limit := r.limit, oflags := r.oflags
    rstate := if r.state = .ended then .ended else if r.ran then .running else .open
    ending := r.ending, rebasedAt := r.rebasedAt, gstate := if b.set.csi = 0 then 0 else r.rel.pos.g
    promptN := r.promptN, outSeq := r.outSeq, promptDigest := r.promptDigest, bytes := r.rel.bytes
    printDigest := r.rel.digest, sw := r.rel.pos.sw, held := r.rel.dev.held ++ r.rel.dev.pend
    u8n := r.rel.dev.pend.length, pen := r.rel.pos.pen
    digests := [b.set.tki, b.set.hdi, b.set.csi, b.set.sli], pdigest := paramDigest b }

theorem routeBench_eq (b : Binding) (r : Route) : routeBench b r = benchBytes (r.benchRec b) := rfl

theorem Bench.Fits.benchFor {x : Bench} {d0 d1 d2 d3 : Digest} (k : x.Fits (profileOf b.profile).penWindow)
    (hd : x.digests = [d0, d1, d2, d3]) : benchFor b (benchBytes x) = x := by
  rw [Machine.benchFor, k.benchOf hd, k.pen.fit]

theorem resumeOk_routeBench (k : (r.benchRec b).Fits (profileOf b.profile).penWindow) :
    resumeOk b false (routeBench b r) = true := by
  have hif : u8At (benchBytes (r.benchRec b)) 6 = ifLevel := k.fld rfl 2 rfl (by decide) (by decide)
  have ha : u8At (benchBytes (r.benchRec b)) 7 = aLevel := k.fld rfl 3 rfl (by decide) (by decide)
  rw [routeBench_eq, resumeOk, k.benchFor rfl, hif, ha]
  simp [Route.benchRec]

/-- The bytes held and the bytes that may still be part of a character come back apart (08 R186). -/
theorem split_held (held pend : List Byte) :
    Dev.mk ((held ++ pend).drop ((held ++ pend).length - pend.length))
      ((held ++ pend).take ((held ++ pend).length - pend.length)) =
      ⟨pend, held⟩ := by
  simp

theorem resumed_rel (k : (r.benchRec b).Fits (profileOf b.profile).penWindow) (hg : b.set.csi = 0 → r.rel.pos.g = 0) :
    (s.resumed b old p (routeBench b r) h).rel = r.rel := by
  have hgs : (if b.set.csi = 0 then 0 else r.rel.pos.g) = r.rel.pos.g := by
    split
    case isTrue hcsi => exact (hg hcsi).symm
    case isFalse => rfl
  have hgen : r.next - r.startStep = r.rel.gen := Nat.add_sub_cancel_left ..
  rw [routeBench_eq, State.resumed, k.benchFor rfl]
  simp only [Route.benchRec, Route.synced, split_held, hgs, hgen]

theorem u32At_lt (bs : List Byte) (off : Nat) : u32At bs off < 2 ^ 32 :=
  Nat.lt_of_lt_of_le (leNat_lt _) (Nat.pow_le_pow_right (by decide : 0 < 256) (List.length_take_le 4 _))

theorem penWindow_lt (bs : List Byte) : (profileOf bs).penWindow < 2 ^ 32 := u32At_lt bs 0x10

/-- The values of a route that its benchmark admits (14 R328, R329). -/
theorem Route.benchRec_fits (hsalt : r.salt < 2 ^ 32) (hnext : r.next < 2 ^ 32) (hlimit : r.limit < 2 ^ 32)
    (hflags : r.oflags < 2 ^ 32) (hre : r.rebasedAt < 2 ^ 32) (hg : r.rel.pos.g < 2 ^ 32) (hprompt : r.promptN < 2 ^ 32)
    (hout : r.outSeq < 2 ^ 32) (hbytes : r.rel.bytes < 2 ^ 64) (hsw : r.rel.pos.sw.length ≤ 7)
    (hswb : ∀ x ∈ r.rel.pos.sw, x < 2 ^ 32 - 1) (hheld : (r.rel.dev.held ++ r.rel.dev.pend).length ≤ 272)
    (hpen : r.rel.pos.pen.Fits (profileOf b.profile).penWindow) : (r.benchRec b).Fits (profileOf b.profile).penWindow where
  salt := hsalt
  startStep := Nat.lt_of_le_of_lt (Nat.le_add_right r.startStep r.rel.gen) hnext
  next := hnext
  limit := hlimit
  oflags := hflags
  rebasedAt := hre
  gstate := by dsimp only [Route.benchRec]; split <;> omega
  promptN := hprompt
  outSeq := hout
  bytes := hbytes
  window := hsw
  windowTokens := hswb
  held := hheld
  u8n := by rw [List.length_append] at hheld; dsimp only [Route.benchRec]; omega
  pen := hpen
  winBound := penWindow_lt _

/-- A resumed route has what its benchmark says (12 R280, 14 R328). -/
theorem resumed_fields (k : (r.benchRec b).Fits (profileOf b.profile).penWindow) {q : Route}
    (hq : q = s.resumed b old p (routeBench b r) h) :
    q.seed = r.seed ∧ q.salt = r.salt ∧ q.startStep = r.startStep ∧ q.limit = r.limit ∧ q.promptN = r.promptN ∧
    q.promptDigest = r.promptDigest ∧ q.outSeq = max r.outSeq old.outSeq ∧ q.mirror = q.recOf ∧
    (bitOf (u32At p 4) 0 = false → q.rebasedAt = r.rebasedAt) ∧
    (r.state ≠ .ended → q.state = if r.ran then .running else .open) := by
  rw [routeBench_eq, State.resumed, k.benchFor rfl] at hq
  subst hq
  exact ⟨rfl, rfl, rfl, rfl, rfl, rfl, rfl, rfl, fun hre => if_neg (by rw [hre]; decide), fun hlive => if_neg hlive⟩

end Resumed
end Sys2Proof.Machine

open Sys2Proof Sys2Proof.Machine

/-- Settles O60: a TOK entry and a benchmark are each a list of fields of known lengths, so that every field reads back at the
sum of the lengths before it. -/
theorem wireFormsReadBack : Obligations.WireFormsReadBack := by
  refine ⟨fun t hhandle hstep hstatus hcount htoks hranges hforced haccepted hconsumed => tokOfBytes_bytes
    ⟨hhandle, hstep, hstatus, hcount, htoks, hranges, hforced, haccepted, hconsumed⟩, ?_⟩
  intro s b r old q p h hq _ hsalt hnext hlimit hflags hre hg hcsi hprompt hout hbytes hsw hswb hheld hpen
  have hfits : r.rel.pos.pen.Fits (profileOf b.profile).penWindow := by
    cases hp : r.rel.pos.pen with
    | counts tab => rw [hp] at hpen; exact hpen
    | window ts => rw [hp] at hpen; exact hpen
  have k := Route.benchRec_fits hsalt hnext hlimit hflags hre hg hprompt hout hbytes hsw hswb hheld hfits
  have hrel : q.rel = r.rel := hq ▸ resumed_rel k hcsi
  obtain ⟨hseed, hsalt', hstart, hlimit', hprompt', hdigest, hseq, hmirror, hrebased, hstate⟩ := resumed_fields k hq
  have hnext' : q.next = r.next := by rw [Route.next, Route.next, hstart, hrel]
  exact ⟨k.benchOk rfl, resumeOk_routeBench k, hrel, hseed, hsalt', hstart, hnext', hlimit', hprompt', hdigest, hseq, hmirror,
    hrebased, hstate⟩
end
